-- ==== Sys2Proof/Word.lean ====
section
/-! DEFINITION. The word types of the machine, and the finite tables in which sparse state is kept. -/
namespace Sys2Proof

/-- A 64-bit register or address (R297). -/
abbrev Word := BitVec 64

/-- One byte of memory. -/
abbrev Byte := BitVec 8

/-- A register field of an instruction word (R296). -/
abbrev Reg := BitVec 4

/-- A predicate field of an instruction word (R298). -/
abbrev Pred := BitVec 4

/-- A finite table from numbers to values, at most one entry per key when it is built with `set`. -/
abbrev Tbl (α : Type) := List (Nat × α)

/-- The value at a key, if the table lists one. -/
def Tbl.get {α : Type} : Tbl α → Nat → Option α
  | [], _ => none
  | (j, v) :: t, k => if j = k then some v else Tbl.get t k

/-- The table with `v` at `k`. -/
def Tbl.set {α : Type} : Tbl α → Nat → α → Tbl α
  | [], k, v => [(k, v)]
  | (j, w) :: t, k, v => if j = k then (j, v) :: t else (j, w) :: Tbl.set t k v

/-- The table without an entry at `k`. -/
def Tbl.del {α : Type} : Tbl α → Nat → Tbl α
  | [], _ => []
  | (j, w) :: t, k => if j = k then Tbl.del t k else (j, w) :: Tbl.del t k

end Sys2Proof
end

