-- ==== Sys2Proof/Machine/Float.lean ====
section
/-! DEFINITION. Binary floating point: formats, exact values, rounding and the operations of R266 to R270, R290 and R327 to R329. -/
namespace Sys2Proof.Machine

/-- A floating format: the widths of its exponent and fraction fields (R266, R272). -/
structure Fmt where
  ebits : Nat
  mbits : Nat
  deriving DecidableEq, Repr

def fp64 : Fmt := ⟨11, 52⟩
def fp32 : Fmt := ⟨8, 23⟩
def fp16 : Fmt := ⟨5, 10⟩
def bf16 : Fmt := ⟨8, 7⟩
def d19 : Fmt := ⟨8, 10⟩

/-- The bias of a format. -/
def Fmt.bias (f : Fmt) : Nat := 2 ^ (f.ebits - 1) - 1

/-- The least exponent of a normal number. -/
def Fmt.emin (f : Fmt) : Int := 1 - (f.bias : Int)

/-- The exponent of the last place of a subnormal. -/
def Fmt.last (f : Fmt) : Int := f.emin - f.mbits

/-- The encoding of +∞. -/
def Fmt.inf (f : Fmt) : Nat := (2 ^ f.ebits - 1) * 2 ^ f.mbits

/-- The canonical quiet NaN (R266, R272). -/
def Fmt.nan (f : Fmt) : Nat := f.inf + 2 ^ (f.mbits - 1)

/-- The sign bit as a number. -/
def Fmt.sign (f : Fmt) (s : Bool) : Nat := if s then 2 ^ (f.ebits + f.mbits) else 0

/-- The value of a floating datum: a NaN, an infinity, or (−1)^s × m × 2^e. -/
inductive Fl where
  | nan (signalling : Bool)
  | inf (s : Bool)
  | fin (s : Bool) (m : Nat) (e : Int)
  deriving DecidableEq, Repr

/-- A rounding mode (R268). -/
inductive Rnd where
  | rne | rtz | rdn | rup
  deriving DecidableEq, Repr

/-- The mode of a code 0 to 3. -/
def Rnd.ofCode (n : Nat) : Rnd := if n = 0 then .rne else if n = 1 then .rtz else if n = 2 then .rdn else .rup

/-! ## The flags of `fcsr` (R269) -/

def flagNv : Nat := 16
def flagDz : Nat := 8
def flagOf : Nat := 4
def flagUf : Nat := 2
def flagNx : Nat := 1

/-! ## Reading and rounding -/

/-- The sign bit of a datum. -/
def Fmt.neg (f : Fmt) (v : Nat) : Bool := v / 2 ^ (f.ebits + f.mbits) % 2 = 1

/-- The value that the low bits of a number encode. -/
def Fmt.decode (f : Fmt) (v : Nat) : Fl :=
  let s := f.neg v
  let e := v / 2 ^ f.mbits % 2 ^ f.ebits
  let m := v % 2 ^ f.mbits
  if e = 2 ^ f.ebits - 1 then
    if m = 0 then .inf s else .nan (m / 2 ^ (f.mbits - 1) % 2 = 0)
  else if e = 0 then .fin s m f.last
  else .fin s (m + 2 ^ f.mbits) (f.last + (e : Int) - 1)

/-- m / 2^k rounded to an integer, for a value of sign `s`, and whether it was inexact. -/
def roundShift (r : Rnd) (s : Bool) (m k : Nat) : Nat × Bool :=
  let q := m / 2 ^ k
  let x := m % 2 ^ k
  let up := match r with
    | .rne => decide (2 ^ k < 2 * x) || (decide (2 ^ k = 2 * x) && q % 2 == 1)
    | .rtz => false
    | .rdn => s && x != 0
    | .rup => !s && x != 0
  (if up then q + 1 else q, x != 0)

/-- The exact value (−1)^s × m × 2^e rounded into a format, with the flags it raises; tininess is detected after rounding
(R267). -/
def Fmt.round (f : Fmt) (r : Rnd) (s : Bool) (m : Nat) (e : Int) : Nat × Nat :=
  if m = 0 then (f.sign s, 0)
  else
    let top : Int := Nat.log2 m + e
    let free : Int := top - f.mbits
    let lsb : Int := if free < f.last then f.last else free
    let (q, nx) := if lsb ≤ e then (m * 2 ^ (e - lsb).toNat, false) else roundShift r s m (lsb - e).toNat
    let v := (lsb - f.last).toNat * 2 ^ f.mbits + q
    if f.inf ≤ v then
      let big := match r with
        | .rne => true
        | .rtz => false
        | .rdn => s
        | .rup => !s
      (f.sign s + (if big then f.inf else f.inf - 1), flagOf + flagNx)
    else
      let tiny :=
        if f.emin ≤ top then false
        else if top < f.emin - 1 then true
        else if free ≤ e then true
        else (roundShift r s m (free - e).toNat).1 != 2 ^ (f.mbits + 1)
      (f.sign s + v, (if nx then flagNx else 0) + (if tiny && nx then flagUf else 0))

/-- A value in a format: NaNs become canonical. -/
def Fmt.ofFl (f : Fmt) (r : Rnd) : Fl → Nat × Nat
  | .nan _ => (f.nan, 0)
  | .inf s => (f.sign s + f.inf, 0)
  | .fin s m e => f.round r s m e

/-! ## Exact operations on values -/

/-- A value is a NaN, or a signalling one. -/
def Fl.isNan : Fl → Bool
  | .nan _ => true
  | _ => false
def Fl.isSnan : Fl → Bool
  | .nan q => q
  | _ => false

/-- The sign of a value other than a NaN. -/
def Fl.sgn : Fl → Bool
  | .nan _ => false
  | .inf s => s
  | .fin s _ _ => s

/-- A value with its sign inverted. -/
def Fl.negate : Fl → Fl
  | .nan q => .nan q
  | .inf s => .inf (!s)
  | .fin s m e => .fin (!s) m e

/-- A magnitude as an integer in units of 2^u. -/
def scaled (s : Bool) (m : Nat) (e u : Int) : Int :=
  let v : Int := m * 2 ^ (e - u).toNat
  if s then -v else v

/-- A sum of finite values: exact, with the IEEE sign of a zero sum. -/
def finAdd (r : Rnd) (s1 : Bool) (m1 : Nat) (e1 : Int) (s2 : Bool) (m2 : Nat) (e2 : Int) : Fl :=
  let u := if e1 < e2 then e1 else e2
  let v := scaled s1 m1 e1 u + scaled s2 m2 e2 u
  if v = 0 then .fin (if s1 == s2 then s1 else r == .rdn) 0 u
  else .fin (v < 0) v.natAbs u

/-- A sum, with `nv` for ∞ − ∞; `nv` for a signalling operand is the caller's. -/
def Fl.add (r : Rnd) : Fl → Fl → Fl × Nat
  | .nan _, _ => (.nan false, 0)
  | _, .nan _ => (.nan false, 0)
  | .inf s, .inf t => if s == t then (.inf s, 0) else (.nan false, flagNv)
  | .inf s, .fin _ _ _ => (.inf s, 0)
  | .fin _ _ _, .inf t => (.inf t, 0)
  | .fin s1 m1 e1, .fin s2 m2 e2 => (finAdd r s1 m1 e1 s2 m2 e2, 0)

/-- A product, exact, with `nv` for 0 × ∞. -/
def Fl.mul : Fl → Fl → Fl × Nat
  | .nan _, _ => (.nan false, 0)
  | _, .nan _ => (.nan false, 0)
  | .inf s, .inf t => (.inf (s != t), 0)
  | .inf s, .fin t m _ => if m = 0 then (.nan false, flagNv) else (.inf (s != t), 0)
  | .fin s m _, .inf t => if m = 0 then (.nan false, flagNv) else (.inf (s != t), 0)
  | .fin s1 m1 e1, .fin s2 m2 e2 => (.fin (s1 != s2) (m1 * m2) (e1 + e2), 0)

/-- The integer square root, by bits from the top. -/
def isqrt (n : Nat) : Nat :=
  ((List.range (Nat.log2 n / 2 + 1)).reverse).foldl (fun r i => if (r + 2 ^ i) * (r + 2 ^ i) ≤ n then r + 2 ^ i else r) 0

/-- A truncated result with the rest of its bits gathered in one lower bit: enough for one correct rounding. -/
def withSticky (q : Nat) (inexact : Bool) : Nat := 2 * q + inexact.toNat

/-- A quotient of finite non-zero values, to more bits than any format holds. -/
def finDiv (s1 : Bool) (m1 : Nat) (e1 : Int) (s2 : Bool) (m2 : Nat) (e2 : Int) : Fl :=
  let n := m1 * 2 ^ 192
  .fin (s1 != s2) (withSticky (n / m2) (n % m2 != 0)) (e1 - e2 - 193)

/-- A quotient, with `nv` for 0 / 0 and ∞ / ∞, and `dz` for a finite non-zero value over zero. -/
def Fl.div : Fl → Fl → Fl × Nat
  | .nan _, _ => (.nan false, 0)
  | _, .nan _ => (.nan false, 0)
  | .inf _, .inf _ => (.nan false, flagNv)
  | .inf s, .fin t _ _ => (.inf (s != t), 0)
  | .fin s _ _, .inf t => (.fin (s != t) 0 0, 0)
  | .fin s1 m1 e1, .fin s2 m2 e2 =>
    if m2 = 0 then (if m1 = 0 then (.nan false, flagNv) else (.inf (s1 != s2), flagDz))
    else if m1 = 0 then (.fin (s1 != s2) 0 0, 0)
    else (finDiv s1 m1 e1 s2 m2 e2, 0)

/-- A magnitude with an even exponent, at least 192 bits long. -/
def evenScale (m : Nat) (e : Int) : Nat × Int :=
  if e % 2 = 0 then (m * 2 ^ 192, e - 192) else (m * 2 ^ 193, e - 193)

/-- A square root, with `nv` below −0. -/
def Fl.sqrt : Fl → Fl × Nat
  | .nan _ => (.nan false, 0)
  | .inf s => if s then (.nan false, flagNv) else (.inf false, 0)
  | .fin s m e =>
    if m = 0 then (.fin s 0 0, 0)
    else if s then (.nan false, flagNv)
    else
      let (n, g) := evenScale m e
      let q := isqrt n
      (.fin false (withSticky q (q * q != n)) (g / 2 - 1), 0)

/-- A reciprocal square root (R290), with `dz` at zero and `nv` below −0. -/
def Fl.rsqrt : Fl → Fl × Nat
  | .nan _ => (.nan false, 0)
  | .inf s => if s then (.nan false, flagNv) else (.fin false 0 0, 0)
  | .fin s m e =>
    if m = 0 then (.inf s, flagDz)
    else if s then (.nan false, flagNv)
    else
      let (n, g) := if e % 2 = 0 then (m, e) else (2 * m, e - 1)
      let big := 2 ^ 320
      let q := isqrt (big / n)
      (.fin false (withSticky q (q * q * n != big)) (-160 - g / 2 - 1), 0)

/-- The order of two values other than NaNs: −0 and +0 are equal. -/
def Fl.lt : Fl → Fl → Bool
  | .nan _, _ => false
  | _, .nan _ => false
  | .inf s, .inf t => s && !t
  | .inf s, .fin _ _ _ => s
  | .fin _ _ _, .inf t => !t
  | .fin s1 m1 e1, .fin s2 m2 e2 =>
    let u := if e1 < e2 then e1 else e2
    scaled s1 m1 e1 u < scaled s2 m2 e2 u

/-- Equality of two values other than NaNs. -/
def Fl.eq (a b : Fl) : Bool := !a.isNan && !b.isNan && !a.lt b && !b.lt a

/-! ## Operations of a format: result bits and flags -/

/-- `nv` when an operand is a signalling NaN (R267). -/
def snanFlag (l : List Fl) : Nat := if l.any Fl.isSnan then flagNv else 0

/-- A result rounded into a format, with the flags of the operation, of the rounding and of its operands. -/
def Fmt.finish (f : Fmt) (r : Rnd) (operands : List Fl) (v : Fl × Nat) : Nat × Nat :=
  let (b, g) := f.ofFl r v.1
  (b, g ||| v.2 ||| snanFlag operands)

def Fmt.fadd (f : Fmt) (r : Rnd) (a b : Nat) : Nat × Nat :=
  f.finish r [f.decode a, f.decode b] ((f.decode a).add r (f.decode b))

def Fmt.fsub (f : Fmt) (r : Rnd) (a b : Nat) : Nat × Nat :=
  f.finish r [f.decode a, f.decode b] ((f.decode a).add r (f.decode b).negate)

def Fmt.fmul (f : Fmt) (r : Rnd) (a b : Nat) : Nat × Nat :=
  f.finish r [f.decode a, f.decode b] ((f.decode a).mul (f.decode b))

/-- a × b + c with one rounding; 0 × ∞ raises `nv` whatever c holds (R327). -/
def Fmt.ffma (f : Fmt) (r : Rnd) (a b c : Nat) : Nat × Nat :=
  let p := (f.decode a).mul (f.decode b)
  let t := p.1.add r (f.decode c)
  f.finish r [f.decode a, f.decode b, f.decode c] (t.1, p.2 ||| t.2)

def Fmt.fdiv (f : Fmt) (r : Rnd) (a b : Nat) : Nat × Nat :=
  f.finish r [f.decode a, f.decode b] ((f.decode a).div (f.decode b))

def Fmt.fsqrt (f : Fmt) (r : Rnd) (a : Nat) : Nat × Nat := f.finish r [f.decode a] (f.decode a).sqrt

/-- The lesser operand (R267): the other one when one is a NaN; −0 is below +0. -/
def Fmt.fmin (f : Fmt) (a b : Nat) : Nat × Nat :=
  let x := f.decode a
  let y := f.decode b
  let pickA := if x.isNan then false else if y.isNan then true else x.lt y || (x.eq y && x.sgn)
  (if x.isNan && y.isNan then f.nan else if pickA then a else b, snanFlag [x, y])

/-- The greater operand. -/
def Fmt.fmax (f : Fmt) (a b : Nat) : Nat × Nat :=
  let x := f.decode a
  let y := f.decode b
  let pickA := if x.isNan then false else if y.isNan then true else y.lt x || (x.eq y && y.sgn)
  (if x.isNan && y.isNan then f.nan else if pickA then a else b, snanFlag [x, y])

/-- The magnitude, or the value with its sign inverted; a NaN gives the canonical one (R267, R327). -/
def Fmt.fabs (f : Fmt) (a : Nat) : Nat × Nat :=
  let x := f.decode a
  (if x.isNan then f.nan else a % 2 ^ (f.ebits + f.mbits), snanFlag [x])
def Fmt.fneg (f : Fmt) (a : Nat) : Nat × Nat :=
  let x := f.decode a
  (if x.isNan then f.nan else f.sign (!f.neg a) + a % 2 ^ (f.ebits + f.mbits), snanFlag [x])

/-- The format whose members are those of `f` with only 11 fraction bits (R290). -/
def Fmt.seed (f : Fmt) : Fmt := ⟨f.ebits, 11⟩

/-- A seed result: rounded `rne` to 11 fraction bits; `nx` and `uf` are never set. -/
def Fmt.seedOf (f : Fmt) (x : Fl) (v : Fl × Nat) : Nat × Nat :=
  let (b, g) := f.seed.ofFl .rne v.1
  (if v.1.isNan then f.nan else b * 2 ^ (f.mbits - 11), (g &&& flagOf) ||| v.2 ||| snanFlag [x])

def Fmt.frsqs (f : Fmt) (a : Nat) : Nat × Nat := f.seedOf (f.decode a) (f.decode a).rsqrt
def Fmt.frcps (f : Fmt) (a : Nat) : Nat × Nat := f.seedOf (f.decode a) ((Fl.fin false 1 0).div (f.decode a))

/-- A conversion between floating formats (R328). -/
def fcvt (src dst : Fmt) (r : Rnd) (a : Nat) : Nat × Nat := dst.finish r [src.decode a] (src.decode a, 0)

/-- An integer rounded into a format. -/
def Fmt.ofInt (f : Fmt) (r : Rnd) (v : Int) : Nat × Nat := f.round r (v < 0) v.natAbs 0

/-- m × 2^e rounded to an integer, for a value of sign `s`, and whether it was inexact. -/
def roundInt (r : Rnd) (s : Bool) (m : Nat) (e : Int) : Int × Bool :=
  let (q, nx) := if 0 ≤ e then (m * 2 ^ e.toNat, false) else roundShift r s m (-e).toNat
  (if s then -(q : Int) else q, nx)

/-- A conversion to int64 (R270): a NaN gives 0, a value beyond the range its bound, both with `nv` alone. -/
def Fmt.toInt64 (f : Fmt) (r : Rnd) (a : Nat) : Int × Nat :=
  match f.decode a with
  | .nan _ => (0, flagNv)
  | .inf s => (if s then -2 ^ 63 else 2 ^ 63 - 1, flagNv)
  | .fin s m e =>
    let (v, nx) := roundInt r s m e
    if v < -2 ^ 63 then (-2 ^ 63, flagNv)
    else if 2 ^ 63 - 1 < v then (2 ^ 63 - 1, flagNv)
    else (v, if nx then flagNx else 0)

/-- The class mask of `fclass` (R328). -/
def Fmt.fclass (f : Fmt) (a : Nat) : Nat :=
  match f.decode a with
  | .nan q => if q then 2 ^ 8 else 2 ^ 9
  | .inf s => if s then 1 else 2 ^ 7
  | .fin s m _ =>
    if m = 0 then (if s then 2 ^ 3 else 2 ^ 4)
    else if m < 2 ^ f.mbits then (if s then 2 ^ 2 else 2 ^ 5)
    else (if s then 2 ^ 1 else 2 ^ 6)

end Sys2Proof.Machine
end

