-- ==== Sys2Proof/Config.lean ====
section
/-! DEFINITION. What an implementation fixes, and the free values: constants without a body, of which nothing can be proved but
what holds for every value. -/
namespace Sys2Proof.Config

/-- The n-th free word: a value that the spec leaves undefined (DESIGN CHOICE, log 3). -/
opaque freeWord : Nat → Word

/-- The n-th free choice: an act of the hardware that the spec leaves open (DESIGN CHOICE, log 3). -/
opaque freeBool : Nat → Bool

/-- The n-th free number (DESIGN CHOICE, log 3). -/
opaque freeNat : Nat → Nat

/-- The set of the second-level TLB in which a page stands (R170; DESIGN CHOICE, log 5). -/
opaque tlbSet : Nat → Nat

/-- A line misses in a cache portion at a tick: line number, tick (R164, R199; DESIGN CHOICE, log 6). -/
opaque cacheMiss : Nat → Nat → Bool

/-- The device identity key's signature of a digest: r then s, 132 bytes (R101; DESIGN CHOICE, log 9). -/
opaque identitySign : Nat → List Byte → List Byte

/-- The certificate chain of a device (R101; DESIGN CHOICE, log 9). -/
opaque certChain : Nat → List Byte

/-- The n-th key drawn from the die's random source (R93; DESIGN CHOICE, log 9). -/
opaque drawKey : Nat → Nat

/-- The mask ROM's bytes (R91, R97; DESIGN CHOICE, log 9). -/
opaque rom : List Byte

/-- The ROM revision letter that the M8 ships with: D (R91). -/
def romLetter : Nat := 0x44

/-- The spare maps of a module as measured into M1: retired sites (die, physical column, row); the rows and banks remapped in the column
of a quad (quad; layer, bank, row); and the ranks replaced (channel, rank) (R97, R101; DESIGN CHOICE, log 9). -/
opaque spareMaps : Nat → List (Nat × Nat × Nat) → List (Nat × List (Nat × Nat × Option Nat)) → List (Nat × Nat) → List Byte

/-- The partition table as measured into M1: state, head core and districts of the partitions 0 to 15 (R97, R101; DESIGN CHOICE, log 9). -/
opaque partTable : List (Nat × Nat × List Nat) → List Byte

/-- The number of patterns of ROM's structural pattern set, less one (R251; DESIGN CHOICE, log 9). -/
opaque patternsLessOne : Nat

/-- The n-th per-part health report of HEALTH op 0, whose layout the spec does not give, with the links that lead to a module of the same
id (R62, R106; DESIGN CHOICE, logs 9 and 118). -/
opaque healthReport : Nat → List Nat → List Byte

end Sys2Proof.Config
end

