-- ==== Sys2Proof/Syntax.lean ====
section
/-! DEFINITION. The instructions: one constructor per row of the opcode table.
The 256 distinct words carry the fields of the word (14_isa_encoding.md, R294 to R305), each as the bits the encoding gives it.
Seven rows share their word with an earlier row (`wake`, `cpr`, `binplay`): no word decodes to them, and their meanings read their
fields from the word in issue (`State.ir`).
The 118 rows without a word are events of the machine (arrivals, engine steps, firmware commands, link and power events); where an
event happens, and what the environment supplies to it, stands in the turn that schedules it (`State.args`). -/
namespace Sys2Proof

/-- The three engines of a compute core (R221, R381). -/
inductive Engine where
  | copy | vector | matrix
  deriving DecidableEq, Repr

/-- The five engine register files (R384). -/
inductive EngineFile where
  | copy | vector | matrix | pool | bin
  deriving DecidableEq, Repr

/-- The two directions of a link, as the link-event notice names them (R61). -/
inductive LinkSide where
  | tx | rx
  deriving DecidableEq, Repr

/-- A register that REGISTER_WRITE names: a special register by its index (R309), or a register of an engine file by its index (R384). -/
inductive RegName where
  | special (index : Nat)
  | engine (file : EngineFile) (index : Nat)
  deriving DecidableEq, Repr

/-- One constructor per row of the opcode table. -/
inductive Instr where
  /-- ADD (R317). 64-bit add. -/
  | add (d : Reg) (a : Reg) (b : Reg)
  /-- SUB (R317). 64-bit subtract. -/
  | sub (d : Reg) (a : Reg) (b : Reg)
  /-- AND (R317). Bitwise and. -/
  | and (d : Reg) (a : Reg) (b : Reg)
  /-- OR (R317). Bitwise or. -/
  | or (d : Reg) (a : Reg) (b : Reg)
  /-- XOR (R317). Bitwise exclusive or. -/
  | xor (d : Reg) (a : Reg) (b : Reg)
  /-- ANDN (R317). u and not v. -/
  | andn (d : Reg) (a : Reg) (b : Reg)
  /-- ORN (R317). u or not v. -/
  | orn (d : Reg) (a : Reg) (b : Reg)
  /-- SHL (R317). Shift left by v[5:0]. -/
  | shl (d : Reg) (a : Reg) (b : Reg)
  /-- SHR (R317). Logical shift right. -/
  | shr (d : Reg) (a : Reg) (b : Reg)
  /-- SAR (R317). Arithmetic shift right. -/
  | sar (d : Reg) (a : Reg) (b : Reg)
  /-- ROL (R317). Rotate left. -/
  | rol (d : Reg) (a : Reg) (b : Reg)
  /-- ROR (R317). Rotate right. -/
  | ror (d : Reg) (a : Reg) (b : Reg)
  /-- MIN (R317). Signed minimum. -/
  | min (d : Reg) (a : Reg) (b : Reg)
  /-- MAX (R317). Signed maximum. -/
  | max (d : Reg) (a : Reg) (b : Reg)
  /-- MINU (R317). Unsigned minimum. -/
  | minu (d : Reg) (a : Reg) (b : Reg)
  /-- MAXU (R317). Unsigned maximum. -/
  | maxu (d : Reg) (a : Reg) (b : Reg)
  /-- LSA (R317). u + (v << k). -/
  | lsa (d : Reg) (a : Reg) (b : Reg) (k : BitVec 3)
  /-- ADDW (R318). 32-bit add, sign-extended. -/
  | addw (d : Reg) (a : Reg) (b : Reg)
  /-- SUBW (R318). 32-bit subtract, sign-extended. -/
  | subw (d : Reg) (a : Reg) (b : Reg)
  /-- SHLW (R318). 32-bit shift left. -/
  | shlw (d : Reg) (a : Reg) (b : Reg)
  /-- SHRW (R318). 32-bit logical shift right. -/
  | shrw (d : Reg) (a : Reg) (b : Reg)
  /-- SARW (R318). 32-bit arithmetic shift right. -/
  | sarw (d : Reg) (a : Reg) (b : Reg)
  /-- MUL (R319). Low 64 bits of the product. -/
  | mul (d : Reg) (a : Reg) (b : Reg)
  /-- MULH (R319). High 64 bits of the signed product. -/
  | mulh (d : Reg) (a : Reg) (b : Reg)
  /-- MULHU (R319). High 64 bits of the unsigned product. -/
  | mulhu (d : Reg) (a : Reg) (b : Reg)
  /-- MULW (R319). 32-bit product, sign-extended. -/
  | mulw (d : Reg) (a : Reg) (b : Reg)
  /-- DIV (R319). Signed 64-bit quotient, 8 turns. -/
  | div (d : Reg) (a : Reg) (b : Reg)
  /-- DIVU (R319). Unsigned 64-bit quotient. -/
  | divu (d : Reg) (a : Reg) (b : Reg)
  /-- REM (R319). Signed 64-bit remainder. -/
  | rem (d : Reg) (a : Reg) (b : Reg)
  /-- REMU (R319). Unsigned 64-bit remainder. -/
  | remu (d : Reg) (a : Reg) (b : Reg)
  /-- DIVW (R319). Signed 32-bit quotient. -/
  | divw (d : Reg) (a : Reg) (b : Reg)
  /-- REMW (R319). Signed 32-bit remainder. -/
  | remw (d : Reg) (a : Reg) (b : Reg)
  /-- CLZ (R320). Count leading zeros. -/
  | clz (d : Reg) (a : Reg)
  /-- CTZ (R320). Count trailing zeros. -/
  | ctz (d : Reg) (a : Reg)
  /-- POPC (R320). Count one bits. -/
  | popc (d : Reg) (a : Reg)
  /-- BREV (R320). Reverse bits. -/
  | brev (d : Reg) (a : Reg)
  /-- BSWAP (R320). Reverse bytes. -/
  | bswap (d : Reg) (a : Reg)
  /-- SXB (R320). Sign-extend a byte. -/
  | sxb (d : Reg) (a : Reg)
  /-- SXH (R320). Sign-extend a halfword. -/
  | sxh (d : Reg) (a : Reg)
  /-- SXW (R320). Sign-extend a word. -/
  | sxw (d : Reg) (a : Reg)
  /-- ZXB (R320). Zero-extend a byte. -/
  | zxb (d : Reg) (a : Reg)
  /-- ZXH (R320). Zero-extend a halfword. -/
  | zxh (d : Reg) (a : Reg)
  /-- ZXW (R320). Zero-extend a word. -/
  | zxw (d : Reg) (a : Reg)
  /-- BFX (R320). Extract an unsigned bit field. -/
  | bfx (d : Reg) (a : Reg) (b : Reg)
  /-- BFXS (R320). Extract a signed bit field. -/
  | bfxs (d : Reg) (a : Reg) (b : Reg)
  /-- BFI (R320). Insert a bit field into d. -/
  | bfi (d : Reg) (a : Reg) (b : Reg)
  /-- ADDI (R321). Add a sign-extended immediate. -/
  | addi (d : Reg) (a : Reg) (i : BitVec 18)
  /-- ANDI (R321). And with a sign-extended immediate. -/
  | andi (d : Reg) (a : Reg) (i : BitVec 18)
  /-- ORI (R321). Or with a sign-extended immediate. -/
  | ori (d : Reg) (a : Reg) (i : BitVec 18)
  /-- XORI (R321). Xor with a sign-extended immediate. -/
  | xori (d : Reg) (a : Reg) (i : BitVec 18)
  /-- SHLI (R322). Shift left by an immediate. -/
  | shli (d : Reg) (a : Reg) (k : BitVec 6)
  /-- SHRI (R322). Logical shift right by an immediate. -/
  | shri (d : Reg) (a : Reg) (k : BitVec 6)
  /-- SARI (R322). Arithmetic shift right by an immediate. -/
  | sari (d : Reg) (a : Reg) (k : BitVec 6)
  /-- ROLI (R322). Rotate left by an immediate. -/
  | roli (d : Reg) (a : Reg) (k : BitVec 6)
  /-- SHLIW (R322). 32-bit shift left by an immediate. -/
  | shliw (d : Reg) (a : Reg) (k : BitVec 5)
  /-- SHRIW (R322). 32-bit logical shift right by an immediate. -/
  | shriw (d : Reg) (a : Reg) (k : BitVec 5)
  /-- SARIW (R322). 32-bit arithmetic shift right by an immediate. -/
  | sariw (d : Reg) (a : Reg) (k : BitVec 5)
  /-- LUI (R323). Writes sext(imm22) << 18. -/
  | lui (d : Reg) (i : BitVec 22)
  /-- IPA (R323). Writes ip + sext(imm22) × 4. -/
  | ipa (d : Reg) (i : BitVec 22)
  /-- GADDR (R324). Forms a global local-memory window address. -/
  | gaddr (d : Reg) (a : Reg) (b : Reg)
  /-- HOMEOF (R324). Returns the core where an access to the address would perform. -/
  | homeof (d : Reg) (a : Reg)
  /-- HOPS (R324). Returns the link count between two cores' quads. -/
  | hops (d : Reg) (a : Reg) (b : Reg)
  /-- CMP (R325). 64-bit compare into a predicate. -/
  | cmp (p : Pred) (a : Reg) (b : Reg) (c : BitVec 4)
  /-- CMPW (R325). 32-bit compare into a predicate. -/
  | cmpw (p : Pred) (a : Reg) (b : Reg) (c : BitVec 4)
  /-- CMPI (R325). Compare with an immediate into a predicate. -/
  | cmpi (p : Pred) (a : Reg) (c : BitVec 4) (i : BitVec 14)
  /-- PAND (R326). Predicate and. -/
  | pand (p : Pred) (q : Pred) (s : Pred)
  /-- POR (R326). Predicate or. -/
  | por (p : Pred) (q : Pred) (s : Pred)
  /-- PXOR (R326). Predicate exclusive or. -/
  | pxor (p : Pred) (q : Pred) (s : Pred)
  /-- PANDN (R326). Predicate and-not. -/
  | pandn (p : Pred) (q : Pred) (s : Pred)
  /-- PNOT (R326). Predicate not. -/
  | pnot (p : Pred) (q : Pred)
  /-- P2X (R326). Copies the predicate word to a register. -/
  | p2x (d : Reg)
  /-- X2P (R326). Writes p1 to p15 from a register. -/
  | x2p (a : Reg)
  /-- SEL (R326). Selects one of two registers by a predicate. -/
  | sel (d : Reg) (a : Reg) (b : Reg) (k : Pred)
  /-- FADD_S (R327). FP32 add. -/
  | faddS (d : Reg) (a : Reg) (b : Reg) (r : BitVec 3)
  /-- FSUB_S (R327). FP32 subtract. -/
  | fsubS (d : Reg) (a : Reg) (b : Reg) (r : BitVec 3)
  /-- FMUL_S (R327). FP32 multiply. -/
  | fmulS (d : Reg) (a : Reg) (b : Reg) (r : BitVec 3)
  /-- FFMA_S (R327). FP32 fused multiply-add into d. -/
  | ffmaS (d : Reg) (a : Reg) (b : Reg) (r : BitVec 3)
  /-- FMIN_S (R327). FP32 minimum. -/
  | fminS (d : Reg) (a : Reg) (b : Reg) (r : BitVec 3)
  /-- FMAX_S (R327). FP32 maximum. -/
  | fmaxS (d : Reg) (a : Reg) (b : Reg) (r : BitVec 3)
  /-- FABS_S (R327). FP32 absolute value. -/
  | fabsS (d : Reg) (a : Reg) (r : BitVec 3)
  /-- FNEG_S (R327). FP32 negation. -/
  | fnegS (d : Reg) (a : Reg) (r : BitVec 3)
  /-- FDIV_S (R327). FP32 divide, 3 turns. -/
  | fdivS (d : Reg) (a : Reg) (b : Reg) (r : BitVec 3)
  /-- FSQRT_S (R327). FP32 square root, 3 turns. -/
  | fsqrtS (d : Reg) (a : Reg) (r : BitVec 3)
  /-- FRSQS_S (R290). FP32 reciprocal square-root seed. -/
  | frsqsS (d : Reg) (a : Reg) (r : BitVec 3)
  /-- FRCPS_S (R290). FP32 reciprocal seed. -/
  | frcpsS (d : Reg) (a : Reg) (r : BitVec 3)
  /-- FADD_D (R327). FP64 add. -/
  | faddD (d : Reg) (a : Reg) (b : Reg) (r : BitVec 3)
  /-- FSUB_D (R327). FP64 subtract. -/
  | fsubD (d : Reg) (a : Reg) (b : Reg) (r : BitVec 3)
  /-- FMUL_D (R327). FP64 multiply. -/
  | fmulD (d : Reg) (a : Reg) (b : Reg) (r : BitVec 3)
  /-- FFMA_D (R327). FP64 fused multiply-add into d. -/
  | ffmaD (d : Reg) (a : Reg) (b : Reg) (r : BitVec 3)
  /-- FMIN_D (R327). FP64 minimum. -/
  | fminD (d : Reg) (a : Reg) (b : Reg) (r : BitVec 3)
  /-- FMAX_D (R327). FP64 maximum. -/
  | fmaxD (d : Reg) (a : Reg) (b : Reg) (r : BitVec 3)
  /-- FABS_D (R327). FP64 absolute value. -/
  | fabsD (d : Reg) (a : Reg) (r : BitVec 3)
  /-- FNEG_D (R327). FP64 negation. -/
  | fnegD (d : Reg) (a : Reg) (r : BitVec 3)
  /-- FDIV_D (R327). FP64 divide, 6 turns. -/
  | fdivD (d : Reg) (a : Reg) (b : Reg) (r : BitVec 3)
  /-- FSQRT_D (R327). FP64 square root, 6 turns. -/
  | fsqrtD (d : Reg) (a : Reg) (r : BitVec 3)
  /-- FRSQS_D (R290). FP64 reciprocal square-root seed. -/
  | frsqsD (d : Reg) (a : Reg) (r : BitVec 3)
  /-- FRCPS_D (R290). FP64 reciprocal seed. -/
  | frcpsD (d : Reg) (a : Reg) (r : BitVec 3)
  /-- FCVT_S_D (R328). FP64 to FP32. -/
  | fcvtSD (d : Reg) (a : Reg) (r : BitVec 3)
  /-- FCVT_D_S (R328). FP32 to FP64. -/
  | fcvtDS (d : Reg) (a : Reg) (r : BitVec 3)
  /-- FCVT_S_L (R328). int64 to FP32. -/
  | fcvtSL (d : Reg) (a : Reg) (r : BitVec 3)
  /-- FCVT_D_L (R328). int64 to FP64. -/
  | fcvtDL (d : Reg) (a : Reg) (r : BitVec 3)
  /-- FCVT_L_S (R328). FP32 to int64. -/
  | fcvtLS (d : Reg) (a : Reg) (r : BitVec 3)
  /-- FCVT_L_D (R328). FP64 to int64. -/
  | fcvtLD (d : Reg) (a : Reg) (r : BitVec 3)
  /-- FCVT_H_S (R328). FP32 to binary16. -/
  | fcvtHS (d : Reg) (a : Reg) (r : BitVec 3)
  /-- FCVT_S_H (R328). binary16 to FP32. -/
  | fcvtSH (d : Reg) (a : Reg) (r : BitVec 3)
  /-- FCVT_B_S (R328). FP32 to bfloat16. -/
  | fcvtBS (d : Reg) (a : Reg) (r : BitVec 3)
  /-- FCVT_S_B (R328). bfloat16 to FP32. -/
  | fcvtSB (d : Reg) (a : Reg) (r : BitVec 3)
  /-- FCLASS_S (R328). Classifies an FP32 value. -/
  | fclassS (d : Reg) (a : Reg) (r : BitVec 3)
  /-- FCLASS_D (R328). Classifies an FP64 value. -/
  | fclassD (d : Reg) (a : Reg) (r : BitVec 3)
  /-- FCMP_S (R329). FP32 compare into a predicate. -/
  | fcmpS (p : Pred) (a : Reg) (b : Reg) (c : BitVec 4)
  /-- FCMP_D (R329). FP64 compare into a predicate. -/
  | fcmpD (p : Pred) (a : Reg) (b : Reg) (c : BitVec 4)
  /-- LD_BZ (R330). Load a byte, zero-extended. -/
  | ldBz (d : Reg) (a : Reg) (i : BitVec 14)
  /-- LD_BS (R330). Load a byte, sign-extended. -/
  | ldBs (d : Reg) (a : Reg) (i : BitVec 14)
  /-- LD_HZ (R330). Load a halfword, zero-extended. -/
  | ldHz (d : Reg) (a : Reg) (i : BitVec 14)
  /-- LD_HS (R330). Load a halfword, sign-extended. -/
  | ldHs (d : Reg) (a : Reg) (i : BitVec 14)
  /-- LD_WZ (R330). Load a word, zero-extended. -/
  | ldWz (d : Reg) (a : Reg) (i : BitVec 14)
  /-- LD_WS (R330). Load a word, sign-extended. -/
  | ldWs (d : Reg) (a : Reg) (i : BitVec 14)
  /-- LD_D (R330). Load a doubleword. -/
  | ldD (d : Reg) (a : Reg) (i : BitVec 14)
  /-- ST_B (R331). Store a byte. -/
  | stB (d : Reg) (a : Reg) (i : BitVec 14)
  /-- ST_H (R331). Store a halfword. -/
  | stH (d : Reg) (a : Reg) (i : BitVec 14)
  /-- ST_W (R331). Store a word. -/
  | stW (d : Reg) (a : Reg) (i : BitVec 14)
  /-- ST_D (R331). Store a doubleword. -/
  | stD (d : Reg) (a : Reg) (i : BitVec 14)
  /-- LDQ (R332). Load 32 aligned bytes into four registers. -/
  | ldq (d : Reg) (a : Reg) (i : BitVec 14)
  /-- STQ (R332). Store four registers to 32 aligned bytes. -/
  | stq (d : Reg) (a : Reg) (i : BitVec 14)
  /-- LDF_W (R333). Load a word once full. -/
  | ldfW (d : Reg) (a : Reg) (i : BitVec 14)
  /-- LDF_D (R333). Load a doubleword once full. -/
  | ldfD (d : Reg) (a : Reg) (i : BitVec 14)
  /-- LDFE_W (R333). Load a full word and empty it. -/
  | ldfeW (d : Reg) (a : Reg) (i : BitVec 14)
  /-- LDFE_D (R333). Load a full doubleword and empty it. -/
  | ldfeD (d : Reg) (a : Reg) (i : BitVec 14)
  /-- STF_W (R333). Store a word and set it full. -/
  | stfW (d : Reg) (a : Reg) (i : BitVec 14)
  /-- STF_D (R333). Store a doubleword and set it full. -/
  | stfD (d : Reg) (a : Reg) (i : BitVec 14)
  /-- STFE_W (R333). Store a word once empty and set it full. -/
  | stfeW (d : Reg) (a : Reg) (i : BitVec 14)
  /-- STFE_D (R333). Store a doubleword once empty and set it full. -/
  | stfeD (d : Reg) (a : Reg) (i : BitVec 14)
  /-- FCK (R333). Read a word's full/empty bit. -/
  | fck (d : Reg) (a : Reg) (i : BitVec 14)
  /-- AMO_ADD (R334). Atomic add returning the old value. -/
  | amoAdd (d : Reg) (a : Reg) (b : Reg) (s : BitVec 1)
  /-- AMO_AND (R334). Atomic and. -/
  | amoAnd (d : Reg) (a : Reg) (b : Reg) (s : BitVec 1)
  /-- AMO_OR (R334). Atomic or. -/
  | amoOr (d : Reg) (a : Reg) (b : Reg) (s : BitVec 1)
  /-- AMO_XOR (R334). Atomic exclusive or. -/
  | amoXor (d : Reg) (a : Reg) (b : Reg) (s : BitVec 1)
  /-- AMO_MIN (R334). Atomic signed minimum. -/
  | amoMin (d : Reg) (a : Reg) (b : Reg) (s : BitVec 1)
  /-- AMO_MAX (R334). Atomic signed maximum. -/
  | amoMax (d : Reg) (a : Reg) (b : Reg) (s : BitVec 1)
  /-- AMO_MINU (R334). Atomic unsigned minimum. -/
  | amoMinu (d : Reg) (a : Reg) (b : Reg) (s : BitVec 1)
  /-- AMO_MAXU (R334). Atomic unsigned maximum. -/
  | amoMaxu (d : Reg) (a : Reg) (b : Reg) (s : BitVec 1)
  /-- AMO_SWAP (R334). Atomic swap. -/
  | amoSwap (d : Reg) (a : Reg) (b : Reg) (s : BitVec 1)
  /-- AMO_CAS (R334). Atomic compare-and-swap against X(d). -/
  | amoCas (d : Reg) (a : Reg) (b : Reg) (s : BitVec 1)
  /-- AMO_FADD (R334). Atomic floating add with rne. -/
  | amoFadd (d : Reg) (a : Reg) (b : Reg) (s : BitVec 1)
  /-- STC_W (R335). Committed word store, logged in a split task. -/
  | stcW (d : Reg) (a : Reg) (i : BitVec 14)
  /-- STC_D (R335). Committed doubleword store, logged in a split task. -/
  | stcD (d : Reg) (a : Reg) (i : BitVec 14)
  /-- RED_ADD (R336). Non-returning atomic add. -/
  | redAdd (a : Reg) (b : Reg) (s : BitVec 1)
  /-- RED_FADD (R336). Non-returning floating add. -/
  | redFadd (a : Reg) (b : Reg) (s : BitVec 1)
  /-- RED_MIN (R336). Non-returning signed minimum. -/
  | redMin (a : Reg) (b : Reg) (s : BitVec 1)
  /-- RED_MAX (R336). Non-returning signed maximum. -/
  | redMax (a : Reg) (b : Reg) (s : BitVec 1)
  /-- RED_OR (R336). Non-returning or. -/
  | redOr (a : Reg) (b : Reg) (s : BitVec 1)
  /-- PF (R337). Prefetch hint into the cache portion. -/
  | pf (a : Reg) (i : BitVec 14)
  /-- CWB (R337). Write back a dirty column line. -/
  | cwb (a : Reg) (i : BitVec 14)
  /-- CDIS (R337). Discard a column line to its DRAM value. -/
  | cdis (a : Reg) (i : BitVec 14)
  /-- CINV_I (R337). Invalidate an instruction-cache line. -/
  | cinvI (a : Reg) (i : BitVec 14)
  /-- BR (R339). Branch on a predicate or its negation. -/
  | br (p : Pred) (s : BitVec 1) (d : BitVec 21)
  /-- JMP (R340). Jump by displacement. -/
  | jmp (d : BitVec 26)
  /-- CALL (R340). Call by displacement, linking x9. -/
  | call (d : BitVec 26)
  /-- JR (R341). Jump to a register. -/
  | jr (a : Reg)
  /-- CALLR (R341). Call a register, linking x9. -/
  | callr (a : Reg)
  /-- LOOP (R342). Decrement a counter and branch while non-zero. -/
  | loop (a : Reg) (i : BitVec 18)
  /-- GO (R350). Travel to the home of an address. -/
  | go (a : Reg)
  /-- GOCORE (R350). Travel to a named core. -/
  | gocore (a : Reg)
  /-- MEET (R351). Depart as a meeting party under a pennant with luggage. -/
  | meet (d : Reg) (a : Reg) (b : Reg)
  /-- XGET (R352). Read a word of the partner's context. -/
  | xget (d : Reg) (n : BitVec 4)
  /-- PARTGO (R353). End a meeting and depart to an address's home. -/
  | partgo (a : Reg)
  /-- SPAWN (R354). Send a spawn token to start a thread on a core and park for the reply. -/
  | spawn (d : Reg) (a : Reg) (b : Reg)
  /-- ALLOC (R357). Reserve scratch from the top. -/
  | alloc (d : Reg) (a : Reg)
  /-- FORK (R150). Range-fork children onto idle cores and set the roll-call cell. -/
  | fork (d : Reg) (a : Reg) (b : Reg)
  /-- JOIN (R151). Decrement a roll-call cell; continue at the continuation or quit. -/
  | join (a : Reg)
  /-- WAKE_PARK (R230). Park wake: reload a parked context on this core. -/
  | wakePark (a : Reg)
  /-- TSK (R361). Make a new task from a record at a priority. -/
  | tsk (a : Reg) (b : Reg)
  /-- QPUSH (R362). Push a plain record or a ring-5 copy to the queue tail. -/
  | qpush (a : Reg) (b : Reg)
  /-- QPOP (R362). Take the head of the highest non-empty priority. -/
  | qpop (d : Reg)
  /-- QLEN (R362). Return the queue count of a priority or of all. -/
  | qlen (d : Reg) (b : Reg)
  /-- RECV (R363). Take a notice from the masked mailboxes, parking while empty. -/
  | recv (d : Reg) (a : Reg)
  /-- MPOLL (R363). Take a notice or return 0. -/
  | mpoll (d : Reg) (a : Reg)
  /-- MBIND (R364). Bind or unbind a mailbox to a handler record. -/
  | mbind (a : Reg) (b : Reg)
  /-- BAR (R367). Arrive at a barrier and wait for the generation to change. -/
  | bar (s : BitVec 3) (n : BitVec 4)
  /-- BARN (R367). Arrive at a barrier without waiting. -/
  | barn (s : BitVec 3) (n : BitVec 4)
  /-- BARW (R368). Wait until the generation differs from a value. -/
  | barw (a : Reg) (s : BitVec 3) (n : BitVec 4)
  /-- BARG (R368). Read a barrier's generation. -/
  | barg (a : Reg) (s : BitVec 3) (n : BitVec 4)
  /-- BARSET (R369). Set a barrier's participant count and park until the root takes it. -/
  | barset (a : Reg) (s : BitVec 3) (n : BitVec 4)
  /-- SRD (R371). Read a special register. -/
  | srd (f : BitVec 10) (a : Reg)
  /-- SWR (R371). Write a special register. -/
  | swr (f : BitVec 10) (a : Reg)
  /-- TRAP (R372). Raise trap cause 13 with a code. -/
  | trap (k : BitVec 8)
  /-- BLK (R250). Open a signature-checked block, trapping on a mismatch of the previous one. -/
  | blk (h : BitVec 16)
  /-- CTXSV (R234). Save the core's context and hold its tag's arrivals. -/
  | ctxsv (a : Reg)
  /-- CTXRS (R236). Restore a core context and replay its held arrivals. -/
  | ctxrs (a : Reg)
  /-- CP (R387). Copy by the copy geometry, with a completion notice. -/
  | cp (a : Reg) (b : Reg) (w : BitVec 1)
  /-- CPN (R387). Copy without a notice. -/
  | cpn (a : Reg) (b : Reg) (w : BitVec 1)
  /-- CPM (R390). Multicast to every subscriber of a tag. -/
  | cpm (a : Reg) (b : Reg) (w : BitVec 1)
  /-- CPS (R389). Record, replace or remove a subscription. -/
  | cps (a : Reg) (b : Reg) (w : BitVec 1)
  /-- CPR_FP32 (R391). Reducing copy, FP32 add (c.red 0). -/
  | cprFp32 (a : Reg) (b : Reg) (w : BitVec 1)
  /-- CPSI (R392). Bind a stream register for input. -/
  | cpsi (a : Reg) (b : Reg) (q : BitVec 1)
  /-- CPSO (R392). Bind a stream register for output. -/
  | cpso (a : Reg) (b : Reg) (q : BitVec 1)
  /-- CPF (R388). Set or clear full bits over a range. -/
  | cpf (a : Reg) (b : Reg) (w : BitVec 1) (s : BitVec 1)
  /-- CPZ (R388). Write zeros over the destination geometry. -/
  | cpz (a : Reg) (w : BitVec 1)
  /-- CPC (R393). Cancel queued copy commands of a tag. -/
  | cpc (a : Reg) (w : BitVec 1)
  /-- CPSET (R384). Set a copy engine register. -/
  | cpset (b : Reg) (r : BitVec 6)
  /-- CPGET (R384). Get a copy engine register. -/
  | cpget (b : Reg) (r : BitVec 6)
  /-- VADD (R396). Elementwise add. -/
  | vadd (a : Reg) (b : Reg) (w : BitVec 1) (m : BitVec 1) (k : BitVec 1)
  /-- VSUB (R396). Elementwise subtract. -/
  | vsub (a : Reg) (b : Reg) (w : BitVec 1) (m : BitVec 1) (k : BitVec 1)
  /-- VMUL (R396). Elementwise multiply. -/
  | vmul (a : Reg) (b : Reg) (w : BitVec 1) (m : BitVec 1) (k : BitVec 1)
  /-- VFMA (R396). Elementwise fused multiply-add. -/
  | vfma (a : Reg) (b : Reg) (w : BitVec 1) (m : BitVec 1) (k : BitVec 1)
  /-- VMIN (R396). Elementwise minimum. -/
  | vmin (a : Reg) (b : Reg) (w : BitVec 1) (m : BitVec 1) (k : BitVec 1)
  /-- VMAX (R396). Elementwise maximum. -/
  | vmax (a : Reg) (b : Reg) (w : BitVec 1) (m : BitVec 1) (k : BitVec 1)
  /-- VABS (R396). Elementwise absolute value. -/
  | vabs (a : Reg) (b : Reg) (w : BitVec 1) (m : BitVec 1)
  /-- VNEG (R396). Elementwise negation. -/
  | vneg (a : Reg) (b : Reg) (w : BitVec 1) (m : BitVec 1)
  /-- VSQRT (R396). Elementwise square root. -/
  | vsqrt (a : Reg) (b : Reg) (w : BitVec 1) (m : BitVec 1)
  /-- VEXP2 (R396). Elementwise 2^A. -/
  | vexp2 (a : Reg) (b : Reg) (w : BitVec 1) (m : BitVec 1)
  /-- VCMP (R397). Elementwise compare into mask bits. -/
  | vcmp (a : Reg) (b : Reg) (w : BitVec 1) (c : BitVec 4) (k : BitVec 1)
  /-- VSEL (R396). Elementwise select by mask. -/
  | vsel (a : Reg) (b : Reg) (w : BitVec 1) (m : BitVec 1) (k : BitVec 1)
  /-- VCVT (R398). Elementwise format conversion. -/
  | vcvt (a : Reg) (b : Reg) (w : BitVec 1) (f : BitVec 4) (m : BitVec 1)
  /-- VRED (R399). Sum by the fixed pairwise tree. -/
  | vred (a : Reg) (b : Reg) (w : BitVec 1)
  /-- VDOT (R399). Dot product by the fixed tree. -/
  | vdot (a : Reg) (b : Reg) (w : BitVec 1) (k : BitVec 1)
  /-- VGAT (R400). Gather by an index list. -/
  | vgat (a : Reg) (b : Reg) (w : BitVec 1) (m : BitVec 1)
  /-- VSCA (R400). Scatter by an index list. -/
  | vsca (a : Reg) (b : Reg) (w : BitVec 1) (m : BitVec 1)
  /-- VSCADD (R400). Scatter-add by an index list. -/
  | vscadd (a : Reg) (b : Reg) (w : BitVec 1) (m : BitVec 1)
  /-- VROT (R401). Keyed sign and Hadamard transform in blocks of 64. -/
  | vrot (a : Reg) (b : Reg) (w : BitVec 1) (r : BitVec 2)
  /-- VQUANT (R402). Encode FP32 into table codes with block scales. -/
  | vquant (a : Reg) (b : Reg) (w : BitVec 1)
  /-- VDEQ (R402). Decode table codes into FP32. -/
  | vdeq (a : Reg) (b : Reg) (w : BitVec 1)
  /-- VTAB (R403). Load a decode table from an image. -/
  | vtab (b : Reg) (w : BitVec 1) (t : BitVec 1)
  /-- VFIX (R404). Convert floats to anchored int64. -/
  | vfix (a : Reg) (b : Reg) (w : BitVec 1) (m : BitVec 1)
  /-- VFLT (R404). Convert anchored int64 to FP32. -/
  | vflt (a : Reg) (b : Reg) (w : BitVec 1) (m : BitVec 1)
  /-- VSET (R384). Set a vector engine register. -/
  | vset (b : Reg) (r : BitVec 6)
  /-- VGET (R384). Get a vector engine register. -/
  | vget (b : Reg) (r : BitVec 6)
  /-- MLDB (R408). Load a B tile and scales into the working latch. -/
  | mldb (a : Reg) (b : Reg) (w : BitVec 1)
  /-- MMAC (R409). Multiply an A block by the working tile into the accumulator, passing the tile on. -/
  | mmac (a : Reg) (b : Reg) (w : BitVec 1)
  /-- MPASS (R408). Pass a tile to the ring neighbour without computing. -/
  | mpass (w : BitVec 1)
  /-- MZERO (R411). Zero selected tiles and set their anchor. -/
  | mzero (a : Reg) (w : BitVec 1)
  /-- MDRAIN (R411). Drain a tile converted with a scale. -/
  | mdrain (a : Reg) (b : Reg) (w : BitVec 1) (c : BitVec 1) (f : BitVec 2)
  /-- MDRAINX (R411). Drain a tile in raw form. -/
  | mdrainx (a : Reg) (w : BitVec 1) (c : BitVec 1)
  /-- MADDX (R411). Add a raw tile into the selected tile. -/
  | maddx (a : Reg) (w : BitVec 1)
  /-- MSET (R384). Set a matrix engine register. -/
  | mset (b : Reg) (r : BitVec 6)
  /-- MGET (R384). Get a matrix engine register. -/
  | mget (b : Reg) (r : BitVec 6)
  /-- POOL (R415). Pool embedding bags in the capacity tier. -/
  | pool (a : Reg) (b : Reg) (w : BitVec 1)
  /-- POSET (R384). Set a pool register. -/
  | poset (b : Reg) (r : BitVec 6)
  /-- POGET (R384). Get a pool register. -/
  | poget (b : Reg) (r : BitVec 6)
  /-- BINAPP (R418). Append records to their bins. -/
  | binapp (a : Reg) (b : Reg) (w : BitVec 1)
  /-- BINPLAY_FP32 (R155). Replay a bin into an FP32 target in bin order (bn.mode 0). -/
  | binplayFp32 (a : Reg) (b : Reg) (w : BitVec 1)
  /-- BINFLUSH (R420). Notify once earlier appends have performed. -/
  | binflush (w : BitVec 1)
  /-- BNSET (R384). Set a bin register. -/
  | bnset (b : Reg) (r : BitVec 6)
  /-- BNGET (R384). Get a bin register. -/
  | bnget (b : Reg) (r : BitVec 6)
  /-- FENCE_Q (R180). Waits until the slot has no buffer entry. -/
  | fenceQ
  /-- FENCE_E (R180). Also waits for the slot's accepted engine commands to complete. -/
  | fenceE
  /-- FENCE_A (R180). Also waits for loop-back accesses and unacknowledged increments. -/
  | fenceA
  /-- BACK (R350). Travel to the birth core. -/
  | back
  /-- PART (R353). End a meeting and return to the origin with luggage. -/
  | part
  /-- QUIT (R355). End the thread and send a quit notice to its seat. -/
  | quit
  /-- YIELD (R133). Save the founder's context in its frame and requeue the task. -/
  | yield
  /-- DONE (R145). Begin a split task's commit, or quit in a plain task. -/
  | done
  /-- ABORT (R139). Abort and split a split task. -/
  | abort
  /-- RTE (R373). Return from a trap or interrupt, or empty the slot. -/
  | rte
  /-- BRK (R374). Raise breakpoint trap cause 10. -/
  | brk
  /-- ISYNC (R374). Empty the fetch buffer. -/
  | isync
  /-- WAKE_NOTICE (R360). Notice wake: send a wake token to a thread's core mailbox. -/
  | wakeNotice
  /-- WAKE_COPY_RESUME (R232). Restart a stopped copy from its first unperformed flit. -/
  | wakeCopyResume
  /-- WAKE_COPY_ABANDON (R232). Abandon a stopped copy. -/
  | wakeCopyAbandon
  /-- CPR_FP64 (R391). Reducing copy, FP64 add (c.red 1). -/
  | cprFp64
  /-- CPR_RAW (R391). Reducing copy, raw accumulator add (c.red 2). -/
  | cprRaw
  /-- CPR_INT64 (R391). Reducing copy, int64 add (c.red 3). -/
  | cprInt64
  /-- BINPLAY_ANCHORED (R155). Replay a bin into an anchored int64 target (bn.mode 1). -/
  | binplayAnchored
  /-- MODULE_RESET (R97). Module reset runs the ROM boot sequence: head-core self-test, strap and fuse reading, district test, link training, measurement and start of the monitor slots. -/
  | moduleReset
  /-- LANE_FAILURE (R57). A Lanify or capacity lane loses block lock or exceeds its corrected-symbol count, and the link starts retraining by substitution or degradation. -/
  | laneFailure
  /-- LINK_RETRAINING_COMPLETE (R58). A retraining ends; the receiver acknowledges at once, the sender replays each class from its last acknowledged number, and a link-event notice is raised. -/
  | linkRetrainingComplete
  /-- LINK_TRAINING_RETRY (R60). Every 1 ms the monitor retries training of a down link. -/
  | linkTrainingRetry
  /-- LANIFY_PACKET_SEND (R55). The sender puts a packet on the link when its replay buffer has room and keeps it until acknowledged. -/
  | lanifyPacketSend
  /-- LANIFY_FLIT_RECEIVE (R56). The receiver takes a flit, checks its CRC and sequence, accepts in-order packets or discards them, and counts packets toward an acknowledgement. -/
  | lanifyFlitReceive
  /-- ACK_TIMEOUT (R54). 500 ns after the oldest unacknowledged packet arrived, the receiver sends an acknowledgement. -/
  | ackTimeout
  /-- LANIFY_ACKNOWLEDGEMENT (R55). An acknowledgement reaches the sender and frees the acknowledged packets from its replay buffer. -/
  | lanifyAcknowledgement
  /-- REPLAY_REQUEST (R56). A replay request reaches the sender, which resends in order every packet after the last acknowledged one. -/
  | replayRequest
  /-- DIE_TEMPERATURE_CHANGE (R76). A die crosses 85, 90 or 95 °C; refresh doubling and allowance halving switch on or off. -/
  | dieTemperatureChange
  /-- THERMAL_STEP_DOWN (R76). After 1 ms above 95 °C the arbiter steps the die's clock down one state. -/
  | thermalStepDown
  /-- THERMAL_STEP_UP (R76). After 10 ms below 90 °C, and every 10 ms after, the arbiter steps the clock up one state toward the POWER_SET state. -/
  | thermalStepUp
  /-- RELOCK_RESTART (R70). The die clock restarts, cyc is rescaled, and a pending new target starts a second relock. -/
  | relockRestart
  /-- POWER_GRANT (R73). Every 5 µs the arbiter on die 0 grants each district a current allowance. -/
  | powerGrant
  /-- POWER_GRANT_ARRIVAL (R75). A grant reaches a district on VC3 and takes effect; the engines leave the halved rate. -/
  | powerGrantArrival
  /-- ALLOWANCE_EXCEEDED (R73). A district's estimated draw exceeds its allowance; its matrix and vector issue rates halve and the throttle bits set. -/
  | allowanceExceeded
  /-- DRAM_ROW_REMAP (R81). The quad's DRAM controller remaps a row or bank to a spare by copying it between accesses. -/
  | dramRowRemap
  /-- SPARE_RANK_BRING_IN (R84). A buffer starts copying a failing rank to its spare, mirroring new writes. -/
  | spareRankBringIn
  /-- SPARE_RANK_COPY_DONE (R84). The rank copy completes and the spare serves in the failing rank's place. -/
  | spareRankCopyDone
  /-- COMMAND_POST (R104). A write of go = 1 to a slot's posted word sets state 1 and raises a kind-16 notice, or sets dblerr in state 1 or 2. -/
  | commandPost
  /-- COMMAND_ACCEPT (R104). The monitor accepts the next posted slot of a function, copies its 128 bytes and sets state 2. -/
  | commandAccept
  /-- COMMAND_COMPLETE (R104). The monitor writes returned arguments, result and status with state 3, and sends MSI-X if asked. -/
  | commandComplete
  /-- FUNCTION_LEVEL_RESET (R104). A function-level reset of a VF clears its window and fnst; accepted commands run on without write-back. -/
  | functionLevelReset
  /-- FNST_WRITE (R103). A write to fnst clears dblerr where a 1 is written. -/
  | fnstWrite
  /-- QUERY_MODULE (R106). QUERY with a0 = 0 returns the module's ROM letter, id, partitions, free districts, capnet and spares. -/
  | queryModule
  /-- QUERY_PARTITION (R106). QUERY with a0 = 1 returns the named partition's districts, head core and the module data. -/
  | queryPartition
  /-- PART_CREATE (R92). Creates a partition: draws keys, claims districts and head core, zero-fills its memories and sets full/empty bits empty. -/
  | partCreate
  /-- PART_DESTROY (R95). Completes open commands with status 11, destroys the keys and releases districts and head core. -/
  | partDestroy
  /-- KEY_SET (R107). Replaces the partition's owner key, after a signature check when issued by a VF. -/
  | keySet
  /-- IMAGE_LOAD (R99). Reads and checks a signed envelope and lays out its sections, page tables and M2. -/
  | imageLoad
  /-- BOOT (R100). Raises the floor, sets M3, places local sections and lmsplit, asid and ptbase on every compute core, and starts the supervisor slot. -/
  | boot
  /-- LAUNCH (R111). Checks a launch and creates its account, or completes an empty launch at once. -/
  | launch
  /-- LAUNCH_SEED (R113). The monitor halves the template into records and sends them to district root cores, setting the roll-call count and slot state 2. -/
  | launchSeed
  /-- LAUNCH_COMPLETE (R115). When the roll-call and open-copy counts are 0 and no commit runs, the monitor writes the result, completion word, status and MSI-X. -/
  | launchComplete
  /-- HOST_COPY (R109). Copies between host memory and the partition's virtual space with the head core's copy engines. -/
  | hostCopy
  /-- ATTEST_QUOTE (R101). ATTEST flag 0 returns a signed 512-byte quote. -/
  | attestQuote
  /-- ATTEST_CHAIN (R101). ATTEST flag 1 returns the device certificate chain. -/
  | attestChain
  /-- DUMP (R106). Copies a dump entry of the partition to host memory. -/
  | dump
  /-- STOP (R238). Rings the bell tree with a stop edge T and suspends the partition's open launches and copies. -/
  | stop
  /-- STOP_EDGE (R238). At T every core and router latches its stop record and cores stop issuing. -/
  | stopEdge
  /-- RESUME (R238). Lets every core of a stopped partition issue again from the next reference edge. -/
  | resume
  /-- CENSUS_CFG_OFF (R106). CENSUS_CFG op 0 turns the census off. -/
  | censusCfgOff
  /-- CENSUS_CFG_ON (R253). CENSUS_CFG op 1 turns on per-port flit and stall counting into the given buffers. -/
  | censusCfgOn
  /-- CENSUS_CFG_CLEAR (R106). CENSUS_CFG op 2 clears the census counts. -/
  | censusCfgClear
  /-- CENSUS_CFG_RETRAIN (R60). CENSUS_CFG op 3 retrains the links in the mask, which may restore a larger group. -/
  | censusCfgRetrain
  /-- POWER_SET (R110). Sets the module power limit and requests die clock states, completing after the last relock. -/
  | powerSet
  /-- HEALTH_REPORT (R106). HEALTH op 0 returns spare counts and optionally a per-part report. -/
  | healthReport
  /-- HEALTH_RETRAIN (R60). HEALTH op 1 retrains the links in the mask. -/
  | healthRetrain
  /-- DISPATCH (R128). An empty slot in its turn takes a queue entry chosen by priority and fairness, giving it a seat and scratch. -/
  | dispatch
  /-- OVERFLOW_REFILL (R125). When the queue has a free entry, the head of the highest non-empty overflow part moves to its queue part. -/
  | overflowRefill
  /-- STEAL_IDLE (R147). After 256 idle cycles a core becomes a thief and sends its first steal probe. -/
  | stealIdle
  /-- STEAL_WAIT_END (R147). After the 1,024-cycle wait a still-idle thief begins probing again. -/
  | stealWaitEnd
  /-- STEAL_PROBE_ARRIVAL (R148). The victim answers a probe by granting its tail entry or sending an empty reply. -/
  | stealProbeArrival
  /-- STOLEN_TASK_RECORD_ARRIVAL (R148). The thief pushes a granted record at the tail of its priority. -/
  | stolenTaskRecordArrival
  /-- EMPTY_REPLY_ARRIVAL (R147). An empty reply makes the thief send its next probe or start its wait. -/
  | emptyReplyArrival
  /-- PERIOD_EXPIRY (R138). A split task's prdl reaches 0 and the task aborts. -/
  | periodExpiry
  /-- ACCOUNT_INCREMENT_ARRIVAL (R142). An increment reaches the launch account and is acknowledged. -/
  | accountIncrementArrival
  /-- ACCOUNT_ACK_ARRIVAL (R142). An acknowledgement releases the entries, records and departures held for it. -/
  | accountAckArrival
  /-- ACCOUNT_DECREMENT_ARRIVAL (R143). A retirement, grain-fault or copy decrement reaches the launch account. -/
  | accountDecrementArrival
  /-- QUIT_NOTICE_ARRIVAL (R132). A quit notice lowers the seat count; at 0 a plain task retires, freeing its seat and scratch. -/
  | quitNoticeArrival
  /-- RETIREMENT_DECREMENT_SEND (R143). After the task's store buffers drain, the seat sends the retirement decrement. -/
  | retirementDecrementSend
  /-- COMMIT_LOG_HANDOFF (R145). When the task's other threads have quit and its performed commands completed, the founder drains and hands the log to the copy engine. -/
  | commitLogHandoff
  /-- COMMIT_ENTRY (R145). The copy engine performs one log entry at its home. -/
  | commitEntry
  /-- COMMIT_END (R145). With every entry performed and acknowledged, scratch and seat are released and the retirement decrement follows. -/
  | commitEnd
  /-- SEEDED_RECORD_ARRIVAL (R113). A seeded record reaches its root core and is pushed, held or turned back by its tag. -/
  | seededRecordArrival
  /-- FORK_CHILD_ARRIVAL (R150). A fork child reaches its core and is pushed at the tail of its priority. -/
  | forkChildArrival
  /-- TASK_TOKEN_ARRIVAL (R361). A tsk token reaches the record's home, which reads the record and pushes an entry. -/
  | taskTokenArrival
  /-- SPAWN_TOKEN_ARRIVAL (R354). A spawn token joins the target's arrival queue. -/
  | spawnTokenArrival
  /-- SPAWN_DEADLINE (R354). An unaccepted spawn token is declined and a status-1 reply returns. -/
  | spawnDeadline
  /-- SPAWN_REPLY_ARRIVAL (R354). The kind-6 reply reaches the parked spawner, writing the thread id or 0 and restoring the count. -/
  | spawnReplyArrival
  /-- WAKE_TOKEN_ARRIVAL (R360). A wake token becomes a kind-5 notice delivered to the named mailbox. -/
  | wakeTokenArrival
  /-- STORE_BUFFER_DRAIN (R179). The oldest store-buffer entry performs at its home and leaves. -/
  | storeBufferDrain
  /-- LOOPBACK_PERFORM (R158). The head of the loop-back queue performs at the core among row-1 arrivals. -/
  | loopbackPerform
  /-- TABLE_WALK_COMPLETE (R171). A page-table walk ends with a translation, a page fault class or a trap. -/
  | tableWalkComplete
  /-- TLBINV_COMPLETE (R172). The invalidation has completed in its whole scope and the slot unparks. -/
  | tlbinvComplete
  /-- LMSPLIT_TAKE_EFFECT (R165). Once dirty lines and commons buffer entries have drained, the new local-memory division takes effect. -/
  | lmsplitTakeEffect
  /-- ENGINE_COMMAND_START (R381). An engine starts its next queued command in acceptance order when it has room. -/
  | engineCommandStart
  /-- ENGINE_READ (R179). An engine reads source bytes at their homes. -/
  | engineRead
  /-- ENGINE_WRITE_PERFORM (R179). A pending engine write performs at its home, setting full bits in full mode. -/
  | engineWritePerform
  /-- ENGINE_COMMAND_COMPLETE (R381). All writes of a command have performed; its completion notice is sent and its launch decrement follows. -/
  | engineCommandComplete
  /-- LATCH_TILE_ARRIVAL (R407). A B tile sent by a ring neighbour lands in the incoming latch. -/
  | latchTileArrival
  /-- RING_STALL (R410). A ring member waiting more than 2^20 cycles stops with error 8. -/
  | ringStall
  /-- TIMER_EXPIRY (R208). cyc reaches tcmp; the timer level rises, or with tie = 0 a kind-4 notice is sent and tcmp cleared. -/
  | timerExpiry
  /-- INTERRUPT_ENTRY (R210). The interrupt slot takes a raised level in its turn, saving eip, estat and ecause and jumping to ivec. -/
  | interruptEntry
  /-- NOTICE_ARRIVAL (R206). A notice is given to a waiting recv, made into a handler task, or appended to its mailbox or ring. -/
  | noticeArrival
  /-- MAILBOX_RING_REFILL (R206). When a mailbox FIFO has room, the head of its ring moves into it. -/
  | mailboxRingRefill
  /-- CONTEXT_ARRIVAL (R213). An arriving context is turned back, held for its tag, refused, or queued. -/
  | contextArrival
  /-- ARRIVAL_QUEUE_REFILL (R212). Spilled contexts return to the arrival queue in order. -/
  | arrivalQueueRefill
  /-- CONTEXT_TAKE (R209). An empty slot takes its reserved party or the oldest context of the arrival queue. -/
  | contextTake
  /-- PARTY_ARRIVAL (R215). A party at the cloakroom is matched, waits with a reservation, or is refused. -/
  | partyArrival
  /-- PAIR_PLACEMENT (R216). A matched pair is placed in two reserved slots of a qualifying pennant-quad core and becomes met. -/
  | pairPlacement
  /-- MEETING_DEADLINE (R215). An unplaced party's deadline passes and it returns alone with status 1. -/
  | meetingDeadline
  /-- PARTY_RETURN_ARRIVAL (R218). A party returns to its origin and its luggage is written before it continues. -/
  | partyReturnArrival
  /-- LUGGAGE_WRITE_ARRIVAL (R218). A partgo party's luggage arrives at its origin on VC1, is written and acknowledged. -/
  | luggageWriteArrival
  /-- DUMP_WRITE (R242). The supervisor core's copy engine writes the next dump entry. -/
  | dumpWrite
  /-- TEST_SLICE (R251). A 20 µs in-field test slice runs on a district in a gap. -/
  | testSlice
  /-- FORCED_TEST_GAP (R251). After 100 ms without a slice the test controller stops the district and runs one. -/
  | forcedTestGap
  /-- TEST_SLICE_COMPLETE (R251). A slice ends; a completed pattern pass sends a kind-11 notice. -/
  | testSliceComplete
  /-- CENSUS_RECORD_WRITE (R253). Every 2^16 reference edges head core 0 of each die writes a census record and clears the counts. -/
  | censusRecordWrite
  /-- SAMPLE_RECORD (R254). Every 2^per instructions issued, the core writes a sample record to its ring. -/
  | sampleRecord
  /-- BARRIER_ARRIVAL_AT_ROOT (R193). An arrival reaches the barrier root; the last one advances the generation and sends the release. -/
  | barrierArrivalAtRoot
  /-- BARRIER_RELEASE_ARRIVAL (R193). A release reaches a die, updating its generation copy and freeing waiting slots. -/
  | barrierReleaseArrival
  /-- POD_RELAY_FORWARD (R422). A pod relay combines and forwards arrivals to the root module, or passes a release to its dies. -/
  | podRelayForward
  /-- BARSET_ROOT_TAKE (R369). The barrier root takes a new participant count, possibly completing the barrier. -/
  | barsetRootTake
  /-- REGISTER_WRITE (R308). A write to a special or engine register without its own row writes its writable fields. -/
  | registerWrite
  /-- LMSPLIT_WRITE (R162). A write to lmsplit checks its fields and parks until the change can take effect. -/
  | lmsplitWrite
  /-- TLBINV_PAGE (R172). tlbinv op 0 invalidates the page of vpn in asid and covering entries. -/
  | tlbinvPage
  /-- TLBINV_ASID (R172). tlbinv op 1 invalidates every non-global entry of asid. -/
  | tlbinvAsid
  /-- TLBINV_PARTITION (R172). tlbinv op 2 invalidates every entry of the partition. -/
  | tlbinvPartition
  /-- PTBASE_WRITE (R309). A write to ptbase traps with cause 4 when a reserved bit is set or the address is outside space 0. -/
  | ptbaseWrite
  /-- FCSR_WRITE (R269). A write to fcsr traps when rm is 4 to 7, else sets mode and flags. -/
  | fcsrWrite
  /-- MBST_WRITE (R207). A write to mbst clears the lost and ovf bits written as 1. -/
  | mbstWrite
  /-- ENGINE_STATUS_WRITE (R384). A set of an engine status register clears its W1C fields written as 1. -/
  | engineStatusWrite
  /-- ILLEGAL_ENCODING (R306). A word that fails the decode checks is issued and traps with cause 1 before any effect. -/
  | illegalEncoding
  /-- LUGGAGE_WRITE_ACKNOWLEDGEMENT (R218). The origin's acknowledgement of a partgo party's luggage write reaches the party, which then continues. -/
  | luggageWriteAcknowledgement
  /-- MONITOR_SLOT_STOP (R103). The monitor slot of a function's owning head core stops, setting fwfault; the function answers nothing more until module reset. -/
  | monitorSlotStop
  /-- COLUMN_COPY_COMPLETE (R79). Firmware's copies of the moved quads' 32 MiB columns to their new sites finish; the switches are set and the district is unfenced. -/
  | columnCopyComplete
  /-- ROW_COPY_COMPLETE (R81). The DRAM controller's copy of a row or bank into its spare ends, and accesses waiting on that row proceed. -/
  | rowCopyComplete
  deriving DecidableEq, Repr

end Sys2Proof
end

