-- ==== Sys2Proof/Machine/State.lean ====
section
/-! DEFINITION. The state of a pod of M8 modules as plain data: everything the spec gives the machine, and the schedule that says
which agent acts next. -/
namespace Sys2Proof.Machine

/-- Why the machine stops with a fault. -/
inductive Fault where
  /-- raised by every meaning of a word when the running slot holds no thread: no word issues there (R198, R199); a safe stop, and no
  run reaches it -/
  | noThread
  deriving DecidableEq, Repr

/-- Why the machine gives no meaning. -/
inductive Refusal where
  /-- raised by an arm of exec that has no meaning yet; safe -/
  | notModelled (mnemonic : String)
  deriving DecidableEq, Repr

/-! ## Threads and contexts -/

/-- The status word of a context (R200). -/
structure Status where
  /-- `fcs`, the image of `fcsr` -/
  fcs : BitVec 8 := 0
  met : Bool := false
  spl : Bool := false
  fnd : Bool := false
  sup : Bool := false
  deriving DecidableEq, Repr

/-- The 16-word context of a thread (R200). -/
structure Ctx where
  x0 : Word := 0
  x1 : Word := 0
  x2 : Word := 0
  x3 : Word := 0
  x4 : Word := 0
  x5 : Word := 0
  x6 : Word := 0
  x7 : Word := 0
  x8 : Word := 0
  x9 : Word := 0
  fp : Word := 0
  /-- the predicate word; bit 0 reads 1 -/
  p : BitVec 16 := 1
  ip : Word := 0
  fmta : Word := 0
  fmtb : Word := 0
  status : Status := {}
  deriving DecidableEq, Repr

/-- What a thread knows of its task: the seat reference that travels with it (R201), and the task's fields that the slot's special
registers read (R309). -/
structure TaskInfo where
  seatCore : Nat := 0
  seat : Nat := 0
  task : Word := 0
  dom0 : Word := 0
  dom1 : Word := 0
  dom2 : Word := 0
  budget : Word := 0
  launch : Word := 0
  deriving DecidableEq, Repr

/-- A thread: its context, its id (R119), its task if it has one, and the core of its last departure (R167, R201). -/
structure Thread where
  ctx : Ctx := {}
  tid : BitVec 32 := 0
  /-- the birth core is a head core: bit 24 of its extended id, for which the id has no bit (R89, R119; DEDUCED, log 10) -/
  headBorn : Bool := false
  task : Option TaskInfo := none
  origin : Nat := 0
  deriving DecidableEq, Repr

/-! ## Memory accesses -/

/-- The operation of an atomic (R334, R336). -/
inductive AmoFn where
  | add | and | or | xor | min | max | minu | maxu | swap | cas | fadd
  deriving DecidableEq, Repr

/-- What an access does at its home (R330 to R336, R359). -/
inductive AccOp where
  | load (n : Nat) (signed : Bool) (d : Reg)
  | loadQuad (d : Reg)
  | store (n : Nat) (v : Word)
  | storeQuad (v0 v1 v2 v3 : Word)
  /-- `ldf*`, and `ldfe*` when `take` -/
  | loadFull (n : Nat) (d : Reg) (take : Bool)
  /-- `stf*`, and `stfe*` when `wait` -/
  | storeFull (n : Nat) (v : Word) (wait : Bool)
  | checkFull (d : Reg)
  | amo (f : AmoFn) (n : Nat) (v e : Word) (d : Option Reg)
  | join
  deriving DecidableEq, Repr

/-- An access: its virtual address, its pieces still to perform as (home key, length), and the bytes a load has gathered
(R173, R174). -/
structure Access where
  op : AccOp
  va : Word
  parts : List (Nat × Nat)
  got : List Byte := []
  /-- source fields whose stream elements are taken when a waiting full/empty access performs (R296) -/
  srcs : List Reg := []
  /-- the stream elements that the instruction took when its thread departed: they are given back if it is turned back (R346) -/
  took : List (Reg × Word) := []
  /-- the thread that issued an access in the loop-back queue, once that has left the slot (R132) -/
  owner : Option (BitVec 32) := none
  deriving DecidableEq, Repr

/-- What an arriving context still has to do (R201, R211, R133, R218). -/
inductive Carried where
  /-- the access that made the thread depart -/
  | access (a : Access)
  /-- a `go`, `gocore` or `back`, with the operand that it named and the stream elements that it took -/
  | moved (va : Word) (took : List (Reg × Word))
  /-- a `yield` to a distant frame at an address -/
  | yield (va : Word)
  /-- a `partgo` party, with its operand, waits for the acknowledgement of its luggage write -/
  | luggage (va : Word) (took : List (Reg × Word))
  /-- a `fork` whose template is homed elsewhere: its field d, X(a) and X(b), and the stream elements that it took (R150) -/
  | fork (d : Reg) (n va : Word) (took : List (Reg × Word))
  /-- a `join` has counted, and the thread quits when step 8 allows (R151) -/
  | quit
  deriving DecidableEq, Repr

/-- What a thread's status and xd become when a context that is turned back or refused arrives again (R167, R248). -/
structure TurnedBack where
  cause : Nat
  sub : Nat
  addr : Word
  /-- stream elements that go back to their bindings (R346) -/
  took : List (Reg × Word) := []
  deriving DecidableEq, Repr

/-! ## Slots -/

/-- The destination of a `partgo`: its core, its operand, and the stream elements that it took (R353). -/
structure PartDest where
  core : Nat
  va : Word
  took : List (Reg × Word) := []
  deriving DecidableEq, Repr

/-- The event in which a slot is parked (R199); the data are what the event needs to end. -/
inductive Park where
  /-- codes 1, 3, 4, 9 (TLB miss), 11, 15: the instruction has not taken its step, and issues again -/
  | step (code : Nat)
  /-- code 2: a full/empty access waits; `since` orders the waiters of a word (R176) -/
  | full (acc : Access) (since : Nat)
  /-- code 5: the `.w` form of a command -/
  | engine (id : Nat)
  /-- code 6: `recv`, with its fields d and a; `since` orders the waiters of a mailbox (R206) -/
  | recv (d a : Reg) (mask : BitVec 16) (since : Nat)
  /-- code 7: `bar` or `barw`, and the source fields whose elements `barw` takes when it acts (R296) -/
  | barrier (scope n : Nat) (gen : BitVec 16) (srcs : List Reg)
  /-- code 8: `spawn` awaits its reply -/
  | spawn (d : Reg)
  /-- code 9: a write of `lmsplit` -/
  | lmsplit (v : Word)
  /-- code 9: a write of `tlbinv` -/
  | tlbinv (v : Word)
  /-- code 10: `done` in the commit sequence -/
  | commit
  /-- code 12: `barset` -/
  | barset
  /-- code 13: `part` (no destination) or `partgo` -/
  | part (dest : Option PartDest)
  /-- code 14: `ctxsv` in its sequence -/
  | ctxsv (a : Word)
  /-- code 16: a page fault that finds no free park record -/
  | fault (va : Word) (cls kind : Nat)
  /-- code 17: the result of a loop-back access -/
  | loopback
  /-- the `partgo` party's luggage write is not acknowledged yet (R218) -/
  | luggage
  deriving DecidableEq, Repr

/-- A met party's place (R216, R217): its cloakroom entry, its partner's entry, the partner's slot, and the area of each. -/
structure Meet where
  quad : Nat
  entry : Nat
  partnerEntry : Nat
  partnerSlot : Nat
  /-- this party arrived earlier -/
  first : Bool
  /-- its partner has left early: it issues no more, and is rolled back when the conditions of step 8 hold (R219) -/
  rolled : Bool := false
  deriving DecidableEq, Repr

/-- A slot of a core (R198 to R203, R210, R250). -/
structure Slot where
  thread : Option Thread := none
  /-- the generation of R119, 0 before the first thread -/
  gen : Nat := 0
  park : Option Park := none
  /-- turns that a multi-turn instruction still holds (R198) -/
  busy : Nat := 0
  mdl : Word := 0
  sigst : Word := 0
  eip : Word := 0
  ecause : Word := 0
  eaddr : Word := 0
  estat : Word := 0
  es0 : Word := 0
  es1 : Word := 0
  /-- the fetch buffer: at most two words with their addresses (R203) -/
  fetch : List (Word × BitVec 32) := []
  carried : Option Carried := none
  /-- what is carried is the rest of an access of which a piece performed in the slot's last turn; it follows before the next (R173) -/
  torn : Bool := false
  /-- the cloakroom entry (quad, entry) for whose party the slot is reserved (R216) -/
  reserved : Option (Nat × Nat) := none
  meet : Option Meet := none
  deriving DecidableEq, Repr

/-! ## Tasks -/

/-- A task record (R120). -/
structure Rec where
  entry : Word := 0
  flags : Word := 0
  dom0 : Word := 0
  dom1 : Word := 0
  dom2 : Word := 0
  grains : Word := 0
  budget : Word := 0
  launch : Word := 0
  fmta : Word := 0
  fmtb : Word := 0
  cell : Word := 0
  parent : Word := 0
  r0 : Word := 0
  r1 : Word := 0
  r2 : Word := 0
  r3 : Word := 0
  deriving DecidableEq, Repr

/-- A ready-queue entry (R124): the record image and F; x0 is the notice of a bound-mailbox handler (R128, R206). -/
structure QEntry where
  image : Rec := {}
  frame : Word := 0
  x0 : Word := 0
  deriving DecidableEq, Repr

/-- A memory item of a split task's commit log (R137, R145); command entries are those of `CmdLog`. -/
inductive MemLog where
  | store (va : Word) (home n : Nat) (v : Word)
  | red (f : AmoFn) (va : Word) (home n : Nat) (v : Word)
  | join (va : Word) (home : Nat)
  | tsk (home : Nat) (prio : Nat) (e : QEntry)
  deriving DecidableEq, Repr

/-! ## Engines -/

/-- The function of an engine command (R301, majors 0x30, 0x32, 0x34, 0x36, 0x38). -/
inductive CmdOp where
  | cp | cpn | cpm | cps | cpr | cpsi | cpso | cpf | cpz | cpc
  | vadd | vsub | vmul | vfma | vmin | vmax | vabs | vneg | vsqrt | vexp2 | vcmp | vsel | vcvt | vred | vdot | vgat | vsca | vscadd
  | vrot | vquant | vdeq | vtab | vfix | vflt
  | mldb | mmac | mpass | mzero | mdrain | mdrainx | maddx
  | pool
  | binapp | binplay | binflush
  deriving DecidableEq, Repr

/-- A write that an engine has produced and that has not performed (R179, steps 12 and 13). -/
structure PWrite where
  /-- the position in the command's linear order, in bytes; a record or element number for bins and streams -/
  pos : Nat := 0
  /-- virtual address of the destination -/
  va : Word := 0
  /-- home key of the first byte -/
  home : Nat
  bytes : List Byte
  /-- full mode: the bits of its words are set after it has performed -/
  full : Bool := false
  /-- a reducing write: the `cpr` mode (R391) -/
  red : Option Nat := none
  /-- change the full bits only (`cpf`): the new bit -/
  bits : Option Bool := none
  /-- a bin append (R418): the write finds its place at the home -/
  append : Bool := false
  /-- a write through another core's global window: the tag under which that core must subscribe it (R389, R390) -/
  sub : Option Nat := none
  /-- it waits in the held buffer of its destination (R235) -/
  held : Bool := false
  /-- it has left for a home beyond its quad, as a traveller of VC1 (R42, R239) -/
  sent : Bool := false
  deriving DecidableEq, Repr

/-- An engine command from its acceptance to its completion (R221, R222, R379 to R383). -/
structure Cmd where
  id : Nat
  engine : Engine
  op : CmdOp
  /-- the engine field ef[10:0] -/
  ef : Nat := 0
  xa : Word := 0
  xb : Word := 0
  /-- the register file as captured at acceptance -/
  regs : List Word := []
  /-- the fields that the accepting core read from the tensor header, if the command names one: word +0, scales, tscale, seed -/
  header : List Word := []
  /-- the `.w` form -/
  wait : Bool := false
  slot : Nat := 0
  tid : BitVec 32 := 0
  ip : Word := 0
  launch : Word := 0
  /-- the split task (seat) whose tag it carries (R385) -/
  seat : Option Nat := none
  /-- commits: the command is an entry of a log -/
  logged : Bool := false
  /-- commits: it stands for a memory item of its seat's log, by log number, that a copy fault has stopped (R231, R245) -/
  item : Option Nat := none
  /-- the issuer's context tag (R233), and whether it ran at user level -/
  tag : BitVec 16 := 0
  user : Bool := false
  started : Bool := false
  /-- ranges (position, length) already read, or asked for, in bytes of the command's linear order -/
  reads : List (Nat × Nat) := []
  /-- what it has asked of distant homes and has not got: the key of the request, and the range (R3, R42) -/
  asked : List (Nat × Nat × Nat) := []
  /-- the next group, step or record of an engine that works in order -/
  phase : Nat := 0
  pending : List PWrite := []
  /-- bytes (or records) that have performed -/
  performed : Nat := 0
  /-- a run-time error met (R382), 0 none -/
  error : Nat := 0
  /-- notice status bits gathered -/
  status : Nat := 0
  /-- stopped by a copy fault: class, side, address; and the record index once reported -/
  fault : Option (Nat × Nat × Word) := none
  record : Option Nat := none
  reported : Bool := false
  /-- started without a launch by a resume (R232) -/
  resumed : Bool := false
  /-- words gathered by an engine that writes at the end -/
  gathered : List Word := []
  /-- multicast recipients fixed at the first flit (R390): (core, base, length) -/
  recipients : List (Nat × Nat × Nat) := []
  /-- cores that have removed its subscription while it was in flight (R421) -/
  cut : List Nat := []
  /-- the core's cycle, plus 1, at which a ring member began to wait, 0 none (R410) -/
  ringWait : Nat := 0
  deriving DecidableEq, Repr

/-- An element of an accumulator tile (R283). -/
structure AccElem where
  n : BitVec 96 := 0
  sat : Bool := false
  infp : Bool := false
  infn : Bool := false
  nan : Bool := false
  deriving DecidableEq, Repr

/-- An accumulator tile: its anchor and its 64 elements, row-major (R283, R411). -/
structure AccTile where
  anc : BitVec 16 := 0
  elems : List AccElem := List.replicate 64 {}
  deriving DecidableEq, Repr

/-- A B tile in a latch (R407): the format code, the raw bytes by column, and the eight scale bytes (none when the scale is 1). -/
structure Latch where
  fmt : Nat
  bytes : List Byte
  scales : Option (List Byte)
  deriving DecidableEq, Repr

/-- A binding of a stream register (R177, R392). -/
structure Stream where
  q : Nat
  tid : BitVec 32
  input : Bool
  cmd : Nat
  base : Word
  count : Nat
  /-- elements read ahead (input) or waiting unsent (output), oldest first -/
  elems : List Word := []
  /-- elements read from or sent to memory so far -/
  moved : Nat := 0
  /-- elements taken or appended by the thread so far -/
  used : Nat := 0
  deriving DecidableEq, Repr

/-- A subscription of a core (R389). -/
structure Subscription where
  tag : Nat
  base : Nat
  length : Nat
  deriving DecidableEq, Repr

/-! ## Travellers -/

/-- A party of a meeting (R215): the thread with its status 0 result pending in xd, its pennant, luggage range and deadline. -/
structure Party where
  thread : Thread
  /-- the thread as it came to the cloakroom (R219, R220) -/
  came : Thread := {}
  d : Reg
  pennant : Word
  la : Nat
  len : Nat
  luggage : List Byte
  deadline : Nat
  origin : Nat
  tag : BitVec 16
  deriving DecidableEq, Repr

/-- An account decrement (R143, R144): the launch, an open copy rather than a task, and the fault it records. -/
structure Decrement where
  launch : Nat
  /-- 1 for a task that retires or a copy that leaves; 0 when only a fault is recorded -/
  amount : Nat := 1
  copy : Bool := false
  copyFault : Bool := false
  grain : Bool := false
  deriving DecidableEq, Repr

/-- A read that an engine sends to the homes of a distant source, the copy command of R42: the core, the command, the key of the request, the
position and the destination of what it reads, the pieces still to read (virtual address, home key, length), and what has been read, or
the class and the address at which the read stopped. -/
structure FarRead where
  core : Nat
  id : Nat
  key : Nat
  pos : Nat
  dest : Word := 0
  todo : List (Nat × Nat × Nat)
  got : List Byte := []
  err : Option (Nat × Nat) := none
  deriving DecidableEq, Repr

/-- What one buffer, or the hub, has of a bag (R68, R288): the sums, whether a row was out of range, and whether a read met an error. -/
structure BagSum where
  acc : List AccElem
  bad : Bool := false
  error : Option Nat := none
  deriving DecidableEq, Repr

/-- A pool between its core, its hub slice and the buffers (R68): the core, the command, the key of its request, and the key of the table's
base. -/
structure PoolJob where
  core : Nat
  cmd : Cmd
  key : Nat
  table : Nat
  deriving DecidableEq, Repr

/-- A piece of a HOST_COPY between its head core, the PCIe endpoint and the home of its bytes (R50, R109): the module of the command, its
key, the home key, the bus address, the length, the direction, and its bytes once they have been read. -/
structure HostMove where
  m : Nat
  key : Nat
  home : Nat
  host : Nat
  n : Nat
  toHost : Bool
  data : Option (List Byte) := none
  deriving DecidableEq, Repr

/-- What a traveller carries (R42, R423). -/
inductive Payload where
  | context (t : Thread) (c : Option Carried) (back : Option TurnedBack)
  /-- a context that returns parked by a page fault met while met (R219): address, class, kind -/
  | faulted (t : Thread) (va : Word) (cls kind : Nat)
  | party (p : Party)
  /-- a party that returns with a status (R215, R219), or departs by `part` with its luggage (R218) -/
  | partyReturn (p : Party) (status : Option Nat) (writes : Bool)
  /-- the luggage of a `partgo` party on its way to its origin; the party waits at `to` for thread `tid` -/
  | luggageWrite (la : Nat) (luggage : List Byte) (dest : Nat) (tid : BitVec 32)
  | luggageAck (tid : BitVec 32)
  /-- a notice; a grain-fault or copy-fault notice lets its decrement follow its delivery (R143, R144) -/
  | notice (mb : Nat) (w : Word) (after : Option Decrement)
  /-- an account increment: launch, amount, open copy, and the hold it releases -/
  | increment (launch : Nat) (k : Nat) (copy : Bool) (hold : Nat)
  | incAck (hold : Nat)
  | decrement (d : Decrement)
  | quit (seat : Nat) (tid : BitVec 32)
  | wake (mb : Nat) (w : Word)
  /-- the copy form of `wake`: command id and abandon (R232) -/
  | wakeCopy (id : Nat) (abandon : Bool)
  | spawn (x0 x1 x2 x3 entry : Word) (deadline : Nat) (parent : Thread) (slot : Nat)
  /-- the reply to a spawner: its slot, the status, the new thread, and the spawner's own id -/
  | spawnReply (slot : Nat) (status : Nat) (tid who : BitVec 32)
  | probe
  | stolen (e : QEntry)
  | emptyReply
  | seeded (r : Rec)
  | forkChild (r : Rec)
  | task (home : Nat) (va : Word) (prio : Nat) (launch parent : Word)
  /-- an entry that a commit pushes at a home (R145) -/
  | push (prio : Nat) (e : QEntry)
  /-- barrier signals: scope, number, partition number -/
  | barArrive (scope n part count : Nat)
  | barRelease (scope n part : Nat) (gen : BitVec 16)
  | barSet (scope n part count slot : Nat)
  /-- copy data, or an engine write, for a core whose context is switched out (R235) -/
  | copyData (id : Nat) (w : PWrite)
  /-- a read of a distant source, on its way from home to home and back to its core -/
  | copyRead (r : FarRead)
  /-- a memory item of a commit on its way to its home: seat and log number (R145) -/
  | commitItem (seat i : Nat) (e : MemLog)
  /-- a pool: the bags of its block, each row with its weight, to the hub slice; a buffer's share; a buffer's sums; and the result, with
  whether it saturated, and an error (R68, R415) -/
  | poolAsk (j : PoolJob) (bags : List (List (Nat × Option Nat)))
  | poolShare (j : PoolJob) (bags : List (List (Nat × Option Nat)))
  | poolPart (j : PoolJob) (sums : List BagSum)
  | poolSum (id key : Nat) (words : List (List Byte)) (bad sat : Bool) (error : Option Nat)
  /-- the take of a bin at its home: the key of the request and of the page; and the records taken (R419) -/
  | binAsk (id key page : Nat) (va : Word)
  | binTaken (id key : Nat) (records : List Word) (lost : Bool) (error : Option (Nat × Word))
  | hostMove (x : HostMove)
  /-- the ring of the bell tree: the partition and the stop edge (R238) -/
  | bell (p edge : Nat)
  /-- bytes of a census record for a home key (R253) -/
  | census (home : Nat) (l : List Byte)
  | latch (l : Latch)
  | grant (district allow : Nat)
  deriving DecidableEq, Repr

/-- A traveller: source, destination, virtual channel, context tag, partition number (R43, R95, R233), and what it carries; then where
it stands on its way. -/
structure Traveller where
  src : Nat
  dst : Nat
  vc : Nat
  tag : BitVec 16 := 0
  part : Nat := 0
  load : Payload
  /-- the capacity port that it crosses at its destination's edge quad (R50, R65) -/
  port : Option Nat := none
  /-- the model's own: its number, by which a packet names it -/
  key : Nat := 0
  /-- the core beside whose router it stands: where its way through this module's mesh began, or how far it had come when a die of the
  module stopped (R194) -/
  stands : Nat := 0
  /-- it stands in packets of a link (module, link) -/
  link : Option (Nat × Nat) := none
  /-- bytes of it that earlier packets of the link have taken (R53) -/
  cut : Nat := 0
  /-- it has crossed its capacity link; or it comes from the buffer of its port, and has still to cross -/
  atBuffer : Bool := false
  fromBuffer : Bool := false
  deriving DecidableEq, Repr

/-- What an acknowledged increment releases (R142). -/
inductive Release where
  | pushTail (prio : Nat) (e : QEntry)
  | pushHead (prio : Nat) (e : QEntry)
  | send (t : Traveller)
  | copy
  deriving DecidableEq, Repr

/-- An increment that has left its core and is not acknowledged. -/
structure Hold where
  key : Nat
  /-- the thread that caused it, if one did -/
  who : Option (BitVec 32)
  releases : List Release
  deriving DecidableEq, Repr

/-- An entry of a core's held table (R213, R235): tag, buffer address, its home, its length, arrivals held, the bytes they take, and
whether the first marker has been sent. -/
structure Held where
  tag : BitVec 16
  buffer : Word
  home : Nat
  length : Nat
  arrivals : List Traveller := []
  used : Nat := 0
  told : Bool := false
  deriving DecidableEq, Repr

/-! ## Cores -/

/-- A seat of the task table (R128, R131, R132, R137, R138, R145). -/
structure Seat where
  image : Rec := {}
  /-- 0 free, 1 seated, 2 committing, 3 aborting -/
  state : Nat := 0
  /-- the step of R139 or R145 in progress -/
  step : Nat := 0
  frame : Word := 0
  task : Word := 0
  live : Nat := 0
  /-- the threads that count, by id -/
  tids : List (BitVec 32) := []
  founder : Nat := 0
  founderTid : BitVec 32 := 0
  /-- threads parked on page faults -/
  parked : Nat := 0
  scratchBase : Nat := 0
  scratchUnits : Nat := 0
  /-- the core on which the scratch lies: a plain task keeps its scratch when it is dispatched again elsewhere (R131) -/
  scratchCore : Nat := 0
  logEnd : Nat := 0
  lowRes : Nat := 0
  prdl : Word := 0
  memLog : List (Nat × MemLog) := []
  cmdLog : List (Nat × Cmd) := []
  /-- where each item of the log lies: log number, offset from the scratch base, and bytes -/
  logAt : List (Nat × Nat × Nat) := []
  /-- log numbers of memory items on their way to their homes (R145) -/
  away : List Nat := []
  /-- items logged so far, and items performed in the commit -/
  logged : Nat := 0
  done : Nat := 0
  /-- `done` has issued: no budget applies -/
  finishing : Bool := false
  /-- the retirement decrement waits for the task's store buffers -/
  retiring : Bool := false
  /-- ids of the commands its threads had accepted -/
  cmdIds : List Nat := []
  /-- the task was dispatched from a `yield` frame (R133, R247) -/
  resumed : Bool := false
  deriving DecidableEq, Repr

/-- A mailbox (R205, R206): the FIFO, its overflow ring (head position and count), and its binding. -/
structure Mailbox where
  fifo : List Word := []
  ringHead : Nat := 0
  ringCount : Nat := 0
  bound : Option QEntry := none
  deriving DecidableEq, Repr

/-- An item of the overflow part of a priority list, or a spilled context in ring 0 (R125, R127, R212): its ring position, what no
byte of the ring holds, and, for a context, the traveller itself. -/
structure Spill where
  pos : Nat
  x0 : Word := 0
  context : Option Traveller := none
  deriving DecidableEq, Repr

/-- The overflow ring of one priority. -/
structure Ring where
  next : Nat := 0
  items : List Spill := []
  deriving DecidableEq, Repr

/-- A store-buffer entry (R178): the slot, the home key and the bytes. -/
structure StoreEntry where
  slot : Nat
  home : Nat
  bytes : List Byte
  /-- the thread that stored it, once that has left the slot (R132) -/
  owner : Option (BitVec 32) := none
  deriving DecidableEq, Repr

/-- A translation held in a TLB (R170). -/
structure TlbEntry where
  part : Nat
  asid : Nat
  glob : Bool
  /-- virtual page number in units of 64 KiB, and the page's size in such units -/
  vpn : Nat
  size : Nat
  pa : Nat
  u : Bool
  x : Bool
  w : Bool
  r : Bool
  deriving DecidableEq, Repr

/-- The arrival and generation state of a barrier (R366). -/
structure Barrier where
  count : Nat := 0
  arrived : Nat := 0
  gen : BitVec 16 := 0
  deriving DecidableEq, Repr

/-- The steal state of a core (R147, R149). -/
inductive Steal where
  | busy
  | probing (next : Nat)
  | waiting
  deriving DecidableEq, Repr

/-- The stop record of a core (R239): `cyc`, T, and the traveller counts; of core 0 of a quad, the router record as well: travellers in
the router on VC0 to VC2, accepted onto the quad's links, and delivered from them. -/
structure StopRecord where
  cyc : Word := 0
  edge : Word := 0
  departed : List Nat := [0, 0, 0]
  arrived : List Nat := [0, 0, 0]
  router : List Nat := []
  deriving DecidableEq, Repr

/-- A core: a compute core, or a head core (R88), which leaves the parts it does not have unused. -/
structure Core where
  slots : Tbl Slot := []
  -- special registers of the core (R309)
  lmsplitCom : Nat := 0
  lmsplitCache : Nat := 0
  qgroup : Word := 0
  win0 : Word := 0
  win1 : Word := 0
  spool : Word := 0
  qovf : Word := 0
  mbovf : Word := 0
  mbie : Word := 0
  tcmp : Word := 0
  mbLost : BitVec 16 := 0
  mbOvf : BitVec 16 := 0
  ivec : Word := 0
  ivslot : Word := 0
  upv : Word := 0
  asid : Word := 0
  ptbase : Word := 0
  dumpa : Word := 0
  smpc : Word := 0
  dbgh : Word := 0
  ctxid : BitVec 16 := 1
  -- mailboxes, queues, tasks
  mailboxes : Tbl Mailbox := []
  arrivals : List Traveller := []
  /-- the queue parts Q_0 to Q_3 -/
  q0 : List QEntry := []
  q1 : List QEntry := []
  q2 : List QEntry := []
  q3 : List QEntry := []
  rings : Tbl Ring := []
  ring4Next : Nat := 0
  ring5Next : Nat := 0
  /-- the fairness counters c_0 to c_3 (R129) -/
  fair : List Nat := [0, 0, 0, 0]
  seats : Tbl Seat := []
  /-- the model's own: what a yielded task keeps, by scratch base for a split task and by frame for a plain one (R131, R133) -/
  yielded : Tbl Seat := []
  /-- the scratch-pool map: allocated 256-byte units (R131) -/
  scratch : List Nat := []
  steal : Steal := .busy
  /-- cycles of the idle count, and of a thief's wait (R147) -/
  idleFor : Nat := 0
  waited : Nat := 0
  /-- claimed by a `fork` whose child has not arrived (R150) -/
  claimed : Bool := false
  holds : List Hold := []
  nextHold : Nat := 0
  /-- threads that count as quit, whose quit notices wait for their buffers and increments (R132, R227): slot and thread -/
  leaving : List (Nat × Thread) := []
  held : List Held := []
  /-- park records and copy-fault records in use (R228, R231) -/
  parkUsed : List Nat := []
  faultUsed : List Nat := []
  /-- the model's own: the threads parked in records, by record number -/
  parked : Tbl Thread := []
  barriers : Tbl Barrier := []
  -- memory system
  buffer : List StoreEntry := []
  loopq : List (Nat × Access) := []
  dtlb : List TlbEntry := []
  itlb : List TlbEntry := []
  /-- lines of the instruction cache: physical line number and its words (R204) -/
  icache : Tbl (List (BitVec 32)) := []
  /-- `tlbinv` completed in its whole scope for the slot -/
  invDone : List Nat := []
  -- engines
  copyRegs : List Word := [0, 0, 0, 1, 0, 0, 1, 16, 0, 0, 0, 0]
  vecRegs : List Word := [0, 1, 1, 1, 0, 0, 0, 0, 0, 0, 0, 0, 0]
  matRegs : List Word := [0, 0, 0, 0, 0, 0, 0, 0]
  poolRegs : List Word := [0, 0, 0, 0, 0, 0, 16, 0]
  binRegs : List Word := [0, 0, 0, 0, 0, 16, 0]
  cmdCount : Nat := 0
  /-- accepted commands not yet complete, in acceptance order; a copy-engine command is queued until started -/
  cmds : List Cmd := []
  subs : List Subscription := []
  streams : List Stream := []
  tab0 : List Nat := List.replicate 256 0
  tab1 : List Nat := List.replicate 256 0
  acc : List AccTile := List.replicate 4 {}
  working : Option Latch := none
  incoming : Option Latch := none
  -- reliability
  lost : Bool := false
  /-- stopped by the bell tree (R238), by a test gap (R251), or by `ctxsv` of another slot (R234) -/
  stopped : Bool := false
  stop : Option StopRecord := none
  departed : List Nat := [0, 0, 0]
  arrived : List Nat := [0, 0, 0]
  /-- running cycles, the count c of R198, and the cycle in which a slot last had its turn -/
  cycle : Nat := 0
  lastTurn : Option Nat := none
  issued : Nat := 0
  smpNext : Nat := 0
  /-- sample and trace records about to be written (R254): ip, slot, event -/
  samples : List (Word × Nat × Nat) := []
  /-- the slot that runs `ctxsv` or `ctxrs`: no other slot issues -/
  switching : Option Nat := none
  deriving DecidableEq, Repr

/-! ## Quads, dies, links -/

/-- The state of a cloakroom entry (R215, R216). -/
inductive CloakState where
  | waiting
  | matched (partner : Nat)
  /-- the pair is placed: the core, the slot, and the partner's entry and slot -/
  | placed (core slot partner partnerSlot : Nat)
  deriving DecidableEq, Repr

/-- A cloakroom entry in use; `order` is the arrival order, and `pair` the order in which pairs were matched. -/
structure CloakEntry where
  party : Party
  state : CloakState := .waiting
  order : Nat := 0
  pair : Nat := 0
  first : Bool := true
  /-- from its placement on, the met thread, until it enters its slot: `met` set and xd 0 (R216) -/
  met : Option Thread := none
  deriving DecidableEq, Repr

/-- A quad: its cloakroom, its barriers, its second-level TLB, and its spare use. -/
structure Quad where
  cloak : Tbl CloakEntry := []
  barriers : Tbl Barrier := []
  tlb : List TlbEntry := []
  /-- misses of the second level that stand with its walkers and in its miss queue: core, address, and whether it is a fetch (R170) -/
  misses : List (Nat × Nat × Bool) := []
  /-- rows and banks remapped in its column (R81): (layer, bank, row) -/
  remaps : List (Nat × Nat × Option Nat) := []
  /-- corrected reads of its column, the trend on which firmware brings in spares (R244) -/
  corrected : Nat := 0
  remapping : Option (Nat × Nat × Option Nat) := none
  /-- by partition, travellers accepted onto, and delivered from, the quad's links (R239) -/
  linkOut : Tbl Nat := []
  linkIn : Tbl Nat := []
  deriving DecidableEq, Repr

/-- A die: its clock, temperature and spares (R69 to R76). -/
structure Die where
  /-- clock state: 0 = 2.4, 1 = 1.8, 2 = 1.2, 3 = 0.6 GHz -/
  clock : Nat := 0
  /-- the state last set by POWER_SET; before any, 2.4 GHz (DESIGN CHOICE, log 99) -/
  wanted : Nat := 0
  /-- `cyc` at `since` (ticks) -/
  cycBase : Nat := 0
  since : Nat := 0
  /-- a relock in progress: the new state and the tick of its end -/
  relock : Option (Nat × Nat) := none
  heldTarget : Option Nat := none
  temp : Nat := 0
  /-- tick from which the die has stayed above 95, and below 90, degrees -/
  hotSince : Option Nat := none
  coolSince : Option Nat := none
  /-- doubled refresh of its columns (R41) -/
  refresh : Bool := false
  allowHalved : Bool := false
  censusSeq : Nat := 0
  censusLast : Nat := 0
  /-- `cyc` at the last census record -/
  censusCyc : Nat := 0
  /-- head cores that passed self-test: physical number of heads 0 and 1 (R83, R97) -/
  heads : List Nat := [0, 1]
  deriving DecidableEq, Repr

/-- A district: its allowance, throttle and in-field test (R73, R251, R252). Before its first grant its allowance is the full rate
(DESIGN CHOICE, log 99). -/
structure District where
  allow : Nat := 64
  throttled : Bool := false
  fenced : Bool := false
  /-- pattern index, tick of the last slice, and the running slice: its start, and whether its gap was forced -/
  pattern : Nat := 0
  lastSlice : Nat := 0
  slice : Option (Nat × Bool) := none
  /-- `ref` at the end of the last passing slice of each pattern -/
  passed : Tbl Nat := []
  /-- a retirement whose column copies run (R79): die, physical column, row -/
  moving : Option (Nat × Nat × Nat) := none
  deriving DecidableEq, Repr

/-- A flit of a link: the fields of its header word, and its 64 payload bytes (R52). -/
structure LinkFlit where
  seq : Nat := 0
  fidx : Nat := 0
  last : Bool := true
  tc : Nat := 0
  /-- 0 packet flit; 1 acknowledgement; 2 replay request; 3 idle; 4 training -/
  kind : Nat := 0
  strm : Nat := 0
  payload : List Byte := []
  crc : BitVec 32 := 0
  deriving DecidableEq, Repr

/-- A packet (R53): its class and number, its stream on class 1, the travellers in it by key, and the bytes that it carries. A copy's
descriptor is a packet of class 2 that names a stream and the copy's command id. -/
structure Packet where
  cls : Nat
  seq : Nat
  strm : Nat := 0
  opens : Option Nat := none
  travellers : List Nat := []
  payload : List Byte := []
  deriving DecidableEq, Repr

/-- One direction of a link (R51 to R60): lanes, and the protocol of the sender or the receiver. -/
structure LinkDir where
  /-- failed lane numbers that the spare does not cover -/
  failed : List Nat := []
  /-- the lane number for which the spare stands in -/
  spare : Option Nat := none
  width : Nat := 16
  first : Nat := 0
  retraining : Bool := false
  /-- the retraining is one that the monitor began on a down direction, or after repair: its success is a restoration (R60, R61) -/
  restoring : Bool := false
  /-- tick of the last failure of the retraining, the last failing lane, and the events (event, lane) that its end reports (R61) -/
  since : Nat := 0
  lane : Nat := 0
  events : List (Nat × Nat) := []
  tries : Nat := 0
  down : Bool := false
  /-- held down by the monitor: the far module's id is not distinct (R62) -/
  barred : Bool := false
  -- sender: next sequence number per class, replay buffer, packets to resend, streams (number, command id)
  nextSeq : List Nat := [0, 0, 0, 0]
  replay : List Packet := []
  resend : List Packet := []
  streams : List (Nat × Nat) := []
  -- receiver: last in-order number per class plus one, whether the class has one, flits of the packet in progress, classes awaiting a
  -- replay, packets since the last acknowledgement, streams whose descriptor has arrived, and travellers held for a descriptor
  expected : List Nat := [0, 0, 0, 0]
  valid : List Bool := [false, false, false, false]
  got : List Nat := [0, 0, 0, 0]
  discarding : List Nat := []
  unacked : Nat := 0
  oldest : Option Nat := none
  /-- tick of the last replay request, which goes again while its replay has not come (R56) -/
  requested : Nat := 0
  crcErrors : Nat := 0
  opened : List (Nat × Nat) := []
  waiting : List (Nat × Nat) := []
  /-- flits on the wire toward the receiver -/
  wire : List LinkFlit := []
  /-- acknowledgements and replay requests on the way to the sender -/
  acks : List LinkFlit := []
  requests : List LinkFlit := []
  sent : List Nat := [0, 0, 0, 0]
  replayed : List Nat := [0, 0, 0, 0]
  deriving DecidableEq, Repr

/-- A link: the transmit side and the receive side of this module. -/
structure Link where
  tx : LinkDir := {}
  rx : LinkDir := {}
  deriving DecidableEq, Repr

/-- A capacity channel's spare rank (R84). -/
structure Channel where
  copying : Option Nat := none
  replaced : Option Nat := none
  deriving DecidableEq, Repr

/-! ## Partitions, host interface -/

/-- Partition states (R96). -/
inductive PState where
  | absent | created | loaded | running | stopped | halted
  deriving DecidableEq, Repr

/-- A launch account (R142, R115). -/
structure Account where
  launch : Nat
  count : Nat := 0
  copies : Nat := 0
  copyFaults : Nat := 0
  grainFaults : Nat := 0
  /-- the window slot to complete: function and slot -/
  fn : Nat := 0
  slot : Nat := 0
  control : Word := 0
  word : Word := 0
  /-- the record from which the launch is seeded: the template with the launch's domain, id, priority and parent -/
  record : Rec := {}
  seeded : Bool := false
  deriving DecidableEq, Repr

/-- A fatal fault (R241, R242): what its fault record holds. -/
structure FaultRec where
  /-- its dump's sequence number -/
  seq : Nat := 0
  ecause : Word := 0
  kind : Nat := 0
  eip : Word := 0
  eaddr : Word := 0
  ref : Word := 0
  cyc : Word := 0
  core : Nat := 0
  thread : Thread := {}
  tag : BitVec 16 := 0
  /-- the faulting core as it stood, +64 to +3,135 of a save record, and its first 10 KiB -/
  image : List Byte := []
  deriving DecidableEq, Repr

/-- A dump being written (R242, R243). -/
structure DumpJob where
  seq : Nat
  fault : FaultRec
  secondary : List FaultRec := []
  more : Nat := 0
  lostBefore : Nat := 0
  /-- a fatal fault struck the supervisor core while it wrote (R243) -/
  broken : Bool := false
  deriving DecidableEq, Repr

/-- A partition (R92 to R100). -/
structure Part where
  state : PState := .absent
  districts : List Nat := []
  head : Nat := 0
  supervisor : Nat := 0
  linkMb : Nat := 0
  memKey : Nat := 0
  integKey : Nat := 0
  owner : List Byte := []
  floor : Nat := 0
  created : List Byte := []
  -- image (R98, R99)
  header : List Byte := []
  version : Nat := 0
  entry : Word := 0
  /-- the local sections kept for BOOT: (address, bytes), and the bytes of `.cdata` -/
  localSections : List (Nat × List Byte) := []
  cdata : List Byte := []
  ptRoot : Nat := 0
  m2 : List Byte := []
  m3 : List Byte := []
  accounts : List Account := []
  nextLaunch : Nat := 1
  /-- the stop edge T of a STOP under way (R238), in ns -/
  edge : Option Nat := none
  stopFn : Option (Nat × Nat) := none
  /-- the reference edge, in ns, from which its cores issue after a RESUME (R238) -/
  issueFrom : Nat := 0
  -- dumps (R240 to R243)
  dumpSeq : Nat := 0
  dumping : Option DumpJob := none
  dumpQueue : List FaultRec := []
  dumpLost : Nat := 0
  dumpNext : Nat := 0
  dumpCount : Nat := 0
  -- barriers: roots of the die, pkg and pod scopes, and the copies of their generations
  bars : Tbl Barrier := []
  copies : Tbl (BitVec 16) := []
  deriving DecidableEq, Repr

/-- What a command that has run writes back (R104): returned arguments (number, value), the result where the spec gives one, and the
status code. -/
structure HostResult where
  args : List (Nat × Word) := []
  result : Option Word := none
  code : Nat := 0
  deriving DecidableEq, Repr

/-- An accepted command (R104): its 16 words, the order of acceptance, the bytes a HOST_COPY has performed, and its outcome. -/
structure HostCmd where
  words : List Word := []
  order : Nat := 0
  started : Bool := false
  done : Nat := 0
  /-- suspended by a STOP (R108) -/
  suspended : Bool := false
  /-- the piece of a HOST_COPY that is on its way, and the status that its last piece has given it -/
  moving : Option HostMove := none
  failed : Option Nat := none
  outcome : Option HostResult := none
  deriving DecidableEq, Repr

/-- A PCIe function's command window (R102 to R104). -/
structure Func where
  /-- slot words, 16 per slot, by slot number × 16 + word -/
  words : Tbl Word := []
  /-- posted slots in the order of their `go` writes -/
  posted : List Nat := []
  dblerr : Bool := false
  fwfault : Bool := false
  ready : Bool := false
  /-- the MSI-X table of BAR2, two words a vector: address, then data with the mask bit at 32; a word not listed is as at reset
  (R102; PRESUMED, log 103), and the vectors that are pending behind their mask -/
  vectors : Tbl Word := []
  pending : List Nat := []
  /-- the monitor's copies of accepted slots, by slot; a function-level reset moves them to keys from 64 on, which write nothing back -/
  accepted : Tbl HostCmd := []
  deriving DecidableEq, Repr

/-- A module (R36, R62, R63, R74, R97, R253). -/
structure Module where
  bootstep : Nat := 0
  resetAt : Nat := 0
  routes : Tbl Nat := []
  /-- the cabling: outgoing link to (module, link) (R63) -/
  cables : Tbl (Nat × Nat) := []
  links : Tbl Link := []
  channels : Tbl Channel := []
  funcs : Tbl Func := []
  parts : Tbl Part := []
  districts : Tbl District := []
  dies : Tbl Die := []
  limit : Nat := 4500
  /-- POWER_SET commands that wait for the last relock: function and slot -/
  powerWait : List (Nat × Nat) := []
  lastGrant : Nat := 0
  -- census (R253)
  census : Bool := false
  censusPart : Nat := 0
  censusBase : Word := 0
  censusLen : Nat := 0
  /-- flits sent while the census is on, by quad × 16 + port × 4 + channel, with ports N, E, S, W as 0 to 3 -/
  flits : Tbl Nat := []
  m0 : List Byte := []
  m1 : List Byte := []
  /-- links whose far module's id is not distinct, as the monitor found at link training (R62) -/
  clashes : List Nat := []
  /-- pools at the module's hub slices: each with the buffers' answers so far, in the order in which they came (R68) -/
  hub : List (PoolJob × List (List BagSum)) := []
  /-- MSI-X messages sent: (function, vector), oldest first -/
  msix : List (Nat × Nat) := []
  /-- suspect intervals kept for HEALTH (R252): district, last pass, failure -/
  suspects : List (Nat × Nat × Nat) := []
  remapTotal : Nat := 0
  /-- retired quad sites (R78): die, physical column, row -/
  sites : List (Nat × Nat × Nat) := []
  deriving DecidableEq, Repr

/-! ## The schedule and the whole state -/

/-- The arguments of an event: where it happens, and what the environment supplies. -/
structure Args where
  m : Nat := 0
  c : Nat := 0
  k : Nat := 0
  n : Nat := 0
  fn : Nat := 0
  slot : Nat := 0
  part : Nat := 0
  launch : Nat := 0
  die : Nat := 0
  district : Nat := 0
  quad : Nat := 0
  entry : Nat := 0
  link : Nat := 0
  side : LinkSide := .tx
  lane : Nat := 0
  cls : Nat := 0
  temp : Nat := 0
  draw : Nat := 0
  allow : List Nat := []
  channel : Nat := 0
  rank : Nat := 0
  layer : Nat := 0
  bank : Nat := 0
  row : Option Nat := none
  seat : Nat := 0
  id : Nat := 0
  pos : Nat := 0
  len : Nat := 0
  idx : Nat := 0
  mb : Nat := 0
  ok : Bool := true
  /-- a flit arrives damaged -/
  damaged : Bool := false
  site : Option (Nat × Nat) := none
  /-- what link training finds: (own link, far module, far link); the links whose far module's id is not distinct; and the route table
  that the monitor writes: (module, link) -/
  cabling : List (Nat × Nat × Nat) := []
  equalIds : List Nat := []
  routes : List (Nat × Nat) := []
  va : Word := 0
  fetch : Bool := false
  v : Word := 0
  reg : RegName := .special 0
  file : EngineFile := .copy
  engine : Engine := .copy
  deriving DecidableEq, Repr

/-- One turn of the schedule: which agent moves next. -/
inductive Turn where
  /-- slot `k` of core `c` has its turn -/
  | issue (c k : Nat)
  /-- an event of the opcode table happens, with its arguments -/
  | event (i : Instr) (a : Args)
  /-- `n` ticks of 5/36 ns pass -/
  | clock (n : Nat)
  /-- the host writes an 8-byte word of a function: (module, function, offset, value), in BAR0 below offset 2^16, and in BAR2 from there
  (R102, R103) -/
  | hostWrite (m fn off : Nat) (v : Word)
  deriving DecidableEq, Repr

/-- The whole machine: a pod of modules. -/
structure State where
  /-- every byte of every home, by home key: rising keys, no byte 0 (DESIGN CHOICE, log 1) -/
  mem : List Host.Cell := []
  /-- full words of local memory, by home key divided by 4: rising (R175) -/
  full : List Nat := []
  /-- media errors: home keys of bad 4-byte words divided by 4 (R244) -/
  bad : List Nat := []
  /-- sectors whose integrity tag does not match, by home key divided by 64 (R244) -/
  untagged : List Nat := []
  /-- sectors of stacked DRAM whose stored bits ECC corrects, by home key divided by 64 (R244) -/
  soft : List Nat := []
  /-- lines held dirty in a cache portion: line number and the bytes that the DRAM holds (R164, R337) -/
  dirty : Tbl (List Byte) := []
  /-- host memory, by bus address -/
  host : List Host.Cell := []
  cores : Tbl Core := []
  /-- the model's own: what a switched-out context has beside its save record, by core id × 2^16 + tag (DESIGN CHOICE, log 11) -/
  saved : Tbl Core := []
  quads : Tbl Quad := []
  modules : Tbl Module := []
  /-- travellers on their way, in the order in which they left -/
  net : List Traveller := []
  /-- ticks of 5/36 ns since the first module reset: 3 ticks per cycle at 2.4 GHz, 72 per 10 ns -/
  now : Nat := 0
  /-- the order stamp of waits and arrivals -/
  stamp : Nat := 0
  /-- the model's own: how many free values have been used (DESIGN CHOICE, log 3) -/
  free : Nat := 0
  /-- the model's own: the slot in its turn (core, slot), and the word in issue -/
  cur : Nat × Nat := (0, 0)
  ir : BitVec 32 := 0
  /-- the model's own: the arguments of the event that happens -/
  args : Args := {}
  /-- the model's own: the turns that come next (DESIGN CHOICE, log 2) -/
  sched : List Turn := []
  /-- the model's own: the rotation that is followed when no turn is given -/
  rotor : Nat := 0
  deriving DecidableEq, Repr

/-- Right after reset: module 0 is about to run MODULE_RESET, no partition exists, no core holds a thread, and every register has the
reset value of the spec or of the log. -/
def State.reset : State := { sched := [.event .moduleReset {}] }

end Sys2Proof.Machine
end

