-- ==== Sys2Proof/Machine/Memory.lean ====
section
/-! DEFINITION. Bytes at their homes: the canonical memory list, byte order, full/empty bits, and the home keys of every kind of
memory (R2, R8, R161, R175). -/
namespace Sys2Proof.Machine

/-! ## The canonical list of bytes -/

/-- The byte at a key; an unlisted byte reads 0 (DESIGN CHOICE, log 1). -/
def Memory.read : List Host.Cell → Nat → Byte
  | [], _ => 0
  | (b, w) :: t, a => if b = a then w else Memory.read t a

/-- The list with byte `v` at key `a`: keys rising, no byte 0 listed. -/
def Memory.write : List Host.Cell → Nat → Byte → List Host.Cell
  | [], a, v => if v = 0 then [] else [(a, v)]
  | (b, w) :: t, a, v =>
    if b = a then (if v = 0 then Memory.write t a 0 else (a, v) :: t)
    else if a < b ∧ v ≠ 0 then (a, v) :: (b, w) :: t
    else (b, w) :: Memory.write t a v

/-- The canonical form: every key is above `low`, keys rise, no byte is 0. -/
def Memory.wfFrom : Nat → List Host.Cell → Bool
  | _, [] => true
  | low, (b, w) :: t => decide (low ≤ b) && decide (w ≠ 0) && Memory.wfFrom (b + 1) t

/-- The canonical form of a memory. -/
def Memory.wf (m : List Host.Cell) : Bool := Memory.wfFrom 0 m

/-- `n` bytes from key `a` upward. -/
def Memory.readList (m : List Host.Cell) (a : Nat) : Nat → List Byte
  | 0 => []
  | n + 1 => Memory.read m a :: Memory.readList m (a + 1) n

/-- Bytes written from key `a` upward. -/
def Memory.writeList (m : List Host.Cell) (a : Nat) : List Byte → List Host.Cell
  | [] => m
  | b :: bs => Memory.writeList (Memory.write m a b) (a + 1) bs

/-! ## Byte order (R8) -/

/-- Little-endian bytes as a number. -/
def ofBytes : List Byte → Nat
  | [] => 0
  | b :: bs => b.toNat + 256 * ofBytes bs

/-- The low `n` bytes of a number, little-endian. -/
def toBytes (v : Nat) : Nat → List Byte
  | 0 => []
  | n + 1 => BitVec.ofNat 8 v :: toBytes (v / 256) n

/-- Little-endian bytes as words of 8. -/
def wordsOf : List Byte → List Word
  | b0 :: b1 :: b2 :: b3 :: b4 :: b5 :: b6 :: b7 :: rest =>
    BitVec.ofNat 64 (ofBytes [b0, b1, b2, b3, b4, b5, b6, b7]) :: wordsOf rest
  | _ => []

/-- Words as their little-endian bytes. -/
def bytesOf : List Word → List Byte
  | [] => []
  | w :: ws => toBytes w.toNat 8 ++ bytesOf ws

/-- Bits [hi:lo] of a word, as a number. -/
def bits (w : Word) (hi lo : Nat) : Nat := w.toNat / 2 ^ lo % 2 ^ (hi + 1 - lo)

/-- Bit `i` of a word. -/
def bit (w : Word) (i : Nat) : Bool := w.getLsbD i

/-- A number's low `n` bits, sign-extended to 64 bits. -/
def sext (n : Nat) (v : Nat) : Word := (BitVec.ofNat n v).signExtend 64

/-- A number sign-extended from `n` bits, as an integer. -/
def sextInt (n : Nat) (v : Nat) : Int := (BitVec.ofNat n v).toInt

/-- Text of bits [hi:lo] of a word replaced. -/
def setBits (w : Word) (hi lo v : Nat) : Word :=
  BitVec.ofNat 64 (w.toNat - bits w hi lo * 2 ^ lo + v % 2 ^ (hi + 1 - lo) * 2 ^ lo)

/-! ## Sets of words, kept rising -/

/-- Adds a number to a rising list. -/
def insertNat : List Nat → Nat → List Nat
  | [], a => [a]
  | b :: t, a => if b = a then b :: t else if a < b then a :: b :: t else b :: insertNat t a

/-- Removes a number from a list. -/
def eraseNat (l : List Nat) (a : Nat) : List Nat := l.filter (fun b => b != a)

/-! ## Home keys

Space 0 and space 1 bytes have their physical address as key. Local memory has its space 2 address (R161); commons bytes stand in
their contributor's local memory (R163). Head-core local memory and the cloakrooms, which no physical address of R161 names, have keys
from 2^52 and 2^53. -/

/-- A head core's id (R89). -/
def isHead (c : Nat) : Bool := 2 ^ 24 ≤ c

/-- The module of a core id (R160). -/
def moduleOf (c : Nat) : Nat := c / 2 ^ 16 % 256

/-- The die of a core id. -/
def dieOf (c : Nat) : Nat := c / 2 ^ 13 % 8

/-- The quad field of a core id. -/
def quadField (c : Nat) : Nat := c / 4 % 2048

/-- The number of a core within its quad. -/
def coreInQuad (c : Nat) : Nat := c % 4

/-- A quad's number in the pod: the core id without its two low bits. -/
def quadOf (c : Nat) : Nat := c % 2 ^ 24 / 4

/-- The core id of core `i` of a quad. -/
def coreOfQuad (q i : Nat) : Nat := q * 4 + i

/-- A core id from its parts. -/
def coreId (m die quad i : Nat) : Nat := m * 2 ^ 16 + die * 2 ^ 13 + quad * 4 + i

/-- A head core's extended id (R89). -/
def headId (m die n : Nat) : Nat := 2 ^ 24 + m * 2 ^ 16 + die * 2 ^ 13 + n

/-- The physical address of a byte of stacked bulk memory: space 0 (R161). -/
def bulkPa (q off : Nat) : Nat :=
  q / 2 ^ 14 * 2 ^ 44 + q / 2 ^ 11 % 8 * 2 ^ 36 + q % 2 ^ 11 * 2 ^ 25 + off

/-- The key of a byte of a core's local memory, or of a head core's. -/
def localKey (c off : Nat) : Nat :=
  if isHead c then 2 ^ 52 + (moduleOf c * 16 + dieOf c * 2 + c % 2) * 2 ^ 20 + off
  else moduleOf c * 2 ^ 44 + 2 * 2 ^ 42 + dieOf c * 2 ^ 36 + quadField c * 2 ^ 25 + coreInQuad c * 2 ^ 16 + off

/-- The key of a byte of a cloakroom entry's luggage. -/
def cloakKey (q entry off : Nat) : Nat := 2 ^ 53 + q * 2 ^ 14 + entry * 2 ^ 10 + off

/-- The space of a physical address (R161). -/
def spaceOf (pa : Nat) : Nat := pa / 2 ^ 42 % 4

/-- The key under which an access through another core's global window leaves: the byte's own key is settled at its target (R158). -/
def farKey (k : Nat) : Nat := 2 ^ 56 + k

/-- A key of an access through another core's global window. -/
def isFarKey (k : Nat) : Bool := 2 ^ 56 ≤ k && k < 2 ^ 57

/-- The byte's own key. -/
def nearKey (k : Nat) : Nat := if isFarKey k then k - 2 ^ 56 else k

/-- A key is a byte of a core's or head core's local memory. -/
def isLocalKey (k : Nat) : Bool := (2 ^ 52 ≤ k && k < 2 ^ 53) || (k < 2 ^ 52 && spaceOf k == 2)

/-- A key is a byte of stacked bulk memory. -/
def isBulkKey (k : Nat) : Bool := k < 2 ^ 52 && spaceOf k == 0

/-- The quad that a space 0 or space 2 address names. -/
def quadOfPa (pa : Nat) : Nat := pa / 2 ^ 44 % 256 * 2 ^ 14 + pa / 2 ^ 36 % 8 * 2 ^ 11 + pa / 2 ^ 25 % 2 ^ 11

/-- The core at which a key's byte is served (R159, R160): a local byte's core, or the core that bits [13:12] of a column offset
select. -/
def coreOfKey (k : Nat) : Nat :=
  if 2 ^ 52 ≤ k then headId (k % 2 ^ 52 / 2 ^ 24 % 256) (k % 2 ^ 52 / 2 ^ 21 % 8) (k % 2 ^ 52 / 2 ^ 20 % 2)
  else if spaceOf k = 2 then coreOfQuad (quadOfPa k) (k / 2 ^ 16 % 4)
  else coreOfQuad (quadOfPa k) (k / 2 ^ 12 % 4)

/-! ## Reads and writes of the state's memory -/

/-- The byte at a key. -/
def State.byte (s : State) (a : Nat) : Byte := Memory.read s.mem a

/-- `n` bytes at a key. -/
def State.bytes (s : State) (a n : Nat) : List Byte := Memory.readList s.mem a n

/-- An `n`-byte number at a key. -/
def State.num (s : State) (a n : Nat) : Nat := ofBytes (s.bytes a n)

/-- The 8-byte word at a key. -/
def State.word (s : State) (a : Nat) : Word := BitVec.ofNat 64 (s.num a 8)

/-- What ECC checks with bad word `w`, as key and length: its sector in stacked DRAM, elsewhere the word (R244). -/
def eccUnit (w : Nat) : Nat × Nat := if isBulkKey (w * 4) then (w * 4 / 64 * 64, 64) else (w * 4, 4)

/-- The state with bytes written at a key. A write that covers a whole bad word, or a whole sector, replaces the bad bits (R245). -/
def State.putBytes (s : State) (a : Nat) (bs : List Byte) : State :=
  { s with
    mem := Memory.writeList s.mem a bs
    bad := s.bad.filter (fun w => !(a ≤ (eccUnit w).1 && (eccUnit w).1 + (eccUnit w).2 ≤ a + bs.length))
    untagged := s.untagged.filter (fun t => !(a ≤ t * 64 && t * 64 + 64 ≤ a + bs.length))
    soft := s.soft.filter (fun t => !(a ≤ t * 64 && t * 64 + 64 ≤ a + bs.length)) }

/-- The word at index `w` (key / 4) is full. -/
def State.isFull (s : State) (w : Nat) : Bool := s.full.contains w

/-- Every word of [a, a + n) is full, or every one empty. -/
def State.allBits (s : State) (a n : Nat) (b : Bool) : Bool :=
  (List.range ((n + 3) / 4)).all (fun i => s.isFull (a / 4 + i) == b)

/-- Sets or clears the full bit of every word of [a, a + n). -/
def State.setFull (s : State) (a n : Nat) (b : Bool) : State :=
  let change := fun (f : List Nat) (i : Nat) => if b then insertNat f (a / 4 + i) else eraseNat f (a / 4 + i)
  { s with full := List.foldl change s.full (List.range ((n + 3) / 4)) }

/-- A read of [a, a + n) meets bad bits (R244). -/
def State.hasBad (s : State) (a n : Nat) : Bool :=
  s.bad.any (fun w => decide ((eccUnit w).1 < a + n) && decide (a < (eccUnit w).1 + (eccUnit w).2))

/-- The sectors of [a, a + n) that ECC corrects in a read. -/
def State.corrects (s : State) (a n : Nat) : Nat :=
  (s.soft.filter (fun t => decide (t * 64 < a + n) && decide (a < t * 64 + 64))).length

/-- Some sector of [a, a + n) has a tag that does not match (R244). -/
def State.hasUntagged (s : State) (a n : Nat) : Bool :=
  s.untagged.any (fun t => decide (t * 64 < a + n) && decide (a < t * 64 + 64))

end Sys2Proof.Machine
end

