-- ==== Sys2Proof/Machine/Ids.lean ====
section
/-! DEFINITION. Where the parts of the state stand: cores, slots, quads, dies, districts, modules and partitions, and the clocks. -/
namespace Sys2Proof.Machine

/-! ## Parts that nothing has touched

A part that a table does not list is as at reset. -/

/-- As at reset. -/
def Core.blank : Core := {}

/-- As at reset. -/
def Slot.blank : Slot := {}

/-- As at reset. -/
def Quad.blank : Quad := {}

/-- As at reset. -/
def Module.blank : Module := {}

/-- As at reset. -/
def Die.blank : Die := {}

/-- As at reset. -/
def District.blank : District := {}

/-- As at reset. -/
def Part.blank : Part := {}

/-- As at reset. -/
def Func.blank : Func := {}

/-- As at reset. -/
def Link.blank : Link := {}

/-- As at reset. -/
def Mailbox.blank : Mailbox := {}

/-- As at reset. -/
def Seat.blank : Seat := {}

/-! ## Parts of the state -/

/-- The core with an id; a core that nothing has touched is as at reset. -/
def State.core (s : State) (c : Nat) : Core := (s.cores.get c).getD Core.blank

/-- A core changed. -/
def State.modCore (s : State) (c : Nat) (f : Core → Core) : State := { s with cores := s.cores.set c (f (s.core c)) }

/-- A slot of a core. -/
def Core.slot (c : Core) (k : Nat) : Slot := (c.slots.get k).getD Slot.blank

/-- A core with a slot replaced. -/
def Core.putSlot (c : Core) (k : Nat) (v : Slot) : Core := { c with slots := c.slots.set k v }

/-- Slot `k` of core `c`. -/
def State.slot (s : State) (c k : Nat) : Slot := (s.core c).slot k

/-- A slot changed. -/
def State.modSlot (s : State) (c k : Nat) (f : Slot → Slot) : State :=
  s.modCore c (fun o => o.putSlot k (f (o.slot k)))

/-- A quad. -/
def State.quad (s : State) (q : Nat) : Quad := (s.quads.get q).getD Quad.blank

/-- A quad changed. -/
def State.modQuad (s : State) (q : Nat) (f : Quad → Quad) : State := { s with quads := s.quads.set q (f (s.quad q)) }

/-- A read of stacked DRAM: the sectors that ECC corrects count toward the spare trend of their column (R244). -/
def State.countRead (s : State) (a n : Nat) : State :=
  if !isBulkKey a || s.corrects a n = 0 then s
  else s.modQuad (quadOfPa a) (fun q => { q with corrected := q.corrected + s.corrects a n })

/-- A module. -/
def State.module (s : State) (m : Nat) : Module := (s.modules.get m).getD Module.blank

/-- A module changed. -/
def State.modModule (s : State) (m : Nat) (f : Module → Module) : State :=
  { s with modules := s.modules.set m (f (s.module m)) }

/-- A die of a module. -/
def State.die (s : State) (m d : Nat) : Die := ((s.module m).dies.get d).getD Die.blank

/-- A die changed. -/
def State.modDie (s : State) (m d : Nat) (f : Die → Die) : State :=
  s.modModule m (fun o => { o with dies := o.dies.set d (f (s.die m d)) })

/-- A package district of a module. -/
def State.district (s : State) (m d : Nat) : District := ((s.module m).districts.get d).getD District.blank

/-- A district changed. -/
def State.modDistrict (s : State) (m d : Nat) (f : District → District) : State :=
  s.modModule m (fun o => { o with districts := o.districts.set d (f (s.district m d)) })

/-- Partition `p` of a module. -/
def State.part (s : State) (m p : Nat) : Part := ((s.module m).parts.get p).getD Part.blank

/-- A partition changed. -/
def State.modPart (s : State) (m p : Nat) (f : Part → Part) : State :=
  s.modModule m (fun o => { o with parts := o.parts.set p (f (s.part m p)) })

/-- A function's window of a module. -/
def State.func (s : State) (m f : Nat) : Func := ((s.module m).funcs.get f).getD Func.blank

/-- A function's window changed. -/
def State.modFunc (s : State) (m f : Nat) (g : Func → Func) : State :=
  s.modModule m (fun o => { o with funcs := o.funcs.set f (g (s.func m f)) })

/-- A link of a module. -/
def State.link (s : State) (m l : Nat) : Link := ((s.module m).links.get l).getD Link.blank

/-- A link changed. -/
def State.modLink (s : State) (m l : Nat) (f : Link → Link) : State :=
  s.modModule m (fun o => { o with links := o.links.set l (f (s.link m l)) })

/-- A mailbox of a core. -/
def Core.mailbox (c : Core) (n : Nat) : Mailbox := (c.mailboxes.get n).getD Mailbox.blank

/-- A seat of a core. -/
def Core.seat (c : Core) (n : Nat) : Seat := (c.seats.get n).getD Seat.blank

/-- A seat changed. -/
def State.modSeat (s : State) (c n : Nat) (f : Seat → Seat) : State :=
  s.modCore c (fun o => { o with seats := o.seats.set n (f (o.seat n)) })

/-- Takes the next free value number (DESIGN CHOICE, log 3). -/
def State.tick (s : State) : State := { s with free := s.free + 1 }

/-- A fresh order stamp. -/
def State.stampUp (s : State) : State := { s with stamp := s.stamp + 1 }

/-! ## The slot in its turn -/

/-- The core in its turn. -/
def State.here (s : State) : Nat := s.cur.1

/-- The slot in its turn. -/
def State.slotNo (s : State) : Nat := s.cur.2

/-- The running slot. -/
def State.running (s : State) : Slot := s.slot s.cur.1 s.cur.2

/-- The running slot changed. -/
def State.modRunning (s : State) (f : Slot → Slot) : State := s.modSlot s.cur.1 s.cur.2 f

/-- The running thread's context changed. -/
def State.modCtx (s : State) (f : Ctx → Ctx) : State :=
  s.modRunning (fun k => { k with thread := k.thread.map (fun t => { t with ctx := f t.ctx }) })

/-! ## Geometry (R37, R39, R88) -/

/-- The quad field of the quad to which a core is attached: a head core's attachment quad (R88). -/
def attachField (c : Nat) : Nat := if isHead c then (15 + 2 * (c % 2)) * 64 else quadField c

/-- Package column of a core's quad. -/
def packageX (c : Nat) : Nat := 64 * (dieOf c % 4) + attachField c % 64

/-- Package row of a core's quad. -/
def packageY (c : Nat) : Nat := 32 * (dieOf c / 4) + attachField c / 64

/-- The die of a link (R50): links 0 to 11 are Lanify links, 16 to 31 capacity ports. -/
def linkDie (l : Nat) : Nat := if l < 16 then l / 3 else 4 + (l - 16) / 4

/-- The edge quad of a link of a module (R50). -/
def edgeQuad (m l : Nat) : Nat :=
  quadOf (coreId m (linkDie l) (if l < 16 then 16 * (l % 3 + 1) else 31 * 64 + 8 + 16 * ((l - 16) % 4)) 0)

/-- The core beside the router at which a link attaches. -/
def edgeCore (m l : Nat) : Nat := coreOfQuad (edgeQuad m l) 0

/-- The core beside the router at which the PCIe endpoint of a module attaches: die 0, column 0, row 16 (R50). -/
def pcieCore (m : Nat) : Nat := coreId m 0 (16 * 64) 0

/-- The quad whose router serves a core. -/
def routerQuad (c : Nat) : Nat := moduleOf c * 2 ^ 14 + dieOf c * 2 ^ 11 + attachField c

/-- The distance of two numbers. -/
def natDist (a b : Nat) : Nat := if a ≤ b then b - a else a - b

/-- Links on the dimension-ordered route between two cores of one module (R44, R324). -/
def hopsBetween (a b : Nat) : Nat := natDist (packageX a) (packageX b) + natDist (packageY a) (packageY b)

/-- The numbers from `a` to `b`, in that order. -/
def span (a b : Nat) : List Nat := (List.range (natDist a b + 1)).map (fun i => if a ≤ b then a + i else a - i)

/-- The dies that the way from a router to another of its module crosses: along the row, then along the column (R44). -/
def legDies (a b : Nat) : List Nat :=
  (span (packageX a / 64) (packageX b / 64)).map (fun x => x + 4 * (packageY a / 32)) ++
  (span (packageY a / 32) (packageY b / 32)).map (fun y => packageX b / 64 + 4 * y)

/-- The routers of that way, by their package coordinates. -/
def legPoints (a b : Nat) : List (Nat × Nat) :=
  (span (packageX a) (packageX b)).map (fun x => (x, packageY a)) ++
    (span (packageY a) (packageY b)).tail.map (fun y => (packageX b, y))

/-- The quad of a module at package coordinates, numbered die × 2^11 + quad field. -/
def quadAt (x y : Nat) : Nat := (x / 64 + 4 * (y / 32)) * 2 ^ 11 + (y % 32 * 64 + x % 64)

/-- The output ports that the way uses: (quad of the module, port), with ports N, E, S, W as 0 to 3 (R42, R44, R253). -/
def legPorts (a b : Nat) : List (Nat × Nat) :=
  ((span (packageX a) (packageX b)).dropLast.map (fun x =>
    (quadAt x (packageY a), if packageX a ≤ packageX b then 1 else 3))) ++
  ((span (packageY a) (packageY b)).dropLast.map (fun y =>
    (quadAt (packageX b) y, if packageY a ≤ packageY b then 2 else 0)))

/-- The package district of a compute core (R39). -/
def districtOf (c : Nat) : Nat :=
  dieOf c * 16 + quadField c / 64 / 16 * 8 + quadField c % 64 / 8

/-- The root core of a package district (R113). -/
def rootCore (m d : Nat) : Nat := coreId m (d / 16) (d % 16 / 8 * 16 * 64 + d % 8 * 8) 0

/-- The core at package coordinates, if any. -/
def coreAt (m : Nat) (x y : Int) (i : Nat) : Option Nat :=
  if 0 ≤ x ∧ x < 256 ∧ 0 ≤ y ∧ y < 64 then
    some (coreId m ((x.toNat / 64) + 4 * (y.toNat / 32)) (y.toNat % 32 * 64 + x.toNat % 64) i)
  else none

/-! ## Partitions (R92, R95) -/

/-- The partition of a module to which a core belongs. -/
def State.partOf (s : State) (c : Nat) : Option Nat :=
  (List.range 16).find? (fun p =>
    let q := s.part (moduleOf c) p
    q.state != .absent && (if isHead c then q.head == c else q.districts.contains (districtOf c)))

/-- A core id names a compute core of the layout, or an active head core. -/
def activeCore (c : Nat) : Bool :=
  if isHead c then c < 2 ^ 25 && c % 2 ^ 13 < 2 else true

/-- A module is routed from another: itself, or its entry names a link (R63). -/
def State.routed (s : State) (m m' : Nat) : Bool := m == m' || ((s.module m).routes.get m').isSome

/-- A core id is a legal target of a traveller from `c`: an active core of the same partition, or a core of a routed other module
(R350, R95). -/
def State.inGroup (s : State) (c t : Nat) : Bool :=
  activeCore t &&
    (if moduleOf t = moduleOf c then s.partOf t == s.partOf c && (s.partOf c).isSome
     else s.routed (moduleOf c) (moduleOf t))

/-- The partition record of a core, if it has one. -/
def State.partRec (s : State) (c : Nat) : Option Part := (s.partOf c).map (s.part (moduleOf c))

/-- The head core that owns a function: that of its partition, or head core 0 of die 0 for the PF and for a VF without one (R102). -/
def State.ownerOf (s : State) (m fn : Nat) : Nat :=
  if fn = 0 then headId m 0 0
  else if (s.part m (fn - 1)).state == .absent then headId m 0 0 else (s.part m (fn - 1)).head

/-- The monitor slot of a head core waits on mailbox mb14: it owns no function whose monitor slot has stopped (R90, R103, R104). -/
def State.monitorWaits (s : State) (c : Nat) : Bool :=
  isHead c && !(List.range 17).any (fun fn => s.ownerOf (moduleOf c) fn == c && (s.func (moduleOf c) fn).fwfault)

/-- The supervisor core of a core's partition (R92). -/
def State.supervisorOf (s : State) (c : Nat) : Option Nat := (s.partRec c).map (·.supervisor)

/-- The compute cores of a partition's districts, in ascending id order of districts, quads and cores. -/
def districtCores (m d : Nat) : List Nat :=
  (List.range 16).flatMap fun r => (List.range 8).flatMap fun x => (List.range 4).map fun i =>
    coreId m (d / 16) ((d % 16 / 8 * 16 + r) * 64 + d % 8 * 8 + x) i

/-- The quads of a partition in ascending (die, quad field) order (R214). -/
def partQuads (m : Nat) (p : Part) : List Nat :=
  (List.range (8 * 2048)).filterMap fun q =>
    if p.districts.contains (districtOf (coreOfQuad (m * 2 ^ 14 + q) 0)) then some (m * 2 ^ 14 + q) else none

/-! ## Clocks (R69 to R72) -/

/-- Ticks of 5/36 ns in a cycle of a clock state. -/
def periodOf : Nat → Nat
  | 0 => 3
  | 1 => 4
  | 2 => 6
  | _ => 12

/-- A clock state's frequency in multiples of 0.6 GHz. -/
def freqOf : Nat → Nat
  | 0 => 4
  | 1 => 3
  | 2 => 2
  | _ => 1

/-- Ticks of a relock, 1.5 µs (R70). -/
def ticksRelock : Nat := 10800

/-- `ref` of a module (R72): nanoseconds since its reset, a multiple of 10. -/
def State.refNs (s : State) (m : Nat) : Nat := (s.now - (s.module m).resetAt) / 72 * 10

/-- A die is stopped by a relock. -/
def State.relocking (s : State) (m d : Nat) : Bool := (s.die m d).relock.isSome

/-- `cyc` of a die (R70): it stands still in a relock. -/
def State.cycOf (s : State) (m d : Nat) : Nat :=
  let o := s.die m d
  if o.relock.isSome then o.cycBase else o.cycBase + (s.now - o.since) / periodOf o.clock

/-- The special register `ref` read on a core. -/
def State.ref (s : State) (c : Nat) : Word := BitVec.ofNat 64 (s.refNs (moduleOf c))

/-- The special register `cyc` read on a core. -/
def State.cyc (s : State) (c : Nat) : Word := BitVec.ofNat 64 (s.cycOf (moduleOf c) (dieOf c))

/-- A core's partition has passed its stop edge, or has not reached the reference edge from which a RESUME lets it issue (R238). -/
def State.bellHeld (s : State) (c : Nat) : Bool :=
  match s.partRec c with
  | none => false
  | some q =>
    let now := s.refNs (moduleOf c)
    decide (now < q.issueFrom) || (match q.edge with
      | none => false
      | some t => decide (t ≤ now))

/-- A core issues nothing: its die relocks, it is lost, its partition or district is stopped (R70, R238, R246, R251, R252). -/
def State.coreHalted (s : State) (c : Nat) : Bool :=
  (s.core c).lost || (s.core c).stopped || s.bellHeld c || s.relocking (moduleOf c) (dieOf c) ||
    (!isHead c && ((s.district (moduleOf c) (districtOf c)).fenced ||
      (s.district (moduleOf c) (districtOf c)).slice.isSome))

/-- The way from a router to another of its module is held: a die of it relocks, and nothing crosses its edges (R70, R194). -/
def State.legStalled (s : State) (a b : Nat) : Bool := (legDies a b).any (s.relocking (moduleOf a))

/-- A link takes nothing: it is down or retraining, or its replay buffer is full (R55, R60). -/
def State.linkHeld (s : State) (m l : Nat) : Bool :=
  let d := (s.link m l).tx
  d.down || d.retraining || decide (512 ≤ d.replay.length)

/-- Nothing reaches core `b` from core `a` now, over at most `n` links: a die on the way relocks, or a link of the route is held. -/
def State.wayStalled (s : State) (b : Nat) : Nat → Nat → Bool
  | 0, _ => true
  | n + 1, a =>
    if moduleOf a = moduleOf b then s.legStalled a b
    else match (s.module (moduleOf a)).routes.get (moduleOf b) with
      | none => true
      | some l => s.legStalled a (edgeCore (moduleOf a) l) || s.linkHeld (moduleOf a) l ||
        (match (s.module (moduleOf a)).cables.get l with
          | none => true
          | some (m2, l2) => s.wayStalled b n (edgeCore m2 l2))

/-- Nothing reaches core `b` from core `a` now (R55, R60, R70, R194). -/
def State.stalledPath (s : State) (a b : Nat) : Bool := s.wayStalled b 257 a

/-- Nothing reaches capacity port `p` of module `m` from core `a`, or comes back from it (R50, R65, R70). -/
def State.portStalled (s : State) (a m p : Nat) : Bool :=
  let back := (s.link m (16 + p)).rx
  s.stalledPath a (edgeCore m (16 + p)) || s.linkHeld m (16 + p) || back.down || back.retraining

/-! ## Local memory (R162, R163) -/

/-- The size of a core's private portion; a head core's whole local memory (R88). -/
def State.privSize (s : State) (c : Nat) : Nat :=
  if isHead c then 2 ^ 20 else 4096 * (12 - (s.core c).lmsplitCom - (s.core c).lmsplitCache)

/-- The size of a core's commons contribution. -/
def State.comSize (s : State) (c : Nat) : Nat := 4096 * (s.core c).lmsplitCom

/-- The size of a quad's commons (R163). -/
def State.commonsSize (s : State) (q : Nat) : Nat :=
  s.comSize (coreOfQuad q 0) + s.comSize (coreOfQuad q 1) + s.comSize (coreOfQuad q 2) + s.comSize (coreOfQuad q 3)

/-- The key of the commons byte at an offset of a quad (R163): contributions end to end, each after its core's private portion. -/
def State.commonsKey (s : State) (q off : Nat) : Nat :=
  let key := fun (i start : Nat) => localKey (coreOfQuad q i) (s.privSize (coreOfQuad q i) + (off - start))
  let e0 := s.comSize (coreOfQuad q 0)
  let e1 := e0 + s.comSize (coreOfQuad q 1)
  let e2 := e1 + s.comSize (coreOfQuad q 2)
  if off < e0 then key 0 0 else if off < e1 then key 1 e0 else if off < e2 then key 2 e1 else key 3 e2

/-! ## The context in bytes (R200, R120) -/

/-- The status word (R200). -/
def Status.toWord (t : Status) : Word :=
  BitVec.ofNat 64 (t.fcs.toNat * 256 + t.met.toNat * 8 + t.spl.toNat * 4 + t.fnd.toNat * 2 + t.sup.toNat)

/-- A status from a word: reserved bits are not held. -/
def Status.ofWord (w : Word) : Status :=
  { fcs := BitVec.ofNat 8 (bits w 15 8), met := bit w 3, spl := bit w 2, fnd := bit w 1, sup := bit w 0 }

/-- The predicate word with bit 0 at 1 (R298). -/
def predWord (v : Nat) : BitVec 16 := BitVec.ofNat 16 v ||| 1

/-- The 16 words of a context, in the order of R200. -/
def Ctx.words (x : Ctx) : List Word :=
  [x.x0, x.x1, x.x2, x.x3, x.x4, x.x5, x.x6, x.x7, x.x8, x.x9, x.fp, x.p.zeroExtend 64, x.ip, x.fmta, x.fmtb, x.status.toWord]

/-- The address that ip holds of a value: ip is always a multiple of 4, so it holds no low bits (R293; DESIGN CHOICE, log 104). -/
def ipOf (v : Word) : Word := v &&& ~~~(3 : Word)

/-- A context from 16 words. -/
def Ctx.ofWords (l : List Word) : Ctx :=
  { x0 := l.getD 0 0, x1 := l.getD 1 0, x2 := l.getD 2 0, x3 := l.getD 3 0, x4 := l.getD 4 0, x5 := l.getD 5 0, x6 := l.getD 6 0,
    x7 := l.getD 7 0, x8 := l.getD 8 0, x9 := l.getD 9 0, fp := l.getD 10 0, p := predWord (l.getD 11 0).toNat, ip := ipOf (l.getD 12 0),
    fmta := l.getD 13 0, fmtb := l.getD 14 0, status := Status.ofWord (l.getD 15 0) }

/-- The 16 words of a record (R120). -/
def Rec.words (r : Rec) : List Word :=
  [r.entry, r.flags, r.dom0, r.dom1, r.dom2, r.grains, r.budget, r.launch, r.fmta, r.fmtb, r.cell, r.parent, r.r0, r.r1, r.r2, r.r3]

/-- A record from 16 words. -/
def Rec.ofWords (l : List Word) : Rec :=
  { entry := l.getD 0 0, flags := l.getD 1 0, dom0 := l.getD 2 0, dom1 := l.getD 3 0, dom2 := l.getD 4 0, grains := l.getD 5 0,
    budget := l.getD 6 0, launch := l.getD 7 0, fmta := l.getD 8 0, fmtb := l.getD 9 0, cell := l.getD 10 0, parent := l.getD 11 0,
    r0 := l.getD 12 0, r1 := l.getD 13 0, r2 := l.getD 14 0, r3 := l.getD 15 0 }

/-! ## Fields of a record (R121, R122) -/

def Rec.isSplit (r : Rec) : Bool := bit r.flags 0
def Rec.prio (r : Rec) : Nat := bits r.flags 2 1
def Rec.steal (r : Rec) : Bool := bit r.flags 3
def Rec.dims (r : Rec) : Nat := bits r.flags 5 4
def Rec.restart (r : Rec) : Bool := bit r.flags 6
def Rec.saved (r : Rec) : Bool := bit r.flags 7
def Rec.ctxLimit (r : Rec) : Nat := bits r.budget 3 0
def Rec.scr (r : Rec) : Nat := bits r.budget 15 4
def Rec.per (r : Rec) : Nat := bits r.budget 23 16

/-- The domain of a dimension. -/
def Rec.dom (r : Rec) (i : Nat) : Word := if i = 0 then r.dom0 else if i = 1 then r.dom1 else r.dom2

/-- The grain of a dimension. -/
def Rec.grain (r : Rec) (i : Nat) : Nat := bits r.grains (16 * i + 15) (16 * i)

/-- A record with the domain of a dimension replaced. -/
def Rec.setDom (r : Rec) (i : Nat) (v : Word) : Rec :=
  if i = 0 then { r with dom0 := v } else if i = 1 then { r with dom1 := v } else { r with dom2 := v }

/-- The lower and upper ends of a domain word. -/
def domLo (w : Word) : Nat := bits w 31 0
def domHi (w : Word) : Nat := bits w 63 32

/-- A domain word. -/
def domWord (lo hi : Nat) : Word := BitVec.ofNat 64 (lo % 2 ^ 32 + hi % 2 ^ 32 * 2 ^ 32)

end Sys2Proof.Machine
end

