-- ==== Sys2Proof/Machine/Translate.lean ====
section
/-! DEFINITION. From a virtual address to the place where an access performs: windows, page tables, TLBs and visitor windows
(R157 to R172). -/
namespace Sys2Proof.Machine

/-- What an access is, for its permissions and for a park record (R171, R228). -/
inductive AccKind where
  | load | store | atomic | full | fetch
  deriving DecidableEq, Repr

/-- The code of an access kind in a park record and an upcall (R228). -/
def AccKind.code : AccKind → Nat
  | .load => 0
  | .store => 1
  | .atomic => 2
  | .full => 3
  | .fetch => 4

/-- Where an access performs (R159), or why it does not. -/
inductive Place where
  /-- *here*, private: step 1 -/
  | priv (key : Nat)
  /-- the cloakroom alias, while met: step 1 -/
  | cloak (key : Nat)
  /-- quad-homed -/
  | quad (key : Nat)
  /-- the current core's own global window: steps 6 and 7 -/
  | own (key : Nat)
  /-- a distant home: the core, and the key there -/
  | away (core key : Nat)
  /-- a device register (space 3): the physical address -/
  | device (pa : Nat)
  /-- a trap with cause 4 and its sub-code -/
  | trap (sub : Nat)
  /-- a page fault with its class (R171) -/
  | fault (cls : Nat)
  /-- a window refusal: the lowest refused address (R167) -/
  | refused (addr : Nat)
  /-- a miss of the second-level TLB that finds its miss queue full (R170, R199 code 9) -/
  | busy
  deriving DecidableEq, Repr

/-! ## Page tables (R168 to R171) -/

/-- The outcome of a walk. -/
inductive Walk where
  | page (e : TlbEntry)
  | fault (cls : Nat)
  /-- the miss queue is full, and no walk begins -/
  | full
  deriving DecidableEq, Repr

/-- A physical address of space 0 has a home (R161). -/
def bulkHome (pa : Nat) : Bool := spaceOf pa == 0 && pa / 2 ^ 39 % 8 == 0

/-- A table read meets a media or integrity error. -/
def State.badTable (s : State) (pa : Nat) : Bool := s.hasBad pa 8 || s.hasUntagged pa 8

/-- A pointer entry: the next table, or the fault class (R169, R171). -/
def pointerNext (e : Word) (level : Nat) : Except Nat Nat :=
  if !bit e 0 then .error 0
  else if bit e 1 then .error 2
  else if bits e 63 52 ≠ 0 || bits e 12 2 ≠ 0 then .error 2
  else
    let next := bits e 51 13 * 2 ^ 13
    if level = 1 && bit e 13 then .error 2
    else if !bulkHome next then .error 2
    else .ok next

/-- A level-3 leaf (R169). -/
def leafEntry (e : Word) (part asid vpn : Nat) : Walk :=
  if !bit e 0 then .fault 0
  else if !bit e 1 then .fault 2
  else if bits e 63 52 ≠ 0 || bits e 15 7 ≠ 0 then .fault 2
  else
    let pa := bits e 51 16 * 2 ^ 16
    if spaceOf pa = 2 || (spaceOf pa = 0 && !bulkHome pa) then .fault 2
    else .page { part := part, asid := asid, glob := bit e 6, vpn := vpn, size := 1, pa := pa,
                 u := bit e 5, x := bit e 4, w := bit e 3, r := bit e 2 }

/-- A level-2 leaf: a pair of 32 MiB pages, each one quad column (R169). -/
def pairEntry (e : Word) (part asid vpn : Nat) : Walk :=
  let upper := vpn / 2 ^ 9 % 2 = 1
  if !(if upper then bit e 63 else bit e 0) then .fault 0
  else if bits e 18 7 ≠ 0 then .fault 2
  else
    let col := if upper then bits e 62 41 else bits e 40 19
    .page { part := part, asid := asid, glob := bit e 6, vpn := vpn / 2 ^ 9 * 2 ^ 9, size := 2 ^ 9, pa := bulkPa col 0,
            u := bit e 5, x := bit e 4, w := bit e 3, r := bit e 2 }

/-- The three-level walk of a virtual address (R168): the table entries as they stand at their homes. -/
def State.walk (s : State) (root part asid va : Nat) : Walk :=
  let vpn := va / 2 ^ 16
  let a1 := root / 2 ^ 14 * 2 ^ 14 + va / 2 ^ 37 % 2 ^ 11 * 8
  if s.badTable a1 then .fault 3
  else
    match pointerNext (s.word a1) 1 with
    | .error c => .fault c
    | .ok t2 =>
      let a2 := t2 + va / 2 ^ 26 % 2 ^ 11 * 8
      let e2 := s.word a2
      if s.badTable a2 then .fault 3
      else if bit e2 1 then pairEntry e2 part asid vpn
      else
        match pointerNext e2 2 with
        | .error c => .fault c
        | .ok t3 =>
          let a3 := t3 + va / 2 ^ 16 % 2 ^ 10 * 8
          if s.badTable a3 then .fault 3 else leafEntry (s.word a3) part asid vpn

/-- The table reads of a walk, counted (R244). -/
def State.countWalk (s : State) (root va : Nat) : State :=
  let a1 := root / 2 ^ 14 * 2 ^ 14 + va / 2 ^ 37 % 2 ^ 11 * 8
  let a2 := (s.word a1).toNat / 2 ^ 13 * 2 ^ 13 + va / 2 ^ 26 % 2 ^ 11 * 8
  let a3 := (s.word a2).toNat / 2 ^ 13 * 2 ^ 13 + va / 2 ^ 16 % 2 ^ 10 * 8
  let s2 := (s.countRead a1 8).countRead a2 8
  if bit (s.word a2) 1 then s2 else s2.countRead a3 8

/-! ## TLBs (R170) -/

/-- The partition number that tags a core's translations; 16 outside every partition. -/
def State.partTag (s : State) (c : Nat) : Nat := (s.partOf c).getD 16

/-- An entry matches an address. -/
def TlbEntry.hits (e : TlbEntry) (part asid vpn : Nat) : Bool :=
  e.part == part && (e.glob || e.asid == asid) && e.vpn ≤ vpn && vpn < e.vpn + e.size

/-- A TLB with an entry added; a full one loses an entry that the spec does not name (DESIGN CHOICE, log 5). -/
def tlbAdd (l : List TlbEntry) (cap victim : Nat) (e : TlbEntry) : List TlbEntry :=
  if l.length < cap then l ++ [e] else l.eraseIdx (victim % cap) ++ [e]

/-- The second level with an entry added: eight ways, and a full set loses an entry that the spec does not name (DESIGN CHOICE,
log 5). -/
def tlbAddWay (l : List TlbEntry) (victim : Nat) (e : TlbEntry) : List TlbEntry :=
  if l.length < 8 then l ++ [e]
  else
    let set := l.filter (fun g => Config.tlbSet g.vpn % 128 == Config.tlbSet e.vpn % 128)
    if set.length < 8 then l ++ [e]
    else match set[victim % 8]? with
      | none => l ++ [e]
      | some g => l.erase g ++ [e]

/-- Installs a translation in a core's TLB and its quad's second level (R170). -/
def State.tlbInstall (s : State) (c : Nat) (fetch : Bool) (e : TlbEntry) : State :=
  let s1 := s.modCore c (fun o =>
    if fetch then { o with itlb := tlbAdd o.itlb 8 (if o.itlb.length < 8 then 0 else Config.freeNat s.free) e }
    else { o with dtlb := tlbAdd o.dtlb 32 (if o.dtlb.length < 32 then 0 else Config.freeNat s.free) e })
  if isHead c then s1.tick
  else
    (s1.modQuad (quadOf c) (fun q =>
      if q.tlb.any (fun g => g == e) then q
      else { q with tlb := tlbAddWay q.tlb (if q.tlb.length < 8 then 0 else Config.freeNat (s.free + 1)) e })).tick.tick

/-- A quad's walkers and its miss queue are full (R170): two misses in the walkers, and 16 that wait (DESIGN CHOICE, log 5). -/
def Quad.missesFull (q : Quad) : Bool := 18 ≤ q.misses.length

/-- A miss takes a walker, or a place in the queue, until TABLE_WALK_COMPLETE. -/
def State.addMiss (s : State) (c va : Nat) (fetch : Bool) : State :=
  if isHead c then s else s.modQuad (quadOf c) (fun q => { q with misses := q.misses ++ [(c, va / 2 ^ 16, fetch)] })

/-- The page of a virtual address at a core: from its TLB, its quad's second level, or a walk, which installs it (R170). -/
def State.lookup (s : State) (c va : Nat) (fetch : Bool) : State × Walk :=
  let o := s.core c
  let part := s.partTag c
  let asid := bits o.asid 11 0
  let vpn := va / 2 ^ 16
  match (if fetch then o.itlb else o.dtlb).find? (fun e => e.hits part asid vpn) with
  | some e => (s, .page e)
  | none =>
    match (if isHead c then none else (s.quad (quadOf c)).tlb.find? (fun e => e.hits part asid vpn)) with
    | some e => (s.tlbInstall c fetch e, .page e)
    | none =>
      if !isHead c && (s.quad (quadOf c)).missesFull then (s, .full)
      else match s.walk o.ptbase.toNat part asid va with
        | .page e => (((s.countWalk o.ptbase.toNat va).tlbInstall c fetch e).addMiss c va fetch, .page e)
        | r => (s.addMiss c va fetch, r)

/-- The same for a network interface or an engine, whose misses wait for no place of a slot (DESIGN CHOICE, log 5). -/
def State.lookupNow (s : State) (c va : Nat) : State × Walk :=
  match s.lookup c va false with
  | (s1, .full) => (s1, s1.walk (s1.core c).ptbase.toNat (s1.partTag c) (bits (s1.core c).asid 11 0) va)
  | r => r

/-- The walk of the address ends: the oldest miss for it that stands in one of the two walkers leaves (R170). -/
def State.walkEnds (s : State) (c va : Nat) (fetch : Bool) : State :=
  if isHead c then s
  else s.modQuad (quadOf c) (fun q =>
    if (q.misses.take 2).contains (c, va / 2 ^ 16, fetch) then { q with misses := q.misses.erase (c, va / 2 ^ 16, fetch) } else q)

/-- The physical address that an entry gives. -/
def TlbEntry.phys (e : TlbEntry) (va : Nat) : Nat := e.pa + (va - e.vpn * 2 ^ 16)

/-- The checks on a translated thread access, in the order of R171. Its table names `r` for loads; an atomic, and a full/empty access, need
it too (DEDUCED, log 22). -/
def permit (e : TlbEntry) (kind : AccKind) (user : Bool) (pa : Nat) : Option Place :=
  if user && !e.u then some (.trap 0)
  else if kind == .fetch && !e.x then some (.trap 0)
  else if (kind == .load || kind == .atomic || kind == .full) && !e.r then some (.trap 0)
  else if spaceOf pa = 1 then some (.trap 1)
  else if user && spaceOf pa = 3 then some (.trap 0)
  else if (kind == .store || kind == .atomic) && !e.w then some (.fault 1)
  else none

/-! ## Visitor windows (R166, R167) -/

/-- A *here* offset lies in an open window. -/
def inWindow (w : Word) (off : Nat) : Bool := bit w 32 && bits w 15 0 ≤ off && off < bits w 31 16

/-- The birth core of a thread (R119, R202). Bits [31:8] of a thread id hold 24 bits; the extended id of a head core (R89) needs a
25th, which the thread keeps beside its id (DEDUCED, log 10). -/
def Thread.birth (t : Thread) : Nat := t.tid.toNat / 256 + (if t.headBorn then 2 ^ 24 else 0)

/-- A thread is a visitor on a core (R166). -/
def Thread.visits (t : Thread) (c : Nat) : Bool := t.birth != c

/-- A thread is a user-level visitor on a core: its private accesses are bounded by the windows. -/
def Thread.bounded (t : Thread) (c : Nat) : Bool := !t.ctx.status.sup && t.visits c

/-- The lowest offset of [off, off + n) that a thread may not touch on a core (R167). -/
def State.refusal (s : State) (c : Nat) (t : Thread) (off n : Nat) : Option Nat :=
  if t.bounded c then
    ((List.range n).map (· + off)).find? (fun o => !(inWindow (s.core c).win0 o || inWindow (s.core c).win1 o))
  else none

/-! ## Places -/

/-- The place of an access to the private portion; the windows do not bound a fetch (R167, R344). -/
def State.herePlace (s : State) (c : Nat) (t : Thread) (va n : Nat) (kind : AccKind) : Place :=
  if s.privSize c < va + n then .trap 1
  else if kind == .fetch then .priv (localKey c va)
  else match s.refusal c t va n with
    | some a => .refused a
    | none => .priv (localKey c va)

/-- The key of a cloakroom byte for a met party (R217): its own or its partner's area, each as long as that party's luggage. -/
def State.cloakPlace (s : State) (meet : Option Meet) (off n : Nat) (kind : AccKind) : Place :=
  match meet with
  | none => .trap 1
  | some m =>
    let early := if m.first then m.entry else m.partnerEntry
    let late := if m.first then m.partnerEntry else m.entry
    let entry := if off < 4096 then early else late
    let at' := off % 4096
    match (s.quad m.quad).cloak.get entry with
    | none => .trap 1
    | some e => if at' + n ≤ e.party.len && kind != .full && kind != .fetch then .cloak (cloakKey m.quad entry at') else .trap 1

/-- The place of an access through a global window (R158). -/
def State.windowPlace (s : State) (c : Nat) (t : Thread) (va n : Nat) (kind : AccKind) : Place :=
  let target := va / 2 ^ 16 % 2 ^ 24
  let off := va % 2 ^ 16
  if kind == .fetch then .trap 1
  else if 0xC000 < off + n then .trap 1
  else if !s.routed (moduleOf c) (moduleOf target) then .trap 1
  else if target = c then
    if s.privSize c < off + n then .trap 1
    else match s.refusal c t off n with
      | some a => .refused (va - off + a)
      | none => .own (localKey c off)
  else .away target (farKey (localKey target off))

/-- The place of an access to bulk memory whose walk has ended (R159, R171). -/
def walkPlace (c : Nat) (t : Thread) (va : Nat) (kind : AccKind) : Walk → Place
  | .full => .busy
  | .fault k => .fault k
  | .page e =>
    let pa := e.phys va
    match permit e kind (!t.ctx.status.sup) pa with
    | some p => p
    | none =>
      if spaceOf pa = 3 then .device pa
      else if kind == .full then .trap 1
      else if !isHead c && quadOfPa pa = quadOf c then .quad pa
      else .away (coreOfKey pa) pa

/-- The place of an access to bulk memory (R159, R168 to R171). -/
def State.bulkPlace (s : State) (c : Nat) (t : Thread) (va : Nat) (kind : AccKind) : State × Place :=
  let r := s.lookup c va (kind == .fetch)
  (r.1, walkPlace c t va kind r.2)

/-- The place of one piece of an access: `n` bytes at `va` within one aligned 32-byte unit, for thread `t` standing on core `c`
(R157 to R159, R167, R171). -/
def State.place (s : State) (c : Nat) (t : Thread) (meet : Option Meet) (va n : Nat) (kind : AccKind) : State × Place :=
  if 2 ^ 48 ≤ va then (s, .trap 1)
  else if isHead c && va < 2 ^ 20 then (s, s.herePlace c t va n kind)
  else if !isHead c && va < 0xC000 then (s, s.herePlace c t va n kind)
  else if !isHead c && va < 0x10000 then (s, .trap 1)
  else if !isHead c && va < 0x20000 then
    (s, if kind == .fetch || s.commonsSize (quadOf c) < va - 0x10000 + n then .trap 1
        else .quad (s.commonsKey (quadOf c) (va - 0x10000)))
  else if !isHead c && va < 0x22000 then (s, s.cloakPlace meet (va - 0x20000) n kind)
  else if !isHead c && va < 0x30000 then (s, .trap 1)
  else if 2 ^ 40 ≤ va && va < 2 ^ 41 then (s, s.windowPlace c t va n kind)
  else s.bulkPlace c t va kind

/-- The core at which an access would perform (R159), when it performs at one. -/
def Place.core (p : Place) (c : Nat) : Option Nat :=
  match p with
  | .priv _ => some c
  | .cloak _ => some c
  | .own _ => some c
  | .quad k => some (coreOfKey k)
  | .away t _ => some t
  | _ => none

end Sys2Proof.Machine
end

