-- ==== Sys2Proof/WellFormed.lean ====
section
/-! DEFINITION. Well-formed instructions: the values that the fields of a word may hold (R299, R300, R303, R305, R306).
A row without a word of its own has no fields. -/
namespace Sys2Proof

/-- A register field names no register (R296). -/
def badReg (n : Nat) : Bool := 14 ≤ n

/-- A rounding-mode code is illegal (R268, R300). -/
def badRound (n : Nat) : Bool := n == 4 || n == 5 || n == 6

/-- A condition code is reserved for an integer compare or for `vcmp` (R299). -/
def badCc12 (n : Nat) : Bool := 12 ≤ n

/-- A condition code is reserved for a floating compare (R299). -/
def badCc8 (n : Nat) : Bool := 8 ≤ n

/-- A barrier scope code is illegal (R305). -/
def badScope (n : Nat) : Bool := 5 ≤ n

/-- The value 3 of a two-bit option that has three values (R378: `vrot`, `mdrain`). -/
def isThree (n : Nat) : Bool := n == 3

/-- The special-register indexes of R309. -/
def specialIndexes : List Nat :=
  [0, 2, 3, 4, 5, 6, 16, 17, 18, 19, 20, 21, 22, 24, 25, 32, 33, 34, 35, 36, 48, 49, 50, 51, 52, 53, 54, 55, 56, 57, 64, 65, 66, 67, 68, 69, 70, 71, 72, 80, 88, 96, 97, 98, 99, 100, 102, 112]

/-- A special-register index is in R309. -/
def knownSpecial (n : Nat) : Bool := specialIndexes.contains n

/-- The number of registers of an engine file (R386, R394, R405, R412, R416). -/
def EngineFile.size : EngineFile → Nat
  | .copy => 12
  | .vector => 13
  | .matrix => 8
  | .pool => 8
  | .bin => 7

/-- The fields of an instruction hold values that its encoding admits. -/
def Instr.wf : Instr → Bool
  | .add d a b => !badReg d.toNat && !badReg a.toNat && !badReg b.toNat
  | .sub d a b => !badReg d.toNat && !badReg a.toNat && !badReg b.toNat
  | .and d a b => !badReg d.toNat && !badReg a.toNat && !badReg b.toNat
  | .or d a b => !badReg d.toNat && !badReg a.toNat && !badReg b.toNat
  | .xor d a b => !badReg d.toNat && !badReg a.toNat && !badReg b.toNat
  | .andn d a b => !badReg d.toNat && !badReg a.toNat && !badReg b.toNat
  | .orn d a b => !badReg d.toNat && !badReg a.toNat && !badReg b.toNat
  | .shl d a b => !badReg d.toNat && !badReg a.toNat && !badReg b.toNat
  | .shr d a b => !badReg d.toNat && !badReg a.toNat && !badReg b.toNat
  | .sar d a b => !badReg d.toNat && !badReg a.toNat && !badReg b.toNat
  | .rol d a b => !badReg d.toNat && !badReg a.toNat && !badReg b.toNat
  | .ror d a b => !badReg d.toNat && !badReg a.toNat && !badReg b.toNat
  | .min d a b => !badReg d.toNat && !badReg a.toNat && !badReg b.toNat
  | .max d a b => !badReg d.toNat && !badReg a.toNat && !badReg b.toNat
  | .minu d a b => !badReg d.toNat && !badReg a.toNat && !badReg b.toNat
  | .maxu d a b => !badReg d.toNat && !badReg a.toNat && !badReg b.toNat
  | .lsa d a b _ => !badReg d.toNat && !badReg a.toNat && !badReg b.toNat
  | .addw d a b => !badReg d.toNat && !badReg a.toNat && !badReg b.toNat
  | .subw d a b => !badReg d.toNat && !badReg a.toNat && !badReg b.toNat
  | .shlw d a b => !badReg d.toNat && !badReg a.toNat && !badReg b.toNat
  | .shrw d a b => !badReg d.toNat && !badReg a.toNat && !badReg b.toNat
  | .sarw d a b => !badReg d.toNat && !badReg a.toNat && !badReg b.toNat
  | .mul d a b => !badReg d.toNat && !badReg a.toNat && !badReg b.toNat
  | .mulh d a b => !badReg d.toNat && !badReg a.toNat && !badReg b.toNat
  | .mulhu d a b => !badReg d.toNat && !badReg a.toNat && !badReg b.toNat
  | .mulw d a b => !badReg d.toNat && !badReg a.toNat && !badReg b.toNat
  | .div d a b => !badReg d.toNat && !badReg a.toNat && !badReg b.toNat
  | .divu d a b => !badReg d.toNat && !badReg a.toNat && !badReg b.toNat
  | .rem d a b => !badReg d.toNat && !badReg a.toNat && !badReg b.toNat
  | .remu d a b => !badReg d.toNat && !badReg a.toNat && !badReg b.toNat
  | .divw d a b => !badReg d.toNat && !badReg a.toNat && !badReg b.toNat
  | .remw d a b => !badReg d.toNat && !badReg a.toNat && !badReg b.toNat
  | .clz d a => !badReg d.toNat && !badReg a.toNat
  | .ctz d a => !badReg d.toNat && !badReg a.toNat
  | .popc d a => !badReg d.toNat && !badReg a.toNat
  | .brev d a => !badReg d.toNat && !badReg a.toNat
  | .bswap d a => !badReg d.toNat && !badReg a.toNat
  | .sxb d a => !badReg d.toNat && !badReg a.toNat
  | .sxh d a => !badReg d.toNat && !badReg a.toNat
  | .sxw d a => !badReg d.toNat && !badReg a.toNat
  | .zxb d a => !badReg d.toNat && !badReg a.toNat
  | .zxh d a => !badReg d.toNat && !badReg a.toNat
  | .zxw d a => !badReg d.toNat && !badReg a.toNat
  | .bfx d a b => !badReg d.toNat && !badReg a.toNat && !badReg b.toNat
  | .bfxs d a b => !badReg d.toNat && !badReg a.toNat && !badReg b.toNat
  | .bfi d a b => !badReg d.toNat && !badReg a.toNat && !badReg b.toNat
  | .addi d a _ => !badReg d.toNat && !badReg a.toNat
  | .andi d a _ => !badReg d.toNat && !badReg a.toNat
  | .ori d a _ => !badReg d.toNat && !badReg a.toNat
  | .xori d a _ => !badReg d.toNat && !badReg a.toNat
  | .shli d a _ => !badReg d.toNat && !badReg a.toNat
  | .shri d a _ => !badReg d.toNat && !badReg a.toNat
  | .sari d a _ => !badReg d.toNat && !badReg a.toNat
  | .roli d a _ => !badReg d.toNat && !badReg a.toNat
  | .shliw d a _ => !badReg d.toNat && !badReg a.toNat
  | .shriw d a _ => !badReg d.toNat && !badReg a.toNat
  | .sariw d a _ => !badReg d.toNat && !badReg a.toNat
  | .lui d _ => !badReg d.toNat
  | .ipa d _ => !badReg d.toNat
  | .gaddr d a b => !badReg d.toNat && !badReg a.toNat && !badReg b.toNat
  | .homeof d a => !badReg d.toNat && !badReg a.toNat
  | .hops d a b => !badReg d.toNat && !badReg a.toNat && !badReg b.toNat
  | .cmp _ a b c => !badReg a.toNat && !badReg b.toNat && !badCc12 c.toNat
  | .cmpw _ a b c => !badReg a.toNat && !badReg b.toNat && !badCc12 c.toNat
  | .cmpi _ a c _ => !badReg a.toNat && !badCc12 c.toNat
  | .pand _ _ _ => true
  | .por _ _ _ => true
  | .pxor _ _ _ => true
  | .pandn _ _ _ => true
  | .pnot _ _ => true
  | .p2x d => !badReg d.toNat
  | .x2p a => !badReg a.toNat
  | .sel d a b _ => !badReg d.toNat && !badReg a.toNat && !badReg b.toNat
  | .faddS d a b r => !badReg d.toNat && !badReg a.toNat && !badReg b.toNat && !badRound r.toNat
  | .fsubS d a b r => !badReg d.toNat && !badReg a.toNat && !badReg b.toNat && !badRound r.toNat
  | .fmulS d a b r => !badReg d.toNat && !badReg a.toNat && !badReg b.toNat && !badRound r.toNat
  | .ffmaS d a b r => !badReg d.toNat && !badReg a.toNat && !badReg b.toNat && !badRound r.toNat
  | .fminS d a b r => !badReg d.toNat && !badReg a.toNat && !badReg b.toNat && !badRound r.toNat
  | .fmaxS d a b r => !badReg d.toNat && !badReg a.toNat && !badReg b.toNat && !badRound r.toNat
  | .fabsS d a r => !badReg d.toNat && !badReg a.toNat && !badRound r.toNat
  | .fnegS d a r => !badReg d.toNat && !badReg a.toNat && !badRound r.toNat
  | .fdivS d a b r => !badReg d.toNat && !badReg a.toNat && !badReg b.toNat && !badRound r.toNat
  | .fsqrtS d a r => !badReg d.toNat && !badReg a.toNat && !badRound r.toNat
  | .frsqsS d a r => !badReg d.toNat && !badReg a.toNat && !badRound r.toNat
  | .frcpsS d a r => !badReg d.toNat && !badReg a.toNat && !badRound r.toNat
  | .faddD d a b r => !badReg d.toNat && !badReg a.toNat && !badReg b.toNat && !badRound r.toNat
  | .fsubD d a b r => !badReg d.toNat && !badReg a.toNat && !badReg b.toNat && !badRound r.toNat
  | .fmulD d a b r => !badReg d.toNat && !badReg a.toNat && !badReg b.toNat && !badRound r.toNat
  | .ffmaD d a b r => !badReg d.toNat && !badReg a.toNat && !badReg b.toNat && !badRound r.toNat
  | .fminD d a b r => !badReg d.toNat && !badReg a.toNat && !badReg b.toNat && !badRound r.toNat
  | .fmaxD d a b r => !badReg d.toNat && !badReg a.toNat && !badReg b.toNat && !badRound r.toNat
  | .fabsD d a r => !badReg d.toNat && !badReg a.toNat && !badRound r.toNat
  | .fnegD d a r => !badReg d.toNat && !badReg a.toNat && !badRound r.toNat
  | .fdivD d a b r => !badReg d.toNat && !badReg a.toNat && !badReg b.toNat && !badRound r.toNat
  | .fsqrtD d a r => !badReg d.toNat && !badReg a.toNat && !badRound r.toNat
  | .frsqsD d a r => !badReg d.toNat && !badReg a.toNat && !badRound r.toNat
  | .frcpsD d a r => !badReg d.toNat && !badReg a.toNat && !badRound r.toNat
  | .fcvtSD d a r => !badReg d.toNat && !badReg a.toNat && !badRound r.toNat
  | .fcvtDS d a r => !badReg d.toNat && !badReg a.toNat && !badRound r.toNat
  | .fcvtSL d a r => !badReg d.toNat && !badReg a.toNat && !badRound r.toNat
  | .fcvtDL d a r => !badReg d.toNat && !badReg a.toNat && !badRound r.toNat
  | .fcvtLS d a r => !badReg d.toNat && !badReg a.toNat && !badRound r.toNat
  | .fcvtLD d a r => !badReg d.toNat && !badReg a.toNat && !badRound r.toNat
  | .fcvtHS d a r => !badReg d.toNat && !badReg a.toNat && !badRound r.toNat
  | .fcvtSH d a r => !badReg d.toNat && !badReg a.toNat && !badRound r.toNat
  | .fcvtBS d a r => !badReg d.toNat && !badReg a.toNat && !badRound r.toNat
  | .fcvtSB d a r => !badReg d.toNat && !badReg a.toNat && !badRound r.toNat
  | .fclassS d a r => !badReg d.toNat && !badReg a.toNat && !badRound r.toNat
  | .fclassD d a r => !badReg d.toNat && !badReg a.toNat && !badRound r.toNat
  | .fcmpS _ a b c => !badReg a.toNat && !badReg b.toNat && !badCc8 c.toNat
  | .fcmpD _ a b c => !badReg a.toNat && !badReg b.toNat && !badCc8 c.toNat
  | .ldBz d a _ => !badReg d.toNat && !badReg a.toNat
  | .ldBs d a _ => !badReg d.toNat && !badReg a.toNat
  | .ldHz d a _ => !badReg d.toNat && !badReg a.toNat
  | .ldHs d a _ => !badReg d.toNat && !badReg a.toNat
  | .ldWz d a _ => !badReg d.toNat && !badReg a.toNat
  | .ldWs d a _ => !badReg d.toNat && !badReg a.toNat
  | .ldD d a _ => !badReg d.toNat && !badReg a.toNat
  | .stB d a _ => !badReg d.toNat && !badReg a.toNat
  | .stH d a _ => !badReg d.toNat && !badReg a.toNat
  | .stW d a _ => !badReg d.toNat && !badReg a.toNat
  | .stD d a _ => !badReg d.toNat && !badReg a.toNat
  | .ldq d a _ => !badReg d.toNat && !badReg a.toNat && decide (d.toNat ≤ 6)
  | .stq d a _ => !badReg d.toNat && !badReg a.toNat && decide (d.toNat ≤ 6)
  | .ldfW d a _ => !badReg d.toNat && !badReg a.toNat
  | .ldfD d a _ => !badReg d.toNat && !badReg a.toNat
  | .ldfeW d a _ => !badReg d.toNat && !badReg a.toNat
  | .ldfeD d a _ => !badReg d.toNat && !badReg a.toNat
  | .stfW d a _ => !badReg d.toNat && !badReg a.toNat
  | .stfD d a _ => !badReg d.toNat && !badReg a.toNat
  | .stfeW d a _ => !badReg d.toNat && !badReg a.toNat
  | .stfeD d a _ => !badReg d.toNat && !badReg a.toNat
  | .fck d a _ => !badReg d.toNat && !badReg a.toNat
  | .amoAdd d a b _ => !badReg d.toNat && !badReg a.toNat && !badReg b.toNat
  | .amoAnd d a b _ => !badReg d.toNat && !badReg a.toNat && !badReg b.toNat
  | .amoOr d a b _ => !badReg d.toNat && !badReg a.toNat && !badReg b.toNat
  | .amoXor d a b _ => !badReg d.toNat && !badReg a.toNat && !badReg b.toNat
  | .amoMin d a b _ => !badReg d.toNat && !badReg a.toNat && !badReg b.toNat
  | .amoMax d a b _ => !badReg d.toNat && !badReg a.toNat && !badReg b.toNat
  | .amoMinu d a b _ => !badReg d.toNat && !badReg a.toNat && !badReg b.toNat
  | .amoMaxu d a b _ => !badReg d.toNat && !badReg a.toNat && !badReg b.toNat
  | .amoSwap d a b _ => !badReg d.toNat && !badReg a.toNat && !badReg b.toNat
  | .amoCas d a b _ => !badReg d.toNat && !badReg a.toNat && !badReg b.toNat
  | .amoFadd d a b _ => !badReg d.toNat && !badReg a.toNat && !badReg b.toNat
  | .stcW d a _ => !badReg d.toNat && !badReg a.toNat
  | .stcD d a _ => !badReg d.toNat && !badReg a.toNat
  | .redAdd a b _ => !badReg a.toNat && !badReg b.toNat
  | .redFadd a b _ => !badReg a.toNat && !badReg b.toNat
  | .redMin a b _ => !badReg a.toNat && !badReg b.toNat
  | .redMax a b _ => !badReg a.toNat && !badReg b.toNat
  | .redOr a b _ => !badReg a.toNat && !badReg b.toNat
  | .pf a _ => !badReg a.toNat
  | .cwb a _ => !badReg a.toNat
  | .cdis a _ => !badReg a.toNat
  | .cinvI a _ => !badReg a.toNat
  | .br _ _ _ => true
  | .jmp _ => true
  | .call _ => true
  | .jr a => !badReg a.toNat
  | .callr a => !badReg a.toNat
  | .loop a _ => !badReg a.toNat
  | .go a => !badReg a.toNat
  | .gocore a => !badReg a.toNat
  | .meet d a b => !badReg d.toNat && !badReg a.toNat && !badReg b.toNat
  | .xget d _ => !badReg d.toNat
  | .partgo a => !badReg a.toNat
  | .spawn d a b => !badReg d.toNat && !badReg a.toNat && !badReg b.toNat
  | .alloc d a => !badReg d.toNat && !badReg a.toNat
  | .fork d a b => !badReg d.toNat && !badReg a.toNat && !badReg b.toNat
  | .join a => !badReg a.toNat
  | .wakePark a => !badReg a.toNat
  | .tsk a b => !badReg a.toNat && !badReg b.toNat
  | .qpush a b => !badReg a.toNat && !badReg b.toNat
  | .qpop d => !badReg d.toNat
  | .qlen d b => !badReg d.toNat && !badReg b.toNat
  | .recv d a => !badReg d.toNat && !badReg a.toNat
  | .mpoll d a => !badReg d.toNat && !badReg a.toNat
  | .mbind a b => !badReg a.toNat && !badReg b.toNat
  | .bar s _ => !badScope s.toNat
  | .barn s _ => !badScope s.toNat
  | .barw a s _ => !badReg a.toNat && !badScope s.toNat
  | .barg a s _ => !badReg a.toNat && !badScope s.toNat
  | .barset a s _ => !badReg a.toNat && !badScope s.toNat
  | .srd f a => !badReg a.toNat && knownSpecial f.toNat
  | .swr f a => !badReg a.toNat && knownSpecial f.toNat
  | .trap _ => true
  | .blk _ => true
  | .ctxsv a => !badReg a.toNat
  | .ctxrs a => !badReg a.toNat
  | .cp a b _ => !badReg a.toNat && !badReg b.toNat
  | .cpn a b _ => !badReg a.toNat && !badReg b.toNat
  | .cpm a b _ => !badReg a.toNat && !badReg b.toNat
  | .cps a b _ => !badReg a.toNat && !badReg b.toNat
  | .cprFp32 a b _ => !badReg a.toNat && !badReg b.toNat
  | .cpsi a b _ => !badReg a.toNat && !badReg b.toNat
  | .cpso a b _ => !badReg a.toNat && !badReg b.toNat
  | .cpf a b _ _ => !badReg a.toNat && !badReg b.toNat
  | .cpz a _ => !badReg a.toNat
  | .cpc a _ => !badReg a.toNat
  | .cpset b r => !badReg b.toNat && decide (r.toNat < EngineFile.size .copy)
  | .cpget b r => !badReg b.toNat && decide (r.toNat < EngineFile.size .copy)
  | .vadd a b _ _ _ => !badReg a.toNat && !badReg b.toNat
  | .vsub a b _ _ _ => !badReg a.toNat && !badReg b.toNat
  | .vmul a b _ _ _ => !badReg a.toNat && !badReg b.toNat
  | .vfma a b _ _ _ => !badReg a.toNat && !badReg b.toNat
  | .vmin a b _ _ _ => !badReg a.toNat && !badReg b.toNat
  | .vmax a b _ _ _ => !badReg a.toNat && !badReg b.toNat
  | .vabs a b _ _ => !badReg a.toNat && !badReg b.toNat
  | .vneg a b _ _ => !badReg a.toNat && !badReg b.toNat
  | .vsqrt a b _ _ => !badReg a.toNat && !badReg b.toNat
  | .vexp2 a b _ _ => !badReg a.toNat && !badReg b.toNat
  | .vcmp a b _ c _ => !badReg a.toNat && !badReg b.toNat && !badCc12 c.toNat
  | .vsel a b _ _ _ => !badReg a.toNat && !badReg b.toNat
  | .vcvt a b _ _ _ => !badReg a.toNat && !badReg b.toNat
  | .vred a b _ => !badReg a.toNat && !badReg b.toNat
  | .vdot a b _ _ => !badReg a.toNat && !badReg b.toNat
  | .vgat a b _ _ => !badReg a.toNat && !badReg b.toNat
  | .vsca a b _ _ => !badReg a.toNat && !badReg b.toNat
  | .vscadd a b _ _ => !badReg a.toNat && !badReg b.toNat
  | .vrot a b _ r => !badReg a.toNat && !badReg b.toNat && !isThree r.toNat
  | .vquant a b _ => !badReg a.toNat && !badReg b.toNat
  | .vdeq a b _ => !badReg a.toNat && !badReg b.toNat
  | .vtab b _ _ => !badReg b.toNat
  | .vfix a b _ _ => !badReg a.toNat && !badReg b.toNat
  | .vflt a b _ _ => !badReg a.toNat && !badReg b.toNat
  | .vset b r => !badReg b.toNat && decide (r.toNat < EngineFile.size .vector)
  | .vget b r => !badReg b.toNat && decide (r.toNat < EngineFile.size .vector)
  | .mldb a b _ => !badReg a.toNat && !badReg b.toNat
  | .mmac a b _ => !badReg a.toNat && !badReg b.toNat
  | .mpass _ => true
  | .mzero a _ => !badReg a.toNat
  | .mdrain a b _ _ f => !badReg a.toNat && !badReg b.toNat && !isThree f.toNat
  | .mdrainx a _ _ => !badReg a.toNat
  | .maddx a _ => !badReg a.toNat
  | .mset b r => !badReg b.toNat && decide (r.toNat < EngineFile.size .matrix)
  | .mget b r => !badReg b.toNat && decide (r.toNat < EngineFile.size .matrix)
  | .pool a b _ => !badReg a.toNat && !badReg b.toNat
  | .poset b r => !badReg b.toNat && decide (r.toNat < EngineFile.size .pool)
  | .poget b r => !badReg b.toNat && decide (r.toNat < EngineFile.size .pool)
  | .binapp a b _ => !badReg a.toNat && !badReg b.toNat
  | .binplayFp32 a b _ => !badReg a.toNat && !badReg b.toNat
  | .binflush _ => true
  | .bnset b r => !badReg b.toNat && decide (r.toNat < EngineFile.size .bin)
  | .bnget b r => !badReg b.toNat && decide (r.toNat < EngineFile.size .bin)
  | .fenceQ => true
  | .fenceE => true
  | .fenceA => true
  | .back => true
  | .part => true
  | .quit => true
  | .yield => true
  | .done => true
  | .abort => true
  | .rte => true
  | .brk => true
  | .isync => true
  | .wakeNotice => true
  | .wakeCopyResume => true
  | .wakeCopyAbandon => true
  | .cprFp64 => true
  | .cprRaw => true
  | .cprInt64 => true
  | .binplayAnchored => true
  | .moduleReset => true
  | .laneFailure => true
  | .linkRetrainingComplete => true
  | .linkTrainingRetry => true
  | .lanifyPacketSend => true
  | .lanifyFlitReceive => true
  | .ackTimeout => true
  | .lanifyAcknowledgement => true
  | .replayRequest => true
  | .dieTemperatureChange => true
  | .thermalStepDown => true
  | .thermalStepUp => true
  | .relockRestart => true
  | .powerGrant => true
  | .powerGrantArrival => true
  | .allowanceExceeded => true
  | .dramRowRemap => true
  | .spareRankBringIn => true
  | .spareRankCopyDone => true
  | .commandPost => true
  | .commandAccept => true
  | .commandComplete => true
  | .functionLevelReset => true
  | .fnstWrite => true
  | .queryModule => true
  | .queryPartition => true
  | .partCreate => true
  | .partDestroy => true
  | .keySet => true
  | .imageLoad => true
  | .boot => true
  | .launch => true
  | .launchSeed => true
  | .launchComplete => true
  | .hostCopy => true
  | .attestQuote => true
  | .attestChain => true
  | .dump => true
  | .stop => true
  | .stopEdge => true
  | .resume => true
  | .censusCfgOff => true
  | .censusCfgOn => true
  | .censusCfgClear => true
  | .censusCfgRetrain => true
  | .powerSet => true
  | .healthReport => true
  | .healthRetrain => true
  | .dispatch => true
  | .overflowRefill => true
  | .stealIdle => true
  | .stealWaitEnd => true
  | .stealProbeArrival => true
  | .stolenTaskRecordArrival => true
  | .emptyReplyArrival => true
  | .periodExpiry => true
  | .accountIncrementArrival => true
  | .accountAckArrival => true
  | .accountDecrementArrival => true
  | .quitNoticeArrival => true
  | .retirementDecrementSend => true
  | .commitLogHandoff => true
  | .commitEntry => true
  | .commitEnd => true
  | .seededRecordArrival => true
  | .forkChildArrival => true
  | .taskTokenArrival => true
  | .spawnTokenArrival => true
  | .spawnDeadline => true
  | .spawnReplyArrival => true
  | .wakeTokenArrival => true
  | .storeBufferDrain => true
  | .loopbackPerform => true
  | .tableWalkComplete => true
  | .tlbinvComplete => true
  | .lmsplitTakeEffect => true
  | .engineCommandStart => true
  | .engineRead => true
  | .engineWritePerform => true
  | .engineCommandComplete => true
  | .latchTileArrival => true
  | .ringStall => true
  | .timerExpiry => true
  | .interruptEntry => true
  | .noticeArrival => true
  | .mailboxRingRefill => true
  | .contextArrival => true
  | .arrivalQueueRefill => true
  | .contextTake => true
  | .partyArrival => true
  | .pairPlacement => true
  | .meetingDeadline => true
  | .partyReturnArrival => true
  | .luggageWriteArrival => true
  | .dumpWrite => true
  | .testSlice => true
  | .forcedTestGap => true
  | .testSliceComplete => true
  | .censusRecordWrite => true
  | .sampleRecord => true
  | .barrierArrivalAtRoot => true
  | .barrierReleaseArrival => true
  | .podRelayForward => true
  | .barsetRootTake => true
  | .registerWrite => true
  | .lmsplitWrite => true
  | .tlbinvPage => true
  | .tlbinvAsid => true
  | .tlbinvPartition => true
  | .ptbaseWrite => true
  | .fcsrWrite => true
  | .mbstWrite => true
  | .engineStatusWrite => true
  | .illegalEncoding => true
  | .luggageWriteAcknowledgement => true
  | .monitorSlotStop => true
  | .columnCopyComplete => true
  | .rowCopyComplete => true

end Sys2Proof
end

