-- ==== Sys2Proof/Machine/Sregs.lean ====
section
/-! DEFINITION. What special registers and engine registers read (R202, R207, R233, R250, R309, R384), and a core's state as the bytes
of a save record (R234). -/
namespace Sys2Proof.Machine

/-! ## Special registers -/

/-- A thread's seat. -/
def State.seatOf (s : State) (t : TaskInfo) : Seat := (s.core t.seatCore).seat t.seat

/-- `prdl` of a thread: its seat's period counter; outside any task 2^64 − 1 (R138, R309). -/
def State.prdlOf (s : State) (t : Option Thread) : Word :=
  match t.bind (·.task) with
  | none => BitVec.allOnes 64
  | some i => (s.seatOf i).prdl

/-- A field of a thread's task; 0 outside any task. -/
def taskField (t : Option Thread) (f : TaskInfo → Word) : Word := ((t.bind (·.task)).map f).getD 0

/-- A field of a thread's context; 0 without a thread. -/
def ctxField (t : Option Thread) (f : Ctx → Word) : Word := (t.map (fun h => f h.ctx)).getD 0

/-- Bit `n` of a 16-bit set for every mailbox that satisfies a test. -/
def mailboxBits (o : Core) (f : Mailbox → Bool) : Nat :=
  (List.range 16).foldl (fun v n => if f (o.mailbox n) then v + 2 ^ n else v) 0

/-- A mailbox holds a notice, in its FIFO or its ring (R207). -/
def Mailbox.holds (m : Mailbox) : Bool := !m.fifo.isEmpty || m.ringCount != 0

/-- `mbst` (R207). -/
def Core.mbst (o : Core) : Word :=
  BitVec.ofNat 64 (o.mbLost.toNat * 2 ^ 48 + o.mbOvf.toNat * 2 ^ 32 + mailboxBits o (fun m => m.bound.isSome) * 2 ^ 16 +
    mailboxBits o Mailbox.holds)

/-- `lmsplit` (R162); 0 on a head core (R308). -/
def State.lmsplit (s : State) (c : Nat) : Word :=
  if isHead c then 0
  else BitVec.ofNat 64 ((s.core c).lmsplitCache * 256 + (s.core c).lmsplitCom * 16 +
    (12 - (s.core c).lmsplitCom - (s.core c).lmsplitCache))

/-- The luggage alias of a met party: its own, or its partner's (R217). -/
def lugAlias (m : Option Meet) (own : Bool) : Word :=
  match m with
  | none => 0
  | some t => if t.first == own then 0x20000 else 0x21000

/-- `capnet` (R49). -/
def capnet : Word := 0x40402020

/-- The value of special register `i` as slot `k` of core `c` reads it (R309). -/
def State.sreg (s : State) (c k : Nat) (i : Nat) : Word :=
  let o := s.core c
  let t := o.slot k
  let h := t.thread
  match i with
  | 0x000 => s.cyc c
  | 0x002 => s.ref c
  | 0x003 => BitVec.ofNat 64 c
  | 0x004 => BitVec.ofNat 64 ((h.map Thread.birth).getD 0)
  | 0x005 => (h.map (fun r => r.tid.zeroExtend 64)).getD 0
  | 0x006 => BitVec.ofNat 64 k
  | 0x010 => taskField h (·.task)
  | 0x011 => taskField h (·.dom0)
  | 0x012 => taskField h (·.dom1)
  | 0x013 => taskField h (·.dom2)
  | 0x014 => taskField h (·.budget)
  | 0x015 => s.prdlOf h
  | 0x016 => taskField h (·.launch)
  | 0x018 => ctxField h (·.fmta)
  | 0x019 => ctxField h (·.fmtb)
  | 0x020 => t.mdl
  | 0x021 => if isHead c then 0 else lugAlias t.meet true
  | 0x022 => if isHead c then 0 else lugAlias t.meet false
  | 0x023 => 1024
  | 0x024 => capnet
  | 0x030 => s.lmsplit c
  | 0x031 => if isHead c then 0 else o.qgroup
  | 0x032 => o.win0
  | 0x033 => o.win1
  | 0x034 => o.spool
  | 0x035 => o.qovf
  | 0x036 => o.mbovf
  | 0x037 => o.mbie
  | 0x038 => o.tcmp
  | 0x039 => o.mbst
  | 0x040 => t.eip
  | 0x041 => t.ecause
  | 0x042 => t.eaddr
  | 0x043 => t.estat
  | 0x044 => t.es0
  | 0x045 => t.es1
  | 0x046 => o.ivec
  | 0x047 => o.ivslot
  | 0x048 => o.upv
  | 0x050 => ctxField h (fun x => x.status.fcs.zeroExtend 64)
  | 0x058 => t.sigst
  | 0x060 => o.asid
  | 0x061 => o.ptbase
  | 0x062 => 0
  | 0x063 => o.dumpa
  | 0x064 => o.smpc
  | 0x066 => o.dbgh
  | 0x070 => o.ctxid.zeroExtend 64
  | _ => 0

/-! ## Engine registers (R384) -/

/-- A register file of a core. -/
def Core.file (o : Core) : EngineFile → List Word
  | .copy => o.copyRegs
  | .vector => o.vecRegs
  | .matrix => o.matRegs
  | .pool => o.poolRegs
  | .bin => o.binRegs

/-- A core with a register file replaced. -/
def Core.putFile (o : Core) (f : EngineFile) (l : List Word) : Core :=
  match f with
  | .copy => { o with copyRegs := l }
  | .vector => { o with vecRegs := l }
  | .matrix => { o with matRegs := l }
  | .pool => { o with poolRegs := l }
  | .bin => { o with binRegs := l }

/-- The index of a file's status register: its last. -/
def statusIndex (f : EngineFile) : Nat := f.size - 1

/-- The width of each register of a file, and whether it is signed (R386, R394, R405, R412, R416). -/
def fileWidths : EngineFile → List (Nat × Bool)
  | .copy => [(32, false), (64, true), (64, true), (32, false), (64, true), (64, true), (32, false), (5, false), (16, false),
      (1, false), (2, false), (64, false)]
  | .vector => [(32, false), (32, true), (32, true), (32, true), (64, false), (64, false), (4, false), (64, false), (16, true),
      (64, false), (64, false), (64, false), (64, false)]
  | .matrix => [(4, false), (4, false), (16, true), (32, false), (32, false), (3, false), (2, false), (64, false)]
  | .pool => [(64, false), (9, false), (4, false), (16, true), (1, false), (32, false), (5, false), (64, false)]
  | .bin => [(64, false), (5, false), (17, false), (1, false), (16, true), (5, false), (64, false)]

/-- The W1C bits of a status register (R384, R394, R405, R412, R416). -/
def w1cMask : EngineFile → Word
  | .copy => 0
  | .vector => 0x71F
  | .matrix => 0x700
  | .pool => 0x300
  | .bin => 0x700

/-- Commands of the copy engine in progress, and commands queued in an engine. -/
def Core.running (o : Core) (e : Engine) : Nat := (o.cmds.filter (fun c => c.engine == e && c.started)).length
def Core.queued (o : Core) (e : Engine) : Nat := (o.cmds.filter (fun c => c.engine == e && !c.started)).length

/-- The read-only bits of a status register that the engine shows (R386, R394, R405). -/
def State.statusView (s : State) (c : Nat) (f : EngineFile) : Nat :=
  let o := s.core c
  let thr := if !isHead c && (s.district (moduleOf c) (districtOf c)).throttled then 2 ^ 11 else 0
  match f with
  | .copy => o.running .copy * 2 ^ 7 + min 2 (o.queued .copy) * 2 ^ 5
  | .vector => thr
  | .matrix => thr + o.working.isSome.toNat * 2 ^ 7 + o.incoming.isSome.toNat * 2 ^ 6
  | .pool => 0
  | .bin => 0

/-- The value of register `i` of a file (R384). -/
def State.engineReg (s : State) (c : Nat) (f : EngineFile) (i : Nat) : Word :=
  if i = statusIndex f then (((s.core c).file f).getD i 0) ||| BitVec.ofNat 64 (s.statusView c f)
  else ((s.core c).file f).getD i 0

/-- A value as a register of `width` bits holds and returns it: its low bits, sign-extended when the register is signed. -/
def holdValue (width : Nat) (signed : Bool) (v : Word) : Word :=
  if signed then sext width v.toNat else BitVec.ofNat 64 (v.toNat % 2 ^ width)

/-- A set of an engine register (R384): the low bits of its width; a status register loses the W1C bits written as 1. -/
def setReg (f : EngineFile) (l : List Word) (i : Nat) (v : Word) : List Word :=
  if i = statusIndex f then l.set i (l.getD i 0 &&& ~~~(v &&& w1cMask f))
  else
    let w := (fileWidths f).getD i (64, false)
    l.set i (if f == .vector && i == 11 then v &&& 0x00000000C0FFC0FF else holdValue w.1 w.2 v)

/-! ## The bytes of a save record (R234) -/

/-- The R199 code of a park. -/
def Park.code : Park → Nat
  | .step n => n
  | .full _ _ => 2
  | .engine _ => 5
  | .recv _ _ _ _ => 6
  | .barrier _ _ _ _ => 7
  | .spawn _ => 8
  | .lmsplit _ => 9
  | .tlbinv _ => 9
  | .commit => 10
  | .barset => 12
  | .part _ => 13
  | .ctxsv _ => 14
  | .fault _ _ _ => 16
  | .loopback => 17
  | .luggage => 13

/-- The park operand of a slot record: mask, generation or address. -/
def Park.operand : Park → Word
  | .full a _ => a.va
  | .engine id => BitVec.ofNat 64 id
  | .recv _ _ m _ => m.zeroExtend 64
  | .barrier _ _ g _ => g.zeroExtend 64
  | .lmsplit v => v
  | .tlbinv v => v
  | .ctxsv a => a
  | .fault va _ _ => va
  | _ => 0

/-- The 32 words of a slot record. -/
def slotRecord (t : Slot) : List Word :=
  let x := (t.thread.map (·.ctx.words)).getD (List.replicate 16 0)
  let state : Nat := if t.thread.isNone then 0 else match t.park with
    | none => 1
    | some p => 2 + p.code * 256
  x ++ [(t.thread.map (fun h => h.tid.zeroExtend 64)).getD 0, BitVec.ofNat 64 state, t.mdl, t.sigst, t.eip, t.estat, t.ecause,
    t.eaddr, t.es0, t.es1, (t.park.map Park.operand).getD 0] ++ List.replicate 5 0

/-- A list of exactly `n` words: cut, or filled with zeros. -/
def padWords (n : Nat) (l : List Word) : List Word := l.take n ++ List.replicate (n - l.length) 0

/-- The 8 slot records. -/
def slotWords (o : Core) : List Word := (List.range 8).flatMap (fun k => slotRecord (o.slot k))

/-- The mailboxes: 16 FIFOs of 4 notices. -/
def mailboxWords (o : Core) : List Word := (List.range 16).flatMap (fun n => padWords 4 (o.mailbox n).fifo)

/-- The 16 registers of a save record. -/
def State.registerWords (s : State) (c : Nat) : List Word :=
  let o := s.core c
  [o.win0, o.win1, o.tcmp, o.ivslot, o.ivec, o.mbie, o.mbovf, o.mbst, o.qovf, o.spool, s.lmsplit c, o.qgroup, o.upv, o.asid, o.ptbase,
    o.smpc]

/-- The engine registers, in index order, filled to 48 words. -/
def State.engineWords (s : State) (c : Nat) : List Word :=
  let all := fun f => (List.range (EngineFile.size f)).map (s.engineReg c f)
  padWords 48 (all .copy ++ all .vector ++ all .matrix ++ all .pool ++ all .bin)

/-- Bytes +64 to +3,135 of a save record: slots, mailboxes, registers and engine registers. -/
def State.coreImage (s : State) (c : Nat) : List Byte :=
  bytesOf (slotWords (s.core c) ++ mailboxWords (s.core c) ++ s.registerWords c ++ s.engineWords c)

end Sys2Proof.Machine
end

