-- ==== Sys2Proof/Machine/Operands.lean ====
section
/-! DEFINITION. Operands: register fields, stream registers, predicates and immediates (R295 to R298, R177). -/
namespace Sys2Proof.Machine

/-! ## General registers -/

/-- A general register of a context; `zr`, the stream fields and the unassigned fields read 0 here (R296). -/
def Ctx.get (x : Ctx) (f : Reg) : Word :=
  match f.toNat with
  | 0 => x.x0
  | 1 => x.x1
  | 2 => x.x2
  | 3 => x.x3
  | 4 => x.x4
  | 5 => x.x5
  | 6 => x.x6
  | 7 => x.x7
  | 8 => x.x8
  | 9 => x.x9
  | 10 => x.fp
  | _ => 0

/-- A context with a general register written; a write of any other field changes nothing here (R296). -/
def Ctx.put (x : Ctx) (f : Reg) (v : Word) : Ctx :=
  match f.toNat with
  | 0 => { x with x0 := v }
  | 1 => { x with x1 := v }
  | 2 => { x with x2 := v }
  | 3 => { x with x3 := v }
  | 4 => { x with x4 := v }
  | 5 => { x with x5 := v }
  | 6 => { x with x6 := v }
  | 7 => { x with x7 := v }
  | 8 => { x with x8 := v }
  | 9 => { x with x9 := v }
  | 10 => { x with fp := v }
  | _ => x

/-- A field names a stream register (R296). -/
def isStream (f : Reg) : Bool := f == 11 || f == 12

/-- The stream number of a stream field. -/
def streamNo (f : Reg) : Nat := f.toNat - 11

/-- The link register x9 (R304). -/
def linkReg : Reg := 9

/-! ## Stream registers (R177) -/

/-- The binding of a stream field for a thread on a core. -/
def Core.stream (o : Core) (tid : BitVec 32) (f : Reg) : Option Stream :=
  o.streams.find? (fun b => b.q == streamNo f && b.tid == tid)

/-- A core with a thread's binding of a stream field changed. -/
def Core.modStream (o : Core) (tid : BitVec 32) (f : Reg) (g : Stream → Stream) : Core :=
  { o with streams := o.streams.map (fun b => if b.q == streamNo f && b.tid == tid then g b else b) }

/-- Whether an operand is ready. -/
inductive Ready where
  | yes
  /-- an input binding without an element, or an output binding with 16 unsent: park 3 -/
  | wait
  /-- no such binding: trap cause 12 -/
  | unbound
  deriving DecidableEq, Repr

/-- Readiness of a source field. -/
def sourceReady (o : Core) (tid : BitVec 32) (f : Reg) : Ready :=
  if isStream f then
    match o.stream tid f with
    | none => .unbound
    | some b => if !b.input || b.count ≤ b.used then .unbound else if b.elems.isEmpty then .wait else .yes
  else .yes

/-- Readiness of a destination field. -/
def destReady (o : Core) (tid : BitVec 32) (f : Reg) : Ready :=
  if isStream f then
    match o.stream tid f with
    | none => .unbound
    | some b => if b.input || b.count ≤ b.used then .unbound else if 16 ≤ b.elems.length then .wait else .yes
  else .yes

/-- Readiness of every operand of an instruction: an unbound one decides before one that waits. -/
def operandsReady (o : Core) (tid : BitVec 32) (srcs dsts : List Reg) : Ready :=
  let all := srcs.map (sourceReady o tid) ++ dsts.map (destReady o tid)
  if all.contains .unbound then .unbound else if all.contains .wait then .wait else .yes

/-! ## Operands of a slot -/

/-- X(f) for the thread in slot `k` of core `c` (R296): a stream field gives its oldest element, which is not yet taken. -/
def State.regAt (s : State) (c k : Nat) (f : Reg) : Word :=
  match (s.slot c k).thread with
  | none => 0
  | some t =>
    if isStream f then (((s.core c).stream t.tid f).bind (·.elems.head?)).getD 0
    else t.ctx.get f

/-- setX(f, v) for the thread in slot `k` of core `c` (R296): a stream field appends to its output binding, `zr` discards. -/
def State.setRegAt (s : State) (c k : Nat) (f : Reg) (v : Word) : State :=
  match (s.slot c k).thread with
  | none => s
  | some t =>
    if isStream f then
      s.modCore c (fun o => o.modStream t.tid f (fun b =>
        if b.input then b else { b with elems := b.elems ++ [v], used := b.used + 1 }))
    else s.modSlot c k (fun l => { l with thread := some { t with ctx := t.ctx.put f v } })

/-- Takes one element from each stream of a thread named by the source fields: one element serves every field that names it (R296). -/
def State.takeFor (s : State) (c : Nat) (tid : BitVec 32) (srcs : List Reg) : State :=
  [11, 12].foldl (fun s (f : Reg) =>
    if srcs.contains f then
      s.modCore c (fun o => o.modStream tid f (fun b =>
        if b.input then { b with elems := b.elems.drop 1, used := b.used + 1 } else b))
    else s) s

/-- The same for the thread in a slot. -/
def State.takeAt (s : State) (c k : Nat) (srcs : List Reg) : State :=
  match (s.slot c k).thread with
  | none => s
  | some t => s.takeFor c t.tid srcs

/-- The elements that a thread would take from the streams named by source fields. -/
def State.tookAt (s : State) (c k : Nat) (srcs : List Reg) : List (Reg × Word) :=
  [11, 12].filterMap (fun (f : Reg) => if srcs.contains f then some (f, s.regAt c k f) else none)

/-- Elements that an instruction of a thread took go back to the heads of their bindings, as an instruction that traps takes none (R346);
a binding whose command has completed since holds its last element again. -/
def State.giveBack (s : State) (c : Nat) (tid : BitVec 32) (took : List (Reg × Word)) : State :=
  took.foldl (fun s r => s.modCore c (fun o =>
    if (o.stream tid r.1).isSome then
      o.modStream tid r.1 (fun b => if b.input then { b with elems := r.2 :: b.elems, used := b.used - 1 } else b)
    else
      { o with streams := o.streams ++
          [{ q := streamNo r.1, tid, input := true, cmd := 0, base := 0, count := 1, elems := [r.2], moved := 1 }] })) s

/-- The ip of the thread in a slot moved past its instruction, and its slot no longer parked. -/
def State.advanceAt (s : State) (c k : Nat) : State :=
  s.modSlot c k (fun l =>
    { l with park := none, thread := l.thread.map (fun t => { t with ctx := { t.ctx with ip := t.ctx.ip + 4 } }) })

/-- X(f) of the running thread. -/
def State.X (s : State) (f : Reg) : Word := s.regAt s.cur.1 s.cur.2 f

/-- setX(f, v) of the running thread. -/
def State.setX (s : State) (f : Reg) (v : Word) : State := s.setRegAt s.cur.1 s.cur.2 f v

/-! ## Predicates (R298) -/

/-- P(k) of a context; p0 reads 1. -/
def Ctx.pred (x : Ctx) (k : Pred) : Bool := k == 0 || x.p.getLsbD k.toNat

/-- setP(k, v): a write to p0 is discarded. -/
def Ctx.setPred (x : Ctx) (k : Pred) (v : Bool) : Ctx :=
  if k = 0 then x
  else { x with p := if v then x.p ||| ((1 : BitVec 16) <<< k.toNat) else x.p &&& ~~~((1 : BitVec 16) <<< k.toNat) }

/-- P(k) of the running thread. -/
def State.P (s : State) (k : Pred) : Bool :=
  match s.running.thread with
  | none => k == 0
  | some t => t.ctx.pred k

/-- setP(k, v) of the running thread. -/
def State.setP (s : State) (k : Pred) (v : Bool) : State := s.modCtx (fun x => x.setPred k v)

/-! ## Immediates (R295) -/

/-- A field sign-extended to 64 bits. -/
def imm {n : Nat} (v : BitVec n) : Word := v.signExtend 64

/-- A displacement in words, sign-extended, as bytes. -/
def disp {n : Nat} (v : BitVec n) : Word := imm v * 4

/-- The address of the running thread's instruction. -/
def State.ip (s : State) : Word := ((s.running.thread).map (·.ctx.ip)).getD 0

end Sys2Proof.Machine
end

