-- ==== Sys2Proof/Machine/Flags.lean ====
section
/-! DEFINITION. Condition codes and the flags of `fcsr` (R269, R270, R299, R345). -/
namespace Sys2Proof.Machine

/-- An integer condition on two operands of any width (R299). -/
def cond {n : Nat} (cc : BitVec 4) (a b : BitVec n) : Bool :=
  match cc.toNat with
  | 0 => a == b
  | 1 => a != b
  | 2 => a.slt b
  | 3 => !a.slt b
  | 4 => a.ult b
  | 5 => !a.ult b
  | 6 => !b.slt a
  | 7 => b.slt a
  | 8 => !b.ult a
  | 9 => b.ult a
  | 10 => (a &&& b) != 0
  | 11 => (a &&& b) == 0
  | _ => false

/-- A floating condition, and whether it raises `nv` (R299): codes 2 to 5 on any NaN, the others on a signalling one. -/
def fcond (f : Fmt) (cc : BitVec 4) (a b : Nat) : Bool × Bool :=
  let x := f.decode a
  let y := f.decode b
  let un := x.isNan || y.isNan
  let quiet := x.isSnan || y.isSnan
  match cc.toNat with
  | 0 => (x.eq y, quiet)
  | 1 => (!x.eq y, quiet)
  | 2 => (x.lt y, un)
  | 3 => (x.lt y || x.eq y, un)
  | 4 => (y.lt x, un)
  | 5 => (y.lt x || x.eq y, un)
  | 6 => (un, quiet)
  | 7 => (!un, quiet)
  | _ => (false, false)

/-- Flags gathered into the `fcs` field of a context. -/
def Ctx.raise (x : Ctx) (g : Nat) : Ctx := { x with status := { x.status with fcs := x.status.fcs ||| BitVec.ofNat 8 g } }

/-- The rounding mode of an instruction: its m field, or the dynamic mode of the thread when m = 7 (R268, R345). -/
def Ctx.mode (x : Ctx) (m : BitVec 3) : Rnd :=
  if m.toNat = 7 then Rnd.ofCode (x.status.fcs.toNat / 32 % 4) else Rnd.ofCode m.toNat

/-- Flags gathered into `fcsr` of the running thread. -/
def State.raise (s : State) (g : Nat) : State := s.modCtx (·.raise g)

end Sys2Proof.Machine
end

