-- ==== Sys2Proof/Machine/Net.lean ====
section
/-! DEFINITION. Travellers, fatal faults and their dumps, ready queues with their overflow rings, launch accounts, and the delivery of
notices (R124 to R127, R142 to R146, R205 to R207, R233, R240 to R243). -/
namespace Sys2Proof.Machine

/-! ## Travellers -/

/-- Adds 1 at an index of a list of counts. -/
def bump (l : List Nat) (i : Nat) : List Nat := l.set i (l.getD i 0 + 1)

/-- The bytes of a memory item of a commit log on its way. -/
def MemLog.bytes : MemLog → List Byte
  | .store _ _ n v => toBytes v.toNat n
  | .red _ _ _ n v => toBytes v.toNat n
  | .join va _ => toBytes va.toNat 8
  | .tsk _ _ e => bytesOf (e.image.words ++ [e.frame])

/-- The bytes of a share of a bag block: each row with its weight. -/
def bagBytes (bags : List (List (Nat × Option Nat))) : List Byte :=
  bags.flatten.flatMap (fun r => toBytes r.1 4 ++ ((r.2.map (fun w => toBytes w 4)).getD []))

/-- What a traveller holds, as bytes in the order in which R423 names them; side-band fields are not part of it. -/
def Payload.bytes : Payload → List Byte
  | .context h _ _ => bytesOf h.ctx.words
  | .faulted h _ _ _ => bytesOf h.ctx.words
  | .party p => bytesOf p.thread.ctx.words ++ p.luggage
  | .partyReturn p _ w => bytesOf p.thread.ctx.words ++ (if w then p.luggage else [])
  | .luggageWrite _ l _ _ => l
  | .luggageAck tid => toBytes tid.toNat 8
  | .notice _ w _ => toBytes w.toNat 8
  | .increment l k _ h => toBytes (l + k * 2 ^ 32 + h * 2 ^ 40) 8
  | .incAck h => toBytes h 8
  | .decrement d => toBytes d.launch 8
  | .quit n tid => toBytes (n + tid.toNat * 2 ^ 32) 8
  | .wake n w => toBytes (w.toNat + n) 8
  | .wakeCopy id a => toBytes (id + a.toNat * 2 ^ 62) 8
  | .spawn x0 x1 x2 x3 entry d _ _ => bytesOf [x0, x1, x2, x3, entry, BitVec.ofNat 64 d]
  | .spawnReply _ n tid _ => toBytes (6 * 2 ^ 58 + n * 2 ^ 48 + tid.toNat) 8
  | .probe => toBytes 0 8
  | .stolen e => bytesOf (e.image.words ++ [e.frame])
  | .emptyReply => toBytes 0 8
  | .seeded r => bytesOf r.words
  | .forkChild r => bytesOf r.words
  | .task _ va prio l p => bytesOf [va, BitVec.ofNat 64 prio, l, p]
  | .push _ e => bytesOf (e.image.words ++ [e.frame])
  | .barArrive sc n p k => toBytes (sc + n * 2 ^ 8 + p * 2 ^ 16 + k * 2 ^ 32) 8
  | .barRelease sc n p g => toBytes (sc + n * 2 ^ 8 + p * 2 ^ 16 + g.toNat * 2 ^ 32) 8
  | .barSet sc n p k slot => toBytes (sc + n * 2 ^ 8 + p * 2 ^ 16 + k * 2 ^ 32 + slot * 2 ^ 48) 8
  | .copyData _ w => w.bytes
  | .copyRead r => r.got
  | .commitItem _ _ e => e.bytes
  | .poolAsk _ bags => bagBytes bags
  | .poolShare _ bags => bagBytes bags
  | .poolPart _ sums => sums.flatMap (fun b => b.acc.flatMap (fun a => toBytes a.n.toNat 12))
  | .poolSum _ _ words _ _ _ => words.flatten
  | .binAsk id _ _ va => toBytes id 8 ++ toBytes va.toNat 8
  | .binTaken _ _ records _ _ => bytesOf records
  | .hostMove x => x.data.getD []
  | .bell p edge => toBytes (p + edge * 2 ^ 8) 8
  | .census _ l => l
  | .latch l => l.bytes ++ l.scales.getD []
  | .grant d a => toBytes (d + a * 2 ^ 8) 8

/-- The bytes of a traveller's contents. -/
def Payload.size (p : Payload) : Nat := p.bytes.length

/-- The mesh flits of a traveller: the smallest number of 32-byte flits that holds its contents (R43, R423). -/
def Payload.flits (p : Payload) : Nat := max 1 ((p.size + 31) / 32)

/-- A traveller leaves its source (R44, R179 step 8), and is counted there (R239); what a capacity buffer sends leaves no core. -/
def State.send (s : State) (t : Traveller) : State :=
  let s1 := { s with net := s.net ++ [{ t with key := s.stamp, stands := t.src }], stamp := s.stamp + 1 }
  if t.vc < 3 && !t.fromBuffer then s1.modCore t.src (fun o => { o with departed := bump o.departed t.vc }) else s1

/-- The context tag of a core's travellers (R233). -/
def State.tagOf (s : State) (c : Nat) : BitVec 16 := (s.core c).ctxid

/-- A notice sent to a mailbox of a core, with a tag. -/
def State.sendNotice (s : State) (src dst mb : Nat) (w : Word) (tag : BitVec 16) (after : Option Decrement) : State :=
  s.send { src := src, dst := dst, vc := 2, tag := tag, part := s.partTag src, load := .notice mb w after }

/-- A notice word (R205): kind, status and payload. -/
def noticeWord (kind status payload : Nat) : Word :=
  BitVec.ofNat 64 (kind % 64 * 2 ^ 58 + status % 1024 * 2 ^ 48 + payload % 2 ^ 48)

/-- The kind of a notice. -/
def noticeKind (w : Word) : Nat := bits w 63 58

/-- A notice of R224 to mb15 of the supervisor core, with context tag 0. -/
def State.tellSupervisor (s : State) (c : Nat) (w : Word) (after : Option Decrement) : State :=
  match s.supervisorOf c with
  | none => s
  | some sup => s.sendNotice c sup 15 w 0 after

/-! ## Addresses that the core itself uses (R127, R207) -/

/-- A supervisor thread of no task: the core's own network interface. -/
def netThread : Thread := { ctx := { status := { sup := true } } }

/-- The home key of a virtual address for the core's network interface, if it translates (R127); its walks wait for no queue of slots. -/
def State.netKey (s : State) (c va n : Nat) (store : Bool) : State × Option Nat :=
  match s.place c netThread none va n (if store then .store else .load) with
  | (s1, .priv k) => (s1, some k)
  | (s1, .quad k) => (s1, some k)
  | (s1, .own k) => (s1, some k)
  | (s1, .away _ k) => (s1, some (nearKey k))
  | (s1, .busy) => (s1, match walkPlace c netThread va (if store then .store else .load) (s1.lookupNow c va).2 with
    | .quad k => some k
    | .away _ k => some k
    | _ => none)
  | (s1, _) => (s1, none)

/-! ## Fatal faults and dumps (R240 to R243) -/

/-- The fault record of a thread in a slot. -/
def State.faultRec (s : State) (c k kind : Nat) : FaultRec :=
  let t := s.slot c k
  { ecause := t.ecause, kind := kind, eip := t.eip, eaddr := t.eaddr, ref := s.ref c, cyc := s.cyc c, core := c,
    thread := t.thread.getD {}, tag := s.tagOf c,
    image := s.coreImage c ++ (if isHead c then s.bytes (localKey c 0) 10240
      else s.bytes (localKey c 0) (min 10240 (s.privSize c))) }

/-- What a fatal fault does to a partition's dumps (R242, R243), and the sequence number of its notice. A fault of the dump in progress
has that dump's number; every other takes the next one, a fault that is lost as well (DESIGN CHOICE, log 105). -/
def Part.dumpFault (q : Part) (en : Bool) (c now : Nat) (f : FaultRec) : Part × Nat :=
  let seq := q.dumpSeq + 1
  match q.dumping with
  | none =>
    if en then ({ q with dumpSeq := seq, dumpLost := 0, dumping := some { seq, fault := { f with seq }, lostBefore := q.dumpLost } }, seq)
    else ({ q with dumpSeq := seq }, seq)
  | some j =>
    if c = q.supervisor then ({ q with state := .halted, edge := some (now + 400), dumping := some { j with broken := true } }, j.seq)
    else if j.fault.tag = f.tag then
      if j.secondary.length < 4 then ({ q with dumping := some { j with secondary := j.secondary ++ [f] } }, j.seq)
      else ({ q with dumping := some { j with more := j.more + 1 } }, j.seq)
    else if q.dumpQueue.length < 16 then ({ q with dumpSeq := seq, dumpQueue := q.dumpQueue ++ [{ f with seq }] }, seq)
    else ({ q with dumpSeq := seq, dumpLost := q.dumpLost + 1 }, seq)

/-- A fatal fault raised (R241 to R243): its dump, or its place behind the one being written, and the kind-8 notice. -/
def State.raiseFatal (s : State) (c : Nat) (f : FaultRec) : State :=
  match s.partOf c with
  | none => s
  | some p =>
    let m := moduleOf c
    let q := s.part m p
    let r := q.dumpFault (bit (s.core q.supervisor).dumpa 0) c (s.refNs m) f
    (s.modPart m p (fun _ => r.1)).tellSupervisor c (noticeWord 8 f.kind (c % 2 ^ 24 * 2 ^ 24 + r.2 % 2 ^ 24)) none

/-- A partition halts after a fatal fault: the monitor stops it as STOP would (R241, R96): the stop edge is 400 ns away (R238). -/
def State.haltPartition (s : State) (c : Nat) : State :=
  match s.partOf c with
  | none => s
  | some p =>
    s.modPart (moduleOf c) p (fun q => { q with state := .halted, edge := some (s.refNs (moduleOf c) + 400) })

/-- A fatal fault of the partition, of kinds 4 to 8, with no thread at fault (R241). -/
def State.fatalPartition (s : State) (c kind : Nat) : State :=
  let image := s.coreImage c ++ s.bytes (localKey c 0) (min 10240 (s.privSize c))
  (s.raiseFatal c { kind, ref := s.ref c, cyc := s.cyc c, core := c, tag := s.tagOf c, image }).haltPartition c

/-! ## Ready queues (R124, R125) -/

/-- The queue part of a priority. -/
def Core.queue (o : Core) (p : Nat) : List QEntry :=
  if p = 0 then o.q0 else if p = 1 then o.q1 else if p = 2 then o.q2 else o.q3

/-- A core with the queue part of a priority replaced. -/
def Core.putQueue (o : Core) (p : Nat) (l : List QEntry) : Core :=
  if p = 0 then { o with q0 := l } else if p = 1 then { o with q1 := l } else if p = 2 then { o with q2 := l } else { o with q3 := l }

/-- Entries in the queue, over all priorities. -/
def Core.queueCount (o : Core) : Nat := o.q0.length + o.q1.length + o.q2.length + o.q3.length

/-- The overflow ring of a priority. -/
def Core.ring (o : Core) (p : Nat) : Ring := (o.rings.get p).getD {}

/-- Records in the overflow part of a priority: contexts of ring 0 do not count. -/
def Ring.records (r : Ring) : Nat := (r.items.filter (fun i => i.context.isNone)).length

/-- Records at a priority, both parts (R125). -/
def Core.countAt (o : Core) (p : Nat) : Nat := (o.queue p).length + (o.ring p).records

/-- The virtual address of a position of an overflow ring (R127): rings 0 to 3 and 5 hold 256 bytes a position, ring 4 holds 128. -/
def Core.ringAddr (o : Core) (r pos : Nat) : Nat :=
  bits o.qovf 47 16 * 2 ^ 16 + r * 2 ^ 16 + pos * (if r = 4 then 128 else 256)

/-- The 256 bytes of an entry in a ring: the record image, F, and zeros. -/
def QEntry.bytes (e : QEntry) : List Byte := bytesOf (e.image.words ++ [e.frame]) ++ List.replicate 120 0

/-- Writes an entry's bytes at a ring position; none when the area cannot be used (R127). -/
def State.writeRing (s : State) (c r pos : Nat) (bs : List Byte) : State × Bool :=
  if !bit (s.core c).qovf 0 then (s, false)
  else match s.netKey c ((s.core c).ringAddr r pos) 1 true with
    | (s1, some k) => (s1.putBytes k bs, true)
    | (s1, none) => (s1, false)

/-- The first position of a ring that no item holds, upward or downward from a position: the rule fixes the order of a ring's entries,
not their positions (DESIGN CHOICE, log 106). -/
def Ring.freePos (r : Ring) (from' : Nat) (up : Bool) : Nat :=
  (((List.range 256).map (fun i => (if up then from' + i else from' + 256 - i) % 256)).find? (fun q => !r.items.any (fun i => i.pos == q))).getD
    from'

/-- The position of an item that joins the tail, or the head, of a ring. -/
def Ring.spillPos (r : Ring) (head : Bool) : Nat :=
  match head, r.items.head? with
  | true, some i => r.freePos ((i.pos + 255) % 256) false
  | _, _ => r.freePos r.next true

/-- Spills an entry to the tail, or the head, of O_p (R125); a spill that fails is the fatal fault of R127. -/
def State.spill (s : State) (c p : Nat) (e : QEntry) (ctx : Option Traveller) (head : Bool) : State :=
  let r := (s.core c).ring p
  if 256 ≤ r.items.length then s.fatalPartition c 4
  else
    let pos := r.spillPos head
    match s.writeRing c p pos e.bytes with
    | (s1, false) => s1.fatalPartition c 4
    | (s1, true) =>
      let item : Spill := { pos := pos, x0 := e.x0, context := ctx }
      let tailFree := !head || r.items.isEmpty
      let ring : Ring := { next := if tailFree then (pos + 1) % 256 else r.next,
                           items := if head then item :: r.items else r.items ++ [item] }
      s1.modCore c (fun o => { o with rings := o.rings.set p ring })

/-- A core that has received work by any means: a thief stops probing, and the idle count starts again (R147). -/
def Core.gotWork (o : Core) : Core := { o with steal := .busy, idleFor := 0, waited := 0 }

/-- Push at the tail of a priority (R125). -/
def State.pushTail (s : State) (c p : Nat) (e : QEntry) : State :=
  let o := s.core c
  if (o.ring p).records ≠ 0 || 64 ≤ o.queueCount then (s.spill c p e none false).modCore c Core.gotWork
  else s.modCore c (fun o => (o.putQueue p (o.queue p ++ [e])).gotWork)

/-- The lowest priority that has entries in the queue. -/
def Core.lowestQueued (o : Core) : Option Nat := [3, 2, 1, 0].find? (fun p => !(o.queue p).isEmpty)

/-- Push at the head of a priority (R125): a full queue first moves the last entry of its lowest priority to that priority's O_p. -/
def State.pushHead (s : State) (c p : Nat) (e : QEntry) : State :=
  let o := s.core c
  let s1 :=
    if 64 ≤ o.queueCount then
      match o.lowestQueued with
      | none => s
      | some q =>
        match (o.queue q).getLast? with
        | none => s
        | some v => (s.modCore c (fun o => o.putQueue q ((o.queue q).dropLast))).spill c q v none true
    else s
  s1.modCore c (fun o => (o.putQueue p (e :: o.queue p)).gotWork)

/-- The head of the highest non-empty O_p moves to the tail of Q_p when the queue has a free entry (R125); the entry is read from its
ring. -/
def State.refill (s : State) (c : Nat) : State :=
  let o := s.core c
  if 64 ≤ o.queueCount then s
  else
    match [0, 1, 2, 3].find? (fun p => (o.ring p).records ≠ 0) with
    | none => s
    | some p =>
      match (o.ring p).items.find? (fun i => i.context.isNone) with
      | none => s
      | some i =>
        match s.netKey c (o.ringAddr p i.pos) 1 false with
        | (s1, none) => s1.fatalPartition c 4
        | (s1, some k) =>
          let w := wordsOf (s1.bytes k 136)
          let e : QEntry := { image := Rec.ofWords w, frame := w.getD 16 0, x0 := i.x0 }
          s1.modCore c (fun o =>
            let o1 := { o with rings := o.rings.set p { o.ring p with items := (o.ring p).items.erase i } }
            o1.putQueue p (o1.queue p ++ [e]))

/-- The records of an overflow part, oldest first, each with its item: read from the ring (R127). -/
def State.spilled (s : State) (c p : Nat) : List (Spill × QEntry) :=
  let o := s.core c
  (o.ring p).items.filterMap (fun i =>
    if i.context.isSome then none
    else match (s.netKey c (o.ringAddr p i.pos) 1 false).2 with
      | none => none
      | some k =>
        let w := wordsOf (s.bytes k 136)
        some (i, { image := Rec.ofWords w, frame := w.getD 16 0, x0 := i.x0 }))

/-- The entries of a priority in FIFO order, both parts, as dispatch, `qpop` and a thief see them (R125, R129, R130, R148). -/
def State.entries (s : State) (c p : Nat) : List QEntry :=
  if ((s.core c).ring p).items.isEmpty then (s.core c).queue p else (s.core c).queue p ++ (s.spilled c p).map (·.2)

/-- Every record of a core's overflow parts can be read; otherwise its use is the fatal fault of R127. -/
def State.ringsRead (s : State) (c : Nat) : Bool :=
  [0, 1, 2, 3].all (fun p => ((s.core c).ring p).items.isEmpty || decide ((s.spilled c p).length = ((s.core c).ring p).records))

/-- A core without entry `i` of a priority: an entry of its queue part, or the record item at that place of the overflow part. -/
def Core.takeEntry (o : Core) (p i : Nat) : Core :=
  if i < (o.queue p).length then o.putQueue p ((o.queue p).eraseIdx i)
  else match ((o.ring p).items.filter (fun x => x.context.isNone))[i - (o.queue p).length]? with
    | none => o
    | some x => { o with rings := o.rings.set p { o.ring p with items := (o.ring p).items.erase x } }

/-! ## Launch accounts (R142, R143) -/

/-- The head core that keeps a core's partition's accounts. -/
def State.headOf (s : State) (c : Nat) : Nat := ((s.partRec c).map (·.head)).getD c

/-- What an acknowledgement releases. -/
def State.release (s : State) (c : Nat) : Release → State
  | .pushTail p e => s.pushTail c p e
  | .pushHead p e => s.pushHead c p e
  | .send t => s.send t
  | .copy => s

/-- The thread in a slot. -/
def State.tidAt (s : State) (c k : Nat) : Option (BitVec 32) := (s.slot c k).thread.map (·.tid)

/-- An increment of a launch by `k` that thread `who` has caused, and what waits for its acknowledgement; launch 0 has no account and
releases at once (R143). -/
def State.increment (s : State) (c launch k : Nat) (copy : Bool) (who : Option (BitVec 32)) (rs : List Release) : State :=
  if launch = 0 then rs.foldl (fun s r => s.release c r) s
  else
    let key := (s.core c).nextHold
    let s1 := s.modCore c (fun o => { o with nextHold := key + 1, holds := o.holds ++ [{ key, who, releases := rs }] })
    s1.send { src := c, dst := s.headOf c, vc := 2, tag := 0, part := s.partTag c, load := .increment launch k copy key }

/-- A decrement sent to the account (R143, R144). -/
def State.decrement (s : State) (c : Nat) (d : Decrement) : State :=
  if d.launch = 0 then s
  else s.send { src := c, dst := s.headOf c, vc := 2, tag := 0, part := s.partTag c, load := .decrement d }

/-- The launch number of a record. -/
def Rec.launchNo (r : Rec) : Nat := bits r.launch 31 0

/-! ## Grain faults (R146) -/

/-- The grain-fault path: ring 4, the kind-9 notice, and the decrement that follows its delivery. For cause 7 the copy holds F at
+96. -/
def State.grainFault (s : State) (c : Nat) (r : Rec) (cause : Nat) (frame : Word) : State :=
  let o := s.core c
  let img := if cause = 7 then { r with r0 := frame } else r
  match s.writeRing c 4 o.ring4Next (bytesOf img.words) with
  | (s1, false) => s1.fatalPartition c 4
  | (s1, true) =>
    (s1.modCore c (fun o => { o with ring4Next := (o.ring4Next + 1) % 512 })).tellSupervisor c
      (noticeWord 9 cause (o.ringAddr 4 o.ring4Next))
      (some { launch := r.launchNo, grain := true })

/-! ## Notices (R206, R207) -/

/-- The virtual address of a mailbox ring's position (R207). -/
def Core.mbRingAddr (o : Core) (n pos : Nat) : Nat := bits o.mbovf 47 15 * 2 ^ 15 + n * 2048 + pos * 8

/-- A notice dropped at a spill sets `lost` (R207). -/
def State.dropNotice (s : State) (c n : Nat) : State :=
  s.modCore c (fun o => { o with mbLost := o.mbLost ||| ((1 : BitVec 16) <<< n) })

/-- A notice appended to a mailbox's ring (R206 rule 3). -/
def State.spillNotice (s : State) (c n : Nat) (w : Word) : State :=
  let o := s.core c
  let m := o.mailbox n
  if !bit o.mbovf 0 || 256 ≤ m.ringCount then s.dropNotice c n
  else
    match s.netKey c (o.mbRingAddr n ((m.ringHead + m.ringCount) % 256)) 8 true with
    | (s1, none) => s1.dropNotice c n
    | (s1, some k) =>
      (s1.putBytes k (toBytes w.toNat 8)).modCore c (fun o =>
        { o with mailboxes := o.mailboxes.set n { m with ringCount := m.ringCount + 1 },
                 mbOvf := o.mbOvf ||| ((1 : BitVec 16) <<< n) })

/-- The slot that waits in `recv` on a mailbox and began earliest, the lower number first among equals (R206 rule 1): the slot, its
fields. -/
def Core.recvWaiter (o : Core) (n : Nat) : Option (Nat × Reg × Reg) :=
  let cands := (List.range 8).filterMap (fun k =>
    match (o.slot k).park with
    | some (.recv d a m since) => if m.getLsbD n then some (since, k, d, a) else none
    | _ => none)
  match cands with
  | [] => none
  | c0 :: rest =>
    let best := rest.foldl (fun (b : Nat × Nat × Reg × Reg) x => if x.1 < b.1 then x else b) c0
    some best.2

/-- A notice delivered to mailbox `n` of a core by the first rule of R206 that applies. The monitor slot of a head core, which waits on
mb14 before any other slot does, takes every notice there (R104). -/
def State.deliver (s : State) (c n : Nat) (w : Word) : State :=
  let o := s.core c
  if n = 14 && s.monitorWaits c then s
  else match o.recvWaiter n with
  | some (k, d, a) => ((s.takeAt c k [a]).setRegAt c k d w).advanceAt c k
  | none =>
    match (o.mailbox n).bound with
    | some e =>
      let e1 := { e with x0 := w }
      s.increment c e.image.launchNo 1 false none [.pushTail e.image.prio e1]
    | none =>
      if (o.mailbox n).fifo.length < 4 && (o.mailbox n).ringCount = 0 then
        s.modCore c (fun o => { o with mailboxes := o.mailboxes.set n { o.mailbox n with fifo := (o.mailbox n).fifo ++ [w] } })
      else s.spillNotice c n w

/-- The notices of a mailbox's ring, oldest first. -/
def State.ringNotices (s : State) (c n : Nat) : List Word :=
  let o := s.core c
  let m := o.mailbox n
  (List.range m.ringCount).map (fun i => match (s.netKey c (o.mbRingAddr n ((m.ringHead + i) % 256)) 8 false).2 with
    | none => 0
    | some k => s.word k)

/-- Notices written from a position of a mailbox's ring on. -/
def State.putNotices (s : State) (c n : Nat) : Nat → List Word → State
  | _, [] => s
  | pos, w :: rest =>
    match s.netKey c ((s.core c).mbRingAddr n (pos % 256)) 8 true with
    | (s1, none) => s1.putNotices c n (pos + 1) rest
    | (s1, some k) => (s1.putBytes k (toBytes w.toNat 8)).putNotices c n (pos + 1) rest

/-- A mailbox that keeps only some of its notices, in its FIFO and in its ring (R139 step 3). -/
def State.keepNotices (s : State) (c n : Nat) (keep : Word → Bool) : State :=
  let m := (s.core c).mailbox n
  let put := fun (s : State) (count : Nat) => s.modCore c (fun o =>
    { o with mailboxes := o.mailboxes.set n { m with fifo := m.fifo.filter keep, ringCount := count } })
  if m.ringCount = 0 then (if m.fifo.all keep then s else put s 0)
  else
    let left := (s.ringNotices c n).filter keep
    put (s.putNotices c n m.ringHead left) left.length

/-- The head of a mailbox's ring moves to its FIFO when there is room (R206). -/
def State.refillMailbox (s : State) (c n : Nat) : State :=
  let o := s.core c
  let m := o.mailbox n
  if 4 ≤ m.fifo.length || m.ringCount = 0 then s
  else
    let next := { m with ringHead := (m.ringHead + 1) % 256, ringCount := m.ringCount - 1 }
    match s.netKey c (o.mbRingAddr n m.ringHead) 8 false with
    | (s1, none) => (s1.modCore c (fun o => { o with mailboxes := o.mailboxes.set n next })).dropNotice c n
    | (s1, some k) =>
      s1.modCore c (fun o => { o with mailboxes := o.mailboxes.set n { next with fifo := m.fifo ++ [s1.word k] } })

end Sys2Proof.Machine
end

