-- ==== Sys2Proof/Machine/Tasks.lean ====
section
/-! DEFINITION. Threads, seats and tasks: thread ids, dispatch, scratch, quitting, splitting and aborting (R118 to R146). -/
namespace Sys2Proof.Machine

/-! ## Threads in slots -/

/-- The generation after `g`: 1 to 31, then 1 (R119). -/
def nextGen (g : Nat) : Nat := if 31 ≤ g then 1 else g + 1

/-- The thread id of a new thread in a slot (R119). -/
def newTid (c k gen : Nat) : BitVec 32 := BitVec.ofNat 32 (c % 2 ^ 24 * 256 + k * 32 + gen)

/-- A slot emptied: its per-slot registers keep no thread's values. -/
def Slot.emptied (l : Slot) : Slot := { gen := l.gen, reserved := l.reserved }

/-- A thread enters a slot: the per-slot registers take their entry values (R202). -/
def Slot.entered (l : Slot) (t : Thread) : Slot := { gen := l.gen, thread := some t }

/-- Slot `k` of core `c` emptied. -/
def State.emptySlot (s : State) (c k : Nat) : State := s.modSlot c k Slot.emptied

/-- A thread placed in a slot. -/
def State.enterSlot (s : State) (c k : Nat) (t : Thread) : State := s.modSlot c k (fun l => l.entered t)

/-- A new thread in a slot, with the slot's next generation (R119). -/
def State.newThread (s : State) (c k : Nat) (t : Thread) : State :=
  s.modSlot c k (fun l =>
    { l.entered { t with tid := newTid c k (nextGen l.gen), headBorn := isHead c } with gen := nextGen l.gen })

/-! ## Records (R123, R140) -/

/-- Grain units of a dimension: ceil((hi − lo) / grain). -/
def Rec.units (r : Rec) (i : Nat) : Nat := (domHi (r.dom i) - domLo (r.dom i) + r.grain i - 1) / r.grain i

/-- A record is malformed (R123). -/
def Rec.malformed (r : Rec) : Bool :=
  bits r.flags 63 8 ≠ 0 || bits r.grains 63 48 ≠ 0 || bits r.budget 63 24 ≠ 0 || bits r.launch 63 32 ≠ 0 ||
  r.r0 ≠ 0 || r.r1 ≠ 0 || r.r2 ≠ 0 || r.r3 ≠ 0 || r.entry = 0 || (r.isSplit && r.dims = 0) ||
  (List.range r.dims).any (fun i => decide (domHi (r.dom i) < domLo (r.dom i)) || r.grain i == 0) ||
  r.ctxLimit = 0 || 8 < r.ctxLimit || 160 < r.scr || (r.isSplit && r.scr = 0) ||
  (1 ≤ r.per && r.per ≤ 9) || 40 < r.per

/-- The dimension that a split halves: the one with most units, the lowest on a tie; none when no dimension has two (R140). -/
def Rec.splitDim (r : Rec) : Option Nat :=
  let best := (List.range r.dims).foldl (fun (b : Option Nat) i =>
    match b with
    | none => some i
    | some j => if r.units j < r.units i then some i else b) none
  best.bind (fun i => if 2 ≤ r.units i then some i else none)

/-- The two halves of a record's domain (R113, R140). -/
def Rec.halves (r : Rec) : Option (Rec × Rec) :=
  r.splitDim.map (fun i =>
    let lo := domLo (r.dom i)
    let hi := domHi (r.dom i)
    let mid := lo + r.grain i * (r.units i / 2)
    (r.setDom i (domWord lo mid), r.setDom i (domWord mid hi)))

/-- A child of a split: `saved` 0 and `steal` 1 (R140). -/
def Rec.child (r : Rec) : Rec := { r with flags := setBits (setBits r.flags 7 7 0) 3 3 1 }

/-! ## Scratch (R131) -/

/-- The bounds of the scratch pool, in 256-byte units. -/
def Core.poolLo (o : Core) : Nat := bits o.spool 15 8
def Core.poolHi (o : Core) : Nat := bits o.spool 31 24

/-- First fit of `n` units in the pool, from the lowest address. -/
def Core.fit (o : Core) (n : Nat) : Option Nat :=
  ((List.range (o.poolHi - o.poolLo)).map (· + o.poolLo)).find? (fun u =>
    decide (u + n ≤ o.poolHi) && (List.range n).all (fun i => !o.scratch.contains (u + i)))

/-- A core with `n` units allocated from unit `u`, or released. -/
def Core.takeScratch (o : Core) (u n : Nat) : Core :=
  { o with scratch := (List.range n).foldl (fun l i => insertNat l (u + i)) o.scratch }
def Core.freeScratch (o : Core) (u n : Nat) : Core :=
  { o with scratch := o.scratch.filter (fun x => !(u ≤ x && x < u + n)) }

/-! ## Dispatch (R128, R129) -/

/-- The first entry of priority `p` that is not passed over; `l` gives the entries of each priority, both parts (R125). -/
def avail (l : Nat → List QEntry) (skip : List (Nat × Nat)) (p : Nat) : Option Nat :=
  (List.range (l p).length).find? (fun i => !skip.contains (p, i))

/-- The priority that R129 chooses, with passed-over entries absent. -/
def Core.choosePrio (o : Core) (l : Nat → List QEntry) (skip : List (Nat × Nat)) : Option Nat :=
  let live := [0, 1, 2, 3].filter (fun p => (avail l skip p).isSome)
  let rec go : List Nat → Option Nat
    | [] => none
    | [p] => some p
    | p :: q :: rest => if o.fair.getD p 0 = 15 then go (q :: rest) else some p
  go live

/-- The fairness counters after a dispatch at priority `p` (R129, steps 4 and 5). -/
def Core.fairAfter (o : Core) (l : Nat → List QEntry) (skip : List (Nat × Nat)) (p : Nat) : List Nat :=
  let below := [0, 1, 2, 3].any (fun q => decide (p < q) && (avail l skip q).isSome)
  [0, 1, 2, 3].map (fun q =>
    if q = p then (if below then o.fair.getD p 0 + 1 else 0) else if q < p then 0 else o.fair.getD q 0)

/-- A free seat of the task table. -/
def Core.freeSeat (o : Core) : Option Nat :=
  (List.range 64).find? (fun n => (o.seat n).state == 0 && !(o.seat n).retiring)

/-- The key under which a yielded task's scratch and log are kept: the scratch base of a split task, F of a plain one. -/
def QEntry.yieldKey (e : QEntry) : Nat := if e.image.isSplit then e.frame.toNat else 2 ^ 48 + e.frame.toNat

/-- What a chosen entry needs and gets. -/
inductive Fit where
  /-- dispatch with this seat and scratch unit -/
  | run (seat unit : Nat)
  | passOver
  /-- the grain-fault path with a cause -/
  | grain (cause : Nat)
  deriving DecidableEq, Repr

/-- Whether an entry can be dispatched (R123, R128). -/
def Core.fitEntry (o : Core) (e : QEntry) : Fit :=
  let r := e.image
  if r.malformed then .grain 4
  else
    let needs := r.scr ≠ 0 && !(r.saved && (r.isSplit || (o.yielded.get e.yieldKey).isSome))
    if needs && o.poolHi - o.poolLo < r.scr then .grain 5
    else
      match o.freeSeat with
      | none => .passOver
      | some n =>
        if !needs then .run n (if r.isSplit then e.frame.toNat / 256 else 0)
        else match o.fit r.scr with
          | none => .passOver
          | some u => .run n u

/-- The choice of R129 and R128: passing over entries whose needs cannot be met. -/
def Core.choose (o : Core) (l : Nat → List QEntry) : Nat → List (Nat × Nat) → Option (Nat × Nat × QEntry × Fit × List (Nat × Nat))
  | 0, _ => none
  | fuel + 1, skip =>
    match o.choosePrio l skip with
    | none => none
    | some p =>
      match avail l skip p with
      | none => none
      | some i =>
        match (l p)[i]? with
        | none => none
        | some e =>
          match o.fitEntry e with
          | .passOver => o.choose l fuel ((p, i) :: skip)
          | f => some (p, i, e, f, skip)

/-- A core with what the cores of its quad keep for yielded plain tasks whose frame all four reach (R130, R131). -/
def State.withKept (s : State) (c : Nat) : Core :=
  let o := s.core c
  if isHead c then o
  else
    let kept := ((List.range 4).map (coreOfQuad (quadOf c))).flatMap (fun d => if d = c then [] else (s.core d).yielded)
    { o with yielded := kept.foldl (fun l e =>
        if 2 ^ 48 + 2 ^ 16 ≤ e.1 && (l.get e.1).isNone then l.set e.1 e.2 else l) o.yielded }

/-- What a core, or a core of its quad, keeps of a yielded task is forgotten. -/
def State.forgetYielded (s : State) (c key : Nat) : State :=
  let l := if isHead c || key < 2 ^ 48 + 2 ^ 16 then [c] else (List.range 4).map (coreOfQuad (quadOf c))
  l.foldl (fun s d => if ((s.core d).yielded.get key).isNone then s
    else s.modCore d (fun o => { o with yielded := o.yielded.del key })) s

/-- The tag that a split task's commands carry while it is yielded: its yield key in place of its seat. -/
def yieldedSeat (key : Nat) : Nat := 2 ^ 20 + key

/-- Commands whose task has another seat from now on. -/
def Core.retag (o : Core) (a b : Nat) : Core :=
  { o with cmds := o.cmds.map (fun d => if d.seat = some a then { d with seat := some b } else d) }

/-- A core keeps what stays beside the scratch of the task of a seat that is set aside (R133, R262); its commands keep their task. -/
def Core.keepYielded (o : Core) (n : Nat) : Core :=
  let st := o.seat n
  let key := if st.image.isSplit then st.scratchBase else 2 ^ 48 + st.frame.toNat
  if st.scratchUnits = 0 then o else { (o.retag n (yieldedSeat key)) with yielded := o.yielded.set key st }

/-- What a yielded task keeps at its core is released: a resumed entry takes the grain-fault path (R131, R146). -/
def State.dropYielded (s : State) (c : Nat) (e : QEntry) : State :=
  if !e.image.saved then s
  else match (s.withKept c).yielded.get e.yieldKey with
    | some st =>
      (s.modCore st.scratchCore (fun o => o.freeScratch (st.scratchBase / 256) st.scratchUnits)).forgetYielded c e.yieldKey
    | none => if e.image.isSplit then s.modCore c (fun o => o.freeScratch (e.frame.toNat / 256) e.image.scr) else s

/-- A split task's `task` value: the global window address of its scratch (R128). -/
def gaddr (c off : Nat) : Word := BitVec.ofNat 64 (2 ^ 40 + c % 2 ^ 24 * 2 ^ 16 + off)

/-- The period counter at first dispatch (R138); a plain task has none, whatever its record's `per` (DEDUCED, log 123). -/
def Rec.period (r : Rec) : Word := if r.isSplit && r.per ≠ 0 then BitVec.ofNat 64 (2 ^ r.per) else BitVec.allOnes 64

/-- An entry dispatched into an empty slot (R128): seat, scratch, task registers and the thread's first state. -/
def State.dispatchEntry (s : State) (c k p i : Nat) (e : QEntry) (seat unit : Nat) (skip : List (Nat × Nat)) : State :=
  let r := e.image
  let o := s.withKept c
  let l := s.entries c
  let old := if r.saved then o.yielded.get e.yieldKey else none
  let base := (old.map (·.scratchBase)).getD (unit * 256)
  let frame := if r.isSplit then BitVec.ofNat 64 base else e.frame
  let ctxRead := if r.saved then s.netKey c ((if r.isSplit then base else e.frame.toNat) + 128) 1 false else (s, some 0)
  let s0 := ctxRead.1.modCore c (fun o => o.takeEntry p i)
  match ctxRead.2 with
  | none => (s0.dropYielded c e).grainFault c r 7 e.frame
  | some key =>
    if r.saved && (s0.hasBad key 128 || s0.hasUntagged key 128) then (s0.dropYielded c e).grainFault c r 7 e.frame
    else
      let image := { r with flags := setBits r.flags 7 7 0 }
      let fresh : Seat :=
        { image, frame, task := if r.isSplit then gaddr c base else e.frame, scratchBase := base, scratchUnits := r.scr,
          scratchCore := c,
          logEnd := 256, lowRes := r.scr * 256, prdl := r.period }
      let kept := old.getD fresh
      let tid := newTid c k (nextGen (s0.slot c k).gen)
      let st : Seat :=
        { kept with
          image, state := 1, step := 0, live := 1, tids := [tid], founder := k, founderTid := tid, resumed := r.saved }
      let info : TaskInfo :=
        { seatCore := c, seat, task := st.task, dom0 := r.dom0, dom1 := r.dom1, dom2 := r.dom2, budget := r.budget,
          launch := r.launch }
      let x : Ctx :=
        if r.saved then Ctx.ofWords (wordsOf (s0.bytes key 128))
        else { x0 := e.x0, fp := frame, ip := ipOf r.entry, fmta := r.fmta, fmtb := r.fmtb,
               status := { fnd := true, spl := r.isSplit } }
      let s1 := (if old.isSome then s0.forgetYielded c e.yieldKey else s0).modCore c (fun o =>
        let o1 := if old.isSome then o
          else if r.scr = 0 || (r.saved && r.isSplit) then o else o.takeScratch unit r.scr
        { (o1.retag (yieldedSeat e.yieldKey) seat) with seats := o1.seats.set seat st, fair := o.fairAfter l skip p })
      -- a fresh split task's record is written at its scratch base; a resumed frame's `saved` bit is cleared
      let s2 :=
        if r.isSplit && !r.saved then s1.putBytes (localKey c base) (bytesOf image.words)
        else if r.isSplit then
          s1.putBytes (localKey c (base + 8)) (toBytes (setBits (s1.word (localKey c (base + 8))) 7 7 0).toNat 8)
        else if r.saved then
          match s1.netKey c (e.frame.toNat + 8) 8 true with
          | (s', some a) => s'.putBytes a (toBytes (setBits (s'.word a) 7 7 0).toNat 8)
          | (s', none) => s'
        else s1
      s2.newThread c k { ctx := x, task := some info, origin := c }

/-- Dispatch into slot `k` of core `c` (R128): an entry that takes the grain-fault path is removed and nothing enters the slot. -/
def State.dispatch (s : State) (c k : Nat) : State :=
  let o := s.withKept c
  let l := s.entries c
  if !s.ringsRead c then s.fatalPartition c 4
  else match o.choose l ((l 0).length + (l 1).length + (l 2).length + (l 3).length + 1) [] with
    | none => s
    | some (p, i, e, .run seat unit, skip) => s.dispatchEntry c k p i e seat unit skip
    | some (p, i, e, .grain cause, _) =>
      ((s.modCore c (fun o => o.takeEntry p i)).dropYielded c e).grainFault c e.image cause e.frame
    | some (_, _, _, .passOver, _) => s

/-! ## The end of a task (R132, R139, R143) -/

/-- A seat freed, its scratch released; its decrement follows when the task's store buffers have drained (R132, R143). -/
def State.retireSeat (s : State) (c n : Nat) : State :=
  let st := (s.core c).seat n
  let s1 := if st.scratchUnits = 0 then s
    else s.modCore st.scratchCore (fun o => o.freeScratch (st.scratchBase / 256) st.scratchUnits)
  s1.modCore c (fun o =>
    { o with seats := o.seats.set n { image := st.image, retiring := st.image.launchNo != 0 } })

/-- A stream binding that has ended: no thread names it, untaken input elements are discarded, and output elements still go to memory
(R392). -/
def Stream.ended (b : Stream) : Stream := { b with tid := 0, count := b.used, elems := if b.input then [] else b.elems }

/-- Every binding of a thread ends (R392). -/
def State.endBindings (s : State) (tid : BitVec 32) : State :=
  if s.cores.any (fun e => e.2.streams.any (fun b => b.tid == tid)) then
    { s with cores := s.cores.map (fun e =>
        (e.1, { e.2 with streams := e.2.streams.map (fun b => if b.tid == tid then b.ended else b) })) }
  else s

/-- A thread ends: its bindings end, and the quit notice goes to its seat (R132, R392). -/
def State.sendQuit (s0 : State) (c : Nat) (t : Thread) : State :=
  let s := s0.endBindings t.tid
  match t.task with
  | none => s
  | some i =>
    s.send { src := c, dst := i.seatCore, vc := 2, tag := s.tagOf c, part := s.partTag c, load := .quit i.seat t.tid }

/-- A thread belongs to the task of a seat. -/
def Thread.inSeat (t : Thread) (c n : Nat) : Bool :=
  match t.task with
  | none => false
  | some i => i.seatCore == c && i.seat == n

/-- A traveller that is a thread of the seat's task, or would become one. -/
def Payload.ofSeat (p : Payload) (c n : Nat) : Bool :=
  match p with
  | .spawn _ _ _ _ _ _ h _ => h.inSeat c n
  | .context h _ _ => h.inSeat c n
  | .faulted h _ _ _ => h.inSeat c n
  | _ => false

/-- The quit notices of threads that have ended leave once their store buffers have drained and their increments are acknowledged
(R132, R142, R227). -/
def State.settleQuits (s : State) (c : Nat) : State :=
  let o := s.core c
  if o.leaving.isEmpty then s
  else
    let waits := fun (e : Nat × Thread) => o.buffer.any (fun b => b.owner == some e.2.tid) ||
      o.loopq.any (fun b => b.2.owner == some e.2.tid) || o.holds.any (fun h => h.who == some e.2.tid)
    (o.leaving.filter (fun e => !waits e)).foldl (fun s e => s.sendQuit c e.2)
      (s.modCore c (fun o => { o with leaving := o.leaving.filter waits }))

/-- The entries of slot `k` in the store buffer and the loop-back queue are those of a thread that has left the slot. -/
def Core.disown (o : Core) (k : Nat) (tid : BitVec 32) : Core :=
  { o with
    buffer := o.buffer.map (fun b => if b.slot = k && b.owner.isNone then { b with owner := some tid } else b)
    loopq := o.loopq.map (fun b => if b.1 = k && b.2.owner.isNone then (b.1, { b.2 with owner := some tid }) else b) }

/-- A thread that has left slot `k` counts as quit (R132). -/
def State.quitLater (s : State) (c k : Nat) (t : Thread) : State :=
  (s.modCore c (fun o => { o.disown k t.tid with leaving := o.leaving ++ [(k, t)] })).settleQuits c

/-- Every slot and park record that holds a thread of the seat loses it, with what it has in the loop-back queue, and their stream bindings
end (R139 step 1, R385). -/
def State.dropThreads (s : State) (c n : Nat) : State :=
  let keep := fun (t : Traveller) => !t.load.ofSeat c n
  State.modCore { s with net := s.net.filter keep } c (fun o =>
    let mine := fun (t : Thread) => t.inSeat c n
    let slots := (List.range 8).filter (fun k => ((o.slot k).thread.map mine).getD false)
    let tids := ((List.range 8).filterMap (fun k => (o.slot k).thread)).filter mine |>.map (·.tid)
    let gone := o.parked.filter (fun r => mine r.2)
    { o with
      slots := o.slots.map (fun e => match e.2.thread with
        | some t => if mine t then (e.1, e.2.emptied) else e
        | none => e)
      parked := o.parked.filter (fun r => !mine r.2)
      parkUsed := o.parkUsed.filter (fun u => !gone.any (fun r => r.1 == u))
      streams := o.streams.filter (fun b => !tids.contains b.tid)
      leaving := o.leaving.filter (fun e => !mine e.2)
      loopq := o.loopq.filter (fun b => b.2.owner.isSome || !slots.contains b.1)
      arrivals := o.arrivals.filter keep
      held := o.held.map (fun h => { h with arrivals := h.arrivals.filter keep })
      rings := o.rings.map (fun e => (e.1, { e.2 with items := e.2.items.filter (fun i => (i.context.map keep).getD true) })) })

/-- A notice reports one of these commands. -/
def reports (ids : List Nat) (w : Word) : Bool :=
  [1, 2, 3, 13].contains (noticeKind w) && ids.contains (bits w 47 0)

/-- A free accumulator element (R139: the contents are left undefined). -/
def freeElem (n : Nat) : AccElem :=
  { n := BitVec.ofNat 96 ((Config.freeWord n).toNat + 2 ^ 64 * (Config.freeWord (n + 1)).toNat),
    sat := Config.freeBool n, infp := Config.freeBool (n + 1), infn := Config.freeBool (n + 2), nan := Config.freeBool (n + 3) }

/-- The selected tile of an aborted matrix operation is left undefined (R139). -/
def State.freeTile (s : State) (c t : Nat) : State :=
  let elems := (List.range 64).map (fun i => freeElem (s.free + 4 * i))
  { s.modCore c (fun o => { o with acc := o.acc.set t { (o.acc.getD t {}) with elems } }) with free := s.free + 256 }

/-- The working latch empties, and takes the incoming tile (R409). -/
def Core.handOff (o : Core) : Core := { o with working := o.incoming, incoming := none }

/-- A command of the matrix engine works on a ring: `m.next` is not 0. -/
def Cmd.onRing (d : Cmd) : Bool := bits (d.regs.getD 5 0) 2 0 != 0

/-- The phase in which a matrix command has nothing left but to complete. -/
def matrixEnd : Nat := 9

/-- What a command of an aborted task still does (R139 step 2): a matrix operation in progress on a ring, whose tile has not left, passes
it on, and nothing else. -/
def Cmd.handoff (d : Cmd) : Option Cmd :=
  if d.started && ((d.op == .mmac && d.onRing && decide (d.phase < 2)) || (d.op == .mpass && decide (d.phase < matrixEnd))) then
    some { d with op := .mpass, seat := none, phase := 0, wait := false, gathered := [], ringWait := 0 }
  else none

/-- The commands of a split task dropped or stopped, their copies leaving the launch's count, their notices removed (R139 steps 2 and
3, R144). -/
def State.dropCommands (s : State) (c n : Nat) : State :=
  let o := s.core c
  let mine := o.cmds.filter (fun d => d.seat == some n)
  let ids := (o.seat n).cmdIds ++ mine.map (·.id)
  let copies := mine.filter (fun d => d.engine == .copy && d.launch != 0)
  let tiles := (mine.filter (fun d => d.engine == .matrix && d.started && (d.op == .mmac || d.op == .maddx))).map
    (fun d => bits (d.regs.getD 6 0) 1 0)
  -- an `mmac` whose tile has left finishes its handoff
  let sent := mine.any (fun d => d.op == .mmac && d.phase == 2 && d.onRing)
  let s0 := s.modCore c (fun o =>
    { (if sent then o.handOff else o) with
      cmds := o.cmds.filterMap (fun d => if d.seat == some n then d.handoff else some d)
      faultUsed := o.faultUsed.filter (fun r => !mine.any (fun d => d.record == some r))
      streams := o.streams.filter (fun b => !mine.any (fun d => d.id == b.cmd)) })
  let s1 := (List.range 16).foldl (fun s n => s.keepNotices c n (fun w => !reports ids w)) s0
  let s2 := { s1 with net := s1.net.filter (fun t => match t.load with
    | .notice _ w _ => !(t.dst == c && reports ids w)
    | _ => true) }
  let s3 := tiles.foldl (fun s t => s.freeTile c t) s2
  copies.foldl (fun s d => s.decrement c { launch := bits d.launch 31 0, copy := true }) s3

/-- A split task ended (R139 steps 1 to 4): threads, commands, log, scratch and seat. -/
def State.endTask (s : State) (c n : Nat) : State :=
  let st := (s.core c).seat n
  ((s.dropThreads c n).dropCommands c n).modCore c (fun o =>
    let o1 := o.freeScratch (st.scratchBase / 256) st.scratchUnits
    { o1 with seats := o1.seats.set n {} })

/-- The abort sequence of a split task with its cause (R139, R146): the record as it stood at the scratch base is halved, or takes the
grain-fault path. -/
def State.abortTask (s : State) (c n cause : Nat) : State :=
  let st := (s.core c).seat n
  let r := Rec.ofWords (wordsOf (s.bytes (localKey c st.scratchBase) 128))
  let s1 := s.endTask c n
  match r.halves with
  | none => s1.grainFault c r cause 0
  | some (lo, hi) =>
    s1.increment c r.launchNo 1 false none
      [.pushHead r.prio { image := lo.child }, .pushTail r.prio { image := hi.child }]

end Sys2Proof.Machine
end

