-- ==== Sys2Proof/Machine/Ops.lean ====
section
/-! DEFINITION. The shared operations of every instruction: taking an exception and returning from one (R210, R225 to R227, R261, R262),
page-fault parks (R228, R229), meetings that end early (R219), and the gate through which every meaning reaches its operands. -/
namespace Sys2Proof.Machine

/-- The outcome type of a step. -/
abbrev Outcome := Host.Outcome State Fault Refusal

/-! ## Meetings that end early (R219) -/

/-- The status word of a context without `met`. -/
def Ctx.unmet (x : Ctx) : Ctx := { x with status := { x.status with met := false } }

/-- A slot without the party of a cloakroom entry: its reservation, or the thread that is met there. -/
def Slot.without (l : Slot) (q n : Nat) : Slot :=
  if l.reserved == some (q, n) then { l with reserved := none }
  else if (l.meet.map (fun m => (m.quad, m.entry))) == some (q, n) then { l.emptied with reserved := none }
  else l

/-- The party of a cloakroom entry leaves the slot in which it was placed, on its core or in the saved context of that core (R237). -/
def State.evict (s : State) (q n c k : Nat) : State :=
  let s1 := s.modSlot c k (fun l => l.without q n)
  { s1 with saved := s1.saved.map (fun e => if e.1 / 2 ^ 16 = c then (e.1, e.2.putSlot k ((e.2.slot k).without q n)) else e) }

/-- Every increment that the thread in a slot has caused on its core has been acknowledged (R142). -/
def State.incsDone (s : State) (c k : Nat) : Bool := !(s.core c).holds.any (fun h => h.who.isSome && h.who == s.tidAt c k)

/-- A slot meets the conditions of step 8: no buffer entry, no loop-back access, no unacknowledged increment of its thread (R142,
R179). -/
def State.mayDepartAt (s : State) (c k : Nat) : Bool :=
  !(s.core c).buffer.any (fun e => e.slot == k) && !(s.core c).loopq.any (fun e => e.1 == k) && s.incsDone c k

/-- The slot in which the party of a cloakroom entry stands, met. -/
def State.standsIn (s : State) (q n c k : Nat) : Bool := ((s.slot c k).meet.map (fun m => (m.quad, m.entry))) == some (q, n)

/-- A met party that must leave, and may not yet: it issues no more, and its rollback comes when its slot meets the conditions of
step 8. -/
def Slot.rolledLater (l : Slot) : Slot :=
  { l with
    meet := l.meet.map (fun m => { m with rolled := true })
    park := if l.park = some .loopback then l.park else some (.step 15)
    carried := none }

/-- A party of a cloakroom entry rolled back with status 3 (R219): it leaves its slot, if it is placed, and its entry, and returns
to its origin with the context it had on arrival. A party that has been met leaves when the conditions of step 8 hold: a departing
thread drains its stores (R179 step 8, R181). -/
def State.rollBack (s : State) (q n : Nat) : State :=
  match (s.quad q).cloak.get n with
  | none => s
  | some e =>
    let late := match e.state with
      | .placed c k _ _ => if s.standsIn q n c k && !s.mayDepartAt c k then some (c, k) else none
      | _ => none
    match late with
    | some (c, k) => s.modSlot c k Slot.rolledLater
    | none =>
    let s1 := s.modQuad q (fun o => { o with cloak := o.cloak.del n })
    let s2 := match e.state with
      | .placed c k _ _ => s1.evict q n c k
      | _ => s1
    s2.send { src := coreOfQuad q 0, dst := e.party.origin, vc := 0, tag := e.party.tag, part := s.partTag e.party.origin,
              load := .partyReturn e.party (some 3) false }

/-- A met thread leaves its meeting with what it still has to suffer at its origin; its partner is rolled back (R219). -/
def State.leaveMeeting (s : State) (c k : Nat) (m : Meet) (load : Thread → Payload) : State :=
  match (s.slot c k).thread, (s.quad m.quad).cloak.get m.entry with
  | some t, some e =>
    let s1 := (s.modQuad m.quad (fun o => { o with cloak := o.cloak.del m.entry })).emptySlot c k
    let s2 := s1.send { src := coreOfQuad m.quad 0, dst := e.party.origin, vc := 0, tag := e.party.tag,
                        part := s.partTag c, load := load { t with ctx := t.ctx.unmet } }
    s2.rollBack m.quad m.partnerEntry
  | _, _ => s

/-! ## Traps (R225 to R227) -/

/-- `ecause` of a trap (R225). -/
def trapCause (cause sub : Nat) : Word := BitVec.ofNat 64 (sub % 256 * 256 + cause % 16)

/-- A met thread leaves as soon as the conditions of step 8 hold; until then its instruction waits, and issues again (R179, R199). -/
def State.leaveWhen (s : State) (c k : Nat) (m : Meet) (load : Thread → Payload) : State :=
  if s.mayDepartAt c k then s.leaveMeeting c k m load
  else s.modSlot c k (fun l => { l with park := some (.step 15), carried := none })

/-- `estat` of a thread (R261): predicates, `emp`, status. -/
def estatOf (x : Ctx) (emp : Bool) : Word :=
  BitVec.ofNat 64 (x.p.toNat * 2 ^ 48 + emp.toNat * 2 ^ 16 + bits x.status.toWord 15 0)

/-- The fatal kind of a trap, if it is fatal (R227, R241): 8 at supervisor level on a head core, 1 at supervisor level on a compute
core, 2 when `ivec` is 0. -/
def State.fatalKind (s : State) (c : Nat) (t : Thread) : Option Nat :=
  if t.ctx.status.sup then some (if isHead c then 8 else 1)
  else if (s.core c).ivec = 0 then some 2
  else none

/-- What a fatal trap in slot `k` does to its thread's task (R227): a plain task's thread counts as quit and its launch records a task
fault; a split task ends and takes the grain-fault path with cause 6. -/
def State.fatalTask (s : State) (c k : Nat) (t : Thread) : State :=
  match t.task with
  | none => s.endBindings t.tid
  | some i =>
    if t.ctx.status.spl then
      let st := (s.core i.seatCore).seat i.seat
      let r := Rec.ofWords (wordsOf (s.bytes (localKey i.seatCore st.scratchBase) 128))
      (s.endTask i.seatCore i.seat).grainFault i.seatCore r 6 0
    else
      (s.quitLater c k t).decrement c { launch := bits i.launch 31 0, amount := 0, grain := true }

/-- A thread that a fault of kind `kind` ends (R227, R229, R241): dump, kind-8 notice, empty slot, its task; kind 8 halts the
partition. -/
def State.fatalThread (s : State) (c k kind : Nat) : State :=
  match (s.slot c k).thread with
  | none => s
  | some t =>
    let s1 := ((s.raiseFatal c (s.faultRec c k kind)).emptySlot c k).fatalTask c k t
    if kind = 8 then s1.haltPartition c else s1

/-- The checker's state at trap and interrupt entry, and at a departure: no block is checked (R250). -/
def clearVal (w : Word) : Word := w &&& ~~~((1 : Word) <<< 32)

/-- The exception registers written and the handler entered: steps 1, 2 and 4 of R210 (`eip`, `estat`, `sup`, ip), with `ecause` and
`eaddr`. -/
def Slot.entry (l : Slot) (t : Thread) (eip cause addr ivec : Word) (emp : Bool) : Slot :=
  { l with
    eip := eip
    estat := estatOf t.ctx emp
    ecause := cause
    eaddr := addr
    park := none
    carried := none
    sigst := clearVal l.sigst
    thread := some { t with ctx := { t.ctx with ip := ipOf ivec, status := { t.ctx.status with sup := true } } } }

/-- TAKING A TRAP (R226): in the slot of the thread, on the core where it stands, whatever `ivslot`.`en` holds. A thread that is met
takes it at its origin (R219); a fatal trap ends the thread (R227). -/
def State.trapAt (s : State) (c k cause sub : Nat) (addr eip : Word) : State :=
  let l := s.slot c k
  match l.thread with
  | none => s
  | some t =>
    match l.meet with
    | some m => s.leaveWhen c k m (fun h =>
        .context { h with ctx := { h.ctx with ip := eip } } none (some { cause, sub, addr }))
    | none =>
      match s.fatalKind c t with
      | some kind =>
        (s.modSlot c k (fun l => { l with eip := eip, eaddr := addr, ecause := trapCause cause sub })).fatalThread c k kind
      | none => s.modSlot c k (fun l => l.entry t eip (trapCause cause sub) addr (s.core c).ivec false)

/-- A trap of the running instruction, with `eip` at it. -/
def State.trap (s : State) (cause sub : Nat) (addr : Word) : State := s.trapAt s.cur.1 s.cur.2 cause sub addr s.ip

/-- A trap whose `eaddr` is the instruction word (causes 1, 2 and 12). -/
def State.trapWord (s : State) (cause : Nat) : State := s.trap cause 0 (s.ir.zeroExtend 64)

/-- TAKING AN INTERRUPT (R210): steps 1 to 4, with source `src`; an empty slot runs the handler as a new thread. -/
def State.interruptAt (s : State) (c k src : Nat) : State :=
  let cause : Word := BitVec.ofNat 64 (2 ^ 63 + src)
  let ivec := (s.core c).ivec
  match (s.slot c k).thread with
  | some t => s.modSlot c k (fun l => l.entry t t.ctx.ip cause l.eaddr ivec false)
  | none =>
    (s.newThread c k {}).modSlot c k (fun l =>
      match l.thread with
      | none => l
      | some t => l.entry t t.ctx.ip cause l.eaddr ivec true)

/-! ## Return from an exception (R210, R261, R262, R373) -/

/-- The thread that `rte` sets aside when it empties slot `k` (R262): a founder that is its task's only live thread frees its seat; any
other thread counts as quit. -/
def State.setAside (s : State) (c k : Nat) (t : Thread) : State :=
  match t.task with
  | none => s.endBindings t.tid
  | some i =>
    let st := (s.core i.seatCore).seat i.seat
    if t.ctx.status.fnd && st.live = 1 then
      (s.endBindings t.tid).modCore i.seatCore (fun o => { (o.keepYielded i.seat) with seats := o.seats.set i.seat {} })
    else s.quitLater c k t

/-- RETURN FROM AN EXCEPTION in slot `k` of core `c`. -/
def State.returnAt (s : State) (c k : Nat) : State :=
  let l := s.slot c k
  match l.thread with
  | none => s
  | some t =>
    let status := Status.ofWord (BitVec.ofNat 64 (bits l.estat 15 0))
    let back : Thread := { t with ctx := { t.ctx with ip := ipOf l.eip, p := predWord (bits l.estat 63 48), status } }
    if bit l.estat 16 then (s.emptySlot c k).setAside c k back
    else s.modSlot c k (fun l => { l with thread := some back })

/-! ## Page-fault parks (R228, R229) -/

/-- The park area can be used: `en`, and the 4 KiB at `base` lie in the private portion (R228). -/
def State.parkArea (s : State) (c : Nat) : Option Nat :=
  let base := bits (s.core c).upv 15 12 * 4096
  if bit (s.core c).upv 0 && base + 4096 ≤ s.privSize c then some base else none

/-- The bytes of a park record (R228). -/
def parkRecord (t : Thread) (va : Word) (cls kind : Nat) : List Byte :=
  bytesOf (t.ctx.words ++ [t.tid.zeroExtend 64, va, BitVec.ofNat 64 (cls + kind * 16), taskField (some t) (·.task)] ++
    List.replicate 12 0)

/-- A record number below `n` that is not in use. -/
def freeRecord (used : List Nat) (n : Nat) : Option Nat := (List.range n).find? (fun i => !used.contains i)

/-- The thread of a slot parked by a page fault (R229): with no park area the fault is fatal, with every record in use the slot waits,
otherwise the lowest free record is written, the slot empties and the kind-7 upcall is sent. -/
def State.parkThread (s : State) (c k : Nat) (va : Word) (cls kind : Nat) : State :=
  match (s.slot c k).thread with
  | none => s
  | some t =>
    match s.parkArea c with
    | none => (s.modSlot c k (fun l => { l with eip := t.ctx.ip, eaddr := va, ecause := 0 })).fatalThread c k 3
    | some base =>
      match freeRecord (s.core c).parkUsed 8 with
      | none => s.modSlot c k (fun l => { l with park := some (.fault va cls kind) })
      | some n =>
        let s1 := (s.putBytes (localKey c (base + 256 * n)) (parkRecord t va cls kind)).emptySlot c k
        let s2 := s1.modCore c (fun o => { o with parkUsed := o.parkUsed ++ [n], parked := o.parked.set n t })
        let s3 := match t.task with
          | none => s2
          | some i => s2.modSeat i.seatCore i.seat (fun st => { st with parked := st.parked + 1 })
        s3.sendNotice c c 15 (noticeWord 7 (n * 128 + kind * 16 + cls) t.tid.toNat) 0 none

/-- A page fault of the running thread (R171, R229); a met thread returns to its origin and is parked there (R219). -/
def State.pageFault (s : State) (va : Word) (cls kind : Nat) : State :=
  match s.running.meet with
  | some m => s.leaveWhen s.cur.1 s.cur.2 m (fun h => .faulted h va cls kind)
  | none => s.parkThread s.cur.1 s.cur.2 va cls kind

/-- A window refusal of the running thread (R167): it travels back to the core it stood on before its last departure and traps there
with cause 5, as soon as the conditions of step 8 hold; a met party leaves its meeting (R219). -/
def State.refuse (s : State) (addr : Word) : State :=
  match s.running.thread with
  | none => s
  | some t =>
    match s.running.meet with
    | some m => s.leaveWhen s.cur.1 s.cur.2 m (fun h => .context h none (some { cause := 5, sub := 0, addr }))
    | none =>
      if s.mayDepartAt s.cur.1 s.cur.2 then
        (s.emptySlot s.cur.1 s.cur.2).send
          { src := s.cur.1, dst := t.origin, vc := 0, tag := s.tagOf s.cur.1, part := s.partTag s.cur.1,
            load := .context t none (some { cause := 5, sub := 0, addr }) }
      else s.modRunning (fun l => { l with park := some (.step 15), carried := none })

/-! ## Parking and completing -/

/-- The running slot parked in an event. -/
def State.park (s : State) (p : Park) : State := s.modRunning (fun l => { l with park := some p })

/-- The running slot parked in an event whose instruction issues again; a slot already parked so keeps its place. -/
def State.again (s : State) (code : Nat) : State := s.park (.step code)

/-- The running instruction completes: its stream sources are taken, and ip moves to the next word. -/
def State.complete (s : State) (srcs : List Reg) : State := (s.takeAt s.cur.1 s.cur.2 srcs).advanceAt s.cur.1 s.cur.2

/-- The running instruction completes with a result in its destination: sources are taken before the result is written (R296). -/
def State.result (s : State) (srcs : List Reg) (d : Reg) (v : Word) : State :=
  ((s.takeAt s.cur.1 s.cur.2 srcs).setX d v).advanceAt s.cur.1 s.cur.2

/-- The gate of every meaning of a word: without a thread in the running slot there is none; a stream operand that is not bound traps
with cause 12, one that is not ready parks in event 3 (R177, R296); otherwise the body runs. -/
def State.gate (s : State) (srcs dsts : List Reg) (body : Thread → State) : Outcome :=
  match s.running.thread with
  | none => .fault .noThread
  | some t =>
    match operandsReady (s.core s.cur.1) t.tid srcs dsts with
    | .unbound => .next (s.trapWord 12)
    | .wait => .next (s.again 3)
    | .yes => .next (body t)

/-- The gate of a word that may need a privilege: check 7 of R306 comes before its operands are judged. -/
def State.gateFor (s : State) (needs : Bool) (srcs dsts : List Reg) (body : Thread → State) : Outcome :=
  match s.running.thread with
  | none => .fault .noThread
  | some t => if needs && !t.ctx.status.sup then .next (s.trapWord 2) else s.gate srcs dsts body

/-- The running slot's thread meets the conditions of step 8. -/
def State.mayDepart (s : State) : Bool := s.mayDepartAt s.cur.1 s.cur.2

/-- The running slot has no buffer entry. -/
def State.drained (s : State) : Bool := !(s.core s.cur.1).buffer.any (fun e => e.slot == s.cur.2)

/-- The running thread departs for a core on VC0 (R211): its slot empties and its context leaves with what it carries. -/
def State.departWith (s : State) (dst : Nat) (f : Thread → Thread) (c : Option Carried) : State :=
  match s.running.thread with
  | none => s
  | some t =>
    (s.emptySlot s.cur.1 s.cur.2).send
      { src := s.cur.1, dst, vc := 0, tag := s.tagOf s.cur.1, part := s.partTag s.cur.1,
        load := .context { f t with origin := s.cur.1 } c none }

/-- A thread whose ip is past its instruction. -/
def Thread.advanced (t : Thread) : Thread := { t with ctx := { t.ctx with ip := t.ctx.ip + 4 } }

end Sys2Proof.Machine
end

