-- ==== Sys2Proof/Machine/Loss.lean ====
section
/-! DEFINITION. The loss of a core (R245 to R248), and what a consumed memory error does to an access. -/
namespace Sys2Proof.Machine

/-- A compute core that is not lost. -/
def State.live (s : State) (c : Nat) : Bool := !(s.core c).lost

/-- The monitor slot of a head core stops: every function that it owns answers nothing more (R103). -/
def State.stopMonitor (s : State) (m head : Nat) : State :=
  (List.range 17).foldl (fun s1 fn =>
    if s.ownerOf m fn = head then s1.modFunc m fn (fun f => { f with fwfault := true, ready := false }) else s1) s

/-- The core on which a lost core's tasks restart (R247): the lowest-numbered live core of its quad, or else the lowest live core id
of its district. A head core, which is in no quad and in no district (R88), has none (DESIGN CHOICE, log 13). -/
def State.successor (s : State) (c : Nat) : Option Nat :=
  if isHead c then none
  else match ((List.range 4).map (coreOfQuad (quadOf c))).find? s.live with
  | some d => some d
  | none => (districtCores (moduleOf c) (districtOf c)).foldl (fun b d =>
      if !s.live d then b else match b with
        | none => some d
        | some e => some (min d e)) none

/-- The parties whose thread dies with core `c`: those that stand on it, and those whose origin it is (R219). -/
def CloakEntry.diesWith (e : CloakEntry) (c : Nat) : Bool :=
  e.party.origin == c || (match e.state with
    | .placed d _ _ _ => d == c
    | _ => false)

/-- The partner of a cloakroom entry. -/
def CloakEntry.partner (e : CloakEntry) : Option Nat :=
  match e.state with
  | .waiting => none
  | .matched p => some p
  | .placed _ _ p _ => some p

/-- A lost party leaves its entry and its slot, and its partner is rolled back with status 3 (R219), unless it dies with the same core
(R246). -/
def State.loseParty (s : State) (core q n : Nat) : State :=
  match (s.quad q).cloak.get n with
  | none => s
  | some e =>
    let s1 := s.modQuad q (fun o => { o with cloak := o.cloak.del n })
    let s2 := match e.state with
      | .placed d k _ _ => s1.evict q n d k
      | _ => s1
    match e.partner with
    | none => s2
    | some p => if (((s.quad q).cloak.get p).map (·.diesWith core)).getD false then s2 else s2.rollBack q p

/-- Every party that dies with a core leaves its cloakroom. -/
def State.loseParties (s : State) (c : Nat) : State :=
  s.quads.foldl (fun s q => q.2.cloak.foldl (fun s e => if e.2.diesWith c then s.loseParty c q.1 e.1 else s) s) s

/-- The entry under which a task restarts (R247): a split task as a fresh record; a plain task with `restart` whose frame is readable,
from its frame. -/
def State.restartEntry (s : State) (c : Nat) (st : Seat) : State × Option QEntry :=
  if st.image.isSplit then
    let r := Rec.ofWords (wordsOf (s.bytes (localKey c st.scratchBase) 128))
    (s, some { image := { r with flags := setBits r.flags 7 7 0 } })
  else if st.image.restart && st.frame ≠ 0 then
    match s.netKey c st.frame.toNat 1 false with
    | (s1, some k) =>
      if s1.hasBad k 256 || s1.hasUntagged k 256 then (s1, none)
      else
        let r := Rec.ofWords (wordsOf (s1.bytes k 128))
        (s1, some { image := { r with flags := setBits r.flags 7 7 (if st.resumed then 1 else 0) }, frame := st.frame })
    | (s1, none) => (s1, none)
  else (s, none)

/-- The frame of a plain task can be read (R247). -/
def State.frameReads (s : State) (c : Nat) (frame : Word) : Bool :=
  frame ≠ 0 && (match s.netKey c frame.toNat 1 false with
    | (s1, some k) => !(s1.hasBad k 256 || s1.hasUntagged k 256)
    | (_, none) => false)

/-- The entry under which a queued task restarts (R247): a split task as a fresh record, its scratch gone; a plain task with `restart`
whose frame is readable, as it was queued. -/
def State.movedEntry (s : State) (c : Nat) (e : QEntry) : Option QEntry :=
  if e.image.isSplit then some { image := { e.image with flags := setBits e.image.flags 7 7 0 } }
  else if e.image.restart && s.frameReads c e.frame then some e
  else none

/-- A unit of the scratch pool belongs to a seat's scratch. -/
def Seat.holdsUnit (st : Seat) (u : Nat) : Bool := st.scratchBase / 256 ≤ u && u < st.scratchBase / 256 + st.scratchUnits

/-- A task of a lost core that does not restart: decremented as retired, with one task fault recorded. -/
def State.retireLost (s : State) (c : Nat) (r : Rec) : State := s.decrement c { launch := r.launchNo, grain := true }

/-- A seated task of a lost core: restarted on core `d`, or retired with a task fault; a task in commit is left to its end (R247).
Without a live core in the district no task restarts (DEDUCED, log 13). The count is of restarted tasks. -/
def State.loseSeat (c : Nat) (d : Option Nat) (a : State × Nat) (n : Nat) : State × Nat :=
  let (s, count) := a
  let st := (s.core c).seat n
  if st.state = 0 || (st.state = 2 && 4 ≤ st.step) then (s, count)
  else
    match d, s.restartEntry c st with
    | some d, (s1, some e) => ((s1.pushTail d e.image.prio e).modSeat c n (fun _ => {}), count + 1)
    | _, (s1, _) => ((s1.retireLost c st.image).modSeat c n (fun _ => {}), count)

/-- The ready queue of a lost core moves, priority by priority (R247). -/
def State.loseQueue (c : Nat) (d : Option Nat) (a : State × Nat) (p : Nat) : State × Nat :=
  (a.1.entries c p).foldl (fun b e =>
    match d, b.1.movedEntry c e with
    | some d, some e1 => (b.1.pushTail d p e1, b.2 + 1)
    | _, _ => (b.1.retireLost c e.image, b.2)) a

/-- The commands of a lost core end; each of its copies leaves its launch as though its notice were delivered (R257; DEDUCED, log 13). -/
def State.loseCommands (s : State) (c : Nat) : State :=
  ((s.core c).cmds.filter (fun d => d.engine == .copy && d.launch != 0 && !d.logged && !d.reported)).foldl
    (fun s d => s.decrement c { launch := bits d.launch 31 0, copy := true, copyFault := d.fault.isSome }) s

/-- THE LOSS OF A CORE (R246, R247). -/
def State.loseCore (s : State) (c : Nat) : State :=
  if (s.core c).lost then s
  else
    let s1 := ((s.loseParties c).modCore c (fun o => { o with lost := true })).loseCommands c
    let d := s1.successor c
    let (s2, count) :=
      [0, 1, 2, 3].foldl (fun a p => State.loseQueue c d a p) ((List.range 64).foldl (fun a n => State.loseSeat c d a n) (s1, 0))
    let s3 := s2.modCore c (fun o =>
      { o with
        slots := o.slots.map (fun e => (e.1, e.2.emptied))
        parked := [], parkUsed := [], faultUsed := [], arrivals := [], mailboxes := [], streams := [], leaving := [], buffer := [], loopq := []
        q0 := [], q1 := [], q2 := [], q3 := [], rings := [], yielded := []
        scratch := o.scratch.filter (fun u => o.seats.any (fun e => e.2.state == 2 && e.2.holdsUnit u))
        cmds := o.cmds.filter (·.logged) })
    let s4 := if isHead c then s3.stopMonitor (moduleOf c) c else s3
    s4.tellSupervisor c (noticeWord 12 0 (c % 2 ^ 24 * 2 ^ 24 + count)) none

/-- What a read of [k, k + n) at its home meets (R244, R245): a media error is found before an integrity error. -/
inductive Health where
  | sound | media | integrity
  deriving DecidableEq, Repr

def State.health (s : State) (k n : Nat) : Health :=
  if s.hasBad k n then .media else if isBulkKey k && s.hasUntagged k n then .integrity else .sound

/-- A consumed integrity error in slot `k` of core `c`: the fatal fault of kind 6, and the core issues no more (R241, R244; DESIGN CHOICE, log 14). -/
def State.integrityError (s : State) (c k : Nat) : State :=
  (((s.raiseFatal c (s.faultRec c k 6)).haltPartition c)).modCore c (fun o => { o with stopped := true })

/-- `n` free bytes (DESIGN CHOICE, log 3). -/
def freeBytes (free n : Nat) : List Byte := (List.range n).map (fun i => (Config.freeWord (free + i)).truncate 8)

end Sys2Proof.Machine
end

