-- ==== Sys2Proof/Machine/Window.lean ====
section
/-! DEFINITION. Device registers: the command windows of the PCIe functions and the stop records of cores and routers, as a host and a
supervisor reach them (R102 to R104, R239). -/
namespace Sys2Proof.Machine

/-- The number of a partition state as `fnst` and QUERY give it (R103). -/
def PState.code : PState → Nat
  | .absent => 0
  | .created => 1
  | .loaded => 2
  | .running => 3
  | .stopped => 4
  | .halted => 5

/-- Function status register `fnst` (R103). -/
def State.fnst (s : State) (m fn : Nat) : Word :=
  let f := s.func m fn
  let own := if fn = 0 then (s.module m).bootstep * 2 ^ 8 else (s.part m (fn - 1)).state.code * 2 ^ 4
  BitVec.ofNat 64 (own + f.ready.toNat * 8 + f.fwfault.toNat * 4 + f.dblerr.toNat * 2)

/-- A word of a command slot (R103); the posted word reads 0. -/
def Func.word (f : Func) (slot i : Nat) : Word := if i = 15 then 0 else (f.words.get (slot * 16 + i)).getD 0

/-- The `state` of a command slot. -/
def Func.slotState (f : Func) (slot : Nat) : Nat := bits (f.word slot 14) 7 0

/-- A write of `go` = 1 to a slot's posted word (R103, R104). -/
def State.postSlot (s : State) (m fn slot : Nat) : State :=
  let f := s.func m fn
  if f.slotState slot = 0 || f.slotState slot = 3 then
    let s1 := s.modFunc m fn (fun f =>
      { f with words := f.words.set (slot * 16 + 14) (setBits (f.word slot 14) 7 0 1), posted := f.posted ++ [slot] })
    let o := s1.ownerOf m fn
    s1.send { src := pcieCore m, dst := o, vc := 2, part := s1.partTag o, load := .notice 14 (noticeWord 16 0 slot) none }
  else s.modFunc m fn (fun f => { f with dblerr := true })

/-- A write to `fnst`: `dblerr` is cleared where a 1 is written. -/
def State.writeFnst (s : State) (m fn : Nat) (v : Word) : State :=
  if bit v 1 then s.modFunc m fn (fun f => { f with dblerr := false }) else s

/-- A write of an 8-byte word of a function's window (R102, R103); the result and status words belong to the firmware. -/
def State.windowWrite (s : State) (m fn off : Nat) (v : Word) : State :=
  if off < 0x2000 then
    let slot := off / 128
    let i := off % 128 / 8
    if i = 15 then (if bit v 0 then s.postSlot m fn slot else s)
    else if 13 ≤ i then s
    else s.modFunc m fn (fun f => { f with words := f.words.set (slot * 16 + i) v })
  else if off / 8 = 0x400 then s.writeFnst m fn v
  else s

/-- A read of an 8-byte word of a function's window. -/
def State.windowRead (s : State) (m fn off : Nat) : Word :=
  if off < 0x2000 then (s.func m fn).word (off / 128) (off % 128 / 8)
  else if off / 8 = 0x400 then s.fnst m fn
  else 0

/-! ## Interrupts to the host (R102, R104) -/

/-- The device identifier of a function (R102). -/
def deviceId (fn : Nat) : Nat := if fn = 0 then 0x0A08 else 0x0A09

/-- A word of the MSI-X table; at reset every vector is masked (PRESUMED, log 103). -/
def Func.vectorWord (f : Func) (i : Nat) : Word := (f.vectors.get i).getD (if i % 2 = 1 then 2 ^ 32 else 0)

/-- A vector is masked. -/
def Func.masked (f : Func) (v : Nat) : Bool := bit (f.vectorWord (2 * v + 1)) 32

/-- An MSI-X vector is raised: its message is sent, or it stays pending behind its mask. -/
def State.sendVector (s : State) (m fn v : Nat) : State :=
  if (s.func m fn).masked v then s.modFunc m fn (fun f => { f with pending := insertNat f.pending v })
  else s.modModule m (fun o => { o with msix := o.msix ++ [(fn, v)] })

/-- A write of a word of BAR2: a word of the MSI-X table, at 16 bytes a vector; a pending vector that is no longer masked is sent. -/
def State.vectorWrite (s : State) (m fn i : Nat) (v : Word) : State :=
  if 128 ≤ i then s
  else
    let s1 := s.modFunc m fn (fun f => { f with vectors := f.vectors.set i v })
    if (s.func m fn).pending.contains (i / 2) && !(s1.func m fn).masked (i / 2) then
      (s1.modFunc m fn (fun f => { f with pending := eraseNat f.pending (i / 2) })).sendVector m fn (i / 2)
    else s1

/-- A read of a word of BAR2: the MSI-X table, then the pending bits. -/
def State.vectorRead (s : State) (m fn i : Nat) : Word :=
  let f := s.func m fn
  if i < 128 then f.vectorWord i
  else if i = 128 then BitVec.ofNat 64 (f.pending.foldl (fun a v => a + 2 ^ v) 0)
  else 0

/-- An accepted command has run: what it writes back waits for COMMAND_COMPLETE (R104). -/
def State.endCommand (s : State) (m fn slot : Nat) (r : HostResult) : State :=
  s.modFunc m fn (fun f => match f.accepted.get slot with
    | none => f
    | some d => { f with accepted := f.accepted.set slot { d with outcome := some r } })

/-- An accepted command changed. -/
def State.modCommand (s : State) (m fn slot : Nat) (g : HostCmd → HostCmd) : State :=
  s.modFunc m fn (fun f => match f.accepted.get slot with
    | none => f
    | some d => { f with accepted := f.accepted.set slot (g d) })

/-! ## Stop records (R239) -/

/-- A word of the stop record of a core, or of the router record of a quad, at an offset. -/
def State.stopWord (s : State) (c off : Nat) : Word :=
  let r := (s.core c).stop.getD {}
  let n := fun (l : List Nat) i => BitVec.ofNat 64 (l.getD i 0)
  match off / 8 with
  | 0 => r.cyc
  | 1 => r.edge
  | 2 => n r.departed 0
  | 3 => n r.departed 1
  | 4 => n r.departed 2
  | 5 => n r.arrived 0
  | 6 => n r.arrived 1
  | 7 => n r.arrived 2
  | i => n r.router (i - 8)

/-! ## Accesses to space 3 -/

/-- A register of space 3 that a supervisor of core `c` reaches (R102, R239): its own function's window, or a stop record of its
module. -/
inductive Device where
  | window (fn off : Nat)
  | record (core off : Nat)
  | none
  deriving DecidableEq, Repr

def State.device (s : State) (c pa : Nat) : Device :=
  let x := pa % 2 ^ 42
  if pa / 2 ^ 44 % 256 ≠ moduleOf c then .none
  else if x / 2 ^ 41 = 1 then
    if x / 2 ^ 32 % 2 ^ 9 = 0 && x % 2 ^ 16 < 128 then .record (moduleOf c * 2 ^ 16 + x / 2 ^ 16 % 2 ^ 16) (x % 2 ^ 16) else .none
  else
    match s.partOf c with
    | some p => if x / 2 ^ 16 = p + 1 && x % 2 ^ 16 < 0x4000 then .window (p + 1) (x % 2 ^ 16) else .none
    | Option.none => .none

/-- The 8-byte word of a device that holds an offset. -/
def State.deviceWord (s : State) (c : Nat) : Device → Word
  | .window fn off => s.windowRead (moduleOf c) fn (off / 8 * 8)
  | .record core off => s.stopWord core off
  | .none => 0

/-- Byte `i` of a word. -/
def byteOf (w : Word) (i : Nat) : Byte := BitVec.ofNat 8 (w.toNat / 256 ^ i)

/-- A device moved by `i` bytes. -/
def Device.add (d : Device) (i : Nat) : Device :=
  match d with
  | .window fn off => .window fn (off + i)
  | .record c off => .record c (off + i)
  | .none => .none

/-- The offset of a device. -/
def Device.off : Device → Nat
  | .window _ off => off
  | .record _ off => off
  | .none => 0

/-- `n` bytes read from a device. -/
def State.deviceRead (s : State) (c : Nat) (d : Device) (n : Nat) : List Byte :=
  (List.range n).map (fun i => byteOf (s.deviceWord c (d.add i)) ((d.off + i) % 8))

/-- Bytes written to a device: word by word; a narrower write keeps the other bytes of its word (DESIGN CHOICE, log 16). Stop records are read-only. -/
def State.deviceWrite (s : State) (c : Nat) (d : Device) (bs : List Byte) : State :=
  match d with
  | .window fn off =>
    let base := off / 8 * 8
    let words := (off % 8 + bs.length + 7) / 8
    (List.range words).foldl (fun s w =>
      let a := base + 8 * w
      let old := s.windowRead (moduleOf c) fn a
      let v := BitVec.ofNat 64 (ofBytes ((List.range 8).map (fun i =>
        if off ≤ a + i && a + i < off + bs.length then bs.getD (a + i - off) 0 else byteOf old i)))
      s.windowWrite (moduleOf c) fn a v) s
  | _ => s

end Sys2Proof.Machine
end

