-- ==== Sys2Proof/Machine/Access.lean ====
section
/-! DEFINITION. Memory accesses of threads, from the issue turn to the home (R136, R158, R159, R171, R173 to R176, R179, R201, R211,
R315, R316, R334). -/
namespace Sys2Proof.Machine

/-! ## Writes at a home -/

/-- The cache portion of a bulk byte's core may hold its line dirty (R164). -/
def State.cacheable (s : State) (k : Nat) : Bool := isBulkKey k && (s.core (coreOfKey k)).lmsplitCache != 0

/-- A line of a column is about to be written through a cache portion: the DRAM's bytes are kept. A line that was dirty already may
have been written back in the meantime, as the hardware chooses (R164, DESIGN CHOICE, log 6). -/
def State.markDirty (s : State) (line : Nat) : State :=
  match s.dirty.get line with
  | none => { s with dirty := s.dirty.set line (s.bytes (line * 64) 64) }
  | some _ =>
    if Config.freeBool s.free then { s with dirty := s.dirty.set line (s.bytes (line * 64) 64) }.tick else s.tick

/-- A write of bytes performs at its home. -/
def State.storeHome (s : State) (k : Nat) (bs : List Byte) : State :=
  if s.cacheable k then
    ((List.range ((k % 64 + bs.length + 63) / 64)).foldl (fun s i => s.markDirty (k / 64 + i)) s).putBytes k bs
  else s.putBytes k bs

/-! ## The paths of an access -/

/-- The bytes that an access moves. -/
def AccOp.size : AccOp → Nat
  | .load n _ _ => n
  | .loadQuad _ => 32
  | .store n _ => n
  | .storeQuad _ _ _ _ => 32
  | .loadFull n _ _ => n
  | .storeFull n _ _ => n
  | .checkFull _ => 4
  | .amo _ n _ _ _ => n
  | .join => 16

/-- The kind under which an access is checked (R171). -/
def AccOp.kind : AccOp → AccKind
  | .load _ _ _ => .load
  | .loadQuad _ => .load
  | .store _ _ => .store
  | .storeQuad _ _ _ _ => .store
  | .loadFull _ _ _ => .full
  | .storeFull _ _ _ => .full
  | .checkFull _ => .full
  | .amo _ _ _ _ _ => .atomic
  | .join => .atomic

/-- The offset of a local key in its core's memory. -/
def localOff (k : Nat) : Nat := if 2 ^ 52 ≤ k then k % 2 ^ 20 else k % 2 ^ 16

/-- The key of a device register. -/
def deviceKey (pa : Nat) : Nat := 2 ^ 60 + pa

/-- How a piece reaches its home from core `c` (R159). -/
inductive Path where
  /-- step 1 -/
  | direct
  /-- steps 2, 4 and 5 -/
  | quad
  | device
  | away (core : Nat)
  deriving DecidableEq, Repr

def State.pathOf (s : State) (c k : Nat) : Path :=
  if 2 ^ 60 ≤ k then .device
  else if isFarKey k then .away (coreOfKey (nearKey k))
  else if 2 ^ 53 ≤ k then .direct
  else if isLocalKey k then
    let h := coreOfKey k
    if h = c && localOff k < s.privSize c then .direct
    else if !isHead c && !isHead h && quadOf h = quadOf c && s.privSize h ≤ localOff k then .quad
    else .away h
  else if !isHead c && quadOfPa k = quadOf c then .quad
  else .away (coreOfKey k)

/-! ## The store buffer (R179, steps 2 to 4) -/

/-- An entry overlaps, or covers, [k, k + n). -/
def StoreEntry.overlaps (e : StoreEntry) (k n : Nat) : Bool := e.home < k + n && k < e.home + e.bytes.length
def StoreEntry.covers (e : StoreEntry) (k n : Nat) : Bool := e.home ≤ k && k + n ≤ e.home + e.bytes.length

/-- What step 4 gives a load: the bytes of the youngest own entry that covers it, the home's value, or a wait. -/
inductive Forward where
  | bytes (l : List Byte)
  | home
  | wait
  deriving DecidableEq, Repr

def Core.forward (o : Core) (slot k n : Nat) : Forward :=
  let own := o.buffer.filter (fun e => e.slot == slot && e.overlaps k n)
  if own.any (fun e => !e.covers k n) then .wait
  else match own.getLast? with
    | none => .home
    | some e => .bytes ((e.bytes.drop (k - e.home)).take n)

/-- The bytes at a home as slot `k` of core `c` sees them: with what its own buffer entries hold (step 4). -/
def State.seenBytes (s : State) (c k key n : Nat) : List Byte :=
  ((s.core c).buffer.filter (fun e => e.slot == k && e.overlaps key n)).foldl (fun l e =>
    (List.range n).map (fun i => if e.home ≤ key + i && key + i < e.home + e.bytes.length then e.bytes.getD (key + i - e.home) 0 else l.getD i 0))
    (s.bytes key n)

/-- A slot has no buffer entry on its core. -/
def Core.drainedSlot (o : Core) (slot : Nat) : Bool := !o.buffer.any (fun e => e.slot == slot)

/-! ## Atomics (R334, R336) -/

/-- The new value of an `n`-byte atomic; none stores nothing. -/
def amoNew (f : AmoFn) (n old v e : Nat) : Option Nat :=
  let m := 2 ^ (8 * n)
  let x := sextInt (8 * n) old
  let y := sextInt (8 * n) v
  match f with
  | .add => some ((old + v) % m)
  | .and => some (old &&& v)
  | .or => some (old ||| v)
  | .xor => some (old ^^^ v)
  | .min => some (if x ≤ y then old else v)
  | .max => some (if y ≤ x then old else v)
  | .minu => some (if old ≤ v then old else v)
  | .maxu => some (if v ≤ old then old else v)
  | .swap => some v
  | .cas => if old = e then some v else none
  | .fadd => some ((if n = 4 then fp32 else fp64).fadd .rne old v).1

/-- The old value as the destination receives it. -/
def amoOld (f : AmoFn) (n old : Nat) : Word :=
  if n = 8 then BitVec.ofNat 64 old
  else if f = .minu || f = .maxu || f = .fadd then BitVec.ofNat 64 old
  else sext 32 old

/-! ## One piece at its home -/

/-- The bytes that a store writes, lowest first. -/
def AccOp.data : AccOp → List Byte
  | .store n v => toBytes v.toNat n
  | .storeQuad a b c d => bytesOf [a, b, c, d]
  | .storeFull n v _ => toBytes v.toNat n
  | _ => []

/-- What a piece did. -/
inductive Piece where
  /-- performed; the bytes that a load or an atomic reads -/
  | did (s : State) (l : List Byte)
  /-- its step is not enabled: park with this code -/
  | wait (code : Nat)
  /-- a full/empty condition does not hold -/
  | full
  /-- the thread goes no further -/
  | stop (s : State)

/-- A read of bytes at their home for slot `k` of core `c`: a media error loses the core where it performs, and an access from another
core of the quad goes on with free bytes (R245; DESIGN CHOICE, log 14). -/
def State.readHome (s : State) (c k key n : Nat) : Piece :=
  match s.health key n with
  | .sound => .did (s.countRead key n) (s.bytes key n)
  | .integrity => .stop (s.integrityError c k)
  | .media =>
    let h := coreOfKey key
    if h = c then .stop (s.loseCore c)
    else .did { s.loseCore h with free := s.free + n } (freeBytes s.free n)

/-- The full/empty condition of an access on [key, key + n) holds (R175). -/
def State.fullHolds (s : State) (op : AccOp) (key n : Nat) : Bool :=
  match op with
  | .loadFull _ _ _ => s.allBits key n true
  | .storeFull _ _ true => s.allBits key n false
  | _ => true

/-- The count of a roll-call cell after a `join` (R151). -/
def joinNew (old : Nat) : Nat := (old + 2 ^ 64 - 1) % 2 ^ 64

/-- The effect of `n` bytes of an access at `key`, from offset `off` of the access, at its home (R330 to R336, R359). -/
def State.perform (s : State) (c k : Nat) (op : AccOp) (key n off : Nat) : Piece :=
  match op with
  | .load _ _ _ => s.readHome c k key n
  | .loadQuad _ => s.readHome c k key n
  | .store _ _ => .did (s.storeHome key ((op.data.drop off).take n)) []
  | .storeQuad _ _ _ _ => .did (s.storeHome key ((op.data.drop off).take n)) []
  | .loadFull _ _ take =>
    if s.fullHolds op key n then
      match s.readHome c k key n with
      | .did s1 l => .did (if take then s1.setFull key n false else s1) l
      | p => p
    else .full
  | .storeFull _ _ _ => if s.fullHolds op key n then .did ((s.storeHome key op.data).setFull key n true) [] else .full
  | .checkFull _ => .did s [if s.isFull (key / 4) then 1 else 0]
  | .amo f n v e _ =>
    match s.readHome c k key n with
    | .did s1 l =>
      match amoNew f n (ofBytes l) (v.toNat % 2 ^ (8 * n)) (e.toNat % 2 ^ (8 * n)) with
      | none => .did s1 l
      | some w => .did (s1.storeHome key (toBytes w n)) l
    | p => p
  | .join =>
    match s.readHome c k key n with
    | .did s1 l => .did (s1.storeHome key (toBytes (joinNew (ofBytes (l.take 8))) 8)) l
    | p => p

/-- The same at a device register: an atomic reads, then writes. -/
def State.performDevice (s : State) (c : Nat) (op : AccOp) (pa n off : Nat) : Piece :=
  let d := s.device c pa
  match op with
  | .store _ _ => .did (s.deviceWrite c d ((op.data.drop off).take n)) []
  | .storeQuad _ _ _ _ => .did (s.deviceWrite c d ((op.data.drop off).take n)) []
  | .amo f n v e _ =>
    let l := s.deviceRead c d n
    match amoNew f n (ofBytes l) (v.toNat % 2 ^ (8 * n)) (e.toNat % 2 ^ (8 * n)) with
    | none => .did s l
    | some w => .did (s.deviceWrite c d (toBytes w n)) l
  | _ => .did s (s.deviceRead c d n)

/-- A line misses in its home's cache portion now, and the access waits for its step (R164, R199 code 1). -/
def State.misses (s : State) (key : Nat) : Bool := s.cacheable key && Config.cacheMiss (key / 64) s.now

/-- A piece of quad-homed memory takes its step: 2, 4 or 5. -/
def State.quadPiece (s : State) (c k : Nat) (op : AccOp) (key n off : Nat) : Piece :=
  let o := s.core c
  match op with
  | .store _ _ | .storeQuad _ _ _ _ =>
    if o.buffer.length < 4 then
      .did (s.modCore c (fun o => { o with buffer := o.buffer ++ [{ slot := k, home := key, bytes := (op.data.drop off).take n }] })) []
    else .wait 1
  | .load _ _ _ | .loadQuad _ =>
    match o.forward k key n with
    | .wait => .wait 1
    | .bytes l => .did s l
    | .home => if s.misses key then .wait 1 else s.perform c k op key n off
  | _ => if o.drainedSlot k && !s.misses key then s.perform c k op key n off else .wait 1

/-! ## Results -/

/-- The value of a load of `n` bytes. -/
def extend (n : Nat) (signed : Bool) (v : Nat) : Word := if signed then sext (8 * n) v else BitVec.ofNat 64 v

/-- The destination of an access written in slot `k` of core `c`. -/
def State.putResult (s : State) (c k : Nat) (op : AccOp) (l : List Byte) : State :=
  match op with
  | .load n signed d => s.setRegAt c k d (extend n signed (ofBytes l))
  | .loadQuad d =>
    (List.range 4).foldl (fun s i => s.setRegAt c k (d + BitVec.ofNat 4 i) (BitVec.ofNat 64 (ofBytes ((l.drop (8 * i)).take 8)))) s
  | .loadFull _ d _ => s.setRegAt c k d (BitVec.ofNat 64 (ofBytes l))
  | .checkFull d => s.setRegAt c k d (BitVec.ofNat 64 (ofBytes l))
  | .amo f n _ _ (some d) => s.setRegAt c k d (amoOld f n (ofBytes l))
  | _ => s

/-- The thread of a slot quits: the slot empties, and the quit notice goes to its seat (R132, R355). -/
def State.quitNow (s : State) (c k : Nat) : State :=
  match (s.slot c k).thread with
  | none => s
  | some t => (s.emptySlot c k).sendQuit c t

/-- The thread of a slot quits as soon as the conditions of step 8 hold. -/
def State.quitWhen (s : State) (c k : Nat) : State :=
  if s.mayDepartAt c k then s.quitNow c k
  else s.modSlot c k (fun l => { l with park := some (.step 15), carried := some .quit })

/-- A `join` has counted (R151): the joiner that reaches 0 goes on at the continuation; any other quits. -/
def State.joined (s : State) (c k : Nat) (l : List Byte) : State :=
  if joinNew (ofBytes (l.take 8)) = 0 then
    s.modSlot c k (fun t =>
      { t with
        park := none, carried := none
        thread := t.thread.map (fun h => { h with ctx := { h.ctx with ip := ipOf (BitVec.ofNat 64 (ofBytes (l.drop 8))) } }) })
  else s.quitWhen c k

/-- An access has performed in full: its result is written and its thread goes on at the next instruction. -/
def State.finishAccess (s : State) (c k : Nat) (op : AccOp) (l : List Byte) : State :=
  match op with
  | .join => s.joined c k l
  | _ => ((s.putResult c k op l).modSlot c k (fun t => { t with carried := none })).advanceAt c k

/-! ## Waiters of full/empty bits (R176) -/

/-- The cores whose slots may wait on a local word. -/
def neighbours (key : Nat) : List Nat :=
  if 2 ^ 52 ≤ key then [coreOfKey key] else (List.range 4).map (coreOfQuad (quadOf (coreOfKey key)))

/-- The waiting accesses near a word: stamp, core, slot and access. -/
def State.waiters (s : State) (key : Nat) : List (Nat × Nat × Nat × Access) :=
  (neighbours key).flatMap (fun c => (List.range 8).filterMap (fun k =>
    match (s.slot c k).park with
    | some (.full a since) => some (since, c, k, a)
    | _ => none))

/-- The waiter that began earliest among those whose condition holds. -/
def State.firstReady (s : State) (key : Nat) : Option (Nat × Nat × Access) :=
  let ready := (s.waiters key).filter (fun w => match w.2.2.2.parts with
    | (h, n) :: _ => s.fullHolds w.2.2.2.op h n
    | [] => true)
  match ready with
  | [] => none
  | w :: rest => some ((rest.foldl (fun b x => if x.1 < b.1 then x else b) w).2)

/-- The home resolves the accesses that wait on changed words one at a time, in the order in which they began to wait. -/
def State.resolve (key : Nat) : Nat → State → State
  | 0, s => s
  | fuel + 1, s =>
    match s.firstReady key with
    | none => s
    | some (c, k, a) =>
      match a.parts with
      | [] => s
      | (h, n) :: _ =>
        match s.perform c k a.op h n 0 with
        | .did s1 l => State.resolve key fuel ((s1.takeAt c k a.srcs).finishAccess c k a.op l)
        | .stop s1 => State.resolve key fuel s1
        | _ => s

/-- After an access that may have changed bits, its waiters are resolved: no more accesses wait than slots exist. -/
def State.afterFull (s : State) (op : AccOp) (key : Nat) : State :=
  match op with
  | .loadFull _ _ true => State.resolve key 32 s
  | .storeFull _ _ _ => State.resolve key 32 s
  | _ => s

/-! ## Running an access in a slot -/

/-- A slot parked in an access that has not taken its step; `keep` holds what has been translated or has performed already. -/
def State.parkAccess (s : State) (c k code : Nat) (keep : Option Carried) : State :=
  s.modSlot c k (fun l => { l with park := some (.step code), carried := keep })

/-- The thread of a slot departs with the rest of its access (R201, R211). -/
def State.departAt (s : State) (c k dst : Nat) (load : Option Carried) : State :=
  match (s.slot c k).thread with
  | none => s
  | some t =>
    (s.emptySlot c k).send
      { src := c, dst, vc := 0, tag := s.tagOf c, part := s.partTag c, load := .context { t with origin := c } load none }

/-- A slot whose access still has pieces to perform; they follow in the slot's next turn, before its next instruction (R173). -/
def Slot.holding (l : Slot) (a : Access) : Slot := { l with park := none, carried := some (.access a), torn := true }

/-- The next piece of an access, in slot `k` of core `c`: `started` when the context arrived with the access, or when a piece has
performed; another party may act before the piece that follows (R173); `took` holds the stream elements that the instruction takes (R346).
The second result says whether the instruction has taken a step. -/
def State.runParts (s : State) (c k : Nat) (op : AccOp) (va : Word) (srcs : List Reg) (took : List (Reg × Word)) (started : Bool) :
    List (Nat × Nat) → List Byte → State × Bool
  | [], got => (s.finishAccess c k op got, true)
  | (key, n) :: rest, got =>
    let off := op.size - ((n :: rest.map (·.2)).foldl (· + ·) 0)
    let keep : Option Carried := if started then some (.access { op, va, parts := (key, n) :: rest, got, took }) else none
    let step := fun (p : Piece) => match p with
      | .did s1 l =>
        let s2 := match rest with
          | [] => s1.finishAccess c k op (got ++ l)
          | _ => s1.modSlot c k (fun x => x.holding { op, va, parts := rest, got := got ++ l, took })
        (s2.afterFull op key, true)
      | .wait code => (s.parkAccess c k code keep, started)
      | .full =>
        let a : Access := { op, va, parts := (key, n) :: rest, got, srcs }
        ((s.modSlot c k (fun l => { l with park := some (.full a s.stamp), carried := none })).stampUp, started)
      | .stop s1 => (s1, true)
    match s.pathOf c key with
    | .direct => step (s.perform c k op key n off)
    | .device => step (s.performDevice c op (key - 2 ^ 60) n off)
    | .quad => step (s.quadPiece c k op key n off)
    | .away d =>
      if s.mayDepartAt c k then
        (s.departAt c k d (some (.access { op, va, parts := ((key, n) :: rest).map (fun p => (nearKey p.1, p.2)), got, took })), true)
      else (s.parkAccess c k 15 keep, started)

/-- The access of an arrived context, or the rest of one, takes its step in its slot. -/
def State.resumeAccess (s : State) (c k : Nat) (a : Access) : State := (s.runParts c k a.op a.va [] a.took true a.parts a.got).1

/-! ## Split tasks and meetings (R135, R136, R217, R316) -/

/-- The column of the table of R136 in which a place falls. -/
inductive Column where
  | scratch
  /-- the hardware's part of the scratch -/
  | log
  | here
  | commons
  | column
  | distant
  | other
  deriving DecidableEq, Repr

/-- The seat of a split task's thread. -/
def State.splitSeat (s : State) (t : Thread) : Option (Nat × Nat × Seat) :=
  if t.ctx.status.spl then t.task.map (fun i => (i.seatCore, i.seat, s.seatOf i)) else none

/-- The column of a local offset of a core for a split task. -/
def Seat.columnOf (st : Seat) (off n : Nat) : Column :=
  let lo := st.scratchBase
  if lo ≤ off && off + n ≤ lo + st.scratchUnits * 256 then
    if off < lo + st.logEnd && lo + 256 < off + n then .log else .scratch
  else .here

/-- The column of a place for a split task seated on core `c`. -/
def Seat.column (st : Seat) (p : Place) (n : Nat) : Column :=
  match p with
  | .priv k => st.columnOf (localOff k) n
  | .own k => st.columnOf (localOff k) n
  | .quad k => if isLocalKey k then .commons else .column
  | .away _ _ => .distant
  | .device _ => .distant
  | _ => .other

/-- The access writes. -/
def AccOp.writes : AccOp → Bool
  | .load _ _ _ => false
  | .loadQuad _ => false
  | .loadFull _ _ take => take
  | .checkFull _ => false
  | _ => true

/-- The trap that a thread's access meets after translation: cause 4, `sub` 3, for a distant home while met; in a split task by
R136 (the log region as in R135). -/
def State.fateOf (s : State) (t : Thread) (op : AccOp) (ps : List (Place × Nat)) : Option (Nat × Nat) :=
  if t.ctx.status.met then
    if ps.any (fun p => (match p.1 with | .away _ _ => true | .device _ => true | _ => false)) then some (4, 3) else none
  else
    match s.splitSeat t with
    | none => none
    | some (_, _, st) =>
      let bad := ps.filterMap (fun p => match st.column p.1 p.2 with
        | .scratch => none
        | .log => if op.writes then some (4, 4) else none
        | .here => if op.writes then some (4, 4) else none
        | .commons => if op.writes then some (4, 4) else none
        | .column => if op.writes then some (11, 0) else none
        | .distant => some (7, 0)
        | .other => none)
      bad.head?

/-! ## The issue turn of an access (R171, R174, R315) -/

/-- The pieces of an access by its 32-byte boundary (R173). -/
def pieces (va : Word) (n : Nat) : List (Nat × Nat) :=
  let a := va.toNat
  let room := 32 - a % 32
  if n ≤ room then [(a, n)] else [(a, room), ((a + room) % 2 ^ 64, n - room)]

/-- What the checks of every piece give. -/
inductive Checked where
  | places (l : List (Place × Nat))
  | trap (sub : Nat) (addr : Nat)
  | fault (cls : Nat) (addr : Nat)
  | refused (addr : Nat)
  | busy
  deriving DecidableEq, Repr

/-- Every piece of an access translated and checked before any performs. -/
def State.check (s : State) (c : Nat) (t : Thread) (meet : Option Meet) (kind : AccKind) :
    List (Nat × Nat) → List (Place × Nat) → State × Checked
  | [], done => (s, .places done)
  | (va, n) :: rest, done =>
    match s.place c t meet va n kind with
    | (s1, .trap sub) => (s1, .trap sub va)
    | (s1, .fault cls) => (s1, .fault cls va)
    | (s1, .refused a) => (s1, .refused a)
    | (s1, .busy) => (s1, .busy)
    | (s1, .device pa) =>
      if s1.device c pa = .none || kind = .full then (s1, .trap 1 va) else State.check s1 c t meet kind rest (done ++ [(.device pa, n)])
    | (s1, p) => State.check s1 c t meet kind rest (done ++ [(p, n)])

/-- The key under which a checked place performs. -/
def Place.key : Place → Nat
  | .priv k => k
  | .cloak k => k
  | .quad k => k
  | .own k => k
  | .away _ k => k
  | .device pa => deviceKey pa
  | _ => 0

/-- Some piece goes through the loop-back port. -/
def isOwn : Place → Bool
  | .own _ => true
  | _ => false

/-- An access enters the loop-back queue (step 6): a plain store is complete for its thread, any other waits. -/
def State.loopIssue (s : State) (a : Access) : State :=
  let s1 := s.modCore s.here (fun o => { o with loopq := o.loopq ++ [(s.slotNo, a)] })
  match a.op with
  | .store _ _ | .storeQuad _ _ _ _ => s1.advanceAt s.here s.slotNo
  | _ => s1.park .loopback

/-- The checks of an access of the running thread: `go` receives the state and the checked places. -/
def State.checked (s : State) (t : Thread) (va : Word) (n align : Nat) (kind : AccKind)
    (go : State → List (Place × Nat) → State) : State :=
  if va.toNat % align ≠ 0 then s.trap 3 0 va
  else
    match s.check s.here t s.running.meet kind (pieces va n) [] with
    | (s1, .trap sub a) => s1.trap 4 sub (BitVec.ofNat 64 a)
    | (s1, .fault cls a) => s1.pageFault (BitVec.ofNat 64 a) cls kind.code
    | (s1, .refused a) => s1.refuse (BitVec.ofNat 64 a)
    | (s1, .busy) => s1.again 9
    | (s1, .places ps) => go s1 ps

/-- Checked places take their steps. -/
def State.startAccess (s : State) (t : Thread) (op : AccOp) (va : Word) (srcs : List Reg) (ps : List (Place × Nat)) : State :=
  let parts := ps.map (fun p => (p.1.key, p.2))
  if ps.any (fun p => isOwn p.1) then (s.loopIssue { op, va, parts }).takeFor s.here t.tid srcs
  else
    let (s1, took) := s.runParts s.here s.slotNo op va srcs (s.tookAt s.here s.slotNo srcs) false parts []
    if took then s1.takeFor s.here t.tid srcs else s1

/-- AN ACCESS OF THE RUNNING THREAD: alignment, translation and permissions, the fate of R136 or R217, then its steps. -/
def State.access (s : State) (t : Thread) (op : AccOp) (va : Word) (align : Nat) (srcs : List Reg) : State :=
  s.checked t va op.size align op.kind (fun s1 ps =>
    match s1.fateOf t op ps with
    | some (cause, sub) => s1.trap cause sub va
    | none => s1.startAccess t op va srcs ps)

/-! ## Logged effects of a split task (R137, R138, R145, R335) -/

/-- A seat's log takes an item of `size` bytes: there is room, or none. -/
def Seat.room (st : Seat) (size : Nat) : Bool := st.logEnd + size ≤ st.lowRes

/-- An item logged by the running thread: without room the task aborts, or, after the founder's `done`, the instruction traps with
`sub` 7. -/
def State.logItem (s : State) (c n size : Nat) (addr : Word) (srcs : List Reg) (put : Seat → Seat) : State :=
  let st := (s.core c).seat n
  if st.room size then
    (s.modSeat c n (fun st =>
      { put st with logEnd := st.logEnd + size, logged := st.logged + 1, logAt := st.logAt ++ [(st.logged, st.logEnd, size)] })).complete srcs
  else if st.finishing then s.trap 4 7 addr
  else s.abortTask c n 1

/-- A memory item appended to a seat's log. -/
def Seat.logMem (st : Seat) (m : MemLog) : Seat := { st with memLog := st.memLog ++ [(st.logged, m)] }

/-- `stc` and `red` of the running thread (R316, R335, R336): in a split task, outside its own scratch, an item of 16 bytes. -/
def State.committed (s : State) (t : Thread) (op : AccOp) (item : Nat → MemLog) (va : Word) (srcs : List Reg) : State :=
  match s.splitSeat t with
  | none => s.access t op va op.size srcs
  | some (c, n, st) =>
    s.checked t va op.size op.size op.kind (fun s1 ps =>
      match ps with
      | [(.device _, _)] => s1.trap 4 1 va
      | [(p, len)] =>
        match st.column p len with
        | .scratch => s1.startAccess t op va srcs ps
        | .log => s1.trap 4 4 va
        | _ => s1.logItem c n 16 va srcs (fun st => st.logMem (item (nearKey p.key)))
      | _ => s1)

end Sys2Proof.Machine
end

