-- ==== Sys2Proof/Machine/Numbers.lean ====
section
/-! DEFINITION. Element formats, decode tables, block scales, the anchored accumulator, anchored int64, and the keyed sign
(R271 to R289, R396, R399). -/
namespace Sys2Proof.Machine

/-! ## Formats (R273, R279) -/

/-- The floating format of a format code, if it is one. -/
def fmtOf : Nat → Option Fmt
  | 0 => some fp32
  | 1 => some fp64
  | 2 => some fp16
  | 3 => some bf16
  | 4 => some d19
  | _ => none

/-- The bits of an integer format code. -/
def intWidth : Nat → Nat
  | 5 => 8
  | 6 => 32
  | _ => 64

/-- A code names an integer format. -/
def isIntFmt (code : Nat) : Bool := 5 ≤ code && code ≤ 7

/-- The bytes of an element; a six-bit code has none of its own. -/
def elemSize : Nat → Nat
  | 0 => 4
  | 1 => 8
  | 2 => 2
  | 3 => 2
  | 4 => 4
  | 5 => 1
  | 6 => 4
  | 7 => 8
  | _ => 1

/-- Six-bit codes. -/
def isSix (code : Nat) : Bool := code == 10 || code == 11

/-- The bytes of `n` elements of a format. -/
def packedSize (code n : Nat) : Nat := if isSix code then n * 3 / 4 else n * elemSize code

/-- Code `j` of packed six-bit codes (R273). -/
def sixCode (bs : List Byte) (j : Nat) : Nat := ofBytes ((bs.drop (j / 4 * 3)).take 3) / 2 ^ (6 * (j % 4)) % 64

/-- Six-bit codes packed four to three bytes. -/
def packSix : List Nat → List Byte
  | a :: b :: c :: d :: rest => toBytes (a % 64 + b % 64 * 2 ^ 6 + c % 64 * 2 ^ 12 + d % 64 * 2 ^ 18) 3 ++ packSix rest
  | _ => []

/-- Raw element `i` of packed elements of a format. -/
def rawElem (code : Nat) (bs : List Byte) (i : Nat) : Nat :=
  if isSix code then sixCode bs i else ofBytes ((bs.drop (i * elemSize code)).take (elemSize code))

/-! ## Decode tables (R274, R278) -/

/-- The entry that a code selects (R274). -/
def codeEntry (six : Bool) (tab : List Nat) (c : Nat) : Nat :=
  if six then tab.getD (128 * (c / 32 % 2) + c % 32) 0 else tab.getD (c % 256) 0

/-- An integer as an exact value. -/
def Fl.ofInt (v : Int) : Fl := .fin (v < 0) v.natAbs 0

/-- The exact value of a raw element; codes decode through the core's tables (R272, R274). -/
def elemValue (code : Nat) (tab0 tab1 : List Nat) (raw : Nat) : Fl :=
  match fmtOf code with
  | some f => f.decode raw
  | none =>
    if isIntFmt code then Fl.ofInt (sextInt (intWidth code) raw)
    else d19.decode (codeEntry (isSix code) (if code % 2 = 0 then tab0 else tab1) raw)

/-- A value in D19: exact for every value of a preset. -/
def toD19 (v : Fl) : Nat := (d19.ofFl .rne v).1

/-- A magnitude with `g` fraction bits of `m`: subnormal at exponent field 0 (R278). -/
def presetMag (mbits last e g : Nat) : Fl :=
  if e = 0 then .fin false g (-(last : Int)) else .fin false (g + 2 ^ mbits) ((e : Int) - 1 - last)

/-- Entry `i` of the `e4m3` preset's magnitude half, as a value. -/
def e4m3Value (i : Nat) : Fl := if i % 128 = 127 then .nan false else presetMag 3 9 (i % 128 / 8) (i % 8)

/-- Entry `i` of the `e5m2` preset's magnitude half, as a value. -/
def e5m2Value (i : Nat) : Fl :=
  if 125 ≤ i % 128 then .nan false else if i % 128 = 124 then .inf false else presetMag 2 16 (i % 128 / 4) (i % 4)

/-- Entry `i` of the `e2m3`, `e3m2` and `linear` presets' magnitude halves, as values; a six-bit preset fills entries 32 to 127 with the
value of entry 31. -/
def e2m3Value (i : Nat) : Fl := presetMag 3 3 (min (i % 128) 31 / 8) (min (i % 128) 31 % 8)
def e3m2Value (i : Nat) : Fl := presetMag 2 4 (min (i % 128) 31 / 4) (min (i % 128) 31 % 4)
def linearValue (i : Nat) : Fl := .fin false (i % 128) 0

/-- A table from its magnitude half: entry 128 + i is entry i with bit 18 set. -/
def presetTable (v : Nat → Fl) : List Nat :=
  (List.range 128).map (fun i => toD19 (v i)) ++ (List.range 128).map (fun i => toD19 (v i) + 2 ^ 18)

/-- The bytes of a table in the image format of R28: 256 words of 4 bytes. -/
def tableBytes (t : List Nat) : List Byte := t.flatMap (fun v => toBytes v 4)

/-! ## Block scales (R281) -/

/-- A block-scale byte as a value: the `e4m3` magnitude, whatever bit 7 holds. -/
def scaleValue (b : Byte) : Fl := e4m3Value (b.toNat % 128)

/-- A scale byte that sets the bad-scale flag. -/
def badScale (b : Byte) : Bool := 128 ≤ b.toNat

/-! ## Encoding into a table (R276) -/

/-- A magnitude to be encoded: a NaN, an infinity, or m × 2^e / d exactly. -/
inductive Mag where
  | nan
  | inf
  | quo (m : Nat) (e : Int) (d : Nat)
  deriving DecidableEq, Repr

/-- The value of an entry in units of 2^−136, none for an exponent of 255. -/
def entryUnits (v : Nat) : Option Int :=
  match d19.decode v with
  | .fin s m e => some (scaled s m e (-136))
  | _ => none

/-- The value of an entry is at most m × 2^e / d, or less: the two sides with one denominator. -/
def entryScale (v : Int) (d : Nat) (e : Int) : Int := v * (d * 2 ^ (-136 - (if e < -136 then e else -136)).toNat : Nat)
def magScale (m : Nat) (e : Int) : Int := (m * 2 ^ (e - (if e < -136 then e else -136)).toNat : Nat)

/-- The search of R276 over the magnitude half: `lo` after the steps n/2, n/4, …, 1. -/
def searchCode (vals : List (Option Int)) (d : Nat) (m : Nat) (e : Int) : List Nat → Nat → Nat
  | [], lo => lo
  | step :: rest, lo =>
    match vals.getD (lo + step) none with
    | none => searchCode vals d m e rest lo
    | some v =>
      if entryScale v d e ≤ magScale m e then searchCode vals d m e rest (lo + step) else searchCode vals d m e rest lo

/-- What encoding uses of `v.tc` for a table (R275): `nv`, `im` and the NaN code. -/
structure EncCtl where
  nv : Bool
  im : Bool
  nan : Nat
  deriving DecidableEq, Repr

/-- The control fields of a table in `v.tc`. -/
def encCtl (tc : Word) (t : Nat) : EncCtl :=
  { nv := bit tc (16 * t + 15), im := bit tc (16 * t + 14), nan := bits tc (16 * t + 7) (16 * t) }

/-- Encoding of a magnitude with sign `s` into a code of a table (R276). A table whose magnitude half holds no finite entry gives no
index f; `none'` stands for it (DESIGN CHOICE, log 18). -/
def encodeCode (six : Bool) (tab : List Nat) (k : EncCtl) (none' : Nat) (s : Bool) (x : Mag) : Nat :=
  let n := if six then 32 else 128
  let vals := (List.range n).map (fun i => entryUnits (tab.getD i 0))
  let top := if s then n else 0
  let f := (((List.range n).reverse).find? (fun i => (vals.getD i none).isSome)).getD (none' % n)
  let fin := (vals.getD f none).getD 0
  let iinf := (List.range n).find? (fun i => tab.getD i 0 % 2 ^ 19 == d19.inf)
  let spilled := match iinf with
    | some i => if k.im then top + i else top + f
    | none => top + f
  match x with
  | .nan => if k.nv then (if six then k.nan % 64 else k.nan) else top + f
  | .inf => spilled
  | .quo m e d =>
    if entryScale fin d e < magScale m e then spilled
    else
      let lo := searchCode vals d m e (if six then [16, 8, 4, 2, 1] else [64, 32, 16, 8, 4, 2, 1]) 0
      if n - 1 ≤ lo then top + lo
      else
        match vals.getD lo none, vals.getD (lo + 1) none with
        | some a, some b =>
          let dl := magScale m e - entryScale a d e
          let dh := entryScale b d e - magScale m e
          if dh < dl || (dh == dl && (lo + 1) % 2 == 0) then top + lo + 1 else top + lo
        | _, _ => top + lo

/-! ## Block scales of `vquant` (R282) -/

/-- A value as a magnitude over a finite, positive divisor. -/
def Fl.over (x : Fl) (dm : Nat) (de : Int) : Mag :=
  match x with
  | .nan _ => .nan
  | .inf _ => .inf
  | .fin _ m e => .quo m (e - de) dm

/-- A value as a magnitude. -/
def Fl.mag (x : Fl) : Mag := x.over 1 0

/-- |a| ≤ b × c × d for finite a, and finite non-negative b, c, d given as magnitudes and exponents. -/
def prodReaches (am : Nat) (ae : Int) (pm : Nat) (pe : Int) : Bool :=
  let u := if ae < pe then ae else pe
  am * 2 ^ (ae - u).toNat ≤ pm * 2 ^ (pe - u).toNat

/-- The scale byte of a block whose largest magnitude is `a`: the smallest with s_b × S × M ≥ A, or 0x7E. -/
def blockScale (sm : Nat) (se : Int) (fin : Int) (a : Fl) : Nat :=
  match a with
  | .fin _ am ae =>
    if am = 0 then 0
    else
      ((List.range 127).find? (fun b => match scaleValue (BitVec.ofNat 8 b) with
        | .fin _ bm be => decide (0 ≤ fin) && prodReaches am ae (bm * sm * fin.toNat) (be + se - 136)
        | _ => false)).getD 126
  | _ => 126

/-- The greater of two magnitudes. -/
def Fl.maxMag (a b : Fl) : Fl :=
  match a, b with
  | .inf _, _ => .inf false
  | _, .inf _ => .inf false
  | .fin _ m e, .fin _ n g => if (Fl.fin false m e).lt (.fin false n g) then .fin false n g else .fin false m e
  | a, _ => a

/-! ## The anchored accumulator (R283 to R286) -/

/-- The bounds of a 96-bit N. -/
def accMax : Int := 2 ^ 95 - 1
def accMin : Int := -2 ^ 95

/-- An integer added to N with the saturation of R283. -/
def AccElem.addInt (a : AccElem) (q : Int) : AccElem :=
  if a.sat then a
  else
    let v := a.n.toInt + q
    if accMax < v then { a with n := BitVec.ofInt 96 accMax, sat := true }
    else if v < accMin then { a with n := BitVec.ofInt 96 accMin, sat := true }
    else { a with n := BitVec.ofInt 96 v }

/-- Infinities of both signs make a NaN (R283, R292). -/
def AccElem.settle (a : AccElem) : AccElem := if a.infp && a.infn then { a with nan := true } else a

/-- One exact term added at an anchor (R283). -/
def AccElem.term (anc : Int) (a : AccElem) (t : Fl) : AccElem :=
  match t with
  | .nan _ => { a with nan := true }
  | .inf s => if s then { a with infn := true } else { a with infp := true }
  | .fin s m e => a.addInt (roundInt .rne s m (e - anc)).1

/-- A raw element added (R286). A saturated source freezes the destination. -/
def AccElem.addRaw (a b : AccElem) : AccElem :=
  let r := if a.sat || b.sat then { a with sat := true } else a.addInt b.n.toInt
  { r with infp := r.infp || b.infp, infn := r.infn || b.infn, nan := r.nan || b.nan }.settle

/-- The 16 bytes of a raw element (R284). -/
def AccElem.raw (a : AccElem) (anc : BitVec 16) : List Byte :=
  toBytes a.n.toNat 12 ++ toBytes (a.sat.toNat + a.infp.toNat * 2 + a.infn.toNat * 4 + a.nan.toNat * 8) 2 ++ toBytes anc.toNat 2

/-- A raw element and its anchor from 16 bytes. -/
def rawOf (bs : List Byte) : AccElem × BitVec 16 :=
  let g := ofBytes ((bs.drop 12).take 1)
  ({ n := BitVec.ofNat 96 (ofBytes (bs.take 12)), sat := g % 2 = 1, infp := g / 2 % 2 = 1, infn := g / 4 % 2 = 1, nan := g / 8 % 2 = 1 },
    BitVec.ofNat 16 (ofBytes ((bs.drop 14).take 2)))

/-- The drain of one element with scale `s` (R285): the result, and whether the drain-overflow flag is set. An infinite scale of an N
other than 0 sets the flag, and N = 0 gives a zero with the sign of the scale (DESIGN CHOICE, log 107). -/
def AccElem.drain (f : Fmt) (anc : Int) (s : Fl) (a : AccElem) : Nat × Bool :=
  let inf := a.infp || a.infn
  let bad := match s with
    | .nan _ => true
    | .inf _ => a.n = 0 && !inf
    | .fin _ _ _ => false
  if a.nan || (a.infp && a.infn) || bad then (f.nan, false)
  else if inf then (f.sign (a.infn != s.sgn) + f.inf, false)
  else if a.sat then (f.sign (a.n.msb != s.sgn) + f.inf, true)
  else
    match (Fl.ofInt a.n.toInt).mul s with
    | (.fin t m e, _) =>
      let (b, g) := f.round .rne t m (e + anc)
      (b, g &&& flagOf != 0)
    | (v, _) => ((f.ofFl .rne v).1, true)

/-! ## Anchored int64 (R287, R155) -/

/-- `vfix`: the integer, and whether it saturated. -/
def fixInt (anc : Int) (x : Fl) : Int × Bool :=
  match x with
  | .nan _ => (-2 ^ 63, true)
  | .inf s => (if s then -2 ^ 63 else 2 ^ 63 - 1, true)
  | .fin s m e =>
    let v := (roundInt .rne s m (e - anc)).1
    if v < -2 ^ 63 then (-2 ^ 63, true) else if 2 ^ 63 - 1 < v then (2 ^ 63 - 1, true) else (v, false)

/-- `vflt`: rne_fp32(N × 2^a) and its flags. -/
def fltInt (anc : Int) (v : Int) : Nat × Nat := fp32.round .rne (v < 0) v.natAbs anc

/-- The integer that a record adds in a replay in mode 1: exact for a finite value; an infinity lies beyond either bound of the sum
(DEDUCED, log 19), and for a NaN the spec states no integer: `free` stands for it (DESIGN CHOICE, log 19). -/
def replayInt (anc : Int) (free : Word) (x : Fl) : Int :=
  match x with
  | .fin s m e => (roundInt .rne s m (e - anc)).1
  | .inf s => if s then -2 ^ 65 else 2 ^ 65
  | .nan _ => free.toInt

/-- A sum saturated to int64. -/
def sat64 (v : Int) : Int × Bool :=
  if v < -2 ^ 63 then (-2 ^ 63, true) else if 2 ^ 63 - 1 < v then (2 ^ 63 - 1, true) else (v, false)

/-! ## The keyed sign and the transform (R289) -/

/-- mix(seed, i) modulo 2^64. -/
def keyedMix (seed i : Word) : Word :=
  let z0 := seed + (i + 1) * 0x9E3779B97F4A7C15
  let z1 := (z0 ^^^ (z0 >>> 30)) * 0xBF58476D1CE4E5B9
  let z2 := (z1 ^^^ (z1 >>> 27)) * 0x94D049BB133111EB
  z2 ^^^ (z2 >>> 31)

/-- A floating result that is an operand as it stands: a NaN becomes canonical, and a signalling one raises `nv` (R267). -/
def Fmt.pass (f : Fmt) (x : Nat) : Nat × Nat :=
  if (f.decode x).isNan then (f.nan, if (f.decode x).isSnan then flagNv else 0) else (x, 0)

/-- Step 1: the sign of element `i` of the tensor. -/
def keyedSign (seed i : Word) (x : Nat) : Nat × Nat := if (keyedMix seed i).msb then fp32.fneg x else fp32.pass x

/-- Values with the flags raised so far. -/
abbrev Flagged := List Nat × Nat

/-- One butterfly step of step 2. -/
def butterfly (h : Nat) (v : Flagged) : Flagged :=
  (List.range 64).foldl (fun (v : Flagged) j =>
    if j / h % 2 = 1 then v
    else
      let a := v.1.getD j 0
      let b := v.1.getD (j + h) 0
      let p := fp32.fadd .rne a b
      let m := fp32.fsub .rne a b
      ((v.1.set j p.1).set (j + h) m.1, v.2 ||| p.2 ||| m.2)) v

/-- A function with flags over a list. -/
def mapFlagged (f : Nat → Nat → Nat × Nat) (l : List Nat) (g : Nat) : Flagged :=
  let r := l.zipIdx.map (fun x => f x.2 x.1)
  (r.map (·.1), r.foldl (fun a x => a ||| x.2) g)

/-- The steps of R289 on a block of 64 elements: signs when `sign`, transform and scale when `xfm`. -/
def rotateBlock (sign xfm : Bool) (seed first : Word) (l : List Nat) : Flagged :=
  let v0 := if sign then mapFlagged (fun i x => keyedSign seed (first + BitVec.ofNat 64 i) x) l 0 else (l, 0)
  if xfm then
    let v1 := [1, 2, 4, 8, 16, 32].foldl (fun v h => butterfly h v) v0
    mapFlagged (fun _ x => fp32.fmul .rne 0x3E000000 x) v1.1 v1.2
  else v0

/-! ## 2^x (R396) -/

/-- The fraction bits kept by `exp2Frac`: far more than any fp32 argument needs for one correct rounding. -/
def exp2Bits : Nat := 320

/-- The product of 2^(2^−i) over the set bits i of a fraction, from the top: `c` is 2^(2^−i), both in units of 2^−320. -/
def exp2Frac (f : Nat) : Nat → Nat → Nat → Nat
  | 0, _, acc => acc
  | n + 1, c, acc =>
    let c1 := isqrt (c * 2 ^ exp2Bits)
    exp2Frac f n c1 (if f / 2 ^ n % 2 = 1 then acc * c1 / 2 ^ exp2Bits else acc)

/-- 2^x for a finite x: exact for an integer, otherwise to 320 bits with a sticky bit (2^x is then irrational). -/
def exp2Fin (s : Bool) (m : Nat) (e : Int) : Fl :=
  let k := (-e).toNat
  let v : Int := scaled s (m * 2 ^ e.toNat) 0 0
  let n := v / 2 ^ k
  let f := (v % 2 ^ k).toNat
  let c : Int := if n < -4096 then -4096 else if 4096 < n then 4096 else n
  if f = 0 then .fin false 1 c
  else .fin false (withSticky (exp2Frac f k (2 ^ (exp2Bits + 1)) (2 ^ exp2Bits)) true) (c - exp2Bits - 1)

/-- `vexp2` of an element. -/
def Fmt.fexp2 (f : Fmt) (a : Nat) : Nat × Nat :=
  let x := f.decode a
  f.finish .rne [x] (match x with
    | .nan _ => (.nan false, 0)
    | .inf s => (if s then .fin false 0 0 else .inf false, 0)
    | .fin s m e => (exp2Fin s m e, 0))

/-! ## The pairwise tree (R399) -/

/-- One level of the tree: pairs summed, an odd element carried up. -/
def treeLevel (add : Nat → Nat → Nat × Nat) : List Nat → Flagged
  | a :: b :: rest =>
    let p := add a b
    let r := treeLevel add rest
    (p.1 :: r.1, p.2 ||| r.2)
  | l => (l, 0)

/-- The sum by the tree, with at most `fuel` levels. -/
def treeSum (add : Nat → Nat → Nat × Nat) : Nat → List Nat → Nat → Nat × Nat
  | 0, l, g => (l.headD 0, g)
  | fuel + 1, l, g =>
    if l.length ≤ 1 then (l.headD 0, g)
    else
      let r := treeLevel add l
      treeSum add fuel r.1 (g ||| r.2)

end Sys2Proof.Machine
end

