-- ==== Sys2Proof/Machine/Engines.lean ====
section
/-! DEFINITION. What every engine command shares: the memory its operands may name, translation at the issuing core, the stop by a copy
fault, and the writes of step 12 at their homes (R167, R171, R175, R179, R231, R232, R235, R244, R245, R380, R383, R386, R387, R389, R391,
R417, R418). -/
namespace Sys2Proof.Machine

/-! ## Operand areas (R380) -/

/-- The bytes [va, va + n) lie in the private portion of core `c`. -/
def State.privRun (s : State) (c va n : Nat) : Bool := va + n ≤ s.privSize c

/-- The bytes lie in the quad commons of core `c`. -/
def State.commonsRun (s : State) (c va n : Nat) : Bool :=
  !isHead c && 0x10000 ≤ va && va - 0x10000 + n ≤ s.commonsSize (quadOf c)

/-- The bytes are local: private or commons. -/
def State.localRun (s : State) (c va n : Nat) : Bool := s.privRun c va n || s.commonsRun c va n

/-- The bytes have bulk addresses. -/
def bulkRun (c va n : Nat) : Bool :=
  (if isHead c then 2 ^ 20 else 0x30000) ≤ va && va + n ≤ 2 ^ 48 && (va + n ≤ 2 ^ 40 || 2 ^ 41 ≤ va)

/-- The bytes lie in the global window of another compute core that the partition reaches (R95). -/
def State.windowRun (s : State) (c va n : Nat) : Bool :=
  2 ^ 40 ≤ va && va < 2 ^ 41 && va % 2 ^ 16 + n ≤ 0xC000 && va / 2 ^ 16 % 2 ^ 24 ≠ c && s.inGroup c (va / 2 ^ 16 % 2 ^ 24)

/-- A copy may read, or write, the bytes. -/
def State.sourceRun (s : State) (c va n : Nat) : Bool := s.localRun c va n || bulkRun c va n
def State.targetRun (s : State) (c va n : Nat) : Bool := s.sourceRun c va n || s.windowRun c va n

/-- The home key of a local byte. -/
def State.localAt (s : State) (c va : Nat) : Nat :=
  if s.commonsRun c va 1 then s.commonsKey (quadOf c) (va - 0x10000) else localKey c va

/-! ## Translation at the issuing core (R171, R231) -/

/-- The home key of a byte as an engine of core `c` reaches it, or the fault class: 0, 2 and 3 of R171, and 4 for what the page does not
permit or a page that an engine may not name. -/
def State.engineKey (s : State) (c : Nat) (user : Bool) (va : Nat) (read write : Bool) : State × Except Nat Nat :=
  if s.localRun c va 1 then (s, .ok (s.localAt c va))
  else if s.windowRun c va 1 then (s, .ok (localKey (va / 2 ^ 16 % 2 ^ 24) (va % 2 ^ 16)))
  else if !bulkRun c va 1 then (s, .error 4)
  else
    match s.lookupNow c va with
    | (s1, .full) => (s1, .error 4)
    | (s1, .fault k) => (s1, .error k)
    | (s1, .page e) =>
      let pa := e.phys va
      if user && !e.u || read && !e.r || write && !e.w then (s1, .error 4)
      else if spaceOf pa = 0 || spaceOf pa = 1 then (s1, .ok pa)
      else (s1, .error 4)

/-- The core at which a byte of an engine is served, if the byte has one: capacity bytes have none. -/
def homeCore (key : Nat) : Option Nat := if key < 2 ^ 52 && spaceOf key = 1 then none else some (coreOfKey key)

/-- A home that a core reaches without a traveller: its own memory, and its quad's commons and column. -/
def nearHome (c key : Nat) : Bool :=
  match homeCore key with
  | none => false
  | some h => h == c || (!isHead c && !isHead h && quadOf h == quadOf c)

/-- The home of a byte is lost, or belongs to no partition of the group (R95, R248): class 7. -/
def State.homeGone (s : State) (c key : Nat) : Bool :=
  match homeCore key with
  | none => false
  | some h => quadOf h ≠ quadOf c && ((s.core h).lost || s.partTag h ≠ s.partTag c)

/-- The capacity port through which a byte of the capacity tier is reached (R64, R65). -/
def portOfKey (key : Nat) : Nat := key / 2 ^ 38 % 16

/-- The pieces of a range within aligned 4 KiB units, which never cross a page, a home or a contribution to the commons. -/
def unitPieces : Nat → Nat → Nat → List (Nat × Nat)
  | 0, _, _ => []
  | fuel + 1, va, n =>
    let k := min n (4096 - va % 4096)
    if n = 0 then [] else (va, k) :: unitPieces fuel (va + k) (n - k)

/-- What a read of an engine gives. -/
inductive EngineRead where
  | bytes (l : List Byte)
  /-- a copy fault: class and address -/
  | fault (cls va : Nat)
  /-- nothing can be read now -/
  | wait
  deriving DecidableEq, Repr

/-- The bytes of some pieces in core `c`'s own quad as an engine of it reads them (R231, R244). -/
def State.engineGather (s : State) (c : Nat) (user : Bool) : List (Nat × Nat) → List Byte → State × EngineRead
  | [], got => (s, .bytes got)
  | (va, n) :: rest, got =>
    match s.engineKey c user va true false with
    | (s1, .error k) => (s1, .fault k va)
    | (s1, .ok key) =>
      match s1.health key n with
        | .media => (s1, .fault 5 va)
        | .integrity => (s1, .fault 6 va)
        | .sound => State.engineGather (s1.countRead key n) c user rest (got ++ s1.bytes key n)

/-- The bytes of a range in the own quad as an engine of core `c` reads them. -/
def State.engineBytes (s : State) (c : Nat) (user : Bool) (va n : Nat) : State × EngineRead :=
  s.engineGather c user (unitPieces (n / 4096 + 2) va n) []

/-- Pieces of a source translated at the issuing core: each with its home key, or the fault class and the address at which that fails. -/
def State.engineKeys (s : State) (c : Nat) (user : Bool) :
    List (Nat × Nat) → List (Nat × Nat × Nat) → State × Except (Nat × Nat) (List (Nat × Nat × Nat))
  | [], got => (s, .ok got)
  | (va, n) :: rest, got =>
    match s.engineKey c user va true false with
    | (s1, .error k) => (s1, .error (k, va))
    | (s1, .ok key) => State.engineKeys s1 c user rest (got ++ [(va, key, n)])

/-- `n` local bytes as the vector and matrix engines read them: a media error loses the core where it performs, and a sibling's goes
on with free bytes (R245; DESIGN CHOICE, log 14). None when the engine's own core is lost. -/
def State.localBytes (s : State) (c : Nat) : List (Nat × Nat) → List Byte → State × Option (List Byte)
  | [], got => (s, some got)
  | (va, n) :: rest, got =>
    let key := s.localAt c va
    match s.health key n with
    | .sound => State.localBytes (s.countRead key n) c rest (got ++ s.bytes key n)
    | _ =>
      let h := coreOfKey key
      if h = c then (s.loseCore c, none)
      else State.localBytes { s.loseCore h with free := s.free + n } c rest (got ++ freeBytes s.free n)

/-- The same of one range. -/
def State.localRead (s : State) (c va n : Nat) : State × Option (List Byte) :=
  s.localBytes c (unitPieces (n / 4096 + 2) va n) []

/-! ## Commands of a core -/

/-- A register of a command's captured file. -/
def Cmd.reg (d : Cmd) (i : Nat) : Word := d.regs.getD i 0

/-- Commands with an id, on a core. -/
def Core.cmd (o : Core) (id : Nat) : Option Cmd := o.cmds.find? (fun d => d.id == id)

/-- A command changed. -/
def State.modCmd (s : State) (c id : Nat) (f : Cmd → Cmd) : State :=
  s.modCore c (fun o => { o with cmds := o.cmds.map (fun d => if d.id = id then f d else d) })

/-- The register file that a command's function uses. -/
def CmdOp.file : CmdOp → EngineFile
  | .cp | .cpn | .cpm | .cps | .cpr | .cpsi | .cpso | .cpf | .cpz | .cpc => .copy
  | .mldb | .mmac | .mpass | .mzero | .mdrain | .mdrainx | .maddx => .matrix
  | .pool => .pool
  | .binapp | .binplay | .binflush => .bin
  | _ => .vector

/-- Bits set in the status register of a file. -/
def Core.orStatus (o : Core) (f : EngineFile) (v : Nat) : Core :=
  let i := statusIndex f
  o.putFile f ((o.file f).set i ((o.file f).getD i 0 ||| BitVec.ofNat 64 v))

/-- The `err` and `eid` fields of a status register. -/
def Core.err (o : Core) (f : EngineFile) : Nat := bits ((o.file f).getD (statusIndex f) 0) 15 12
def Core.eid (o : Core) (f : EngineFile) : Nat := bits ((o.file f).getD (statusIndex f) 0) 63 16

/-- The `err` field cleared. -/
def Core.clearErr (o : Core) (f : EngineFile) : Core :=
  let i := statusIndex f
  o.putFile f ((o.file f).set i (setBits ((o.file f).getD i 0) 15 12 0))

/-- A run-time error is recorded, unless `err` already holds one (R383 step 1), and the command knows of it. -/
def State.engineError (s : State) (c : Nat) (d : Cmd) (code : Nat) : State :=
  let f := d.op.file
  let keep := fun (o : Core) => if o.err f ≠ 0 then o else
    o.putFile f ((o.file f).set (statusIndex f)
      (setBits (setBits ((o.file f).getD (statusIndex f) 0) 15 12 code) 63 16 d.id))
  (s.modCore c keep).modCmd c d.id (fun e => { e with error := if e.error = 0 then code else e.error })

/-! ## Copy faults (R231, R232) -/

/-- The report of a stopped command: a record and the kind-2 notice; without a usable park area the notice alone; with every record in
use nothing yet. -/
def State.reportFault (s : State) (c id : Nat) : State :=
  match (s.core c).cmd id with
  | none => s
  | some d =>
    match d.fault with
    | none => s
    | some (cls, side, va) =>
      let after : Option Decrement :=
        if d.launch = 0 then none else some { launch := bits d.launch 31 0, copy := true, copyFault := true }
      let tell := fun (s : State) (rec : Option Nat) =>
        (s.modCmd c id (fun e => { e with record := rec, reported := true, launch := 0 })).tellSupervisor c
          (noticeWord 2 (rec.getD 0 * 2 ^ 8 + side * 2 ^ 7 + (if rec.isNone then 2 ^ 6 else 0) + cls) id) after
      match s.parkArea c with
      | none => tell s none
      | some base =>
        match freeRecord (s.core c).faultUsed 4 with
        | none => s
        | some n =>
          let words := [BitVec.ofNat 64 id, va, BitVec.ofNat 64 d.performed, BitVec.ofNat 64 (side * 16 + cls), 0, 0, 0, 0]
          tell ((s.putBytes (localKey c (base + 2048 + 64 * n)) (bytesOf words)).modCore c (fun o =>
            { o with faultUsed := o.faultUsed ++ [n] })) (some n)

/-- Two position ranges overlap. -/
def rangesMeet (a b : Nat × Nat) : Bool := a.1 < b.1 + b.2 && b.1 < a.1 + a.2

/-- The positions that a pending write covers: records and elements count by one. -/
def PWrite.range (w : PWrite) : Nat × Nat := (w.pos, if w.append then 1 else w.bytes.length)

/-- A command without the writes that have not performed: their sources count as unread again. What a held buffer keeps stays, and so do
the elements that an output stream has taken from its thread. -/
def Cmd.dropPending (d : Cmd) : Cmd :=
  if d.op = .cpso then d
  else
    let gone := d.pending.filter (fun w => !w.held)
    { d with
      pending := d.pending.filter (·.held)
      asked := []
      reads := d.reads.filter (fun r => !gone.any (fun w => rangesMeet r w.range)) }

/-- A command stops by a copy fault: what has performed stays performed, and the stop is reported. -/
def State.stopCmd (s : State) (c id cls side : Nat) (va : Word) : State :=
  (s.modCmd c id (fun d => { d.dropPending with fault := some (cls, side, va) })).reportFault c id

/-- Stopped commands that wait for a record are reported as records free. -/
def State.reportWaiting (s : State) (c : Nat) : State :=
  match (s.core c).cmds.find? (fun d => d.fault.isSome && !d.reported) with
  | none => s
  | some d => s.reportFault c d.id

/-- A stopped command restarts from what has not performed, ahead of its engine's queue; it belongs to no launch (R232). A multicast is
sent again as a whole, to the cores then subscribed (R390). -/
def Cmd.restart (d : Cmd) : Cmd :=
  let d1 := { d with fault := none, record := none, reported := false, resumed := true, started := false, launch := 0, asked := [], cut := [] }
  match d.op with
  | .cpm => { d1 with reads := [], recipients := [], gathered := [], phase := 0, status := 0 }
  | .cpsi => { d1 with phase := d.performed / 8 }
  | .pool => { d1 with phase := 0, status := 0 }
  | _ => d1

/-! ## Writes at their homes (R175, R179, R391, R418) -/

/-- The bytes of a reducing element. -/
def reduceSize (mode : Nat) : Nat := if mode = 0 then 4 else if mode = 2 then 16 else 8

/-- The new bytes of a reducing element; none when the anchors of raw elements differ (R391). -/
def reduceElem (mode : Nat) (old src : List Byte) : Option (List Byte) :=
  if mode = 0 then some (toBytes (fp32.fadd .rne (ofBytes old) (ofBytes src)).1 4)
  else if mode = 1 then some (toBytes (fp64.fadd .rne (ofBytes old) (ofBytes src)).1 8)
  else if mode = 2 then
    let a := rawOf old
    let b := rawOf src
    if a.2 = b.2 then some ((a.1.addRaw b.1).raw a.2) else none
  else some (toBytes (ofBytes old + ofBytes src) 8)

/-- One record appended to the bin at a key, or counted as overflow (R417, R418): the state, and whether it overflowed. -/
def State.appendBin (s : State) (key : Nat) (rec : List Byte) : State × Bool :=
  let n := s.num key 4
  if n < 8191 then ((s.storeHome (key + 8 + 8 * n) rec).storeHome key (toBytes (n + 1) 4), false)
  else (s.storeHome (key + 4) (toBytes (s.num (key + 4) 4 + 1) 4), true)

/-- A pending write has performed: it leaves the command's set, and its bytes count. -/
def State.wrote (s : State) (c id : Nat) (w : PWrite) : State :=
  s.modCmd c id (fun d =>
    { d with pending := d.pending.erase w, performed := d.performed + (if w.append then 8 else w.bytes.length) })

/-- The data of a full-mode write have performed (step 12): what is left of it is its bits (step 13). -/
def State.turnBits (s : State) (c id : Nat) (w : PWrite) : State :=
  let rest : PWrite := { w with full := false, bits := some true, sub := none, held := false, sent := false }
  s.modCmd c id (fun d => { d with pending := d.pending.map (fun p => if p = w then rest else p) })

/-- A pending write of command `id` of core `c` performs at its home: its data, or the bits of its words (R179 steps 12 and 13). -/
def State.performWrite (s : State) (c id : Nat) (w : PWrite) : State :=
  match w.bits with
  | some b => (State.resolve w.home 32 (s.setFull w.home w.bytes.length b)).wrote c id w
  | none =>
    if w.append then
      match s.health w.home 8 with
      | .sound =>
        let (s1, spilled) := s.appendBin w.home w.bytes
        (if spilled then s1.modCore c (fun o => o.orStatus .bin 0x400) else s1).wrote c id w
      | h => s.stopCmd c id (if h = .media then 5 else 6) 1 w.va
    else
      match w.red with
      | some m =>
        match s.health w.home w.bytes.length with
        | .sound =>
          match reduceElem m (s.bytes w.home w.bytes.length) w.bytes with
          | some l => (s.storeHome w.home l).wrote c id w
          | none => match (s.core c).cmd id with
            | some d => (s.engineError c d 7).wrote c id w
            | none => s
        | h => s.stopCmd c id (if h = .media then 5 else 6) 1 w.va
      | none =>
        let s1 := s.storeHome w.home w.bytes
        if w.full then s1.turnBits c id w else s1.wrote c id w

/-! ## Geometry (R386, R387) -/

/-- The command moves data by the geometry registers. -/
def CmdOp.hasGeometry : CmdOp → Bool
  | .cp | .cpn | .cpm | .cpr | .cpz => true
  | _ => false

/-- `c.cnt0`, `c.cnt1`, `c.cnt2`. -/
def Cmd.cnt0 (d : Cmd) : Nat := (d.reg 0).toNat
def Cmd.cnt1 (d : Cmd) : Nat := (d.reg 3).toNat
def Cmd.cnt2 (d : Cmd) : Nat := (d.reg 6).toNat

/-- `c.fe` is 1. -/
def Cmd.fe (d : Cmd) : Bool := bit (d.reg 9) 0

/-- `c.red`. -/
def Cmd.red (d : Cmd) : Nat := bits (d.reg 10) 1 0

/-- `c.tag`. -/
def Cmd.copyTag (d : Cmd) : Nat := bits (d.reg 8) 15 0

/-- The number of runs; a count of 0 moves nothing. -/
def Cmd.runs (d : Cmd) : Nat := if d.cnt0 = 0 then 0 else d.cnt1 * d.cnt2

/-- The bytes that the geometry moves. -/
def Cmd.total (d : Cmd) : Nat := d.cnt0 * d.runs

/-- The base of the destination: `cpz` has it in xa, and `cpm` adds its offsets to each recipient's base. -/
def Cmd.targetBase (d : Cmd) : Word :=
  match d.op with
  | .cpz => d.xa
  | .cpm => 0
  | _ => d.xb

/-- The source and the destination address of run `r`. -/
def Cmd.sourceAt (d : Cmd) (r : Nat) : Word :=
  d.xa + BitVec.ofNat 64 (r / d.cnt1) * d.reg 4 + BitVec.ofNat 64 (r % d.cnt1) * d.reg 1
def Cmd.targetAt (d : Cmd) (r : Nat) : Word :=
  d.targetBase + BitVec.ofNat 64 (r / d.cnt1) * d.reg 5 + BitVec.ofNat 64 (r % d.cnt1) * d.reg 2

/-- The ranges that a copy-engine command reads, and those that it writes. -/
def Cmd.copySources (d : Cmd) : List (Nat × Nat) :=
  match d.op with
  | .cp | .cpn | .cpm | .cpr => (List.range d.runs).map (fun r => ((d.sourceAt r).toNat, d.cnt0))
  | .cpsi => [(d.xa.toNat, 8 * d.xb.toNat)]
  | _ => []
def Cmd.copyTargets (d : Cmd) : List (Nat × Nat) :=
  match d.op with
  | .cp | .cpn | .cpr | .cpz => (List.range d.runs).map (fun r => ((d.targetAt r).toNat, d.cnt0))
  | .cpso => [(d.xa.toNat, 8 * d.xb.toNat)]
  | .cpf => [(d.xa.toNat, d.xb.toNat)]
  | _ => []

/-! ## Subscriptions (R389, R390) -/

/-- A core holds a subscription for a tag whose range contains every one of some runs of offsets (R389). -/
def Core.subscribes (o : Core) (tag : Nat) (runs : List (Nat × Nat)) : Bool :=
  o.subs.any (fun b => b.tag == tag && runs.all (fun r => b.base ≤ r.1 && r.1 + r.2 ≤ b.base + b.length))

/-- The offsets of a copy toward core `h`: every one of the command, and of a multicast, whose recipients were judged when they were
fixed, those of the write itself. -/
def Cmd.offsetsToward (d : Cmd) (h : Nat) (w : PWrite) : List (Nat × Nat) :=
  if d.op = .cpm then [(w.home % 2 ^ 16, w.bytes.length)]
  else (d.copyTargets.filter (fun r => 2 ^ 40 ≤ r.1 && r.1 < 2 ^ 41 && r.1 / 2 ^ 16 % 2 ^ 24 == h)).map (fun r =>
    (r.1 % 2 ^ 16, r.2))

/-- A recipient of a multicast that no longer subscribes: its flits that are not written are discarded, and the copy will stop
(R390). -/
def State.dropRecipient (s : State) (c id : Nat) (w : PWrite) : State :=
  s.modCmd c id (fun d =>
    { d with
      recipients := d.recipients.filter (fun r => r.1 != coreOfKey w.home)
      pending := d.pending.filter (fun p => coreOfKey p.home != coreOfKey w.home)
      status := 1
      gathered := d.gathered ++ [w.va] })

/-- A write that has travelled performs at its home, under a subscription if it came through a window (R389); one whose command has
stopped or ended since is discarded, and so is one of a command for which its core has removed the subscription since (R421). -/
def State.landWrite (s : State) (c id : Nat) (w : PWrite) : State :=
  match (s.core c).cmd id with
  | none => s
  | some d =>
    if !d.pending.contains w then s
    else match w.sub with
      | none => s.performWrite c id w
      | some tag =>
        let h := coreOfKey w.home
        if !d.cut.contains h && (s.core h).subscribes tag (d.offsetsToward h w) then s.performWrite c id w
        else if d.op = .cpm then s.dropRecipient c id w
        else s.stopCmd c id 8 1 w.va

end Sys2Proof.Machine
end

