-- ==== Sys2Proof/Decode.lean ====
section
/-! DEFINITION. Decoding: from a 32-bit word to an instruction, or to the name of the first check of R306 that fails; and the
encoder, from the same tables (R294, R301 to R305). Rows that share one word (`wake`, `cpr`, `binplay`) decode to the first of
them; its meaning looks at the operand or register that R360, R391 and R155 name, and acts as the row that they select. -/
namespace Sys2Proof

/-- The check of R306 that a word fails, or the lack of four bytes. -/
inductive DecodeError where
  /-- check 1: the major is not in the map (cause 1) -/
  | badMajor
  /-- check 2: the function code, register index or special-register index is not listed (cause 1) -/
  | badFunction
  /-- check 3: an unused field or a reserved bit is not 0 (cause 1) -/
  | reservedBits
  /-- check 4: a reserved condition code, rounding mode, scope code or option (cause 1) -/
  | badModifier
  /-- check 5: a register field holds 14 or 15 (cause 12) -/
  | reservedRegister
  /-- check 6: `ldq` or `stq` with d above 6 (cause 1) -/
  | badQuadRegister
  /-- fewer than four bytes were given -/
  | truncated
  deriving DecidableEq, Repr

/-- Bits [hi:lo] of a word, as a number. -/
def fld (w hi lo : Nat) : Nat := w / 2 ^ lo % 2 ^ (hi + 1 - lo)

/-- Checks 3, 4 and 5 of R306, in order. -/
def chk (reserved modifier register : Bool) (i : Instr) : Except DecodeError Instr :=
  if reserved then .error .reservedBits
  else if modifier then .error .badModifier
  else if register then .error .reservedRegister
  else .ok i

/-- Checks 3, 5 and 6 of R306 for `ldq` and `stq`. -/
def chkQuad (w : Nat) (reserved register : Bool) (i : Instr) : Except DecodeError Instr :=
  if reserved then .error .reservedBits
  else if register then .error .reservedRegister
  else if 6 < fld w 25 22 then .error .badQuadRegister
  else .ok i

/-- Major 0x01 (R301). -/
def dec01 (w : Nat) : Except DecodeError Instr :=
  match fld w 13 6 with
  | 0 => chk (fld w 5 0 != 0) (false) (badReg (fld w 25 22) || badReg (fld w 21 18) || badReg (fld w 17 14)) (.add (.ofNat 4 (fld w 25 22)) (.ofNat 4 (fld w 21 18)) (.ofNat 4 (fld w 17 14)))
  | 1 => chk (fld w 5 0 != 0) (false) (badReg (fld w 25 22) || badReg (fld w 21 18) || badReg (fld w 17 14)) (.sub (.ofNat 4 (fld w 25 22)) (.ofNat 4 (fld w 21 18)) (.ofNat 4 (fld w 17 14)))
  | 2 => chk (fld w 5 0 != 0) (false) (badReg (fld w 25 22) || badReg (fld w 21 18) || badReg (fld w 17 14)) (.and (.ofNat 4 (fld w 25 22)) (.ofNat 4 (fld w 21 18)) (.ofNat 4 (fld w 17 14)))
  | 3 => chk (fld w 5 0 != 0) (false) (badReg (fld w 25 22) || badReg (fld w 21 18) || badReg (fld w 17 14)) (.or (.ofNat 4 (fld w 25 22)) (.ofNat 4 (fld w 21 18)) (.ofNat 4 (fld w 17 14)))
  | 4 => chk (fld w 5 0 != 0) (false) (badReg (fld w 25 22) || badReg (fld w 21 18) || badReg (fld w 17 14)) (.xor (.ofNat 4 (fld w 25 22)) (.ofNat 4 (fld w 21 18)) (.ofNat 4 (fld w 17 14)))
  | 5 => chk (fld w 5 0 != 0) (false) (badReg (fld w 25 22) || badReg (fld w 21 18) || badReg (fld w 17 14)) (.andn (.ofNat 4 (fld w 25 22)) (.ofNat 4 (fld w 21 18)) (.ofNat 4 (fld w 17 14)))
  | 6 => chk (fld w 5 0 != 0) (false) (badReg (fld w 25 22) || badReg (fld w 21 18) || badReg (fld w 17 14)) (.orn (.ofNat 4 (fld w 25 22)) (.ofNat 4 (fld w 21 18)) (.ofNat 4 (fld w 17 14)))
  | 7 => chk (fld w 5 0 != 0) (false) (badReg (fld w 25 22) || badReg (fld w 21 18) || badReg (fld w 17 14)) (.shl (.ofNat 4 (fld w 25 22)) (.ofNat 4 (fld w 21 18)) (.ofNat 4 (fld w 17 14)))
  | 8 => chk (fld w 5 0 != 0) (false) (badReg (fld w 25 22) || badReg (fld w 21 18) || badReg (fld w 17 14)) (.shr (.ofNat 4 (fld w 25 22)) (.ofNat 4 (fld w 21 18)) (.ofNat 4 (fld w 17 14)))
  | 9 => chk (fld w 5 0 != 0) (false) (badReg (fld w 25 22) || badReg (fld w 21 18) || badReg (fld w 17 14)) (.sar (.ofNat 4 (fld w 25 22)) (.ofNat 4 (fld w 21 18)) (.ofNat 4 (fld w 17 14)))
  | 10 => chk (fld w 5 0 != 0) (false) (badReg (fld w 25 22) || badReg (fld w 21 18) || badReg (fld w 17 14)) (.rol (.ofNat 4 (fld w 25 22)) (.ofNat 4 (fld w 21 18)) (.ofNat 4 (fld w 17 14)))
  | 11 => chk (fld w 5 0 != 0) (false) (badReg (fld w 25 22) || badReg (fld w 21 18) || badReg (fld w 17 14)) (.ror (.ofNat 4 (fld w 25 22)) (.ofNat 4 (fld w 21 18)) (.ofNat 4 (fld w 17 14)))
  | 12 => chk (fld w 5 0 != 0) (false) (badReg (fld w 25 22) || badReg (fld w 21 18) || badReg (fld w 17 14)) (.min (.ofNat 4 (fld w 25 22)) (.ofNat 4 (fld w 21 18)) (.ofNat 4 (fld w 17 14)))
  | 13 => chk (fld w 5 0 != 0) (false) (badReg (fld w 25 22) || badReg (fld w 21 18) || badReg (fld w 17 14)) (.max (.ofNat 4 (fld w 25 22)) (.ofNat 4 (fld w 21 18)) (.ofNat 4 (fld w 17 14)))
  | 14 => chk (fld w 5 0 != 0) (false) (badReg (fld w 25 22) || badReg (fld w 21 18) || badReg (fld w 17 14)) (.minu (.ofNat 4 (fld w 25 22)) (.ofNat 4 (fld w 21 18)) (.ofNat 4 (fld w 17 14)))
  | 15 => chk (fld w 5 0 != 0) (false) (badReg (fld w 25 22) || badReg (fld w 21 18) || badReg (fld w 17 14)) (.maxu (.ofNat 4 (fld w 25 22)) (.ofNat 4 (fld w 21 18)) (.ofNat 4 (fld w 17 14)))
  | 16 => chk (fld w 5 3 != 0) (false) (badReg (fld w 25 22) || badReg (fld w 21 18) || badReg (fld w 17 14)) (.lsa (.ofNat 4 (fld w 25 22)) (.ofNat 4 (fld w 21 18)) (.ofNat 4 (fld w 17 14)) (.ofNat 3 (fld w 2 0)))
  | _ => .error .badFunction

/-- Major 0x02 (R301). -/
def dec02 (w : Nat) : Except DecodeError Instr :=
  match fld w 13 6 with
  | 0 => chk (fld w 5 0 != 0) (false) (badReg (fld w 25 22) || badReg (fld w 21 18) || badReg (fld w 17 14)) (.addw (.ofNat 4 (fld w 25 22)) (.ofNat 4 (fld w 21 18)) (.ofNat 4 (fld w 17 14)))
  | 1 => chk (fld w 5 0 != 0) (false) (badReg (fld w 25 22) || badReg (fld w 21 18) || badReg (fld w 17 14)) (.subw (.ofNat 4 (fld w 25 22)) (.ofNat 4 (fld w 21 18)) (.ofNat 4 (fld w 17 14)))
  | 2 => chk (fld w 5 0 != 0) (false) (badReg (fld w 25 22) || badReg (fld w 21 18) || badReg (fld w 17 14)) (.shlw (.ofNat 4 (fld w 25 22)) (.ofNat 4 (fld w 21 18)) (.ofNat 4 (fld w 17 14)))
  | 3 => chk (fld w 5 0 != 0) (false) (badReg (fld w 25 22) || badReg (fld w 21 18) || badReg (fld w 17 14)) (.shrw (.ofNat 4 (fld w 25 22)) (.ofNat 4 (fld w 21 18)) (.ofNat 4 (fld w 17 14)))
  | 4 => chk (fld w 5 0 != 0) (false) (badReg (fld w 25 22) || badReg (fld w 21 18) || badReg (fld w 17 14)) (.sarw (.ofNat 4 (fld w 25 22)) (.ofNat 4 (fld w 21 18)) (.ofNat 4 (fld w 17 14)))
  | _ => .error .badFunction

/-- Major 0x03 (R301). -/
def dec03 (w : Nat) : Except DecodeError Instr :=
  match fld w 13 6 with
  | 0 => chk (fld w 5 0 != 0) (false) (badReg (fld w 25 22) || badReg (fld w 21 18) || badReg (fld w 17 14)) (.mul (.ofNat 4 (fld w 25 22)) (.ofNat 4 (fld w 21 18)) (.ofNat 4 (fld w 17 14)))
  | 1 => chk (fld w 5 0 != 0) (false) (badReg (fld w 25 22) || badReg (fld w 21 18) || badReg (fld w 17 14)) (.mulh (.ofNat 4 (fld w 25 22)) (.ofNat 4 (fld w 21 18)) (.ofNat 4 (fld w 17 14)))
  | 2 => chk (fld w 5 0 != 0) (false) (badReg (fld w 25 22) || badReg (fld w 21 18) || badReg (fld w 17 14)) (.mulhu (.ofNat 4 (fld w 25 22)) (.ofNat 4 (fld w 21 18)) (.ofNat 4 (fld w 17 14)))
  | 3 => chk (fld w 5 0 != 0) (false) (badReg (fld w 25 22) || badReg (fld w 21 18) || badReg (fld w 17 14)) (.mulw (.ofNat 4 (fld w 25 22)) (.ofNat 4 (fld w 21 18)) (.ofNat 4 (fld w 17 14)))
  | 4 => chk (fld w 5 0 != 0) (false) (badReg (fld w 25 22) || badReg (fld w 21 18) || badReg (fld w 17 14)) (.div (.ofNat 4 (fld w 25 22)) (.ofNat 4 (fld w 21 18)) (.ofNat 4 (fld w 17 14)))
  | 5 => chk (fld w 5 0 != 0) (false) (badReg (fld w 25 22) || badReg (fld w 21 18) || badReg (fld w 17 14)) (.divu (.ofNat 4 (fld w 25 22)) (.ofNat 4 (fld w 21 18)) (.ofNat 4 (fld w 17 14)))
  | 6 => chk (fld w 5 0 != 0) (false) (badReg (fld w 25 22) || badReg (fld w 21 18) || badReg (fld w 17 14)) (.rem (.ofNat 4 (fld w 25 22)) (.ofNat 4 (fld w 21 18)) (.ofNat 4 (fld w 17 14)))
  | 7 => chk (fld w 5 0 != 0) (false) (badReg (fld w 25 22) || badReg (fld w 21 18) || badReg (fld w 17 14)) (.remu (.ofNat 4 (fld w 25 22)) (.ofNat 4 (fld w 21 18)) (.ofNat 4 (fld w 17 14)))
  | 8 => chk (fld w 5 0 != 0) (false) (badReg (fld w 25 22) || badReg (fld w 21 18) || badReg (fld w 17 14)) (.divw (.ofNat 4 (fld w 25 22)) (.ofNat 4 (fld w 21 18)) (.ofNat 4 (fld w 17 14)))
  | 9 => chk (fld w 5 0 != 0) (false) (badReg (fld w 25 22) || badReg (fld w 21 18) || badReg (fld w 17 14)) (.remw (.ofNat 4 (fld w 25 22)) (.ofNat 4 (fld w 21 18)) (.ofNat 4 (fld w 17 14)))
  | _ => .error .badFunction

/-- Major 0x04 (R301). -/
def dec04 (w : Nat) : Except DecodeError Instr :=
  match fld w 13 6 with
  | 0 => chk (fld w 17 14 != 0 || fld w 5 0 != 0) (false) (badReg (fld w 25 22) || badReg (fld w 21 18)) (.clz (.ofNat 4 (fld w 25 22)) (.ofNat 4 (fld w 21 18)))
  | 1 => chk (fld w 17 14 != 0 || fld w 5 0 != 0) (false) (badReg (fld w 25 22) || badReg (fld w 21 18)) (.ctz (.ofNat 4 (fld w 25 22)) (.ofNat 4 (fld w 21 18)))
  | 2 => chk (fld w 17 14 != 0 || fld w 5 0 != 0) (false) (badReg (fld w 25 22) || badReg (fld w 21 18)) (.popc (.ofNat 4 (fld w 25 22)) (.ofNat 4 (fld w 21 18)))
  | 3 => chk (fld w 17 14 != 0 || fld w 5 0 != 0) (false) (badReg (fld w 25 22) || badReg (fld w 21 18)) (.brev (.ofNat 4 (fld w 25 22)) (.ofNat 4 (fld w 21 18)))
  | 4 => chk (fld w 17 14 != 0 || fld w 5 0 != 0) (false) (badReg (fld w 25 22) || badReg (fld w 21 18)) (.bswap (.ofNat 4 (fld w 25 22)) (.ofNat 4 (fld w 21 18)))
  | 5 => chk (fld w 17 14 != 0 || fld w 5 0 != 0) (false) (badReg (fld w 25 22) || badReg (fld w 21 18)) (.sxb (.ofNat 4 (fld w 25 22)) (.ofNat 4 (fld w 21 18)))
  | 6 => chk (fld w 17 14 != 0 || fld w 5 0 != 0) (false) (badReg (fld w 25 22) || badReg (fld w 21 18)) (.sxh (.ofNat 4 (fld w 25 22)) (.ofNat 4 (fld w 21 18)))
  | 7 => chk (fld w 17 14 != 0 || fld w 5 0 != 0) (false) (badReg (fld w 25 22) || badReg (fld w 21 18)) (.sxw (.ofNat 4 (fld w 25 22)) (.ofNat 4 (fld w 21 18)))
  | 8 => chk (fld w 17 14 != 0 || fld w 5 0 != 0) (false) (badReg (fld w 25 22) || badReg (fld w 21 18)) (.zxb (.ofNat 4 (fld w 25 22)) (.ofNat 4 (fld w 21 18)))
  | 9 => chk (fld w 17 14 != 0 || fld w 5 0 != 0) (false) (badReg (fld w 25 22) || badReg (fld w 21 18)) (.zxh (.ofNat 4 (fld w 25 22)) (.ofNat 4 (fld w 21 18)))
  | 10 => chk (fld w 17 14 != 0 || fld w 5 0 != 0) (false) (badReg (fld w 25 22) || badReg (fld w 21 18)) (.zxw (.ofNat 4 (fld w 25 22)) (.ofNat 4 (fld w 21 18)))
  | 11 => chk (fld w 5 0 != 0) (false) (badReg (fld w 25 22) || badReg (fld w 21 18) || badReg (fld w 17 14)) (.bfx (.ofNat 4 (fld w 25 22)) (.ofNat 4 (fld w 21 18)) (.ofNat 4 (fld w 17 14)))
  | 12 => chk (fld w 5 0 != 0) (false) (badReg (fld w 25 22) || badReg (fld w 21 18) || badReg (fld w 17 14)) (.bfxs (.ofNat 4 (fld w 25 22)) (.ofNat 4 (fld w 21 18)) (.ofNat 4 (fld w 17 14)))
  | 13 => chk (fld w 5 0 != 0) (false) (badReg (fld w 25 22) || badReg (fld w 21 18) || badReg (fld w 17 14)) (.bfi (.ofNat 4 (fld w 25 22)) (.ofNat 4 (fld w 21 18)) (.ofNat 4 (fld w 17 14)))
  | _ => .error .badFunction

/-- Major 0x05 (R301). -/
def dec05 (w : Nat) : Except DecodeError Instr :=
  chk (false) (false) (badReg (fld w 25 22) || badReg (fld w 21 18)) (.addi (.ofNat 4 (fld w 25 22)) (.ofNat 4 (fld w 21 18)) (.ofNat 18 (fld w 17 0)))

/-- Major 0x06 (R301). -/
def dec06 (w : Nat) : Except DecodeError Instr :=
  chk (false) (false) (badReg (fld w 25 22) || badReg (fld w 21 18)) (.andi (.ofNat 4 (fld w 25 22)) (.ofNat 4 (fld w 21 18)) (.ofNat 18 (fld w 17 0)))

/-- Major 0x07 (R301). -/
def dec07 (w : Nat) : Except DecodeError Instr :=
  chk (false) (false) (badReg (fld w 25 22) || badReg (fld w 21 18)) (.ori (.ofNat 4 (fld w 25 22)) (.ofNat 4 (fld w 21 18)) (.ofNat 18 (fld w 17 0)))

/-- Major 0x08 (R301). -/
def dec08 (w : Nat) : Except DecodeError Instr :=
  chk (false) (false) (badReg (fld w 25 22) || badReg (fld w 21 18)) (.xori (.ofNat 4 (fld w 25 22)) (.ofNat 4 (fld w 21 18)) (.ofNat 18 (fld w 17 0)))

/-- Major 0x09 (R301). -/
def dec09 (w : Nat) : Except DecodeError Instr :=
  match fld w 17 12 with
  | 0 => chk (fld w 11 6 != 0) (false) (badReg (fld w 25 22) || badReg (fld w 21 18)) (.shli (.ofNat 4 (fld w 25 22)) (.ofNat 4 (fld w 21 18)) (.ofNat 6 (fld w 5 0)))
  | 1 => chk (fld w 11 6 != 0) (false) (badReg (fld w 25 22) || badReg (fld w 21 18)) (.shri (.ofNat 4 (fld w 25 22)) (.ofNat 4 (fld w 21 18)) (.ofNat 6 (fld w 5 0)))
  | 2 => chk (fld w 11 6 != 0) (false) (badReg (fld w 25 22) || badReg (fld w 21 18)) (.sari (.ofNat 4 (fld w 25 22)) (.ofNat 4 (fld w 21 18)) (.ofNat 6 (fld w 5 0)))
  | 3 => chk (fld w 11 6 != 0) (false) (badReg (fld w 25 22) || badReg (fld w 21 18)) (.roli (.ofNat 4 (fld w 25 22)) (.ofNat 4 (fld w 21 18)) (.ofNat 6 (fld w 5 0)))
  | 4 => chk (fld w 11 5 != 0) (false) (badReg (fld w 25 22) || badReg (fld w 21 18)) (.shliw (.ofNat 4 (fld w 25 22)) (.ofNat 4 (fld w 21 18)) (.ofNat 5 (fld w 4 0)))
  | 5 => chk (fld w 11 5 != 0) (false) (badReg (fld w 25 22) || badReg (fld w 21 18)) (.shriw (.ofNat 4 (fld w 25 22)) (.ofNat 4 (fld w 21 18)) (.ofNat 5 (fld w 4 0)))
  | 6 => chk (fld w 11 5 != 0) (false) (badReg (fld w 25 22) || badReg (fld w 21 18)) (.sariw (.ofNat 4 (fld w 25 22)) (.ofNat 4 (fld w 21 18)) (.ofNat 5 (fld w 4 0)))
  | _ => .error .badFunction

/-- Major 0x0A (R301). -/
def dec0A (w : Nat) : Except DecodeError Instr :=
  chk (false) (false) (badReg (fld w 25 22)) (.lui (.ofNat 4 (fld w 25 22)) (.ofNat 22 (fld w 21 0)))

/-- Major 0x0B (R301). -/
def dec0B (w : Nat) : Except DecodeError Instr :=
  chk (false) (false) (badReg (fld w 25 22)) (.ipa (.ofNat 4 (fld w 25 22)) (.ofNat 22 (fld w 21 0)))

/-- Major 0x0C (R301). -/
def dec0C (w : Nat) : Except DecodeError Instr :=
  match fld w 13 6 with
  | 0 => chk (fld w 5 0 != 0) (false) (badReg (fld w 25 22) || badReg (fld w 21 18) || badReg (fld w 17 14)) (.gaddr (.ofNat 4 (fld w 25 22)) (.ofNat 4 (fld w 21 18)) (.ofNat 4 (fld w 17 14)))
  | 1 => chk (fld w 17 14 != 0 || fld w 5 0 != 0) (false) (badReg (fld w 25 22) || badReg (fld w 21 18)) (.homeof (.ofNat 4 (fld w 25 22)) (.ofNat 4 (fld w 21 18)))
  | 2 => chk (fld w 5 0 != 0) (false) (badReg (fld w 25 22) || badReg (fld w 21 18) || badReg (fld w 17 14)) (.hops (.ofNat 4 (fld w 25 22)) (.ofNat 4 (fld w 21 18)) (.ofNat 4 (fld w 17 14)))
  | _ => .error .badFunction

/-- Major 0x0D (R301). -/
def dec0D (w : Nat) : Except DecodeError Instr :=
  match fld w 9 0 with
  | 0 => chk (false) (badCc12 (fld w 13 10)) (badReg (fld w 21 18) || badReg (fld w 17 14)) (.cmp (.ofNat 4 (fld w 25 22)) (.ofNat 4 (fld w 21 18)) (.ofNat 4 (fld w 17 14)) (.ofNat 4 (fld w 13 10)))
  | 1 => chk (false) (badCc12 (fld w 13 10)) (badReg (fld w 21 18) || badReg (fld w 17 14)) (.cmpw (.ofNat 4 (fld w 25 22)) (.ofNat 4 (fld w 21 18)) (.ofNat 4 (fld w 17 14)) (.ofNat 4 (fld w 13 10)))
  | _ => .error .badFunction

/-- Major 0x0E (R301). -/
def dec0E (w : Nat) : Except DecodeError Instr :=
  chk (false) (badCc12 (fld w 17 14)) (badReg (fld w 21 18)) (.cmpi (.ofNat 4 (fld w 25 22)) (.ofNat 4 (fld w 21 18)) (.ofNat 4 (fld w 17 14)) (.ofNat 14 (fld w 13 0)))

/-- Major 0x0F (R301). -/
def dec0F (w : Nat) : Except DecodeError Instr :=
  match fld w 9 0 with
  | 0 => chk (fld w 13 10 != 0) (false) (false) (.pand (.ofNat 4 (fld w 25 22)) (.ofNat 4 (fld w 21 18)) (.ofNat 4 (fld w 17 14)))
  | 1 => chk (fld w 13 10 != 0) (false) (false) (.por (.ofNat 4 (fld w 25 22)) (.ofNat 4 (fld w 21 18)) (.ofNat 4 (fld w 17 14)))
  | 2 => chk (fld w 13 10 != 0) (false) (false) (.pxor (.ofNat 4 (fld w 25 22)) (.ofNat 4 (fld w 21 18)) (.ofNat 4 (fld w 17 14)))
  | 3 => chk (fld w 13 10 != 0) (false) (false) (.pandn (.ofNat 4 (fld w 25 22)) (.ofNat 4 (fld w 21 18)) (.ofNat 4 (fld w 17 14)))
  | 4 => chk (fld w 17 10 != 0) (false) (false) (.pnot (.ofNat 4 (fld w 25 22)) (.ofNat 4 (fld w 21 18)))
  | 5 => chk (fld w 21 10 != 0) (false) (badReg (fld w 25 22)) (.p2x (.ofNat 4 (fld w 25 22)))
  | 6 => chk (fld w 25 22 != 0 || fld w 17 10 != 0) (false) (badReg (fld w 21 18)) (.x2p (.ofNat 4 (fld w 21 18)))
  | 7 => chk (false) (false) (badReg (fld w 25 22) || badReg (fld w 21 18) || badReg (fld w 17 14)) (.sel (.ofNat 4 (fld w 25 22)) (.ofNat 4 (fld w 21 18)) (.ofNat 4 (fld w 17 14)) (.ofNat 4 (fld w 13 10)))
  | _ => .error .badFunction

/-- Major 0x10 (R301). -/
def dec10 (w : Nat) : Except DecodeError Instr :=
  match fld w 13 6 with
  | 0 => chk (fld w 5 3 != 0) (badRound (fld w 2 0)) (badReg (fld w 25 22) || badReg (fld w 21 18) || badReg (fld w 17 14)) (.faddS (.ofNat 4 (fld w 25 22)) (.ofNat 4 (fld w 21 18)) (.ofNat 4 (fld w 17 14)) (.ofNat 3 (fld w 2 0)))
  | 1 => chk (fld w 5 3 != 0) (badRound (fld w 2 0)) (badReg (fld w 25 22) || badReg (fld w 21 18) || badReg (fld w 17 14)) (.fsubS (.ofNat 4 (fld w 25 22)) (.ofNat 4 (fld w 21 18)) (.ofNat 4 (fld w 17 14)) (.ofNat 3 (fld w 2 0)))
  | 2 => chk (fld w 5 3 != 0) (badRound (fld w 2 0)) (badReg (fld w 25 22) || badReg (fld w 21 18) || badReg (fld w 17 14)) (.fmulS (.ofNat 4 (fld w 25 22)) (.ofNat 4 (fld w 21 18)) (.ofNat 4 (fld w 17 14)) (.ofNat 3 (fld w 2 0)))
  | 3 => chk (fld w 5 3 != 0) (badRound (fld w 2 0)) (badReg (fld w 25 22) || badReg (fld w 21 18) || badReg (fld w 17 14)) (.ffmaS (.ofNat 4 (fld w 25 22)) (.ofNat 4 (fld w 21 18)) (.ofNat 4 (fld w 17 14)) (.ofNat 3 (fld w 2 0)))
  | 4 => chk (fld w 5 3 != 0) (badRound (fld w 2 0)) (badReg (fld w 25 22) || badReg (fld w 21 18) || badReg (fld w 17 14)) (.fminS (.ofNat 4 (fld w 25 22)) (.ofNat 4 (fld w 21 18)) (.ofNat 4 (fld w 17 14)) (.ofNat 3 (fld w 2 0)))
  | 5 => chk (fld w 5 3 != 0) (badRound (fld w 2 0)) (badReg (fld w 25 22) || badReg (fld w 21 18) || badReg (fld w 17 14)) (.fmaxS (.ofNat 4 (fld w 25 22)) (.ofNat 4 (fld w 21 18)) (.ofNat 4 (fld w 17 14)) (.ofNat 3 (fld w 2 0)))
  | 6 => chk (fld w 17 14 != 0 || fld w 5 3 != 0) (badRound (fld w 2 0)) (badReg (fld w 25 22) || badReg (fld w 21 18)) (.fabsS (.ofNat 4 (fld w 25 22)) (.ofNat 4 (fld w 21 18)) (.ofNat 3 (fld w 2 0)))
  | 7 => chk (fld w 17 14 != 0 || fld w 5 3 != 0) (badRound (fld w 2 0)) (badReg (fld w 25 22) || badReg (fld w 21 18)) (.fnegS (.ofNat 4 (fld w 25 22)) (.ofNat 4 (fld w 21 18)) (.ofNat 3 (fld w 2 0)))
  | 8 => chk (fld w 5 3 != 0) (badRound (fld w 2 0)) (badReg (fld w 25 22) || badReg (fld w 21 18) || badReg (fld w 17 14)) (.fdivS (.ofNat 4 (fld w 25 22)) (.ofNat 4 (fld w 21 18)) (.ofNat 4 (fld w 17 14)) (.ofNat 3 (fld w 2 0)))
  | 9 => chk (fld w 17 14 != 0 || fld w 5 3 != 0) (badRound (fld w 2 0)) (badReg (fld w 25 22) || badReg (fld w 21 18)) (.fsqrtS (.ofNat 4 (fld w 25 22)) (.ofNat 4 (fld w 21 18)) (.ofNat 3 (fld w 2 0)))
  | 10 => chk (fld w 17 14 != 0 || fld w 5 3 != 0) (badRound (fld w 2 0)) (badReg (fld w 25 22) || badReg (fld w 21 18)) (.frsqsS (.ofNat 4 (fld w 25 22)) (.ofNat 4 (fld w 21 18)) (.ofNat 3 (fld w 2 0)))
  | 11 => chk (fld w 17 14 != 0 || fld w 5 3 != 0) (badRound (fld w 2 0)) (badReg (fld w 25 22) || badReg (fld w 21 18)) (.frcpsS (.ofNat 4 (fld w 25 22)) (.ofNat 4 (fld w 21 18)) (.ofNat 3 (fld w 2 0)))
  | _ => .error .badFunction

/-- Major 0x11 (R301). -/
def dec11 (w : Nat) : Except DecodeError Instr :=
  match fld w 13 6 with
  | 0 => chk (fld w 5 3 != 0) (badRound (fld w 2 0)) (badReg (fld w 25 22) || badReg (fld w 21 18) || badReg (fld w 17 14)) (.faddD (.ofNat 4 (fld w 25 22)) (.ofNat 4 (fld w 21 18)) (.ofNat 4 (fld w 17 14)) (.ofNat 3 (fld w 2 0)))
  | 1 => chk (fld w 5 3 != 0) (badRound (fld w 2 0)) (badReg (fld w 25 22) || badReg (fld w 21 18) || badReg (fld w 17 14)) (.fsubD (.ofNat 4 (fld w 25 22)) (.ofNat 4 (fld w 21 18)) (.ofNat 4 (fld w 17 14)) (.ofNat 3 (fld w 2 0)))
  | 2 => chk (fld w 5 3 != 0) (badRound (fld w 2 0)) (badReg (fld w 25 22) || badReg (fld w 21 18) || badReg (fld w 17 14)) (.fmulD (.ofNat 4 (fld w 25 22)) (.ofNat 4 (fld w 21 18)) (.ofNat 4 (fld w 17 14)) (.ofNat 3 (fld w 2 0)))
  | 3 => chk (fld w 5 3 != 0) (badRound (fld w 2 0)) (badReg (fld w 25 22) || badReg (fld w 21 18) || badReg (fld w 17 14)) (.ffmaD (.ofNat 4 (fld w 25 22)) (.ofNat 4 (fld w 21 18)) (.ofNat 4 (fld w 17 14)) (.ofNat 3 (fld w 2 0)))
  | 4 => chk (fld w 5 3 != 0) (badRound (fld w 2 0)) (badReg (fld w 25 22) || badReg (fld w 21 18) || badReg (fld w 17 14)) (.fminD (.ofNat 4 (fld w 25 22)) (.ofNat 4 (fld w 21 18)) (.ofNat 4 (fld w 17 14)) (.ofNat 3 (fld w 2 0)))
  | 5 => chk (fld w 5 3 != 0) (badRound (fld w 2 0)) (badReg (fld w 25 22) || badReg (fld w 21 18) || badReg (fld w 17 14)) (.fmaxD (.ofNat 4 (fld w 25 22)) (.ofNat 4 (fld w 21 18)) (.ofNat 4 (fld w 17 14)) (.ofNat 3 (fld w 2 0)))
  | 6 => chk (fld w 17 14 != 0 || fld w 5 3 != 0) (badRound (fld w 2 0)) (badReg (fld w 25 22) || badReg (fld w 21 18)) (.fabsD (.ofNat 4 (fld w 25 22)) (.ofNat 4 (fld w 21 18)) (.ofNat 3 (fld w 2 0)))
  | 7 => chk (fld w 17 14 != 0 || fld w 5 3 != 0) (badRound (fld w 2 0)) (badReg (fld w 25 22) || badReg (fld w 21 18)) (.fnegD (.ofNat 4 (fld w 25 22)) (.ofNat 4 (fld w 21 18)) (.ofNat 3 (fld w 2 0)))
  | 8 => chk (fld w 5 3 != 0) (badRound (fld w 2 0)) (badReg (fld w 25 22) || badReg (fld w 21 18) || badReg (fld w 17 14)) (.fdivD (.ofNat 4 (fld w 25 22)) (.ofNat 4 (fld w 21 18)) (.ofNat 4 (fld w 17 14)) (.ofNat 3 (fld w 2 0)))
  | 9 => chk (fld w 17 14 != 0 || fld w 5 3 != 0) (badRound (fld w 2 0)) (badReg (fld w 25 22) || badReg (fld w 21 18)) (.fsqrtD (.ofNat 4 (fld w 25 22)) (.ofNat 4 (fld w 21 18)) (.ofNat 3 (fld w 2 0)))
  | 10 => chk (fld w 17 14 != 0 || fld w 5 3 != 0) (badRound (fld w 2 0)) (badReg (fld w 25 22) || badReg (fld w 21 18)) (.frsqsD (.ofNat 4 (fld w 25 22)) (.ofNat 4 (fld w 21 18)) (.ofNat 3 (fld w 2 0)))
  | 11 => chk (fld w 17 14 != 0 || fld w 5 3 != 0) (badRound (fld w 2 0)) (badReg (fld w 25 22) || badReg (fld w 21 18)) (.frcpsD (.ofNat 4 (fld w 25 22)) (.ofNat 4 (fld w 21 18)) (.ofNat 3 (fld w 2 0)))
  | _ => .error .badFunction

/-- Major 0x12 (R301). -/
def dec12 (w : Nat) : Except DecodeError Instr :=
  match fld w 13 6 with
  | 0 => chk (fld w 17 14 != 0 || fld w 5 3 != 0) (badRound (fld w 2 0)) (badReg (fld w 25 22) || badReg (fld w 21 18)) (.fcvtSD (.ofNat 4 (fld w 25 22)) (.ofNat 4 (fld w 21 18)) (.ofNat 3 (fld w 2 0)))
  | 1 => chk (fld w 17 14 != 0 || fld w 5 3 != 0) (badRound (fld w 2 0)) (badReg (fld w 25 22) || badReg (fld w 21 18)) (.fcvtDS (.ofNat 4 (fld w 25 22)) (.ofNat 4 (fld w 21 18)) (.ofNat 3 (fld w 2 0)))
  | 2 => chk (fld w 17 14 != 0 || fld w 5 3 != 0) (badRound (fld w 2 0)) (badReg (fld w 25 22) || badReg (fld w 21 18)) (.fcvtSL (.ofNat 4 (fld w 25 22)) (.ofNat 4 (fld w 21 18)) (.ofNat 3 (fld w 2 0)))
  | 3 => chk (fld w 17 14 != 0 || fld w 5 3 != 0) (badRound (fld w 2 0)) (badReg (fld w 25 22) || badReg (fld w 21 18)) (.fcvtDL (.ofNat 4 (fld w 25 22)) (.ofNat 4 (fld w 21 18)) (.ofNat 3 (fld w 2 0)))
  | 4 => chk (fld w 17 14 != 0 || fld w 5 3 != 0) (badRound (fld w 2 0)) (badReg (fld w 25 22) || badReg (fld w 21 18)) (.fcvtLS (.ofNat 4 (fld w 25 22)) (.ofNat 4 (fld w 21 18)) (.ofNat 3 (fld w 2 0)))
  | 5 => chk (fld w 17 14 != 0 || fld w 5 3 != 0) (badRound (fld w 2 0)) (badReg (fld w 25 22) || badReg (fld w 21 18)) (.fcvtLD (.ofNat 4 (fld w 25 22)) (.ofNat 4 (fld w 21 18)) (.ofNat 3 (fld w 2 0)))
  | 6 => chk (fld w 17 14 != 0 || fld w 5 3 != 0) (badRound (fld w 2 0)) (badReg (fld w 25 22) || badReg (fld w 21 18)) (.fcvtHS (.ofNat 4 (fld w 25 22)) (.ofNat 4 (fld w 21 18)) (.ofNat 3 (fld w 2 0)))
  | 7 => chk (fld w 17 14 != 0 || fld w 5 3 != 0) (badRound (fld w 2 0)) (badReg (fld w 25 22) || badReg (fld w 21 18)) (.fcvtSH (.ofNat 4 (fld w 25 22)) (.ofNat 4 (fld w 21 18)) (.ofNat 3 (fld w 2 0)))
  | 8 => chk (fld w 17 14 != 0 || fld w 5 3 != 0) (badRound (fld w 2 0)) (badReg (fld w 25 22) || badReg (fld w 21 18)) (.fcvtBS (.ofNat 4 (fld w 25 22)) (.ofNat 4 (fld w 21 18)) (.ofNat 3 (fld w 2 0)))
  | 9 => chk (fld w 17 14 != 0 || fld w 5 3 != 0) (badRound (fld w 2 0)) (badReg (fld w 25 22) || badReg (fld w 21 18)) (.fcvtSB (.ofNat 4 (fld w 25 22)) (.ofNat 4 (fld w 21 18)) (.ofNat 3 (fld w 2 0)))
  | 10 => chk (fld w 17 14 != 0 || fld w 5 3 != 0) (badRound (fld w 2 0)) (badReg (fld w 25 22) || badReg (fld w 21 18)) (.fclassS (.ofNat 4 (fld w 25 22)) (.ofNat 4 (fld w 21 18)) (.ofNat 3 (fld w 2 0)))
  | 11 => chk (fld w 17 14 != 0 || fld w 5 3 != 0) (badRound (fld w 2 0)) (badReg (fld w 25 22) || badReg (fld w 21 18)) (.fclassD (.ofNat 4 (fld w 25 22)) (.ofNat 4 (fld w 21 18)) (.ofNat 3 (fld w 2 0)))
  | _ => .error .badFunction

/-- Major 0x13 (R301). -/
def dec13 (w : Nat) : Except DecodeError Instr :=
  match fld w 9 0 with
  | 0 => chk (false) (badCc8 (fld w 13 10)) (badReg (fld w 21 18) || badReg (fld w 17 14)) (.fcmpS (.ofNat 4 (fld w 25 22)) (.ofNat 4 (fld w 21 18)) (.ofNat 4 (fld w 17 14)) (.ofNat 4 (fld w 13 10)))
  | 1 => chk (false) (badCc8 (fld w 13 10)) (badReg (fld w 21 18) || badReg (fld w 17 14)) (.fcmpD (.ofNat 4 (fld w 25 22)) (.ofNat 4 (fld w 21 18)) (.ofNat 4 (fld w 17 14)) (.ofNat 4 (fld w 13 10)))
  | _ => .error .badFunction

/-- Major 0x14 (R301). -/
def dec14 (w : Nat) : Except DecodeError Instr :=
  match fld w 17 14 with
  | 0 => chk (false) (false) (badReg (fld w 25 22) || badReg (fld w 21 18)) (.ldBz (.ofNat 4 (fld w 25 22)) (.ofNat 4 (fld w 21 18)) (.ofNat 14 (fld w 13 0)))
  | 1 => chk (false) (false) (badReg (fld w 25 22) || badReg (fld w 21 18)) (.ldBs (.ofNat 4 (fld w 25 22)) (.ofNat 4 (fld w 21 18)) (.ofNat 14 (fld w 13 0)))
  | 2 => chk (false) (false) (badReg (fld w 25 22) || badReg (fld w 21 18)) (.ldHz (.ofNat 4 (fld w 25 22)) (.ofNat 4 (fld w 21 18)) (.ofNat 14 (fld w 13 0)))
  | 3 => chk (false) (false) (badReg (fld w 25 22) || badReg (fld w 21 18)) (.ldHs (.ofNat 4 (fld w 25 22)) (.ofNat 4 (fld w 21 18)) (.ofNat 14 (fld w 13 0)))
  | 4 => chk (false) (false) (badReg (fld w 25 22) || badReg (fld w 21 18)) (.ldWz (.ofNat 4 (fld w 25 22)) (.ofNat 4 (fld w 21 18)) (.ofNat 14 (fld w 13 0)))
  | 5 => chk (false) (false) (badReg (fld w 25 22) || badReg (fld w 21 18)) (.ldWs (.ofNat 4 (fld w 25 22)) (.ofNat 4 (fld w 21 18)) (.ofNat 14 (fld w 13 0)))
  | 6 => chk (false) (false) (badReg (fld w 25 22) || badReg (fld w 21 18)) (.ldD (.ofNat 4 (fld w 25 22)) (.ofNat 4 (fld w 21 18)) (.ofNat 14 (fld w 13 0)))
  | _ => .error .badFunction

/-- Major 0x15 (R301). -/
def dec15 (w : Nat) : Except DecodeError Instr :=
  match fld w 17 14 with
  | 0 => chk (false) (false) (badReg (fld w 25 22) || badReg (fld w 21 18)) (.stB (.ofNat 4 (fld w 25 22)) (.ofNat 4 (fld w 21 18)) (.ofNat 14 (fld w 13 0)))
  | 1 => chk (false) (false) (badReg (fld w 25 22) || badReg (fld w 21 18)) (.stH (.ofNat 4 (fld w 25 22)) (.ofNat 4 (fld w 21 18)) (.ofNat 14 (fld w 13 0)))
  | 2 => chk (false) (false) (badReg (fld w 25 22) || badReg (fld w 21 18)) (.stW (.ofNat 4 (fld w 25 22)) (.ofNat 4 (fld w 21 18)) (.ofNat 14 (fld w 13 0)))
  | 3 => chk (false) (false) (badReg (fld w 25 22) || badReg (fld w 21 18)) (.stD (.ofNat 4 (fld w 25 22)) (.ofNat 4 (fld w 21 18)) (.ofNat 14 (fld w 13 0)))
  | _ => .error .badFunction

/-- Major 0x16 (R301). -/
def dec16 (w : Nat) : Except DecodeError Instr :=
  match fld w 17 14 with
  | 0 => chkQuad w (false) (badReg (fld w 25 22) || badReg (fld w 21 18)) (.ldq (.ofNat 4 (fld w 25 22)) (.ofNat 4 (fld w 21 18)) (.ofNat 14 (fld w 13 0)))
  | 1 => chkQuad w (false) (badReg (fld w 25 22) || badReg (fld w 21 18)) (.stq (.ofNat 4 (fld w 25 22)) (.ofNat 4 (fld w 21 18)) (.ofNat 14 (fld w 13 0)))
  | _ => .error .badFunction

/-- Major 0x17 (R301). -/
def dec17 (w : Nat) : Except DecodeError Instr :=
  match fld w 17 14 with
  | 0 => chk (false) (false) (badReg (fld w 25 22) || badReg (fld w 21 18)) (.ldfW (.ofNat 4 (fld w 25 22)) (.ofNat 4 (fld w 21 18)) (.ofNat 14 (fld w 13 0)))
  | 1 => chk (false) (false) (badReg (fld w 25 22) || badReg (fld w 21 18)) (.ldfD (.ofNat 4 (fld w 25 22)) (.ofNat 4 (fld w 21 18)) (.ofNat 14 (fld w 13 0)))
  | 2 => chk (false) (false) (badReg (fld w 25 22) || badReg (fld w 21 18)) (.ldfeW (.ofNat 4 (fld w 25 22)) (.ofNat 4 (fld w 21 18)) (.ofNat 14 (fld w 13 0)))
  | 3 => chk (false) (false) (badReg (fld w 25 22) || badReg (fld w 21 18)) (.ldfeD (.ofNat 4 (fld w 25 22)) (.ofNat 4 (fld w 21 18)) (.ofNat 14 (fld w 13 0)))
  | 4 => chk (false) (false) (badReg (fld w 25 22) || badReg (fld w 21 18)) (.stfW (.ofNat 4 (fld w 25 22)) (.ofNat 4 (fld w 21 18)) (.ofNat 14 (fld w 13 0)))
  | 5 => chk (false) (false) (badReg (fld w 25 22) || badReg (fld w 21 18)) (.stfD (.ofNat 4 (fld w 25 22)) (.ofNat 4 (fld w 21 18)) (.ofNat 14 (fld w 13 0)))
  | 6 => chk (false) (false) (badReg (fld w 25 22) || badReg (fld w 21 18)) (.stfeW (.ofNat 4 (fld w 25 22)) (.ofNat 4 (fld w 21 18)) (.ofNat 14 (fld w 13 0)))
  | 7 => chk (false) (false) (badReg (fld w 25 22) || badReg (fld w 21 18)) (.stfeD (.ofNat 4 (fld w 25 22)) (.ofNat 4 (fld w 21 18)) (.ofNat 14 (fld w 13 0)))
  | 8 => chk (false) (false) (badReg (fld w 25 22) || badReg (fld w 21 18)) (.fck (.ofNat 4 (fld w 25 22)) (.ofNat 4 (fld w 21 18)) (.ofNat 14 (fld w 13 0)))
  | _ => .error .badFunction

/-- Major 0x18 (R301). -/
def dec18 (w : Nat) : Except DecodeError Instr :=
  match fld w 13 6 with
  | 0 => chk (fld w 5 1 != 0) (false) (badReg (fld w 25 22) || badReg (fld w 21 18) || badReg (fld w 17 14)) (.amoAdd (.ofNat 4 (fld w 25 22)) (.ofNat 4 (fld w 21 18)) (.ofNat 4 (fld w 17 14)) (.ofNat 1 (fld w 0 0)))
  | 1 => chk (fld w 5 1 != 0) (false) (badReg (fld w 25 22) || badReg (fld w 21 18) || badReg (fld w 17 14)) (.amoAnd (.ofNat 4 (fld w 25 22)) (.ofNat 4 (fld w 21 18)) (.ofNat 4 (fld w 17 14)) (.ofNat 1 (fld w 0 0)))
  | 2 => chk (fld w 5 1 != 0) (false) (badReg (fld w 25 22) || badReg (fld w 21 18) || badReg (fld w 17 14)) (.amoOr (.ofNat 4 (fld w 25 22)) (.ofNat 4 (fld w 21 18)) (.ofNat 4 (fld w 17 14)) (.ofNat 1 (fld w 0 0)))
  | 3 => chk (fld w 5 1 != 0) (false) (badReg (fld w 25 22) || badReg (fld w 21 18) || badReg (fld w 17 14)) (.amoXor (.ofNat 4 (fld w 25 22)) (.ofNat 4 (fld w 21 18)) (.ofNat 4 (fld w 17 14)) (.ofNat 1 (fld w 0 0)))
  | 4 => chk (fld w 5 1 != 0) (false) (badReg (fld w 25 22) || badReg (fld w 21 18) || badReg (fld w 17 14)) (.amoMin (.ofNat 4 (fld w 25 22)) (.ofNat 4 (fld w 21 18)) (.ofNat 4 (fld w 17 14)) (.ofNat 1 (fld w 0 0)))
  | 5 => chk (fld w 5 1 != 0) (false) (badReg (fld w 25 22) || badReg (fld w 21 18) || badReg (fld w 17 14)) (.amoMax (.ofNat 4 (fld w 25 22)) (.ofNat 4 (fld w 21 18)) (.ofNat 4 (fld w 17 14)) (.ofNat 1 (fld w 0 0)))
  | 6 => chk (fld w 5 1 != 0) (false) (badReg (fld w 25 22) || badReg (fld w 21 18) || badReg (fld w 17 14)) (.amoMinu (.ofNat 4 (fld w 25 22)) (.ofNat 4 (fld w 21 18)) (.ofNat 4 (fld w 17 14)) (.ofNat 1 (fld w 0 0)))
  | 7 => chk (fld w 5 1 != 0) (false) (badReg (fld w 25 22) || badReg (fld w 21 18) || badReg (fld w 17 14)) (.amoMaxu (.ofNat 4 (fld w 25 22)) (.ofNat 4 (fld w 21 18)) (.ofNat 4 (fld w 17 14)) (.ofNat 1 (fld w 0 0)))
  | 8 => chk (fld w 5 1 != 0) (false) (badReg (fld w 25 22) || badReg (fld w 21 18) || badReg (fld w 17 14)) (.amoSwap (.ofNat 4 (fld w 25 22)) (.ofNat 4 (fld w 21 18)) (.ofNat 4 (fld w 17 14)) (.ofNat 1 (fld w 0 0)))
  | 9 => chk (fld w 5 1 != 0) (false) (badReg (fld w 25 22) || badReg (fld w 21 18) || badReg (fld w 17 14)) (.amoCas (.ofNat 4 (fld w 25 22)) (.ofNat 4 (fld w 21 18)) (.ofNat 4 (fld w 17 14)) (.ofNat 1 (fld w 0 0)))
  | 10 => chk (fld w 5 1 != 0) (false) (badReg (fld w 25 22) || badReg (fld w 21 18) || badReg (fld w 17 14)) (.amoFadd (.ofNat 4 (fld w 25 22)) (.ofNat 4 (fld w 21 18)) (.ofNat 4 (fld w 17 14)) (.ofNat 1 (fld w 0 0)))
  | _ => .error .badFunction

/-- Major 0x19 (R301). -/
def dec19 (w : Nat) : Except DecodeError Instr :=
  match fld w 17 14 with
  | 0 => chk (false) (false) (badReg (fld w 25 22) || badReg (fld w 21 18)) (.stcW (.ofNat 4 (fld w 25 22)) (.ofNat 4 (fld w 21 18)) (.ofNat 14 (fld w 13 0)))
  | 1 => chk (false) (false) (badReg (fld w 25 22) || badReg (fld w 21 18)) (.stcD (.ofNat 4 (fld w 25 22)) (.ofNat 4 (fld w 21 18)) (.ofNat 14 (fld w 13 0)))
  | _ => .error .badFunction

/-- Major 0x1A (R301). -/
def dec1A (w : Nat) : Except DecodeError Instr :=
  match fld w 13 6 with
  | 0 => chk (fld w 25 22 != 0 || fld w 5 1 != 0) (false) (badReg (fld w 21 18) || badReg (fld w 17 14)) (.redAdd (.ofNat 4 (fld w 21 18)) (.ofNat 4 (fld w 17 14)) (.ofNat 1 (fld w 0 0)))
  | 1 => chk (fld w 25 22 != 0 || fld w 5 1 != 0) (false) (badReg (fld w 21 18) || badReg (fld w 17 14)) (.redFadd (.ofNat 4 (fld w 21 18)) (.ofNat 4 (fld w 17 14)) (.ofNat 1 (fld w 0 0)))
  | 2 => chk (fld w 25 22 != 0 || fld w 5 1 != 0) (false) (badReg (fld w 21 18) || badReg (fld w 17 14)) (.redMin (.ofNat 4 (fld w 21 18)) (.ofNat 4 (fld w 17 14)) (.ofNat 1 (fld w 0 0)))
  | 3 => chk (fld w 25 22 != 0 || fld w 5 1 != 0) (false) (badReg (fld w 21 18) || badReg (fld w 17 14)) (.redMax (.ofNat 4 (fld w 21 18)) (.ofNat 4 (fld w 17 14)) (.ofNat 1 (fld w 0 0)))
  | 4 => chk (fld w 25 22 != 0 || fld w 5 1 != 0) (false) (badReg (fld w 21 18) || badReg (fld w 17 14)) (.redOr (.ofNat 4 (fld w 21 18)) (.ofNat 4 (fld w 17 14)) (.ofNat 1 (fld w 0 0)))
  | _ => .error .badFunction

/-- Major 0x1B (R301). -/
def dec1B (w : Nat) : Except DecodeError Instr :=
  match fld w 17 14 with
  | 0 => chk (fld w 25 22 != 0) (false) (badReg (fld w 21 18)) (.pf (.ofNat 4 (fld w 21 18)) (.ofNat 14 (fld w 13 0)))
  | 1 => chk (fld w 25 22 != 0) (false) (badReg (fld w 21 18)) (.cwb (.ofNat 4 (fld w 21 18)) (.ofNat 14 (fld w 13 0)))
  | 2 => chk (fld w 25 22 != 0) (false) (badReg (fld w 21 18)) (.cdis (.ofNat 4 (fld w 21 18)) (.ofNat 14 (fld w 13 0)))
  | 3 => chk (fld w 25 22 != 0) (false) (badReg (fld w 21 18)) (.cinvI (.ofNat 4 (fld w 21 18)) (.ofNat 14 (fld w 13 0)))
  | _ => .error .badFunction

/-- Major 0x1C (R301). -/
def dec1C (w : Nat) : Except DecodeError Instr :=
  match fld w 25 16 with
  | 0 => chk (fld w 15 0 != 0) (false) (false) (.fenceQ)
  | 1 => chk (fld w 15 0 != 0) (false) (false) (.fenceE)
  | 2 => chk (fld w 15 0 != 0) (false) (false) (.fenceA)
  | _ => .error .badFunction

/-- Major 0x1D (R301). -/
def dec1D (w : Nat) : Except DecodeError Instr :=
  chk (false) (false) (false) (.br (.ofNat 4 (fld w 25 22)) (.ofNat 1 (fld w 21 21)) (.ofNat 21 (fld w 20 0)))

/-- Major 0x1E (R301). -/
def dec1E (w : Nat) : Except DecodeError Instr :=
  chk (false) (false) (false) (.jmp (.ofNat 26 (fld w 25 0)))

/-- Major 0x1F (R301). -/
def dec1F (w : Nat) : Except DecodeError Instr :=
  chk (false) (false) (false) (.call (.ofNat 26 (fld w 25 0)))

/-- Major 0x20 (R301). -/
def dec20 (w : Nat) : Except DecodeError Instr :=
  match fld w 13 6 with
  | 0 => chk (fld w 25 22 != 0 || fld w 17 14 != 0 || fld w 5 0 != 0) (false) (badReg (fld w 21 18)) (.jr (.ofNat 4 (fld w 21 18)))
  | 1 => chk (fld w 25 22 != 0 || fld w 17 14 != 0 || fld w 5 0 != 0) (false) (badReg (fld w 21 18)) (.callr (.ofNat 4 (fld w 21 18)))
  | _ => .error .badFunction

/-- Major 0x21 (R301). -/
def dec21 (w : Nat) : Except DecodeError Instr :=
  chk (fld w 25 22 != 0) (false) (badReg (fld w 21 18)) (.loop (.ofNat 4 (fld w 21 18)) (.ofNat 18 (fld w 17 0)))

/-- Major 0x22 (R301). -/
def dec22 (w : Nat) : Except DecodeError Instr :=
  match fld w 13 6 with
  | 0 => chk (fld w 25 22 != 0 || fld w 17 14 != 0 || fld w 5 0 != 0) (false) (badReg (fld w 21 18)) (.go (.ofNat 4 (fld w 21 18)))
  | 1 => chk (fld w 25 22 != 0 || fld w 17 14 != 0 || fld w 5 0 != 0) (false) (badReg (fld w 21 18)) (.gocore (.ofNat 4 (fld w 21 18)))
  | 2 => chk (fld w 25 14 != 0 || fld w 5 0 != 0) (false) (false) (.back)
  | _ => .error .badFunction

/-- Major 0x23 (R301). -/
def dec23 (w : Nat) : Except DecodeError Instr :=
  match fld w 13 6 with
  | 0 => chk (fld w 5 0 != 0) (false) (badReg (fld w 25 22) || badReg (fld w 21 18) || badReg (fld w 17 14)) (.meet (.ofNat 4 (fld w 25 22)) (.ofNat 4 (fld w 21 18)) (.ofNat 4 (fld w 17 14)))
  | 1 => chk (fld w 21 14 != 0 || fld w 5 4 != 0) (false) (badReg (fld w 25 22)) (.xget (.ofNat 4 (fld w 25 22)) (.ofNat 4 (fld w 3 0)))
  | 2 => chk (fld w 25 14 != 0 || fld w 5 0 != 0) (false) (false) (.part)
  | 3 => chk (fld w 25 22 != 0 || fld w 17 14 != 0 || fld w 5 0 != 0) (false) (badReg (fld w 21 18)) (.partgo (.ofNat 4 (fld w 21 18)))
  | _ => .error .badFunction

/-- Major 0x24 (R301). -/
def dec24 (w : Nat) : Except DecodeError Instr :=
  match fld w 13 6 with
  | 0 => chk (fld w 5 0 != 0) (false) (badReg (fld w 25 22) || badReg (fld w 21 18) || badReg (fld w 17 14)) (.spawn (.ofNat 4 (fld w 25 22)) (.ofNat 4 (fld w 21 18)) (.ofNat 4 (fld w 17 14)))
  | 1 => chk (fld w 25 14 != 0 || fld w 5 0 != 0) (false) (false) (.quit)
  | 2 => chk (fld w 25 14 != 0 || fld w 5 0 != 0) (false) (false) (.yield)
  | 3 => chk (fld w 25 14 != 0 || fld w 5 0 != 0) (false) (false) (.done)
  | 4 => chk (fld w 25 14 != 0 || fld w 5 0 != 0) (false) (false) (.abort)
  | 5 => chk (fld w 17 14 != 0 || fld w 5 0 != 0) (false) (badReg (fld w 25 22) || badReg (fld w 21 18)) (.alloc (.ofNat 4 (fld w 25 22)) (.ofNat 4 (fld w 21 18)))
  | 6 => chk (fld w 5 0 != 0) (false) (badReg (fld w 25 22) || badReg (fld w 21 18) || badReg (fld w 17 14)) (.fork (.ofNat 4 (fld w 25 22)) (.ofNat 4 (fld w 21 18)) (.ofNat 4 (fld w 17 14)))
  | 7 => chk (fld w 25 22 != 0 || fld w 17 14 != 0 || fld w 5 0 != 0) (false) (badReg (fld w 21 18)) (.join (.ofNat 4 (fld w 21 18)))
  | 8 => chk (fld w 25 22 != 0 || fld w 17 14 != 0 || fld w 5 0 != 0) (false) (badReg (fld w 21 18)) (.wakePark (.ofNat 4 (fld w 21 18)))
  | 9 => chk (fld w 25 22 != 0 || fld w 5 0 != 0) (false) (badReg (fld w 21 18) || badReg (fld w 17 14)) (.tsk (.ofNat 4 (fld w 21 18)) (.ofNat 4 (fld w 17 14)))
  | _ => .error .badFunction

/-- Major 0x25 (R301). -/
def dec25 (w : Nat) : Except DecodeError Instr :=
  match fld w 13 6 with
  | 0 => chk (fld w 25 22 != 0 || fld w 5 0 != 0) (false) (badReg (fld w 21 18) || badReg (fld w 17 14)) (.qpush (.ofNat 4 (fld w 21 18)) (.ofNat 4 (fld w 17 14)))
  | 1 => chk (fld w 21 14 != 0 || fld w 5 0 != 0) (false) (badReg (fld w 25 22)) (.qpop (.ofNat 4 (fld w 25 22)))
  | 2 => chk (fld w 21 18 != 0 || fld w 5 0 != 0) (false) (badReg (fld w 25 22) || badReg (fld w 17 14)) (.qlen (.ofNat 4 (fld w 25 22)) (.ofNat 4 (fld w 17 14)))
  | _ => .error .badFunction

/-- Major 0x26 (R301). -/
def dec26 (w : Nat) : Except DecodeError Instr :=
  match fld w 13 6 with
  | 0 => chk (fld w 17 14 != 0 || fld w 5 0 != 0) (false) (badReg (fld w 25 22) || badReg (fld w 21 18)) (.recv (.ofNat 4 (fld w 25 22)) (.ofNat 4 (fld w 21 18)))
  | 1 => chk (fld w 17 14 != 0 || fld w 5 0 != 0) (false) (badReg (fld w 25 22) || badReg (fld w 21 18)) (.mpoll (.ofNat 4 (fld w 25 22)) (.ofNat 4 (fld w 21 18)))
  | 2 => chk (fld w 25 22 != 0 || fld w 5 0 != 0) (false) (badReg (fld w 21 18) || badReg (fld w 17 14)) (.mbind (.ofNat 4 (fld w 21 18)) (.ofNat 4 (fld w 17 14)))
  | _ => .error .badFunction

/-- Major 0x27 (R301). -/
def dec27 (w : Nat) : Except DecodeError Instr :=
  match fld w 25 16 with
  | 0 => chk (fld w 15 7 != 0) (badScope (fld w 6 4)) (false) (.bar (.ofNat 3 (fld w 6 4)) (.ofNat 4 (fld w 3 0)))
  | 1 => chk (fld w 15 7 != 0) (badScope (fld w 6 4)) (false) (.barn (.ofNat 3 (fld w 6 4)) (.ofNat 4 (fld w 3 0)))
  | 2 => chk (fld w 11 7 != 0) (badScope (fld w 6 4)) (badReg (fld w 15 12)) (.barw (.ofNat 4 (fld w 15 12)) (.ofNat 3 (fld w 6 4)) (.ofNat 4 (fld w 3 0)))
  | 3 => chk (fld w 11 7 != 0) (badScope (fld w 6 4)) (badReg (fld w 15 12)) (.barg (.ofNat 4 (fld w 15 12)) (.ofNat 3 (fld w 6 4)) (.ofNat 4 (fld w 3 0)))
  | 4 => chk (fld w 11 7 != 0) (badScope (fld w 6 4)) (badReg (fld w 15 12)) (.barset (.ofNat 4 (fld w 15 12)) (.ofNat 3 (fld w 6 4)) (.ofNat 4 (fld w 3 0)))
  | _ => .error .badFunction

/-- Major 0x28 (R301). -/
def dec28 (w : Nat) : Except DecodeError Instr :=
  if knownSpecial (fld w 25 16) then chk (fld w 11 0 != 0) (false) (badReg (fld w 15 12)) (.srd (.ofNat 10 (fld w 25 16)) (.ofNat 4 (fld w 15 12)))
  else .error .badFunction

/-- Major 0x29 (R301). -/
def dec29 (w : Nat) : Except DecodeError Instr :=
  if knownSpecial (fld w 25 16) then chk (fld w 11 0 != 0) (false) (badReg (fld w 15 12)) (.swr (.ofNat 10 (fld w 25 16)) (.ofNat 4 (fld w 15 12)))
  else .error .badFunction

/-- Major 0x2A (R301). -/
def dec2A (w : Nat) : Except DecodeError Instr :=
  match fld w 25 16 with
  | 0 => chk (fld w 15 8 != 0) (false) (false) (.trap (.ofNat 8 (fld w 7 0)))
  | 1 => chk (fld w 15 0 != 0) (false) (false) (.rte)
  | 2 => chk (fld w 15 0 != 0) (false) (false) (.brk)
  | 3 => chk (fld w 15 0 != 0) (false) (false) (.isync)
  | 4 => chk (false) (false) (false) (.blk (.ofNat 16 (fld w 15 0)))
  | 5 => chk (fld w 11 0 != 0) (false) (badReg (fld w 15 12)) (.ctxsv (.ofNat 4 (fld w 15 12)))
  | 6 => chk (fld w 11 0 != 0) (false) (badReg (fld w 15 12)) (.ctxrs (.ofNat 4 (fld w 15 12)))
  | _ => .error .badFunction

/-- Major 0x30 (R301). -/
def dec30 (w : Nat) : Except DecodeError Instr :=
  match fld w 17 12 with
  | 0 => chk (fld w 10 0 != 0) (false) (badReg (fld w 25 22) || badReg (fld w 21 18)) (.cp (.ofNat 4 (fld w 25 22)) (.ofNat 4 (fld w 21 18)) (.ofNat 1 (fld w 11 11)))
  | 1 => chk (fld w 10 0 != 0) (false) (badReg (fld w 25 22) || badReg (fld w 21 18)) (.cpn (.ofNat 4 (fld w 25 22)) (.ofNat 4 (fld w 21 18)) (.ofNat 1 (fld w 11 11)))
  | 2 => chk (fld w 10 0 != 0) (false) (badReg (fld w 25 22) || badReg (fld w 21 18)) (.cpm (.ofNat 4 (fld w 25 22)) (.ofNat 4 (fld w 21 18)) (.ofNat 1 (fld w 11 11)))
  | 3 => chk (fld w 10 0 != 0) (false) (badReg (fld w 25 22) || badReg (fld w 21 18)) (.cps (.ofNat 4 (fld w 25 22)) (.ofNat 4 (fld w 21 18)) (.ofNat 1 (fld w 11 11)))
  | 4 => chk (fld w 10 0 != 0) (false) (badReg (fld w 25 22) || badReg (fld w 21 18)) (.cprFp32 (.ofNat 4 (fld w 25 22)) (.ofNat 4 (fld w 21 18)) (.ofNat 1 (fld w 11 11)))
  | 5 => chk (fld w 11 1 != 0) (false) (badReg (fld w 25 22) || badReg (fld w 21 18)) (.cpsi (.ofNat 4 (fld w 25 22)) (.ofNat 4 (fld w 21 18)) (.ofNat 1 (fld w 0 0)))
  | 6 => chk (fld w 11 1 != 0) (false) (badReg (fld w 25 22) || badReg (fld w 21 18)) (.cpso (.ofNat 4 (fld w 25 22)) (.ofNat 4 (fld w 21 18)) (.ofNat 1 (fld w 0 0)))
  | 7 => chk (fld w 10 1 != 0) (false) (badReg (fld w 25 22) || badReg (fld w 21 18)) (.cpf (.ofNat 4 (fld w 25 22)) (.ofNat 4 (fld w 21 18)) (.ofNat 1 (fld w 11 11)) (.ofNat 1 (fld w 0 0)))
  | 8 => chk (fld w 21 18 != 0 || fld w 10 0 != 0) (false) (badReg (fld w 25 22)) (.cpz (.ofNat 4 (fld w 25 22)) (.ofNat 1 (fld w 11 11)))
  | 9 => chk (fld w 21 18 != 0 || fld w 10 0 != 0) (false) (badReg (fld w 25 22)) (.cpc (.ofNat 4 (fld w 25 22)) (.ofNat 1 (fld w 11 11)))
  | _ => .error .badFunction

/-- Major 0x31 (R301). -/
def dec31 (w : Nat) : Except DecodeError Instr :=
  if 12 ≤ fld w 17 12 then .error .badFunction
  else if fld w 11 11 = 0 then chk (fld w 25 22 != 0 || fld w 10 0 != 0) false (badReg (fld w 21 18)) (.cpset (.ofNat 4 (fld w 21 18)) (.ofNat 6 (fld w 17 12)))
  else chk (fld w 25 22 != 0 || fld w 10 0 != 0) false (badReg (fld w 21 18)) (.cpget (.ofNat 4 (fld w 21 18)) (.ofNat 6 (fld w 17 12)))

/-- Major 0x32 (R301). -/
def dec32 (w : Nat) : Except DecodeError Instr :=
  match fld w 17 12 with
  | 0 => chk (fld w 10 2 != 0) (false) (badReg (fld w 25 22) || badReg (fld w 21 18)) (.vadd (.ofNat 4 (fld w 25 22)) (.ofNat 4 (fld w 21 18)) (.ofNat 1 (fld w 11 11)) (.ofNat 1 (fld w 1 1)) (.ofNat 1 (fld w 0 0)))
  | 1 => chk (fld w 10 2 != 0) (false) (badReg (fld w 25 22) || badReg (fld w 21 18)) (.vsub (.ofNat 4 (fld w 25 22)) (.ofNat 4 (fld w 21 18)) (.ofNat 1 (fld w 11 11)) (.ofNat 1 (fld w 1 1)) (.ofNat 1 (fld w 0 0)))
  | 2 => chk (fld w 10 2 != 0) (false) (badReg (fld w 25 22) || badReg (fld w 21 18)) (.vmul (.ofNat 4 (fld w 25 22)) (.ofNat 4 (fld w 21 18)) (.ofNat 1 (fld w 11 11)) (.ofNat 1 (fld w 1 1)) (.ofNat 1 (fld w 0 0)))
  | 3 => chk (fld w 10 2 != 0) (false) (badReg (fld w 25 22) || badReg (fld w 21 18)) (.vfma (.ofNat 4 (fld w 25 22)) (.ofNat 4 (fld w 21 18)) (.ofNat 1 (fld w 11 11)) (.ofNat 1 (fld w 1 1)) (.ofNat 1 (fld w 0 0)))
  | 4 => chk (fld w 10 2 != 0) (false) (badReg (fld w 25 22) || badReg (fld w 21 18)) (.vmin (.ofNat 4 (fld w 25 22)) (.ofNat 4 (fld w 21 18)) (.ofNat 1 (fld w 11 11)) (.ofNat 1 (fld w 1 1)) (.ofNat 1 (fld w 0 0)))
  | 5 => chk (fld w 10 2 != 0) (false) (badReg (fld w 25 22) || badReg (fld w 21 18)) (.vmax (.ofNat 4 (fld w 25 22)) (.ofNat 4 (fld w 21 18)) (.ofNat 1 (fld w 11 11)) (.ofNat 1 (fld w 1 1)) (.ofNat 1 (fld w 0 0)))
  | 6 => chk (fld w 10 2 != 0 || fld w 0 0 != 0) (false) (badReg (fld w 25 22) || badReg (fld w 21 18)) (.vabs (.ofNat 4 (fld w 25 22)) (.ofNat 4 (fld w 21 18)) (.ofNat 1 (fld w 11 11)) (.ofNat 1 (fld w 1 1)))
  | 7 => chk (fld w 10 2 != 0 || fld w 0 0 != 0) (false) (badReg (fld w 25 22) || badReg (fld w 21 18)) (.vneg (.ofNat 4 (fld w 25 22)) (.ofNat 4 (fld w 21 18)) (.ofNat 1 (fld w 11 11)) (.ofNat 1 (fld w 1 1)))
  | 8 => chk (fld w 10 2 != 0 || fld w 0 0 != 0) (false) (badReg (fld w 25 22) || badReg (fld w 21 18)) (.vsqrt (.ofNat 4 (fld w 25 22)) (.ofNat 4 (fld w 21 18)) (.ofNat 1 (fld w 11 11)) (.ofNat 1 (fld w 1 1)))
  | 9 => chk (fld w 10 2 != 0 || fld w 0 0 != 0) (false) (badReg (fld w 25 22) || badReg (fld w 21 18)) (.vexp2 (.ofNat 4 (fld w 25 22)) (.ofNat 4 (fld w 21 18)) (.ofNat 1 (fld w 11 11)) (.ofNat 1 (fld w 1 1)))
  | 10 => chk (fld w 10 8 != 0 || fld w 3 1 != 0) (badCc12 (fld w 7 4)) (badReg (fld w 25 22) || badReg (fld w 21 18)) (.vcmp (.ofNat 4 (fld w 25 22)) (.ofNat 4 (fld w 21 18)) (.ofNat 1 (fld w 11 11)) (.ofNat 4 (fld w 7 4)) (.ofNat 1 (fld w 0 0)))
  | 11 => chk (fld w 10 2 != 0) (false) (badReg (fld w 25 22) || badReg (fld w 21 18)) (.vsel (.ofNat 4 (fld w 25 22)) (.ofNat 4 (fld w 21 18)) (.ofNat 1 (fld w 11 11)) (.ofNat 1 (fld w 1 1)) (.ofNat 1 (fld w 0 0)))
  | 12 => chk (fld w 10 8 != 0 || fld w 3 2 != 0 || fld w 0 0 != 0) (false) (badReg (fld w 25 22) || badReg (fld w 21 18)) (.vcvt (.ofNat 4 (fld w 25 22)) (.ofNat 4 (fld w 21 18)) (.ofNat 1 (fld w 11 11)) (.ofNat 4 (fld w 7 4)) (.ofNat 1 (fld w 1 1)))
  | 13 => chk (fld w 10 0 != 0) (false) (badReg (fld w 25 22) || badReg (fld w 21 18)) (.vred (.ofNat 4 (fld w 25 22)) (.ofNat 4 (fld w 21 18)) (.ofNat 1 (fld w 11 11)))
  | 14 => chk (fld w 10 1 != 0) (false) (badReg (fld w 25 22) || badReg (fld w 21 18)) (.vdot (.ofNat 4 (fld w 25 22)) (.ofNat 4 (fld w 21 18)) (.ofNat 1 (fld w 11 11)) (.ofNat 1 (fld w 0 0)))
  | 15 => chk (fld w 10 2 != 0 || fld w 0 0 != 0) (false) (badReg (fld w 25 22) || badReg (fld w 21 18)) (.vgat (.ofNat 4 (fld w 25 22)) (.ofNat 4 (fld w 21 18)) (.ofNat 1 (fld w 11 11)) (.ofNat 1 (fld w 1 1)))
  | 16 => chk (fld w 10 2 != 0 || fld w 0 0 != 0) (false) (badReg (fld w 25 22) || badReg (fld w 21 18)) (.vsca (.ofNat 4 (fld w 25 22)) (.ofNat 4 (fld w 21 18)) (.ofNat 1 (fld w 11 11)) (.ofNat 1 (fld w 1 1)))
  | 17 => chk (fld w 10 2 != 0 || fld w 0 0 != 0) (false) (badReg (fld w 25 22) || badReg (fld w 21 18)) (.vscadd (.ofNat 4 (fld w 25 22)) (.ofNat 4 (fld w 21 18)) (.ofNat 1 (fld w 11 11)) (.ofNat 1 (fld w 1 1)))
  | 18 => chk (fld w 10 6 != 0 || fld w 3 0 != 0) (isThree (fld w 5 4)) (badReg (fld w 25 22) || badReg (fld w 21 18)) (.vrot (.ofNat 4 (fld w 25 22)) (.ofNat 4 (fld w 21 18)) (.ofNat 1 (fld w 11 11)) (.ofNat 2 (fld w 5 4)))
  | 19 => chk (fld w 10 0 != 0) (false) (badReg (fld w 25 22) || badReg (fld w 21 18)) (.vquant (.ofNat 4 (fld w 25 22)) (.ofNat 4 (fld w 21 18)) (.ofNat 1 (fld w 11 11)))
  | 20 => chk (fld w 10 0 != 0) (false) (badReg (fld w 25 22) || badReg (fld w 21 18)) (.vdeq (.ofNat 4 (fld w 25 22)) (.ofNat 4 (fld w 21 18)) (.ofNat 1 (fld w 11 11)))
  | 21 => chk (fld w 25 22 != 0 || fld w 10 5 != 0 || fld w 3 0 != 0) (false) (badReg (fld w 21 18)) (.vtab (.ofNat 4 (fld w 21 18)) (.ofNat 1 (fld w 11 11)) (.ofNat 1 (fld w 4 4)))
  | 22 => chk (fld w 10 2 != 0 || fld w 0 0 != 0) (false) (badReg (fld w 25 22) || badReg (fld w 21 18)) (.vfix (.ofNat 4 (fld w 25 22)) (.ofNat 4 (fld w 21 18)) (.ofNat 1 (fld w 11 11)) (.ofNat 1 (fld w 1 1)))
  | 23 => chk (fld w 10 2 != 0 || fld w 0 0 != 0) (false) (badReg (fld w 25 22) || badReg (fld w 21 18)) (.vflt (.ofNat 4 (fld w 25 22)) (.ofNat 4 (fld w 21 18)) (.ofNat 1 (fld w 11 11)) (.ofNat 1 (fld w 1 1)))
  | _ => .error .badFunction

/-- Major 0x33 (R301). -/
def dec33 (w : Nat) : Except DecodeError Instr :=
  if 13 ≤ fld w 17 12 then .error .badFunction
  else if fld w 11 11 = 0 then chk (fld w 25 22 != 0 || fld w 10 0 != 0) false (badReg (fld w 21 18)) (.vset (.ofNat 4 (fld w 21 18)) (.ofNat 6 (fld w 17 12)))
  else chk (fld w 25 22 != 0 || fld w 10 0 != 0) false (badReg (fld w 21 18)) (.vget (.ofNat 4 (fld w 21 18)) (.ofNat 6 (fld w 17 12)))

/-- Major 0x34 (R301). -/
def dec34 (w : Nat) : Except DecodeError Instr :=
  match fld w 17 12 with
  | 0 => chk (fld w 10 0 != 0) (false) (badReg (fld w 25 22) || badReg (fld w 21 18)) (.mldb (.ofNat 4 (fld w 25 22)) (.ofNat 4 (fld w 21 18)) (.ofNat 1 (fld w 11 11)))
  | 1 => chk (fld w 10 0 != 0) (false) (badReg (fld w 25 22) || badReg (fld w 21 18)) (.mmac (.ofNat 4 (fld w 25 22)) (.ofNat 4 (fld w 21 18)) (.ofNat 1 (fld w 11 11)))
  | 2 => chk (fld w 25 18 != 0 || fld w 10 0 != 0) (false) (false) (.mpass (.ofNat 1 (fld w 11 11)))
  | 3 => chk (fld w 21 18 != 0 || fld w 10 0 != 0) (false) (badReg (fld w 25 22)) (.mzero (.ofNat 4 (fld w 25 22)) (.ofNat 1 (fld w 11 11)))
  | 4 => chk (fld w 10 7 != 0 || fld w 3 0 != 0) (isThree (fld w 5 4)) (badReg (fld w 25 22) || badReg (fld w 21 18)) (.mdrain (.ofNat 4 (fld w 25 22)) (.ofNat 4 (fld w 21 18)) (.ofNat 1 (fld w 11 11)) (.ofNat 1 (fld w 6 6)) (.ofNat 2 (fld w 5 4)))
  | 5 => chk (fld w 21 18 != 0 || fld w 10 7 != 0 || fld w 5 0 != 0) (false) (badReg (fld w 25 22)) (.mdrainx (.ofNat 4 (fld w 25 22)) (.ofNat 1 (fld w 11 11)) (.ofNat 1 (fld w 6 6)))
  | 6 => chk (fld w 21 18 != 0 || fld w 10 0 != 0) (false) (badReg (fld w 25 22)) (.maddx (.ofNat 4 (fld w 25 22)) (.ofNat 1 (fld w 11 11)))
  | _ => .error .badFunction

/-- Major 0x35 (R301). -/
def dec35 (w : Nat) : Except DecodeError Instr :=
  if 8 ≤ fld w 17 12 then .error .badFunction
  else if fld w 11 11 = 0 then chk (fld w 25 22 != 0 || fld w 10 0 != 0) false (badReg (fld w 21 18)) (.mset (.ofNat 4 (fld w 21 18)) (.ofNat 6 (fld w 17 12)))
  else chk (fld w 25 22 != 0 || fld w 10 0 != 0) false (badReg (fld w 21 18)) (.mget (.ofNat 4 (fld w 21 18)) (.ofNat 6 (fld w 17 12)))

/-- Major 0x36 (R301). -/
def dec36 (w : Nat) : Except DecodeError Instr :=
  match fld w 17 12 with
  | 0 => chk (fld w 10 0 != 0) (false) (badReg (fld w 25 22) || badReg (fld w 21 18)) (.pool (.ofNat 4 (fld w 25 22)) (.ofNat 4 (fld w 21 18)) (.ofNat 1 (fld w 11 11)))
  | _ => .error .badFunction

/-- Major 0x37 (R301). -/
def dec37 (w : Nat) : Except DecodeError Instr :=
  if 8 ≤ fld w 17 12 then .error .badFunction
  else if fld w 11 11 = 0 then chk (fld w 25 22 != 0 || fld w 10 0 != 0) false (badReg (fld w 21 18)) (.poset (.ofNat 4 (fld w 21 18)) (.ofNat 6 (fld w 17 12)))
  else chk (fld w 25 22 != 0 || fld w 10 0 != 0) false (badReg (fld w 21 18)) (.poget (.ofNat 4 (fld w 21 18)) (.ofNat 6 (fld w 17 12)))

/-- Major 0x38 (R301). -/
def dec38 (w : Nat) : Except DecodeError Instr :=
  match fld w 17 12 with
  | 0 => chk (fld w 10 0 != 0) (false) (badReg (fld w 25 22) || badReg (fld w 21 18)) (.binapp (.ofNat 4 (fld w 25 22)) (.ofNat 4 (fld w 21 18)) (.ofNat 1 (fld w 11 11)))
  | 1 => chk (fld w 10 0 != 0) (false) (badReg (fld w 25 22) || badReg (fld w 21 18)) (.binplayFp32 (.ofNat 4 (fld w 25 22)) (.ofNat 4 (fld w 21 18)) (.ofNat 1 (fld w 11 11)))
  | 2 => chk (fld w 25 18 != 0 || fld w 10 0 != 0) (false) (false) (.binflush (.ofNat 1 (fld w 11 11)))
  | _ => .error .badFunction

/-- Major 0x39 (R301). -/
def dec39 (w : Nat) : Except DecodeError Instr :=
  if 7 ≤ fld w 17 12 then .error .badFunction
  else if fld w 11 11 = 0 then chk (fld w 25 22 != 0 || fld w 10 0 != 0) false (badReg (fld w 21 18)) (.bnset (.ofNat 4 (fld w 21 18)) (.ofNat 6 (fld w 17 12)))
  else chk (fld w 25 22 != 0 || fld w 10 0 != 0) false (badReg (fld w 21 18)) (.bnget (.ofNat 4 (fld w 21 18)) (.ofNat 6 (fld w 17 12)))

/-- The instruction that a word stands for, or the first check of R306 that it fails (check 7, privilege, is made by the meanings). -/
def decodeNat (w : Nat) : Except DecodeError Instr :=
  match fld w 31 26 with
  | 1 => dec01 w
  | 2 => dec02 w
  | 3 => dec03 w
  | 4 => dec04 w
  | 5 => dec05 w
  | 6 => dec06 w
  | 7 => dec07 w
  | 8 => dec08 w
  | 9 => dec09 w
  | 10 => dec0A w
  | 11 => dec0B w
  | 12 => dec0C w
  | 13 => dec0D w
  | 14 => dec0E w
  | 15 => dec0F w
  | 16 => dec10 w
  | 17 => dec11 w
  | 18 => dec12 w
  | 19 => dec13 w
  | 20 => dec14 w
  | 21 => dec15 w
  | 22 => dec16 w
  | 23 => dec17 w
  | 24 => dec18 w
  | 25 => dec19 w
  | 26 => dec1A w
  | 27 => dec1B w
  | 28 => dec1C w
  | 29 => dec1D w
  | 30 => dec1E w
  | 31 => dec1F w
  | 32 => dec20 w
  | 33 => dec21 w
  | 34 => dec22 w
  | 35 => dec23 w
  | 36 => dec24 w
  | 37 => dec25 w
  | 38 => dec26 w
  | 39 => dec27 w
  | 40 => dec28 w
  | 41 => dec29 w
  | 42 => dec2A w
  | 48 => dec30 w
  | 49 => dec31 w
  | 50 => dec32 w
  | 51 => dec33 w
  | 52 => dec34 w
  | 53 => dec35 w
  | 54 => dec36 w
  | 55 => dec37 w
  | 56 => dec38 w
  | 57 => dec39 w
  | _ => .error .badMajor

/-- Decoding of a word. -/
def decodeWord (w : BitVec 32) : Except DecodeError Instr := decodeNat w.toNat

/-- Four bytes, little-endian, as a number (R293). -/
def wordOfBytes (b0 b1 b2 b3 : Byte) : Nat :=
  b0.toNat + b1.toNat * 2 ^ 8 + b2.toNat * 2 ^ 16 + b3.toNat * 2 ^ 24

/-- Decoding of the bytes at an instruction's address: the instruction and the bytes that follow it. -/
def decodeBytes : List Byte → Except DecodeError (Instr × List Byte)
  | b0 :: b1 :: b2 :: b3 :: rest =>
    match decodeNat (wordOfBytes b0 b1 b2 b3) with
    | .ok i => .ok (i, rest)
    | .error e => .error e
  | _ => .error .truncated

/-- The four bytes in which a word is stored (R293). -/
def bytesOfWord (w : Nat) : List Byte :=
  [.ofNat 8 w, .ofNat 8 (w / 2 ^ 8), .ofNat 8 (w / 2 ^ 16), .ofNat 8 (w / 2 ^ 24)]

/-- The instruction that the decoder reads from the bytes in which a table word is stored. -/
def decodeTableWord (nbits w : Nat) : Option Instr :=
  match decodeBytes (bytesOfWord (w % 2 ^ nbits)) with
  | .ok (i, _) => some i
  | .error _ => none

/-- A word from its fixed part and its fields, each with the position of its lowest bit. -/
def pack (fixed : Nat) (fields : List (Nat × Nat)) : Nat :=
  fields.foldl (fun w f => w + f.1 * 2 ^ f.2) fixed

/-- The word of an instruction (R294, R301 to R305), as a number; a row without a word of its own has none. -/
def encodeNat : Instr → Option Nat
  | .add d a b => some (pack 0x04000000 [(d.toNat, 22), (a.toNat, 18), (b.toNat, 14)])
  | .sub d a b => some (pack 0x04000040 [(d.toNat, 22), (a.toNat, 18), (b.toNat, 14)])
  | .and d a b => some (pack 0x04000080 [(d.toNat, 22), (a.toNat, 18), (b.toNat, 14)])
  | .or d a b => some (pack 0x040000C0 [(d.toNat, 22), (a.toNat, 18), (b.toNat, 14)])
  | .xor d a b => some (pack 0x04000100 [(d.toNat, 22), (a.toNat, 18), (b.toNat, 14)])
  | .andn d a b => some (pack 0x04000140 [(d.toNat, 22), (a.toNat, 18), (b.toNat, 14)])
  | .orn d a b => some (pack 0x04000180 [(d.toNat, 22), (a.toNat, 18), (b.toNat, 14)])
  | .shl d a b => some (pack 0x040001C0 [(d.toNat, 22), (a.toNat, 18), (b.toNat, 14)])
  | .shr d a b => some (pack 0x04000200 [(d.toNat, 22), (a.toNat, 18), (b.toNat, 14)])
  | .sar d a b => some (pack 0x04000240 [(d.toNat, 22), (a.toNat, 18), (b.toNat, 14)])
  | .rol d a b => some (pack 0x04000280 [(d.toNat, 22), (a.toNat, 18), (b.toNat, 14)])
  | .ror d a b => some (pack 0x040002C0 [(d.toNat, 22), (a.toNat, 18), (b.toNat, 14)])
  | .min d a b => some (pack 0x04000300 [(d.toNat, 22), (a.toNat, 18), (b.toNat, 14)])
  | .max d a b => some (pack 0x04000340 [(d.toNat, 22), (a.toNat, 18), (b.toNat, 14)])
  | .minu d a b => some (pack 0x04000380 [(d.toNat, 22), (a.toNat, 18), (b.toNat, 14)])
  | .maxu d a b => some (pack 0x040003C0 [(d.toNat, 22), (a.toNat, 18), (b.toNat, 14)])
  | .lsa d a b k => some (pack 0x04000400 [(d.toNat, 22), (a.toNat, 18), (b.toNat, 14), (k.toNat, 0)])
  | .addw d a b => some (pack 0x08000000 [(d.toNat, 22), (a.toNat, 18), (b.toNat, 14)])
  | .subw d a b => some (pack 0x08000040 [(d.toNat, 22), (a.toNat, 18), (b.toNat, 14)])
  | .shlw d a b => some (pack 0x08000080 [(d.toNat, 22), (a.toNat, 18), (b.toNat, 14)])
  | .shrw d a b => some (pack 0x080000C0 [(d.toNat, 22), (a.toNat, 18), (b.toNat, 14)])
  | .sarw d a b => some (pack 0x08000100 [(d.toNat, 22), (a.toNat, 18), (b.toNat, 14)])
  | .mul d a b => some (pack 0x0C000000 [(d.toNat, 22), (a.toNat, 18), (b.toNat, 14)])
  | .mulh d a b => some (pack 0x0C000040 [(d.toNat, 22), (a.toNat, 18), (b.toNat, 14)])
  | .mulhu d a b => some (pack 0x0C000080 [(d.toNat, 22), (a.toNat, 18), (b.toNat, 14)])
  | .mulw d a b => some (pack 0x0C0000C0 [(d.toNat, 22), (a.toNat, 18), (b.toNat, 14)])
  | .div d a b => some (pack 0x0C000100 [(d.toNat, 22), (a.toNat, 18), (b.toNat, 14)])
  | .divu d a b => some (pack 0x0C000140 [(d.toNat, 22), (a.toNat, 18), (b.toNat, 14)])
  | .rem d a b => some (pack 0x0C000180 [(d.toNat, 22), (a.toNat, 18), (b.toNat, 14)])
  | .remu d a b => some (pack 0x0C0001C0 [(d.toNat, 22), (a.toNat, 18), (b.toNat, 14)])
  | .divw d a b => some (pack 0x0C000200 [(d.toNat, 22), (a.toNat, 18), (b.toNat, 14)])
  | .remw d a b => some (pack 0x0C000240 [(d.toNat, 22), (a.toNat, 18), (b.toNat, 14)])
  | .clz d a => some (pack 0x10000000 [(d.toNat, 22), (a.toNat, 18)])
  | .ctz d a => some (pack 0x10000040 [(d.toNat, 22), (a.toNat, 18)])
  | .popc d a => some (pack 0x10000080 [(d.toNat, 22), (a.toNat, 18)])
  | .brev d a => some (pack 0x100000C0 [(d.toNat, 22), (a.toNat, 18)])
  | .bswap d a => some (pack 0x10000100 [(d.toNat, 22), (a.toNat, 18)])
  | .sxb d a => some (pack 0x10000140 [(d.toNat, 22), (a.toNat, 18)])
  | .sxh d a => some (pack 0x10000180 [(d.toNat, 22), (a.toNat, 18)])
  | .sxw d a => some (pack 0x100001C0 [(d.toNat, 22), (a.toNat, 18)])
  | .zxb d a => some (pack 0x10000200 [(d.toNat, 22), (a.toNat, 18)])
  | .zxh d a => some (pack 0x10000240 [(d.toNat, 22), (a.toNat, 18)])
  | .zxw d a => some (pack 0x10000280 [(d.toNat, 22), (a.toNat, 18)])
  | .bfx d a b => some (pack 0x100002C0 [(d.toNat, 22), (a.toNat, 18), (b.toNat, 14)])
  | .bfxs d a b => some (pack 0x10000300 [(d.toNat, 22), (a.toNat, 18), (b.toNat, 14)])
  | .bfi d a b => some (pack 0x10000340 [(d.toNat, 22), (a.toNat, 18), (b.toNat, 14)])
  | .addi d a i => some (pack 0x14000000 [(d.toNat, 22), (a.toNat, 18), (i.toNat, 0)])
  | .andi d a i => some (pack 0x18000000 [(d.toNat, 22), (a.toNat, 18), (i.toNat, 0)])
  | .ori d a i => some (pack 0x1C000000 [(d.toNat, 22), (a.toNat, 18), (i.toNat, 0)])
  | .xori d a i => some (pack 0x20000000 [(d.toNat, 22), (a.toNat, 18), (i.toNat, 0)])
  | .shli d a k => some (pack 0x24000000 [(d.toNat, 22), (a.toNat, 18), (k.toNat, 0)])
  | .shri d a k => some (pack 0x24001000 [(d.toNat, 22), (a.toNat, 18), (k.toNat, 0)])
  | .sari d a k => some (pack 0x24002000 [(d.toNat, 22), (a.toNat, 18), (k.toNat, 0)])
  | .roli d a k => some (pack 0x24003000 [(d.toNat, 22), (a.toNat, 18), (k.toNat, 0)])
  | .shliw d a k => some (pack 0x24004000 [(d.toNat, 22), (a.toNat, 18), (k.toNat, 0)])
  | .shriw d a k => some (pack 0x24005000 [(d.toNat, 22), (a.toNat, 18), (k.toNat, 0)])
  | .sariw d a k => some (pack 0x24006000 [(d.toNat, 22), (a.toNat, 18), (k.toNat, 0)])
  | .lui d i => some (pack 0x28000000 [(d.toNat, 22), (i.toNat, 0)])
  | .ipa d i => some (pack 0x2C000000 [(d.toNat, 22), (i.toNat, 0)])
  | .gaddr d a b => some (pack 0x30000000 [(d.toNat, 22), (a.toNat, 18), (b.toNat, 14)])
  | .homeof d a => some (pack 0x30000040 [(d.toNat, 22), (a.toNat, 18)])
  | .hops d a b => some (pack 0x30000080 [(d.toNat, 22), (a.toNat, 18), (b.toNat, 14)])
  | .cmp p a b c => some (pack 0x34000000 [(p.toNat, 22), (a.toNat, 18), (b.toNat, 14), (c.toNat, 10)])
  | .cmpw p a b c => some (pack 0x34000001 [(p.toNat, 22), (a.toNat, 18), (b.toNat, 14), (c.toNat, 10)])
  | .cmpi p a c i => some (pack 0x38000000 [(p.toNat, 22), (a.toNat, 18), (c.toNat, 14), (i.toNat, 0)])
  | .pand p q s => some (pack 0x3C000000 [(p.toNat, 22), (q.toNat, 18), (s.toNat, 14)])
  | .por p q s => some (pack 0x3C000001 [(p.toNat, 22), (q.toNat, 18), (s.toNat, 14)])
  | .pxor p q s => some (pack 0x3C000002 [(p.toNat, 22), (q.toNat, 18), (s.toNat, 14)])
  | .pandn p q s => some (pack 0x3C000003 [(p.toNat, 22), (q.toNat, 18), (s.toNat, 14)])
  | .pnot p q => some (pack 0x3C000004 [(p.toNat, 22), (q.toNat, 18)])
  | .p2x d => some (pack 0x3C000005 [(d.toNat, 22)])
  | .x2p a => some (pack 0x3C000006 [(a.toNat, 18)])
  | .sel d a b k => some (pack 0x3C000007 [(d.toNat, 22), (a.toNat, 18), (b.toNat, 14), (k.toNat, 10)])
  | .faddS d a b r => some (pack 0x40000000 [(d.toNat, 22), (a.toNat, 18), (b.toNat, 14), (r.toNat, 0)])
  | .fsubS d a b r => some (pack 0x40000040 [(d.toNat, 22), (a.toNat, 18), (b.toNat, 14), (r.toNat, 0)])
  | .fmulS d a b r => some (pack 0x40000080 [(d.toNat, 22), (a.toNat, 18), (b.toNat, 14), (r.toNat, 0)])
  | .ffmaS d a b r => some (pack 0x400000C0 [(d.toNat, 22), (a.toNat, 18), (b.toNat, 14), (r.toNat, 0)])
  | .fminS d a b r => some (pack 0x40000100 [(d.toNat, 22), (a.toNat, 18), (b.toNat, 14), (r.toNat, 0)])
  | .fmaxS d a b r => some (pack 0x40000140 [(d.toNat, 22), (a.toNat, 18), (b.toNat, 14), (r.toNat, 0)])
  | .fabsS d a r => some (pack 0x40000180 [(d.toNat, 22), (a.toNat, 18), (r.toNat, 0)])
  | .fnegS d a r => some (pack 0x400001C0 [(d.toNat, 22), (a.toNat, 18), (r.toNat, 0)])
  | .fdivS d a b r => some (pack 0x40000200 [(d.toNat, 22), (a.toNat, 18), (b.toNat, 14), (r.toNat, 0)])
  | .fsqrtS d a r => some (pack 0x40000240 [(d.toNat, 22), (a.toNat, 18), (r.toNat, 0)])
  | .frsqsS d a r => some (pack 0x40000280 [(d.toNat, 22), (a.toNat, 18), (r.toNat, 0)])
  | .frcpsS d a r => some (pack 0x400002C0 [(d.toNat, 22), (a.toNat, 18), (r.toNat, 0)])
  | .faddD d a b r => some (pack 0x44000000 [(d.toNat, 22), (a.toNat, 18), (b.toNat, 14), (r.toNat, 0)])
  | .fsubD d a b r => some (pack 0x44000040 [(d.toNat, 22), (a.toNat, 18), (b.toNat, 14), (r.toNat, 0)])
  | .fmulD d a b r => some (pack 0x44000080 [(d.toNat, 22), (a.toNat, 18), (b.toNat, 14), (r.toNat, 0)])
  | .ffmaD d a b r => some (pack 0x440000C0 [(d.toNat, 22), (a.toNat, 18), (b.toNat, 14), (r.toNat, 0)])
  | .fminD d a b r => some (pack 0x44000100 [(d.toNat, 22), (a.toNat, 18), (b.toNat, 14), (r.toNat, 0)])
  | .fmaxD d a b r => some (pack 0x44000140 [(d.toNat, 22), (a.toNat, 18), (b.toNat, 14), (r.toNat, 0)])
  | .fabsD d a r => some (pack 0x44000180 [(d.toNat, 22), (a.toNat, 18), (r.toNat, 0)])
  | .fnegD d a r => some (pack 0x440001C0 [(d.toNat, 22), (a.toNat, 18), (r.toNat, 0)])
  | .fdivD d a b r => some (pack 0x44000200 [(d.toNat, 22), (a.toNat, 18), (b.toNat, 14), (r.toNat, 0)])
  | .fsqrtD d a r => some (pack 0x44000240 [(d.toNat, 22), (a.toNat, 18), (r.toNat, 0)])
  | .frsqsD d a r => some (pack 0x44000280 [(d.toNat, 22), (a.toNat, 18), (r.toNat, 0)])
  | .frcpsD d a r => some (pack 0x440002C0 [(d.toNat, 22), (a.toNat, 18), (r.toNat, 0)])
  | .fcvtSD d a r => some (pack 0x48000000 [(d.toNat, 22), (a.toNat, 18), (r.toNat, 0)])
  | .fcvtDS d a r => some (pack 0x48000040 [(d.toNat, 22), (a.toNat, 18), (r.toNat, 0)])
  | .fcvtSL d a r => some (pack 0x48000080 [(d.toNat, 22), (a.toNat, 18), (r.toNat, 0)])
  | .fcvtDL d a r => some (pack 0x480000C0 [(d.toNat, 22), (a.toNat, 18), (r.toNat, 0)])
  | .fcvtLS d a r => some (pack 0x48000100 [(d.toNat, 22), (a.toNat, 18), (r.toNat, 0)])
  | .fcvtLD d a r => some (pack 0x48000140 [(d.toNat, 22), (a.toNat, 18), (r.toNat, 0)])
  | .fcvtHS d a r => some (pack 0x48000180 [(d.toNat, 22), (a.toNat, 18), (r.toNat, 0)])
  | .fcvtSH d a r => some (pack 0x480001C0 [(d.toNat, 22), (a.toNat, 18), (r.toNat, 0)])
  | .fcvtBS d a r => some (pack 0x48000200 [(d.toNat, 22), (a.toNat, 18), (r.toNat, 0)])
  | .fcvtSB d a r => some (pack 0x48000240 [(d.toNat, 22), (a.toNat, 18), (r.toNat, 0)])
  | .fclassS d a r => some (pack 0x48000280 [(d.toNat, 22), (a.toNat, 18), (r.toNat, 0)])
  | .fclassD d a r => some (pack 0x480002C0 [(d.toNat, 22), (a.toNat, 18), (r.toNat, 0)])
  | .fcmpS p a b c => some (pack 0x4C000000 [(p.toNat, 22), (a.toNat, 18), (b.toNat, 14), (c.toNat, 10)])
  | .fcmpD p a b c => some (pack 0x4C000001 [(p.toNat, 22), (a.toNat, 18), (b.toNat, 14), (c.toNat, 10)])
  | .ldBz d a i => some (pack 0x50000000 [(d.toNat, 22), (a.toNat, 18), (i.toNat, 0)])
  | .ldBs d a i => some (pack 0x50004000 [(d.toNat, 22), (a.toNat, 18), (i.toNat, 0)])
  | .ldHz d a i => some (pack 0x50008000 [(d.toNat, 22), (a.toNat, 18), (i.toNat, 0)])
  | .ldHs d a i => some (pack 0x5000C000 [(d.toNat, 22), (a.toNat, 18), (i.toNat, 0)])
  | .ldWz d a i => some (pack 0x50010000 [(d.toNat, 22), (a.toNat, 18), (i.toNat, 0)])
  | .ldWs d a i => some (pack 0x50014000 [(d.toNat, 22), (a.toNat, 18), (i.toNat, 0)])
  | .ldD d a i => some (pack 0x50018000 [(d.toNat, 22), (a.toNat, 18), (i.toNat, 0)])
  | .stB d a i => some (pack 0x54000000 [(d.toNat, 22), (a.toNat, 18), (i.toNat, 0)])
  | .stH d a i => some (pack 0x54004000 [(d.toNat, 22), (a.toNat, 18), (i.toNat, 0)])
  | .stW d a i => some (pack 0x54008000 [(d.toNat, 22), (a.toNat, 18), (i.toNat, 0)])
  | .stD d a i => some (pack 0x5400C000 [(d.toNat, 22), (a.toNat, 18), (i.toNat, 0)])
  | .ldq d a i => some (pack 0x58000000 [(d.toNat, 22), (a.toNat, 18), (i.toNat, 0)])
  | .stq d a i => some (pack 0x58004000 [(d.toNat, 22), (a.toNat, 18), (i.toNat, 0)])
  | .ldfW d a i => some (pack 0x5C000000 [(d.toNat, 22), (a.toNat, 18), (i.toNat, 0)])
  | .ldfD d a i => some (pack 0x5C004000 [(d.toNat, 22), (a.toNat, 18), (i.toNat, 0)])
  | .ldfeW d a i => some (pack 0x5C008000 [(d.toNat, 22), (a.toNat, 18), (i.toNat, 0)])
  | .ldfeD d a i => some (pack 0x5C00C000 [(d.toNat, 22), (a.toNat, 18), (i.toNat, 0)])
  | .stfW d a i => some (pack 0x5C010000 [(d.toNat, 22), (a.toNat, 18), (i.toNat, 0)])
  | .stfD d a i => some (pack 0x5C014000 [(d.toNat, 22), (a.toNat, 18), (i.toNat, 0)])
  | .stfeW d a i => some (pack 0x5C018000 [(d.toNat, 22), (a.toNat, 18), (i.toNat, 0)])
  | .stfeD d a i => some (pack 0x5C01C000 [(d.toNat, 22), (a.toNat, 18), (i.toNat, 0)])
  | .fck d a i => some (pack 0x5C020000 [(d.toNat, 22), (a.toNat, 18), (i.toNat, 0)])
  | .amoAdd d a b s => some (pack 0x60000000 [(d.toNat, 22), (a.toNat, 18), (b.toNat, 14), (s.toNat, 0)])
  | .amoAnd d a b s => some (pack 0x60000040 [(d.toNat, 22), (a.toNat, 18), (b.toNat, 14), (s.toNat, 0)])
  | .amoOr d a b s => some (pack 0x60000080 [(d.toNat, 22), (a.toNat, 18), (b.toNat, 14), (s.toNat, 0)])
  | .amoXor d a b s => some (pack 0x600000C0 [(d.toNat, 22), (a.toNat, 18), (b.toNat, 14), (s.toNat, 0)])
  | .amoMin d a b s => some (pack 0x60000100 [(d.toNat, 22), (a.toNat, 18), (b.toNat, 14), (s.toNat, 0)])
  | .amoMax d a b s => some (pack 0x60000140 [(d.toNat, 22), (a.toNat, 18), (b.toNat, 14), (s.toNat, 0)])
  | .amoMinu d a b s => some (pack 0x60000180 [(d.toNat, 22), (a.toNat, 18), (b.toNat, 14), (s.toNat, 0)])
  | .amoMaxu d a b s => some (pack 0x600001C0 [(d.toNat, 22), (a.toNat, 18), (b.toNat, 14), (s.toNat, 0)])
  | .amoSwap d a b s => some (pack 0x60000200 [(d.toNat, 22), (a.toNat, 18), (b.toNat, 14), (s.toNat, 0)])
  | .amoCas d a b s => some (pack 0x60000240 [(d.toNat, 22), (a.toNat, 18), (b.toNat, 14), (s.toNat, 0)])
  | .amoFadd d a b s => some (pack 0x60000280 [(d.toNat, 22), (a.toNat, 18), (b.toNat, 14), (s.toNat, 0)])
  | .stcW d a i => some (pack 0x64000000 [(d.toNat, 22), (a.toNat, 18), (i.toNat, 0)])
  | .stcD d a i => some (pack 0x64004000 [(d.toNat, 22), (a.toNat, 18), (i.toNat, 0)])
  | .redAdd a b s => some (pack 0x68000000 [(a.toNat, 18), (b.toNat, 14), (s.toNat, 0)])
  | .redFadd a b s => some (pack 0x68000040 [(a.toNat, 18), (b.toNat, 14), (s.toNat, 0)])
  | .redMin a b s => some (pack 0x68000080 [(a.toNat, 18), (b.toNat, 14), (s.toNat, 0)])
  | .redMax a b s => some (pack 0x680000C0 [(a.toNat, 18), (b.toNat, 14), (s.toNat, 0)])
  | .redOr a b s => some (pack 0x68000100 [(a.toNat, 18), (b.toNat, 14), (s.toNat, 0)])
  | .pf a i => some (pack 0x6C000000 [(a.toNat, 18), (i.toNat, 0)])
  | .cwb a i => some (pack 0x6C004000 [(a.toNat, 18), (i.toNat, 0)])
  | .cdis a i => some (pack 0x6C008000 [(a.toNat, 18), (i.toNat, 0)])
  | .cinvI a i => some (pack 0x6C00C000 [(a.toNat, 18), (i.toNat, 0)])
  | .br p s d => some (pack 0x74000000 [(p.toNat, 22), (s.toNat, 21), (d.toNat, 0)])
  | .jmp d => some (pack 0x78000000 [(d.toNat, 0)])
  | .call d => some (pack 0x7C000000 [(d.toNat, 0)])
  | .jr a => some (pack 0x80000000 [(a.toNat, 18)])
  | .callr a => some (pack 0x80000040 [(a.toNat, 18)])
  | .loop a i => some (pack 0x84000000 [(a.toNat, 18), (i.toNat, 0)])
  | .go a => some (pack 0x88000000 [(a.toNat, 18)])
  | .gocore a => some (pack 0x88000040 [(a.toNat, 18)])
  | .meet d a b => some (pack 0x8C000000 [(d.toNat, 22), (a.toNat, 18), (b.toNat, 14)])
  | .xget d n => some (pack 0x8C000040 [(d.toNat, 22), (n.toNat, 0)])
  | .partgo a => some (pack 0x8C0000C0 [(a.toNat, 18)])
  | .spawn d a b => some (pack 0x90000000 [(d.toNat, 22), (a.toNat, 18), (b.toNat, 14)])
  | .alloc d a => some (pack 0x90000140 [(d.toNat, 22), (a.toNat, 18)])
  | .fork d a b => some (pack 0x90000180 [(d.toNat, 22), (a.toNat, 18), (b.toNat, 14)])
  | .join a => some (pack 0x900001C0 [(a.toNat, 18)])
  | .wakePark a => some (pack 0x90000200 [(a.toNat, 18)])
  | .tsk a b => some (pack 0x90000240 [(a.toNat, 18), (b.toNat, 14)])
  | .qpush a b => some (pack 0x94000000 [(a.toNat, 18), (b.toNat, 14)])
  | .qpop d => some (pack 0x94000040 [(d.toNat, 22)])
  | .qlen d b => some (pack 0x94000080 [(d.toNat, 22), (b.toNat, 14)])
  | .recv d a => some (pack 0x98000000 [(d.toNat, 22), (a.toNat, 18)])
  | .mpoll d a => some (pack 0x98000040 [(d.toNat, 22), (a.toNat, 18)])
  | .mbind a b => some (pack 0x98000080 [(a.toNat, 18), (b.toNat, 14)])
  | .bar s n => some (pack 0x9C000000 [(s.toNat, 4), (n.toNat, 0)])
  | .barn s n => some (pack 0x9C010000 [(s.toNat, 4), (n.toNat, 0)])
  | .barw a s n => some (pack 0x9C020000 [(a.toNat, 12), (s.toNat, 4), (n.toNat, 0)])
  | .barg a s n => some (pack 0x9C030000 [(a.toNat, 12), (s.toNat, 4), (n.toNat, 0)])
  | .barset a s n => some (pack 0x9C040000 [(a.toNat, 12), (s.toNat, 4), (n.toNat, 0)])
  | .srd f a => some (pack 0xA0000000 [(f.toNat, 16), (a.toNat, 12)])
  | .swr f a => some (pack 0xA4000000 [(f.toNat, 16), (a.toNat, 12)])
  | .trap k => some (pack 0xA8000000 [(k.toNat, 0)])
  | .blk h => some (pack 0xA8040000 [(h.toNat, 0)])
  | .ctxsv a => some (pack 0xA8050000 [(a.toNat, 12)])
  | .ctxrs a => some (pack 0xA8060000 [(a.toNat, 12)])
  | .cp a b w => some (pack 0xC0000000 [(a.toNat, 22), (b.toNat, 18), (w.toNat, 11)])
  | .cpn a b w => some (pack 0xC0001000 [(a.toNat, 22), (b.toNat, 18), (w.toNat, 11)])
  | .cpm a b w => some (pack 0xC0002000 [(a.toNat, 22), (b.toNat, 18), (w.toNat, 11)])
  | .cps a b w => some (pack 0xC0003000 [(a.toNat, 22), (b.toNat, 18), (w.toNat, 11)])
  | .cprFp32 a b w => some (pack 0xC0004000 [(a.toNat, 22), (b.toNat, 18), (w.toNat, 11)])
  | .cpsi a b q => some (pack 0xC0005000 [(a.toNat, 22), (b.toNat, 18), (q.toNat, 0)])
  | .cpso a b q => some (pack 0xC0006000 [(a.toNat, 22), (b.toNat, 18), (q.toNat, 0)])
  | .cpf a b w s => some (pack 0xC0007000 [(a.toNat, 22), (b.toNat, 18), (w.toNat, 11), (s.toNat, 0)])
  | .cpz a w => some (pack 0xC0008000 [(a.toNat, 22), (w.toNat, 11)])
  | .cpc a w => some (pack 0xC0009000 [(a.toNat, 22), (w.toNat, 11)])
  | .cpset b r => some (pack 0xC4000000 [(b.toNat, 18), (r.toNat, 12)])
  | .cpget b r => some (pack 0xC4000800 [(b.toNat, 18), (r.toNat, 12)])
  | .vadd a b w m k => some (pack 0xC8000000 [(a.toNat, 22), (b.toNat, 18), (w.toNat, 11), (m.toNat, 1), (k.toNat, 0)])
  | .vsub a b w m k => some (pack 0xC8001000 [(a.toNat, 22), (b.toNat, 18), (w.toNat, 11), (m.toNat, 1), (k.toNat, 0)])
  | .vmul a b w m k => some (pack 0xC8002000 [(a.toNat, 22), (b.toNat, 18), (w.toNat, 11), (m.toNat, 1), (k.toNat, 0)])
  | .vfma a b w m k => some (pack 0xC8003000 [(a.toNat, 22), (b.toNat, 18), (w.toNat, 11), (m.toNat, 1), (k.toNat, 0)])
  | .vmin a b w m k => some (pack 0xC8004000 [(a.toNat, 22), (b.toNat, 18), (w.toNat, 11), (m.toNat, 1), (k.toNat, 0)])
  | .vmax a b w m k => some (pack 0xC8005000 [(a.toNat, 22), (b.toNat, 18), (w.toNat, 11), (m.toNat, 1), (k.toNat, 0)])
  | .vabs a b w m => some (pack 0xC8006000 [(a.toNat, 22), (b.toNat, 18), (w.toNat, 11), (m.toNat, 1)])
  | .vneg a b w m => some (pack 0xC8007000 [(a.toNat, 22), (b.toNat, 18), (w.toNat, 11), (m.toNat, 1)])
  | .vsqrt a b w m => some (pack 0xC8008000 [(a.toNat, 22), (b.toNat, 18), (w.toNat, 11), (m.toNat, 1)])
  | .vexp2 a b w m => some (pack 0xC8009000 [(a.toNat, 22), (b.toNat, 18), (w.toNat, 11), (m.toNat, 1)])
  | .vcmp a b w c k => some (pack 0xC800A000 [(a.toNat, 22), (b.toNat, 18), (w.toNat, 11), (c.toNat, 4), (k.toNat, 0)])
  | .vsel a b w m k => some (pack 0xC800B000 [(a.toNat, 22), (b.toNat, 18), (w.toNat, 11), (m.toNat, 1), (k.toNat, 0)])
  | .vcvt a b w f m => some (pack 0xC800C000 [(a.toNat, 22), (b.toNat, 18), (w.toNat, 11), (f.toNat, 4), (m.toNat, 1)])
  | .vred a b w => some (pack 0xC800D000 [(a.toNat, 22), (b.toNat, 18), (w.toNat, 11)])
  | .vdot a b w k => some (pack 0xC800E000 [(a.toNat, 22), (b.toNat, 18), (w.toNat, 11), (k.toNat, 0)])
  | .vgat a b w m => some (pack 0xC800F000 [(a.toNat, 22), (b.toNat, 18), (w.toNat, 11), (m.toNat, 1)])
  | .vsca a b w m => some (pack 0xC8010000 [(a.toNat, 22), (b.toNat, 18), (w.toNat, 11), (m.toNat, 1)])
  | .vscadd a b w m => some (pack 0xC8011000 [(a.toNat, 22), (b.toNat, 18), (w.toNat, 11), (m.toNat, 1)])
  | .vrot a b w r => some (pack 0xC8012000 [(a.toNat, 22), (b.toNat, 18), (w.toNat, 11), (r.toNat, 4)])
  | .vquant a b w => some (pack 0xC8013000 [(a.toNat, 22), (b.toNat, 18), (w.toNat, 11)])
  | .vdeq a b w => some (pack 0xC8014000 [(a.toNat, 22), (b.toNat, 18), (w.toNat, 11)])
  | .vtab b w t => some (pack 0xC8015000 [(b.toNat, 18), (w.toNat, 11), (t.toNat, 4)])
  | .vfix a b w m => some (pack 0xC8016000 [(a.toNat, 22), (b.toNat, 18), (w.toNat, 11), (m.toNat, 1)])
  | .vflt a b w m => some (pack 0xC8017000 [(a.toNat, 22), (b.toNat, 18), (w.toNat, 11), (m.toNat, 1)])
  | .vset b r => some (pack 0xCC000000 [(b.toNat, 18), (r.toNat, 12)])
  | .vget b r => some (pack 0xCC000800 [(b.toNat, 18), (r.toNat, 12)])
  | .mldb a b w => some (pack 0xD0000000 [(a.toNat, 22), (b.toNat, 18), (w.toNat, 11)])
  | .mmac a b w => some (pack 0xD0001000 [(a.toNat, 22), (b.toNat, 18), (w.toNat, 11)])
  | .mpass w => some (pack 0xD0002000 [(w.toNat, 11)])
  | .mzero a w => some (pack 0xD0003000 [(a.toNat, 22), (w.toNat, 11)])
  | .mdrain a b w c f => some (pack 0xD0004000 [(a.toNat, 22), (b.toNat, 18), (w.toNat, 11), (c.toNat, 6), (f.toNat, 4)])
  | .mdrainx a w c => some (pack 0xD0005000 [(a.toNat, 22), (w.toNat, 11), (c.toNat, 6)])
  | .maddx a w => some (pack 0xD0006000 [(a.toNat, 22), (w.toNat, 11)])
  | .mset b r => some (pack 0xD4000000 [(b.toNat, 18), (r.toNat, 12)])
  | .mget b r => some (pack 0xD4000800 [(b.toNat, 18), (r.toNat, 12)])
  | .pool a b w => some (pack 0xD8000000 [(a.toNat, 22), (b.toNat, 18), (w.toNat, 11)])
  | .poset b r => some (pack 0xDC000000 [(b.toNat, 18), (r.toNat, 12)])
  | .poget b r => some (pack 0xDC000800 [(b.toNat, 18), (r.toNat, 12)])
  | .binapp a b w => some (pack 0xE0000000 [(a.toNat, 22), (b.toNat, 18), (w.toNat, 11)])
  | .binplayFp32 a b w => some (pack 0xE0001000 [(a.toNat, 22), (b.toNat, 18), (w.toNat, 11)])
  | .binflush w => some (pack 0xE0002000 [(w.toNat, 11)])
  | .bnset b r => some (pack 0xE4000000 [(b.toNat, 18), (r.toNat, 12)])
  | .bnget b r => some (pack 0xE4000800 [(b.toNat, 18), (r.toNat, 12)])
  | .fenceQ => some (pack 0x70000000 [])
  | .fenceE => some (pack 0x70010000 [])
  | .fenceA => some (pack 0x70020000 [])
  | .back => some (pack 0x88000080 [])
  | .part => some (pack 0x8C000080 [])
  | .quit => some (pack 0x90000040 [])
  | .yield => some (pack 0x90000080 [])
  | .done => some (pack 0x900000C0 [])
  | .abort => some (pack 0x90000100 [])
  | .rte => some (pack 0xA8010000 [])
  | .brk => some (pack 0xA8020000 [])
  | .isync => some (pack 0xA8030000 [])
  | .wakeNotice => none
  | .wakeCopyResume => none
  | .wakeCopyAbandon => none
  | .cprFp64 => none
  | .cprRaw => none
  | .cprInt64 => none
  | .binplayAnchored => none
  | .moduleReset => none
  | .laneFailure => none
  | .linkRetrainingComplete => none
  | .linkTrainingRetry => none
  | .lanifyPacketSend => none
  | .lanifyFlitReceive => none
  | .ackTimeout => none
  | .lanifyAcknowledgement => none
  | .replayRequest => none
  | .dieTemperatureChange => none
  | .thermalStepDown => none
  | .thermalStepUp => none
  | .relockRestart => none
  | .powerGrant => none
  | .powerGrantArrival => none
  | .allowanceExceeded => none
  | .dramRowRemap => none
  | .spareRankBringIn => none
  | .spareRankCopyDone => none
  | .commandPost => none
  | .commandAccept => none
  | .commandComplete => none
  | .functionLevelReset => none
  | .fnstWrite => none
  | .queryModule => none
  | .queryPartition => none
  | .partCreate => none
  | .partDestroy => none
  | .keySet => none
  | .imageLoad => none
  | .boot => none
  | .launch => none
  | .launchSeed => none
  | .launchComplete => none
  | .hostCopy => none
  | .attestQuote => none
  | .attestChain => none
  | .dump => none
  | .stop => none
  | .stopEdge => none
  | .resume => none
  | .censusCfgOff => none
  | .censusCfgOn => none
  | .censusCfgClear => none
  | .censusCfgRetrain => none
  | .powerSet => none
  | .healthReport => none
  | .healthRetrain => none
  | .dispatch => none
  | .overflowRefill => none
  | .stealIdle => none
  | .stealWaitEnd => none
  | .stealProbeArrival => none
  | .stolenTaskRecordArrival => none
  | .emptyReplyArrival => none
  | .periodExpiry => none
  | .accountIncrementArrival => none
  | .accountAckArrival => none
  | .accountDecrementArrival => none
  | .quitNoticeArrival => none
  | .retirementDecrementSend => none
  | .commitLogHandoff => none
  | .commitEntry => none
  | .commitEnd => none
  | .seededRecordArrival => none
  | .forkChildArrival => none
  | .taskTokenArrival => none
  | .spawnTokenArrival => none
  | .spawnDeadline => none
  | .spawnReplyArrival => none
  | .wakeTokenArrival => none
  | .storeBufferDrain => none
  | .loopbackPerform => none
  | .tableWalkComplete => none
  | .tlbinvComplete => none
  | .lmsplitTakeEffect => none
  | .engineCommandStart => none
  | .engineRead => none
  | .engineWritePerform => none
  | .engineCommandComplete => none
  | .latchTileArrival => none
  | .ringStall => none
  | .timerExpiry => none
  | .interruptEntry => none
  | .noticeArrival => none
  | .mailboxRingRefill => none
  | .contextArrival => none
  | .arrivalQueueRefill => none
  | .contextTake => none
  | .partyArrival => none
  | .pairPlacement => none
  | .meetingDeadline => none
  | .partyReturnArrival => none
  | .luggageWriteArrival => none
  | .dumpWrite => none
  | .testSlice => none
  | .forcedTestGap => none
  | .testSliceComplete => none
  | .censusRecordWrite => none
  | .sampleRecord => none
  | .barrierArrivalAtRoot => none
  | .barrierReleaseArrival => none
  | .podRelayForward => none
  | .barsetRootTake => none
  | .registerWrite => none
  | .lmsplitWrite => none
  | .tlbinvPage => none
  | .tlbinvAsid => none
  | .tlbinvPartition => none
  | .ptbaseWrite => none
  | .fcsrWrite => none
  | .mbstWrite => none
  | .engineStatusWrite => none
  | .illegalEncoding => none
  | .luggageWriteAcknowledgement => none
  | .monitorSlotStop => none
  | .columnCopyComplete => none
  | .rowCopyComplete => none

/-- The word of an instruction; a row without a word of its own has none. -/
def encode (i : Instr) : Option (BitVec 32) := (encodeNat i).map (.ofNat 32)

end Sys2Proof
end

