-- ==== Sys2Proof/Machine/Scalar.lean ====
section
/-! DEFINITION. Integer arithmetic, compares, predicates and places: majors 0x01 to 0x0F (R314, R317 to R326). -/
namespace Sys2Proof.Machine

/-! ## Shapes -/

/-- A two-operand instruction that writes a register. -/
def State.binary (s : State) (d a b : Reg) (f : Word → Word → Word) : Outcome :=
  s.gate [a, b] [d] (fun _ => s.result [a, b] d (f (s.X a) (s.X b)))

/-- A one-operand instruction that writes a register. -/
def State.unary (s : State) (d a : Reg) (f : Word → Word) : Outcome :=
  s.gate [a] [d] (fun _ => s.result [a] d (f (s.X a)))

/-- The running instruction holds its slot for `n` turns (R198). -/
def State.hold (s : State) (n : Nat) : State := s.modRunning (fun l => { l with busy := n - 1 })

/-- A two-operand instruction of `n` turns. -/
def State.slow (s : State) (n : Nat) (d a b : Reg) (f : Word → Word → Word) : Outcome :=
  s.gate [a, b] [d] (fun _ => (s.result [a, b] d (f (s.X a) (s.X b))).hold n)

/-- An instruction that writes one predicate bit from two registers. -/
def State.compare (s : State) (p : Pred) (a b : Reg) (f : Word → Word → Bool) : Outcome :=
  s.gate [a, b] [] (fun _ => (s.modCtx (·.setPred p (f (s.X a) (s.X b)))).complete [a, b])

/-- An instruction on predicate bits. -/
def State.predicate (s : State) (p : Pred) (v : Bool) : Outcome :=
  s.gate [] [] (fun _ => (s.modCtx (·.setPred p v)).complete [])

/-! ## Functions of R317 to R324 -/

/-- The low 32 bits of a word. -/
def low32 (w : Word) : BitVec 32 := w.truncate 32

/-- A 32-bit result, sign-extended. -/
def sx32 (w : BitVec 32) : Word := w.signExtend 64

/-- The shift amount of a 64-bit, or of a 32-bit, shift. -/
def sh64 (v : Word) : Nat := v.toNat % 64
def sh32 (v : Word) : Nat := v.toNat % 32

def minS (u v : Word) : Word := if v.slt u then v else u
def maxS (u v : Word) : Word := if u.slt v then v else u
def minU (u v : Word) : Word := if v.ult u then v else u
def maxU (u v : Word) : Word := if u.ult v then v else u

/-- Bits [127:64] of a product. -/
def mulhS (u v : Word) : Word := BitVec.ofInt 64 (u.toInt * v.toInt / 2 ^ 64)
def mulhU (u v : Word) : Word := BitVec.ofNat 64 (u.toNat * v.toNat / 2 ^ 64)

/-- Quotients and remainders (R319): all ones and the dividend for a divisor of 0. -/
def divS {n : Nat} (u v : BitVec n) : BitVec n := if v = 0 then BitVec.allOnes n else BitVec.ofInt n (u.toInt.tdiv v.toInt)
def remS {n : Nat} (u v : BitVec n) : BitVec n := if v = 0 then u else BitVec.ofInt n (u.toInt.tmod v.toInt)
def divU (u v : Word) : Word := if v = 0 then BitVec.allOnes 64 else BitVec.ofNat 64 (u.toNat / v.toNat)
def remU (u v : Word) : Word := if v = 0 then u else BitVec.ofNat 64 (u.toNat % v.toNat)

/-- Counts of leading zeros, trailing zeros and ones. -/
def countLeading (u : Word) : Nat := if u = 0 then 64 else 63 - Nat.log2 u.toNat
def countTrailing (u : Word) : Nat := ((List.range 64).find? (fun i => u.getLsbD i)).getD 64
def countOnes (u : Word) : Nat := ((List.range 64).filter (fun i => u.getLsbD i)).length

/-- The word whose bit, or byte, `i` is that of `f`. -/
def bitsFrom (f : Nat → Bool) : Word := BitVec.ofNat 64 ((List.range 64).foldl (fun v i => if f i then v + 2 ^ i else v) 0)
def reverseBits (u : Word) : Word := bitsFrom (fun i => u.getLsbD (63 - i))
def swapBytes (u : Word) : Word := BitVec.ofNat 64 (ofBytes (toBytes u.toNat 8).reverse)

/-- Position and length of a bit field (R320). -/
def fieldPos (v : Word) : Nat := bits v 5 0
def fieldLen (v : Word) : Nat := bits v 13 8

/-- A field extracted, extracted with its sign, or inserted; bits above bit 63 do not exist. -/
def extract (u v : Word) : Word := BitVec.ofNat 64 (u.toNat / 2 ^ fieldPos v % 2 ^ fieldLen v)
def extractS (u v : Word) : Word := sext (fieldLen v) (u.toNat / 2 ^ fieldPos v)
def insertField (w u v : Word) : Word :=
  bitsFrom (fun i => if fieldPos v ≤ i && i < fieldPos v + fieldLen v then u.getLsbD (i - fieldPos v) else w.getLsbD i)

/-- A global-window address (R324). -/
def windowAddr (u v : Word) : Word := BitVec.ofNat 64 (2 ^ 40 + u.toNat % 2 ^ 24 * 2 ^ 16 + v.toNat % 2 ^ 16)

/-- Links between the quads of two core ids; all ones when their modules differ (R324). -/
def hopCount (u v : Word) : Word :=
  let a := u.toNat % 2 ^ 25
  let b := v.toNat % 2 ^ 25
  if moduleOf a = moduleOf b then BitVec.ofNat 64 (hopsBetween a b) else BitVec.allOnes 64

/-! ## Major 0x01 (R317) -/

/-- `add` (R317). -/
def execAdd (d a b : Reg) (s : State) : Outcome := s.binary d a b (fun u v => u + v)

/-- `sub` (R317). -/
def execSub (d a b : Reg) (s : State) : Outcome := s.binary d a b (fun u v => u - v)

/-- `and` (R317). -/
def execAnd (d a b : Reg) (s : State) : Outcome := s.binary d a b (fun u v => u &&& v)

/-- `or` (R317). -/
def execOr (d a b : Reg) (s : State) : Outcome := s.binary d a b (fun u v => u ||| v)

/-- `xor` (R317). -/
def execXor (d a b : Reg) (s : State) : Outcome := s.binary d a b (fun u v => u ^^^ v)

/-- `andn` (R317). -/
def execAndn (d a b : Reg) (s : State) : Outcome := s.binary d a b (fun u v => u &&& ~~~v)

/-- `orn` (R317). -/
def execOrn (d a b : Reg) (s : State) : Outcome := s.binary d a b (fun u v => u ||| ~~~v)

/-- `shl` (R317). -/
def execShl (d a b : Reg) (s : State) : Outcome := s.binary d a b (fun u v => u <<< sh64 v)

/-- `shr` (R317). -/
def execShr (d a b : Reg) (s : State) : Outcome := s.binary d a b (fun u v => u >>> sh64 v)

/-- `sar` (R317). -/
def execSar (d a b : Reg) (s : State) : Outcome := s.binary d a b (fun u v => u.sshiftRight (sh64 v))

/-- `rol` (R317). -/
def execRol (d a b : Reg) (s : State) : Outcome := s.binary d a b (fun u v => u.rotateLeft (sh64 v))

/-- `ror` (R317). -/
def execRor (d a b : Reg) (s : State) : Outcome := s.binary d a b (fun u v => u.rotateRight (sh64 v))

/-- `min` (R317). -/
def execMin (d a b : Reg) (s : State) : Outcome := s.binary d a b (minS)

/-- `max` (R317). -/
def execMax (d a b : Reg) (s : State) : Outcome := s.binary d a b (maxS)

/-- `minu` (R317). -/
def execMinu (d a b : Reg) (s : State) : Outcome := s.binary d a b (minU)

/-- `maxu` (R317). -/
def execMaxu (d a b : Reg) (s : State) : Outcome := s.binary d a b (maxU)

/-- `lsa` (R317). -/
def execLsa (d a b : Reg) (k : BitVec 3) (s : State) : Outcome := s.binary d a b (fun u v => u + v <<< k.toNat)

/-! ## Major 0x02 (R318) -/

/-- `addw` (R318). -/
def execAddw (d a b : Reg) (s : State) : Outcome := s.binary d a b (fun u v => sx32 (low32 u + low32 v))

/-- `subw` (R318). -/
def execSubw (d a b : Reg) (s : State) : Outcome := s.binary d a b (fun u v => sx32 (low32 u - low32 v))

/-- `shlw` (R318). -/
def execShlw (d a b : Reg) (s : State) : Outcome := s.binary d a b (fun u v => sx32 (low32 u <<< sh32 v))

/-- `shrw` (R318). -/
def execShrw (d a b : Reg) (s : State) : Outcome := s.binary d a b (fun u v => sx32 (low32 u >>> sh32 v))

/-- `sarw` (R318). -/
def execSarw (d a b : Reg) (s : State) : Outcome := s.binary d a b (fun u v => sx32 ((low32 u).sshiftRight (sh32 v)))

/-! ## Major 0x03 (R319) -/

/-- `mul` (R319). -/
def execMul (d a b : Reg) (s : State) : Outcome := s.binary d a b (fun u v => u * v)

/-- `mulh` (R319). -/
def execMulh (d a b : Reg) (s : State) : Outcome := s.binary d a b (mulhS)

/-- `mulhu` (R319). -/
def execMulhu (d a b : Reg) (s : State) : Outcome := s.binary d a b (mulhU)

/-- `mulw` (R319). -/
def execMulw (d a b : Reg) (s : State) : Outcome := s.binary d a b (fun u v => sx32 (low32 u * low32 v))

/-- `div`: 8 turns (R198, R319). -/
def execDiv (d a b : Reg) (s : State) : Outcome := s.slow 8 d a b (divS)

/-- `divu`: 8 turns (R198, R319). -/
def execDivu (d a b : Reg) (s : State) : Outcome := s.slow 8 d a b (divU)

/-- `rem`: 8 turns (R198, R319). -/
def execRem (d a b : Reg) (s : State) : Outcome := s.slow 8 d a b (remS)

/-- `remu`: 8 turns (R198, R319). -/
def execRemu (d a b : Reg) (s : State) : Outcome := s.slow 8 d a b (remU)

/-- `divw`: 8 turns (R198, R319). -/
def execDivw (d a b : Reg) (s : State) : Outcome := s.slow 8 d a b (fun u v => sx32 (divS (low32 u) (low32 v)))

/-- `remw`: 8 turns (R198, R319). -/
def execRemw (d a b : Reg) (s : State) : Outcome := s.slow 8 d a b (fun u v => sx32 (remS (low32 u) (low32 v)))

/-! ## Major 0x04 (R320) -/

/-- `clz` (R320). -/
def execClz (d a : Reg) (s : State) : Outcome := s.unary d a (fun u => BitVec.ofNat 64 (countLeading u))

/-- `ctz` (R320). -/
def execCtz (d a : Reg) (s : State) : Outcome := s.unary d a (fun u => BitVec.ofNat 64 (countTrailing u))

/-- `popc` (R320). -/
def execPopc (d a : Reg) (s : State) : Outcome := s.unary d a (fun u => BitVec.ofNat 64 (countOnes u))

/-- `brev` (R320). -/
def execBrev (d a : Reg) (s : State) : Outcome := s.unary d a (reverseBits)

/-- `bswap` (R320). -/
def execBswap (d a : Reg) (s : State) : Outcome := s.unary d a (swapBytes)

/-- `sxb` (R320). -/
def execSxb (d a : Reg) (s : State) : Outcome := s.unary d a (fun u => sext 8 u.toNat)

/-- `sxh` (R320). -/
def execSxh (d a : Reg) (s : State) : Outcome := s.unary d a (fun u => sext 16 u.toNat)

/-- `sxw` (R320). -/
def execSxw (d a : Reg) (s : State) : Outcome := s.unary d a (fun u => sext 32 u.toNat)

/-- `zxb` (R320). -/
def execZxb (d a : Reg) (s : State) : Outcome := s.unary d a (fun u => BitVec.ofNat 64 (u.toNat % 2 ^ 8))

/-- `zxh` (R320). -/
def execZxh (d a : Reg) (s : State) : Outcome := s.unary d a (fun u => BitVec.ofNat 64 (u.toNat % 2 ^ 16))

/-- `zxw` (R320). -/
def execZxw (d a : Reg) (s : State) : Outcome := s.unary d a (fun u => BitVec.ofNat 64 (u.toNat % 2 ^ 32))

/-- `bfx` (R320). -/
def execBfx (d a b : Reg) (s : State) : Outcome := s.binary d a b (extract)

/-- `bfxs` (R320). -/
def execBfxs (d a b : Reg) (s : State) : Outcome := s.binary d a b (extractS)

/-- `bfi`: X(d) is read before the write (R320). -/
def execBfi (d a b : Reg) (s : State) : Outcome :=
  s.gate [d, a, b] [d] (fun _ => s.result [d, a, b] d (insertField (s.X d) (s.X a) (s.X b)))

/-! ## Immediate forms (R321 to R323) -/

/-- `addi` (R321). -/
def execAddi (d a : Reg) (i : BitVec 18) (s : State) : Outcome := s.unary d a (fun u => u + imm i)

/-- `andi` (R321). -/
def execAndi (d a : Reg) (i : BitVec 18) (s : State) : Outcome := s.unary d a (fun u => u &&& imm i)

/-- `ori` (R321). -/
def execOri (d a : Reg) (i : BitVec 18) (s : State) : Outcome := s.unary d a (fun u => u ||| imm i)

/-- `xori` (R321). -/
def execXori (d a : Reg) (i : BitVec 18) (s : State) : Outcome := s.unary d a (fun u => u ^^^ imm i)

/-- `shli` (R322). -/
def execShli (d a : Reg) (k : BitVec 6) (s : State) : Outcome := s.unary d a (fun u => u <<< k.toNat)

/-- `shri` (R322). -/
def execShri (d a : Reg) (k : BitVec 6) (s : State) : Outcome := s.unary d a (fun u => u >>> k.toNat)

/-- `sari` (R322). -/
def execSari (d a : Reg) (k : BitVec 6) (s : State) : Outcome := s.unary d a (fun u => u.sshiftRight k.toNat)

/-- `roli` (R322). -/
def execRoli (d a : Reg) (k : BitVec 6) (s : State) : Outcome := s.unary d a (fun u => u.rotateLeft k.toNat)

/-- `shliw` (R322). -/
def execShliw (d a : Reg) (k : BitVec 5) (s : State) : Outcome := s.unary d a (fun u => sx32 (low32 u <<< k.toNat))

/-- `shriw` (R322). -/
def execShriw (d a : Reg) (k : BitVec 5) (s : State) : Outcome := s.unary d a (fun u => sx32 (low32 u >>> k.toNat))

/-- `sariw` (R322). -/
def execSariw (d a : Reg) (k : BitVec 5) (s : State) : Outcome := s.unary d a (fun u => sx32 ((low32 u).sshiftRight k.toNat))

/-- `lui` (R323). -/
def execLui (d : Reg) (i : BitVec 22) (s : State) : Outcome := s.gate [] [d] (fun _ => s.result [] d (imm i <<< 18))

/-- `ipa`: relative to its own address (R323). -/
def execIpa (d : Reg) (i : BitVec 22) (s : State) : Outcome := s.gate [] [d] (fun _ => s.result [] d (s.ip + disp i))

/-! ## Major 0x0C (R324) -/

/-- `gaddr` (R324). -/
def execGaddr (d a b : Reg) (s : State) : Outcome := s.binary d a b windowAddr

/-- A byte load that performs at another core would trap: while met (R217), at a core that turns its context back (R95, R248), or there,
beyond the private portion (R158) or outside the open windows (R167). -/
def State.farTraps (s : State) (t : Thread) (h k : Nat) : Bool :=
  t.ctx.status.met || (s.core h).lost || s.partTag h != s.partTag s.here ||
    (isFarKey k && (decide (s.privSize h ≤ k % 2 ^ 16) || (s.refusal h t (k % 2 ^ 16) 1).isSome))

/-- The core at which a load of one byte would perform, or all ones (R324). -/
def State.homeOf (s : State) (t : Thread) : Place → Word
  | .away h k => if s.farTraps t h k then BitVec.allOnes 64 else BitVec.ofNat 64 h
  | p => match p.core s.here with
    | some c => BitVec.ofNat 64 c
    | none => BitVec.allOnes 64

/-- `homeof`: it translates, waits for a walk as a load does, and neither traps nor travels (R314, R324). -/
def execHomeof (d a : Reg) (s : State) : Outcome :=
  s.gate [a] [d] (fun t => match s.place s.here t s.running.meet (s.X a).toNat 1 .load with
    | (s1, .busy) => s1.again 9
    | (s1, p) => s1.result [a] d (s1.homeOf t p))

/-- `hops` (R324). -/
def execHops (d a b : Reg) (s : State) : Outcome := s.binary d a b hopCount

/-! ## Compares (R325) -/

/-- `cmp` (R325). -/
def execCmp (p : Pred) (a b : Reg) (c : BitVec 4) (s : State) : Outcome := s.compare p a b (cond c)

/-- `cmpw`: bits [31:0] only (R325). -/
def execCmpw (p : Pred) (a b : Reg) (c : BitVec 4) (s : State) : Outcome :=
  s.compare p a b (fun u v => cond c (low32 u) (low32 v))

/-- `cmpi` (R325). -/
def execCmpi (p : Pred) (a : Reg) (c : BitVec 4) (i : BitVec 14) (s : State) : Outcome :=
  s.gate [a] [] (fun _ => (s.modCtx (·.setPred p (cond c (s.X a) (imm i)))).complete [a])

/-! ## The predicate word (R326) -/

/-- `pand` (R326). -/
def execPand (p q r : Pred) (s : State) : Outcome := s.predicate p (s.P q && s.P r)

/-- `por` (R326). -/
def execPor (p q r : Pred) (s : State) : Outcome := s.predicate p (s.P q || s.P r)

/-- `pxor` (R326). -/
def execPxor (p q r : Pred) (s : State) : Outcome := s.predicate p (s.P q != s.P r)

/-- `pandn` (R326). -/
def execPandn (p q r : Pred) (s : State) : Outcome := s.predicate p (s.P q && !s.P r)

/-- `pnot` (R326). -/
def execPnot (p q : Pred) (s : State) : Outcome := s.predicate p (!s.P q)

/-- `p2x` (R326). -/
def execP2x (d : Reg) (s : State) : Outcome := s.gate [] [d] (fun t => s.result [] d ((t.ctx.p ||| 1).zeroExtend 64))

/-- `x2p`: p0 stays 1 (R326). -/
def execX2p (a : Reg) (s : State) : Outcome :=
  s.gate [a] [] (fun _ => (s.modCtx (fun x => { x with p := predWord (s.X a).toNat })).complete [a])

/-- `sel` (R326). -/
def execSel (d a b : Reg) (k : Pred) (s : State) : Outcome := s.binary d a b (fun u v => if s.P k then u else v)

end Sys2Proof.Machine
end

