-- ==== Sys2Proof/Machine/FloatOps.lean ====
section
/-! DEFINITION. Scalar floating point: majors 0x10 to 0x13 (R327 to R329, R345). -/
namespace Sys2Proof.Machine

/-- The bits of a register that hold a datum of a format (R297). -/
def Fmt.part (f : Fmt) (w : Word) : Nat := w.toNat % 2 ^ (1 + f.ebits + f.mbits)

/-- A result of the running instruction, with its flags. -/
def State.floatResult (s : State) (srcs : List Reg) (d : Reg) (r : Nat × Nat) : State :=
  (s.result srcs d (BitVec.ofNat 64 r.1)).raise r.2

/-- A two-operand floating instruction. -/
def State.fbinary (s : State) (f : Fmt) (d a b : Reg) (m : BitVec 3) (op : Rnd → Nat → Nat → Nat × Nat) : Outcome :=
  s.gate [a, b] [d] (fun t => s.floatResult [a, b] d (op (t.ctx.mode m) (f.part (s.X a)) (f.part (s.X b))))

/-- A one-operand floating instruction. -/
def State.funary (s : State) (f : Fmt) (d a : Reg) (m : BitVec 3) (op : Rnd → Nat → Nat × Nat) : Outcome :=
  s.gate [a] [d] (fun t => s.floatResult [a] d (op (t.ctx.mode m) (f.part (s.X a))))

/-- A fused multiply-add: X(d) is read before it is written (R327). -/
def State.ffused (s : State) (f : Fmt) (d a b : Reg) (m : BitVec 3) : Outcome :=
  s.gate [a, b, d] [d] (fun t =>
    s.floatResult [a, b, d] d (f.ffma (t.ctx.mode m) (f.part (s.X a)) (f.part (s.X b)) (f.part (s.X d))))

/-- A division, or a square root, of `n` turns (R198). -/
def State.fslow (s : State) (n : Nat) (f : Fmt) (d a b : Reg) (m : BitVec 3) (op : Rnd → Nat → Nat → Nat × Nat) : Outcome :=
  s.gate [a, b] [d] (fun t => (s.floatResult [a, b] d (op (t.ctx.mode m) (f.part (s.X a)) (f.part (s.X b)))).hold n)
def State.fslow1 (s : State) (n : Nat) (f : Fmt) (d a : Reg) (m : BitVec 3) (op : Rnd → Nat → Nat × Nat) : Outcome :=
  s.gate [a] [d] (fun t => (s.floatResult [a] d (op (t.ctx.mode m) (f.part (s.X a)))).hold n)

/-- A floating compare (R329). -/
def State.fcompare (s : State) (f : Fmt) (p : Pred) (a b : Reg) (c : BitVec 4) : Outcome :=
  s.gate [a, b] [] (fun _ =>
    let (v, nv) := fcond f c (f.part (s.X a)) (f.part (s.X b))
    ((s.modCtx (·.setPred p v)).complete [a, b]).raise (if nv then flagNv else 0))

/-- An integer operand converted. -/
def State.fromInt (s : State) (f : Fmt) (d a : Reg) (m : BitVec 3) : Outcome :=
  s.gate [a] [d] (fun t => s.floatResult [a] d (f.ofInt (t.ctx.mode m) (s.X a).toInt))

/-- A conversion to int64. -/
def State.toInt (s : State) (f : Fmt) (d a : Reg) (m : BitVec 3) : Outcome :=
  s.gate [a] [d] (fun t =>
    let (v, g) := f.toInt64 (t.ctx.mode m) (f.part (s.X a))
    (s.result [a] d (BitVec.ofInt 64 v)).raise g)

/-! ## Majors 0x10 and 0x11 (R327) -/

/-- `fadd.s` (R327). -/
def execFaddS (d a b : Reg) (r : BitVec 3) (s : State) : Outcome := s.fbinary fp32 d a b r fp32.fadd

/-- `fsub.s` (R327). -/
def execFsubS (d a b : Reg) (r : BitVec 3) (s : State) : Outcome := s.fbinary fp32 d a b r fp32.fsub

/-- `fmul.s` (R327). -/
def execFmulS (d a b : Reg) (r : BitVec 3) (s : State) : Outcome := s.fbinary fp32 d a b r fp32.fmul

/-- `ffma.s` (R327). -/
def execFfmaS (d a b : Reg) (r : BitVec 3) (s : State) : Outcome := s.ffused fp32 d a b r

/-- `fmin.s` (R327). -/
def execFminS (d a b : Reg) (r : BitVec 3) (s : State) : Outcome := s.fbinary fp32 d a b r (fun _ => fp32.fmin)

/-- `fmax.s` (R327). -/
def execFmaxS (d a b : Reg) (r : BitVec 3) (s : State) : Outcome := s.fbinary fp32 d a b r (fun _ => fp32.fmax)

/-- `fabs.s` (R327). -/
def execFabsS (d a : Reg) (r : BitVec 3) (s : State) : Outcome := s.funary fp32 d a r (fun _ => fp32.fabs)

/-- `fneg.s` (R327). -/
def execFnegS (d a : Reg) (r : BitVec 3) (s : State) : Outcome := s.funary fp32 d a r (fun _ => fp32.fneg)

/-- `fdiv.s`, 3 turns (R327). -/
def execFdivS (d a b : Reg) (r : BitVec 3) (s : State) : Outcome := s.fslow 3 fp32 d a b r fp32.fdiv

/-- `fsqrt.s`, 3 turns (R327). -/
def execFsqrtS (d a : Reg) (r : BitVec 3) (s : State) : Outcome := s.fslow1 3 fp32 d a r fp32.fsqrt

/-- `frsqs.s` (R290) (R327). -/
def execFrsqsS (d a : Reg) (r : BitVec 3) (s : State) : Outcome := s.funary fp32 d a r (fun _ => fp32.frsqs)

/-- `frcps.s` (R290) (R327). -/
def execFrcpsS (d a : Reg) (r : BitVec 3) (s : State) : Outcome := s.funary fp32 d a r (fun _ => fp32.frcps)

/-- `fadd.d` (R327). -/
def execFaddD (d a b : Reg) (r : BitVec 3) (s : State) : Outcome := s.fbinary fp64 d a b r fp64.fadd

/-- `fsub.d` (R327). -/
def execFsubD (d a b : Reg) (r : BitVec 3) (s : State) : Outcome := s.fbinary fp64 d a b r fp64.fsub

/-- `fmul.d` (R327). -/
def execFmulD (d a b : Reg) (r : BitVec 3) (s : State) : Outcome := s.fbinary fp64 d a b r fp64.fmul

/-- `ffma.d` (R327). -/
def execFfmaD (d a b : Reg) (r : BitVec 3) (s : State) : Outcome := s.ffused fp64 d a b r

/-- `fmin.d` (R327). -/
def execFminD (d a b : Reg) (r : BitVec 3) (s : State) : Outcome := s.fbinary fp64 d a b r (fun _ => fp64.fmin)

/-- `fmax.d` (R327). -/
def execFmaxD (d a b : Reg) (r : BitVec 3) (s : State) : Outcome := s.fbinary fp64 d a b r (fun _ => fp64.fmax)

/-- `fabs.d` (R327). -/
def execFabsD (d a : Reg) (r : BitVec 3) (s : State) : Outcome := s.funary fp64 d a r (fun _ => fp64.fabs)

/-- `fneg.d` (R327). -/
def execFnegD (d a : Reg) (r : BitVec 3) (s : State) : Outcome := s.funary fp64 d a r (fun _ => fp64.fneg)

/-- `fdiv.d`, 6 turns (R327). -/
def execFdivD (d a b : Reg) (r : BitVec 3) (s : State) : Outcome := s.fslow 6 fp64 d a b r fp64.fdiv

/-- `fsqrt.d`, 6 turns (R327). -/
def execFsqrtD (d a : Reg) (r : BitVec 3) (s : State) : Outcome := s.fslow1 6 fp64 d a r fp64.fsqrt

/-- `frsqs.d` (R290) (R327). -/
def execFrsqsD (d a : Reg) (r : BitVec 3) (s : State) : Outcome := s.funary fp64 d a r (fun _ => fp64.frsqs)

/-- `frcps.d` (R290) (R327). -/
def execFrcpsD (d a : Reg) (r : BitVec 3) (s : State) : Outcome := s.funary fp64 d a r (fun _ => fp64.frcps)

/-! ## Major 0x12 (R328) -/

/-- `fcvt.s.d` (R328). -/
def execFcvtSD (d a : Reg) (r : BitVec 3) (s : State) : Outcome := s.funary fp64 d a r (fcvt fp64 fp32)

/-- `fcvt.d.s` (R328). -/
def execFcvtDS (d a : Reg) (r : BitVec 3) (s : State) : Outcome := s.funary fp32 d a r (fcvt fp32 fp64)

/-- `fcvt.h.s` (R328). -/
def execFcvtHS (d a : Reg) (r : BitVec 3) (s : State) : Outcome := s.funary fp32 d a r (fcvt fp32 fp16)

/-- `fcvt.s.h` (R328). -/
def execFcvtSH (d a : Reg) (r : BitVec 3) (s : State) : Outcome := s.funary fp16 d a r (fcvt fp16 fp32)

/-- `fcvt.b.s` (R328). -/
def execFcvtBS (d a : Reg) (r : BitVec 3) (s : State) : Outcome := s.funary fp32 d a r (fcvt fp32 bf16)

/-- `fcvt.s.b` (R328). -/
def execFcvtSB (d a : Reg) (r : BitVec 3) (s : State) : Outcome := s.funary bf16 d a r (fcvt bf16 fp32)

/-- `fcvt.s.l` (R328). -/
def execFcvtSL (d a : Reg) (r : BitVec 3) (s : State) : Outcome := s.fromInt fp32 d a r

/-- `fcvt.d.l` (R328). -/
def execFcvtDL (d a : Reg) (r : BitVec 3) (s : State) : Outcome := s.fromInt fp64 d a r

/-- `fcvt.l.s` (R270, R328). -/
def execFcvtLS (d a : Reg) (r : BitVec 3) (s : State) : Outcome := s.toInt fp32 d a r

/-- `fcvt.l.d` (R270, R328). -/
def execFcvtLD (d a : Reg) (r : BitVec 3) (s : State) : Outcome := s.toInt fp64 d a r

/-- `fclass.s`: no flag is set, whatever the mode (R267, R300, R328). -/
def execFclassS (d a : Reg) (r : BitVec 3) (s : State) : Outcome := s.funary fp32 d a r (fun _ v => (fp32.fclass v, 0))

/-- `fclass.d`: no flag is set, whatever the mode (R267, R300, R328). -/
def execFclassD (d a : Reg) (r : BitVec 3) (s : State) : Outcome := s.funary fp64 d a r (fun _ v => (fp64.fclass v, 0))

/-! ## Major 0x13 (R329) -/

/-- `fcmp.s` (R329). -/
def execFcmpS (p : Pred) (a b : Reg) (c : BitVec 4) (s : State) : Outcome := s.fcompare fp32 p a b c

/-- `fcmp.d` (R329). -/
def execFcmpD (p : Pred) (a b : Reg) (c : BitVec 4) (s : State) : Outcome := s.fcompare fp64 p a b c

end Sys2Proof.Machine
end

