-- ==== Sys2Proof/Machine/Mem.lean ====
section
/-! DEFINITION. Memory instructions, cache operations and fences: majors 0x14 to 0x1C (R315, R316, R330 to R338). -/
namespace Sys2Proof.Machine

/-- The address of an FM memory instruction (R315). -/
def State.ea (s : State) (a : Reg) (i : BitVec 14) : Word := s.X a + imm i

/-! ## Loads and stores (R330 to R332) -/

/-- A load of `n` bytes. -/
def State.load (s : State) (n : Nat) (signed : Bool) (d a : Reg) (i : BitVec 14) : Outcome :=
  s.gate [a] [d] (fun t => s.access t (.load n signed d) (s.ea a i) 1 [a])

/-- A store of the low `n` bytes of X(d). -/
def State.storeReg (s : State) (n : Nat) (d a : Reg) (i : BitVec 14) : Outcome :=
  s.gate [a, d] [] (fun t => s.access t (.store n (s.X d)) (s.ea a i) 1 [a, d])

/-- `ld.bz` (R330). -/
def execLdBz (d a : Reg) (i : BitVec 14) (s : State) : Outcome := s.load 1 false d a i

/-- `ld.bs` (R330). -/
def execLdBs (d a : Reg) (i : BitVec 14) (s : State) : Outcome := s.load 1 true d a i

/-- `ld.hz` (R330). -/
def execLdHz (d a : Reg) (i : BitVec 14) (s : State) : Outcome := s.load 2 false d a i

/-- `ld.hs` (R330). -/
def execLdHs (d a : Reg) (i : BitVec 14) (s : State) : Outcome := s.load 2 true d a i

/-- `ld.wz` (R330). -/
def execLdWz (d a : Reg) (i : BitVec 14) (s : State) : Outcome := s.load 4 false d a i

/-- `ld.ws` (R330). -/
def execLdWs (d a : Reg) (i : BitVec 14) (s : State) : Outcome := s.load 4 true d a i

/-- `ld.d` (R330). -/
def execLdD (d a : Reg) (i : BitVec 14) (s : State) : Outcome := s.load 8 false d a i

/-- `st.b` (R331). -/
def execStB (d a : Reg) (i : BitVec 14) (s : State) : Outcome := s.storeReg 1 d a i

/-- `st.h` (R331). -/
def execStH (d a : Reg) (i : BitVec 14) (s : State) : Outcome := s.storeReg 2 d a i

/-- `st.w` (R331). -/
def execStW (d a : Reg) (i : BitVec 14) (s : State) : Outcome := s.storeReg 4 d a i

/-- `st.d` (R331). -/
def execStD (d a : Reg) (i : BitVec 14) (s : State) : Outcome := s.storeReg 8 d a i

/-- `ldq`: 32 bytes into d to d + 3 (R332). -/
def execLdq (d a : Reg) (i : BitVec 14) (s : State) : Outcome :=
  s.gate [a] [d] (fun t => s.access t (.loadQuad d) (s.ea a i) 32 [a])

/-- `stq`: X(d) to X(d + 3) (R332). -/
def execStq (d a : Reg) (i : BitVec 14) (s : State) : Outcome :=
  s.gate [a, d] [] (fun t =>
    s.access t (.storeQuad (s.X d) (s.X (d + 1)) (s.X (d + 2)) (s.X (d + 3))) (s.ea a i) 32 [a, d])

/-! ## Full/empty accesses (R333) -/

/-- `ldf*` and `ldfe*`. -/
def State.fullLoad (s : State) (n : Nat) (take : Bool) (d a : Reg) (i : BitVec 14) : Outcome :=
  s.gate [a] [d] (fun t => s.access t (.loadFull n d take) (s.ea a i) n [a])

/-- `stf*` and `stfe*`. -/
def State.fullStore (s : State) (n : Nat) (wait : Bool) (d a : Reg) (i : BitVec 14) : Outcome :=
  s.gate [a, d] [] (fun t => s.access t (.storeFull n (s.X d) wait) (s.ea a i) n [a, d])

/-- `ldf.w` (R333). -/
def execLdfW (d a : Reg) (i : BitVec 14) (s : State) : Outcome := s.fullLoad 4 false d a i

/-- `ldf.d` (R333). -/
def execLdfD (d a : Reg) (i : BitVec 14) (s : State) : Outcome := s.fullLoad 8 false d a i

/-- `ldfe.w` (R333). -/
def execLdfeW (d a : Reg) (i : BitVec 14) (s : State) : Outcome := s.fullLoad 4 true d a i

/-- `ldfe.d` (R333). -/
def execLdfeD (d a : Reg) (i : BitVec 14) (s : State) : Outcome := s.fullLoad 8 true d a i

/-- `stf.w` (R333). -/
def execStfW (d a : Reg) (i : BitVec 14) (s : State) : Outcome := s.fullStore 4 false d a i

/-- `stf.d` (R333). -/
def execStfD (d a : Reg) (i : BitVec 14) (s : State) : Outcome := s.fullStore 8 false d a i

/-- `stfe.w` (R333). -/
def execStfeW (d a : Reg) (i : BitVec 14) (s : State) : Outcome := s.fullStore 4 true d a i

/-- `stfe.d` (R333). -/
def execStfeD (d a : Reg) (i : BitVec 14) (s : State) : Outcome := s.fullStore 8 true d a i

/-- `fck` (R333). -/
def execFck (d a : Reg) (i : BitVec 14) (s : State) : Outcome :=
  s.gate [a] [d] (fun t => s.access t (.checkFull d) (s.ea a i) 4 [a])

/-! ## Atomics (R334) -/

/-- The size that an m field names. -/
def sizeOf (m : BitVec 1) : Nat := if m = 1 then 8 else 4

/-- An atomic that does not read its destination. -/
def State.amo (s : State) (f : AmoFn) (d a b : Reg) (m : BitVec 1) : Outcome :=
  s.gate [a, b] [d] (fun t => s.access t (.amo f (sizeOf m) (s.X b) 0 (some d)) (s.X a) (sizeOf m) [a, b])

/-- `amo.add` (R334). -/
def execAmoAdd (d a b : Reg) (m : BitVec 1) (s : State) : Outcome := s.amo .add d a b m

/-- `amo.and` (R334). -/
def execAmoAnd (d a b : Reg) (m : BitVec 1) (s : State) : Outcome := s.amo .and d a b m

/-- `amo.or` (R334). -/
def execAmoOr (d a b : Reg) (m : BitVec 1) (s : State) : Outcome := s.amo .or d a b m

/-- `amo.xor` (R334). -/
def execAmoXor (d a b : Reg) (m : BitVec 1) (s : State) : Outcome := s.amo .xor d a b m

/-- `amo.min` (R334). -/
def execAmoMin (d a b : Reg) (m : BitVec 1) (s : State) : Outcome := s.amo .min d a b m

/-- `amo.max` (R334). -/
def execAmoMax (d a b : Reg) (m : BitVec 1) (s : State) : Outcome := s.amo .max d a b m

/-- `amo.minu` (R334). -/
def execAmoMinu (d a b : Reg) (m : BitVec 1) (s : State) : Outcome := s.amo .minu d a b m

/-- `amo.maxu` (R334). -/
def execAmoMaxu (d a b : Reg) (m : BitVec 1) (s : State) : Outcome := s.amo .maxu d a b m

/-- `amo.swap` (R334). -/
def execAmoSwap (d a b : Reg) (m : BitVec 1) (s : State) : Outcome := s.amo .swap d a b m

/-- `amo.fadd` (R334). -/
def execAmoFadd (d a b : Reg) (m : BitVec 1) (s : State) : Outcome := s.amo .fadd d a b m

/-- `amo.cas`: X(d) holds the expected value (R334). -/
def execAmoCas (d a b : Reg) (m : BitVec 1) (s : State) : Outcome :=
  s.gate [a, b, d] [d] (fun t => s.access t (.amo .cas (sizeOf m) (s.X b) (s.X d) (some d)) (s.X a) (sizeOf m) [a, b, d])

/-! ## Committed stores and reductions (R335, R336) -/

/-- `stc` of `n` bytes. -/
def State.stc (s : State) (n : Nat) (d a : Reg) (i : BitVec 14) : Outcome :=
  s.gate [a, d] [] (fun t => s.committed t (.store n (s.X d)) (fun k => .store (s.ea a i) k n (s.X d)) (s.ea a i) [a, d])

/-- `stc.w` (R335). -/
def execStcW (d a : Reg) (i : BitVec 14) (s : State) : Outcome := s.stc 4 d a i

/-- `stc.d` (R335). -/
def execStcD (d a : Reg) (i : BitVec 14) (s : State) : Outcome := s.stc 8 d a i

/-- A non-returning atomic. -/
def State.red (s : State) (f : AmoFn) (a b : Reg) (m : BitVec 1) : Outcome :=
  s.gate [a, b] [] (fun t =>
    s.committed t (.amo f (sizeOf m) (s.X b) 0 none) (fun k => .red f (s.X a) k (sizeOf m) (s.X b)) (s.X a) [a, b])

/-- `red.add` (R336). -/
def execRedAdd (a b : Reg) (m : BitVec 1) (s : State) : Outcome := s.red .add a b m

/-- `red.fadd` (R336). -/
def execRedFadd (a b : Reg) (m : BitVec 1) (s : State) : Outcome := s.red .fadd a b m

/-- `red.min` (R336). -/
def execRedMin (a b : Reg) (m : BitVec 1) (s : State) : Outcome := s.red .min a b m

/-- `red.max` (R336). -/
def execRedMax (a b : Reg) (m : BitVec 1) (s : State) : Outcome := s.red .max a b m

/-- `red.or` (R336). -/
def execRedOr (a b : Reg) (m : BitVec 1) (s : State) : Outcome := s.red .or a b m

/-! ## Cache operations (R337) -/

/-- A virtual address is bulk memory (R157). -/
def bulkVa (c va : Nat) : Bool :=
  va < 2 ^ 48 && (if isHead c then 2 ^ 20 ≤ va else 0x30000 ≤ va) && !(2 ^ 40 ≤ va && va < 2 ^ 41)

/-- The walk of a bulk address for a cache operation; any other address has no line. -/
def State.lineWalk (s : State) (c va : Nat) : State × Walk :=
  if bulkVa c va then s.lookup c va false else (s, .fault 0)

/-- A cache operation of the running thread on the line of an address that translates: on any other it does nothing, and a walk that
finds the miss queue full is waited for (R170, R199, R337). -/
def State.onLine (s : State) (a : Reg) (va : Word) (f : State → Nat → State) : State :=
  match s.lineWalk s.here va.toNat with
  | (s1, .page e) => (f s1 (e.phys va.toNat)).complete [a]
  | (s1, .fault _) => s1.complete [a]
  | (s1, .full) => s1.again 9

/-- `pf`: a hint; portions and lines are no part of the ordering machine (R164, R337). -/
def execPf (a : Reg) (_ : BitVec 14) (s : State) : Outcome :=
  s.gate [a] [] (fun _ => s.complete [a])

/-- The DRAM takes a line's bytes: it is no longer dirty. -/
def State.cleanLine (s : State) (line : Nat) : State := { s with dirty := s.dirty.del line }

/-- `cwb`: a dirty line of the current quad's column is written to the DRAM (R337). -/
def execCwb (a : Reg) (i : BitVec 14) (s : State) : Outcome :=
  s.gate [a] [] (fun _ => s.onLine a (s.ea a i) (fun s1 k =>
    if isBulkKey k && s1.pathOf s1.here k = .quad then s1.cleanLine (k / 64) else s1))

/-- The line of a column takes the DRAM's value (step 20); a line that was written back before keeps it (DESIGN CHOICE, log 6). -/
def State.discard (s : State) (line : Nat) : State :=
  match s.dirty.get line with
  | none => s
  | some l =>
    if Config.freeBool s.free then (s.cleanLine line).tick
    else { (s.cleanLine line) with mem := Memory.writeList s.mem (line * 64) l }.tick

/-- `cdis` (R316, R337). -/
def execCdis (a : Reg) (i : BitVec 14) (s : State) : Outcome :=
  s.gate [a] [] (fun t =>
    let va := s.ea a i
    match s.place s.here t s.running.meet va.toNat 1 .store with
    | (s1, .trap sub) => s1.trap 4 sub va
    | (s1, .fault cls) => s1.pageFault va cls AccKind.store.code
    | (s1, .busy) => s1.again 9
    | (s1, .quad k) =>
      if isLocalKey k then s1.trap 4 1 va
      else if t.ctx.status.spl then s1.trap 11 0 va
      else if s1.drained then (s1.discard (k / 64)).complete [a]
      else s1.again 1
    | (s1, _) => s1.trap 4 1 va)

/-- `cinv.i`: the line of this core's instruction cache (R204, R337). -/
def execCinvI (a : Reg) (i : BitVec 14) (s : State) : Outcome :=
  s.gate [a] [] (fun _ => s.onLine a (s.ea a i) (fun s1 k =>
    s1.modCore s1.here (fun o => { o with icache := o.icache.del (k / 64) })))

/-! ## Fences (R180, R338) -/

/-- A fence completes when its conditions hold, and parks in event 11 otherwise. -/
def State.fence (s : State) (holds : Bool) : Outcome :=
  s.gate [] [] (fun _ => if holds then s.complete [] else s.again 11)

/-- Every command that the running slot issued and that performs has completed. -/
def State.enginesDone (s : State) : Bool := !(s.core s.here).cmds.any (fun d => d.slot == s.slotNo && !d.logged)

/-- `fence.q` (R180). -/
def execFenceQ (s : State) : Outcome := s.fence s.drained

/-- `fence.e` (R180). -/
def execFenceE (s : State) : Outcome := s.fence (s.drained && s.enginesDone)

/-- `fence.a` (R180). -/
def execFenceA (s : State) : Outcome := s.fence (s.mayDepart && s.enginesDone)

end Sys2Proof.Machine
end

