-- ==== Sys2Proof/Machine/Control.lean ====
section
/-! DEFINITION. Control transfer: majors 0x1D to 0x21 (R339 to R343). A target is checked at its fetch. -/
namespace Sys2Proof.Machine

/-- The running instruction completes with ip at a target. -/
def State.jumpTo (s : State) (srcs : List Reg) (t : Word) : State :=
  (s.complete srcs).modCtx (fun x => { x with ip := t })

/-- The address of the word after the running instruction. -/
def State.nextIp (s : State) : Word := s.ip + 4

/-- `br`: taken when P(p) differs from s (R339). -/
def execBr (p : Pred) (r : BitVec 1) (d : BitVec 21) (s : State) : Outcome :=
  s.gate [] [] (fun _ => s.jumpTo [] (if s.P p != (r == 1) then s.nextIp + disp d else s.nextIp))

/-- `jmp` (R340). -/
def execJmp (d : BitVec 26) (s : State) : Outcome := s.gate [] [] (fun _ => s.jumpTo [] (s.nextIp + disp d))

/-- `call`: the next address goes to x9 (R340). -/
def execCall (d : BitVec 26) (s : State) : Outcome :=
  s.gate [] [] (fun _ => (s.setX linkReg s.nextIp).jumpTo [] (s.nextIp + disp d))

/-- `jr`: a target that is not a word address traps with cause 3 (R341). -/
def execJr (a : Reg) (s : State) : Outcome :=
  s.gate [a] [] (fun _ =>
    let t := s.X a
    if t.toNat % 4 ≠ 0 then s.trap 3 0 t else s.jumpTo [a] t)

/-- `callr`: the target is read before x9 is written (R341). -/
def execCallr (a : Reg) (s : State) : Outcome :=
  s.gate [a] [] (fun _ =>
    let t := s.X a
    if t.toNat % 4 ≠ 0 then s.trap 3 0 t else (s.setX linkReg s.nextIp).jumpTo [a] t)

/-- `loop`: the counter falls by one, and a counter that is not 0 branches (R342). -/
def execLoop (a : Reg) (i : BitVec 18) (s : State) : Outcome :=
  s.gate [a] [a] (fun _ =>
    let c := s.X a - 1
    (s.setX a c).jumpTo [a] (if c ≠ 0 then s.nextIp + disp i else s.nextIp))

end Sys2Proof.Machine
end

