-- ==== Sys2Proof/Machine/Travel.lean ====
section
/-! DEFINITION. Travel and meetings: majors 0x22 and 0x23 (R211, R214 to R218, R348 to R353). -/
namespace Sys2Proof.Machine

/-! ## The table of fates (R349) -/

/-- The trap that the situation of a thread on core `c` gives an instruction: in a split task, while met, and as a user-level
visitor. -/
def Thread.fate (t : Thread) (c : Nat) (split : Option (Nat × Nat)) (met visit : Bool) : Option (Nat × Nat) :=
  if t.ctx.status.spl && split.isSome then split
  else if t.ctx.status.met && met then some (4, 3)
  else if t.bounded c && visit then some (4, 6)
  else none

/-- A meaning behind the table of fates. -/
def State.unless (s : State) (f : Option (Nat × Nat)) (addr : Word) (go : Unit → State) : State :=
  match f with
  | some (cause, sub) => s.trap cause sub addr
  | none => go ()

/-! ## Destinations (R350) -/

/-- What a destination operand gives. -/
inductive Target where
  | core (c : Nat)
  | trap (cause sub : Nat)
  | fault (cls : Nat)
  /-- the miss queue is full (R170, R199 code 9) -/
  | busy
  deriving DecidableEq, Repr

/-- The resolution of `go` and `partgo`: the core at which a load of one byte would perform; no access is made, so the windows do not
bound it (R167, R350). -/
def State.goTarget (s : State) (t : Thread) (va : Word) : State × Target :=
  let (s1, p) := s.place s.here t s.running.meet va.toNat 1 .load
  (s1, match p with
    | .trap sub => .trap 4 sub
    | .fault cls => .fault cls
    | .busy => .busy
    | .device _ => .trap 4 1
    | .refused _ => .core s.here
    | p => match p.core s.here with
      | some c => .core c
      | none => .trap 4 1)

/-- A core id operand of `gocore` or `spawn`. -/
def State.coreTarget (s : State) (t : Thread) (v : Word) : Target :=
  let c := v.toNat % 2 ^ 25
  if bits v 63 25 ≠ 0 then .trap 4 1
  else if isHead c && !t.ctx.status.sup then .trap 2 0
  else if s.inGroup s.here c then .core c
  else .trap 4 1

/-- The running thread moves to a core that its operand names, or completes at once when it stands there. -/
def State.moveTo (s : State) (d : Nat) (va : Word) (srcs : List Reg) : State :=
  if d = s.here then s.complete srcs
  else if s.mayDepart then
    (s.takeAt s.here s.slotNo srcs).departWith d Thread.advanced (some (.moved va (s.tookAt s.here s.slotNo srcs)))
  else s.again 15

/-- A destination resolved, or the trap or page fault that it meets; a trap of cause 2 shows the word. -/
def State.toTarget (s : State) (r : Target) (va : Word) (go : Nat → State) : State :=
  match r with
  | .core d => go d
  | .trap 2 _ => s.trapWord 2
  | .trap cause sub => s.trap cause sub va
  | .fault cls => s.pageFault va cls AccKind.load.code
  | .busy => s.again 9

/-- `go` (R350). -/
def execGo (a : Reg) (s : State) : Outcome :=
  s.gate [a] [] (fun t =>
    let va := s.X a
    s.unless (t.fate s.here (some (7, 0)) true false) va (fun _ =>
      let (s1, r) := s.goTarget t va
      s1.toTarget r va (fun d => s1.moveTo d va [a])))

/-- `gocore` (R350). -/
def execGocore (a : Reg) (s : State) : Outcome :=
  s.gate [a] [] (fun t =>
    let v := s.X a
    s.unless (t.fate s.here (some (7, 0)) true false) v (fun _ => s.toTarget (s.coreTarget t v) v (fun d => s.moveTo d v [a])))

/-- `back` (R350). -/
def execBack (s : State) : Outcome :=
  s.gate [] [] (fun t =>
    s.unless (t.fate s.here (some (7, 0)) true false) (BitVec.ofNat 64 t.birth) (fun _ => s.moveTo t.birth (BitVec.ofNat 64 t.birth) []))

/-! ## Meetings -/

/-- The quad of a pennant on core `c`, if the pennant is well formed (R214). -/
def State.pennantQuad (s : State) (c : Nat) (p : Word) : Option Nat :=
  let mode := bits p 63 62
  let core := bits p 61 38
  if mode = 1 then
    if moduleOf core = moduleOf c && s.partOf core == s.partOf c && (s.partOf c).isSome then some (quadOf core) else none
  else if mode = 0 && core = 0 then
    match s.partRec c with
    | none => none
    | some r =>
      let qs := partQuads (moduleOf c) r
      let h := bits p 37 0 * 0x9E3779B97F4A7C15 % 2 ^ 64 / 2 ^ 32
      qs[h * qs.length / 2 ^ 32]?
  else none

/-- Length and address of a luggage descriptor (R351). -/
def luggageLen (w : Word) : Nat := bits w 63 48
def luggageAddr (w : Word) : Nat := bits w 47 0

/-- The deadline of a `meet` (R215). -/
def State.meetDeadline (s : State) : Nat :=
  if s.running.mdl = 0 then s.refNs (moduleOf s.here) + 1000000 else s.running.mdl.toNat

/-- The party of the running thread departs for the cloakroom of a quad (R215). -/
def State.departParty (s : State) (t : Thread) (q : Nat) (d : Reg) (pennant : Word) (la len : Nat) : State :=
  let h : Thread := { t.advanced with origin := s.here }
  let party : Party :=
    { thread := h, came := h, d, pennant, la, len, luggage := s.bytes (localKey s.here la) len,
      deadline := s.meetDeadline, origin := s.here, tag := s.tagOf s.here }
  (s.emptySlot s.here s.slotNo).send
    { src := s.here, dst := coreOfQuad q 0, vc := 0, tag := s.tagOf s.here, part := s.partTag s.here, load := .party party }

/-- `meet` (R351): the checks in order, then the departure of step 8. -/
def execMeet (d a b : Reg) (s : State) : Outcome :=
  s.gate [a, b] [d] (fun t =>
    let len := luggageLen (s.X b)
    let la := luggageAddr (s.X b)
    s.unless (t.fate s.here (some (7, 0)) true false) 0 (fun _ =>
      match s.pennantQuad s.here (s.X a) with
      | none => s.trap 4 1 0
      | some q =>
        if 1024 < len || len % 8 ≠ 0 then s.trap 6 0 (s.X b)
        else if la % 8 ≠ 0 then s.trap 3 0 (BitVec.ofNat 64 la)
        else if s.privSize s.here < la + len then s.trap 4 1 (BitVec.ofNat 64 la)
        else
          match s.refusal s.here t la len with
          | some x => s.refuse (BitVec.ofNat 64 x)
          | none =>
            if s.mayDepart then (s.takeAt s.here s.slotNo [a, b]).departParty t q d (s.X a) la len else s.again 15))

/-- The context that a placed party has before it enters its slot: `met` set, and 0 in its xd (R216). -/
def CloakEntry.ctx (e : CloakEntry) : Ctx := (e.met.getD e.party.thread).ctx

/-- The context of the partner of a met party: in its slot, or, before it has entered it, in the cloakroom (R216, R352). -/
def State.partnerCtx (s : State) (c : Nat) (m : Meet) : Ctx :=
  match (s.slot c m.partnerSlot).thread with
  | some t => t.ctx
  | none => (((s.quad m.quad).cloak.get m.partnerEntry).map CloakEntry.ctx).getD {}

/-- `xget` (R352). -/
def execXget (d : Reg) (n : BitVec 4) (s : State) : Outcome :=
  s.gate [] [d] (fun _ =>
    match s.running.meet with
    | none => s.trap 4 1 0
    | some m => s.result [] d ((s.partnerCtx s.here m).words.getD n.toNat 0))

/-- A met party in slot `k` of core `c` leaves its cloakroom entry and departs with its luggage as it stands (R218): to its origin, or
to another core while its luggage is written at its origin. It departs from core 0 of the pennant quad (R239). -/
def State.departPart (s : State) (c k : Nat) (m : Meet) (dst : Option PartDest) : State :=
  match (s.slot c k).thread, (s.quad m.quad).cloak.get m.entry with
  | some t, some e =>
    let t1 : Thread := { t.advanced with ctx := t.advanced.ctx.unmet, origin := c }
    let luggage := s.bytes (cloakKey m.quad m.entry 0) e.party.len
    let s1 := (s.modQuad m.quad (fun o => { o with cloak := o.cloak.del m.entry })).emptySlot c k
    let tag := s.tagOf c
    let part := s.partTag c
    let src := coreOfQuad m.quad 0
    match dst with
    | none =>
      let p : Party := { e.party with thread := t1, luggage }
      s1.send { src, dst := e.party.origin, vc := 0, tag, part, load := .partyReturn p none true }
    | some d =>
      (s1.send { src, dst := d.core, vc := 0, tag, part, load := .context t1 (some (.luggage d.va d.took)) none }).send
        { src, dst := e.party.origin, vc := 1, tag, part, load := .luggageWrite e.party.la luggage d.core t1.tid }
  | _, _ => s

/-- The destination of a party that has executed `part` or `partgo`. -/
def Slot.parting (l : Slot) : Option (Option PartDest) :=
  match l.park with
  | some (.part dest) => some dest
  | _ => none

/-- The running party has executed `part` or `partgo` (R218): it parks until its partner has executed one of them. -/
def State.partWith (s : State) (m : Meet) (dst : Option PartDest) : State :=
  if s.mayDepart then
    match (s.slot s.here m.partnerSlot).parting, (s.slot s.here m.partnerSlot).meet with
    | some dest, some pm => (s.departPart s.here m.partnerSlot pm dest).departPart s.here s.slotNo m dst
    | _, _ => s.park (.part dst)
  else s.again 15

/-- `part` (R353). -/
def execPart (s : State) : Outcome :=
  s.gate [] [] (fun _ =>
    match s.running.meet with
    | none => s.trap 4 1 0
    | some m => s.partWith m none)

/-- `partgo` (R349, R353): a failed resolution is a trap or a page fault while met (R219). -/
def execPartgo (a : Reg) (s : State) : Outcome :=
  s.gate [a] [] (fun t =>
    let va := s.X a
    if t.ctx.status.spl then s.trap 7 0 va
    else
      match s.running.meet with
      | none => s.trap 4 1 0
      | some m =>
        let (s1, r) := s.goTarget t va
        s1.toTarget r va (fun d => (if s1.mayDepart then s1.takeAt s1.here s1.slotNo [a] else s1).partWith m
          (some { core := d, va, took := s1.tookAt s1.here s1.slotNo [a] })))

end Sys2Proof.Machine
end

