-- ==== Sys2Proof/Machine/Work.lean ====
section
/-! DEFINITION. Threads, tasks and ready queues: majors 0x24 and 0x25 (R130 to R134, R138, R145, R150, R151, R354 to R362). -/
namespace Sys2Proof.Machine

/-! ## The arrival queue (R212) -/

/-- The bytes of a context entry in ring 0. -/
def Traveller.ringBytes (t : Traveller) : List Byte :=
  match t.load with
  | .context h _ _ => bytesOf (h.ctx.words ++ [h.tid.zeroExtend 64]) ++ List.replicate 120 0
  | _ => List.replicate 256 0

/-- A context, or a spawn token, enters the arrival queue of a core, or ring 0 of its overflow area when the queue is full or earlier
contexts wait there. -/
def State.enqueue (s : State) (c : Nat) (t : Traveller) : State :=
  let o := s.core c
  let r := o.ring 0
  if o.arrivals.length < 8 && !r.items.any (fun i => i.context.isSome) then
    s.modCore c (fun o => { o with arrivals := o.arrivals ++ [t] })
  else if 256 ≤ r.items.length then s.fatalPartition c 4
  else
    let pos := r.freePos r.next true
    match s.writeRing c 0 pos t.ringBytes with
    | (s1, false) => s1.fatalPartition c 4
    | (s1, true) =>
      let ring : Ring := { next := (pos + 1) % 256, items := r.items ++ [{ pos, context := some t }] }
      s1.modCore c (fun o => { o with rings := o.rings.set 0 ring })

/-- Slots that wait for a park record retry when one is free, the lowest first (R229). -/
def State.retryParks (s : State) (c : Nat) : State :=
  (List.range 8).foldl (fun s k => match (s.slot c k).park with
    | some (.fault va cls kind) => s.parkThread c k va cls kind
    | _ => s) s

/-! ## `spawn` (R132, R354) -/

/-- The deadline of a spawn token: 4,096 cycles of the spawner's die clock, rounded up to a reference edge. -/
def State.spawnDeadline (s : State) : Nat :=
  let m := moduleOf s.here
  s.refNs m + (4096 * periodOf (s.die m (dieOf s.here)).clock + 71) / 72 * 10

/-- The spawn token leaves, the seat counts it, and the slot parks. -/
def State.sendSpawn (s : State) (t : Thread) (d : Reg) (dst : Nat) (entry : Word) : State :=
  let s1 := match t.task with
    | none => s
    | some i => s.modSeat i.seatCore i.seat (fun st => { st with live := st.live + 1 })
  (s1.send { src := s.here, dst, vc := 2, tag := s.tagOf s.here, part := s.partTag s.here,
             load := .spawn t.ctx.x0 t.ctx.x1 t.ctx.x2 t.ctx.x3 entry s.spawnDeadline t s.slotNo }).park (.spawn d)

/-- A split task has as many contexts as its budget allows (R138); after the founder's `done` no budget applies. -/
def Seat.full (st : Seat) : Bool := st.image.ctxLimit ≤ st.live && !st.finishing

/-- `spawn` (R354). -/
def execSpawn (d a b : Reg) (s : State) : Outcome :=
  s.gate [a, b] [d] (fun t =>
    let entry := s.X b
    let id := s.X a
    if entry.toNat % 4 ≠ 0 then s.trap 3 0 entry
    else
      s.toTarget (s.coreTarget t id) id (fun dst =>
        if t.ctx.status.met && dst ≠ s.here then s.trap 4 3 id
        else if t.ctx.status.spl && dst ≠ s.here then s.trap 7 0 id
        else
          match s.splitSeat t with
          | some (c, n, st) =>
            if st.full then s.abortTask c n 0
            else if s.mayDepart then (s.takeAt s.here s.slotNo [a, b]).sendSpawn t d dst entry
            else s.again 15
          | none => if s.mayDepart then (s.takeAt s.here s.slotNo [a, b]).sendSpawn t d dst entry else s.again 15))

/-! ## `quit`, `yield`, `done`, `abort` (R132 to R134, R139, R145, R355, R356) -/

/-- The running thread quits under step 8. -/
def State.quitRunning (s : State) : State := if s.mayDepart then s.quitNow s.here s.slotNo else s.again 15

/-- The founder of a split task executes `done`: no budget applies from now on, and its slot parks (R145 step 1). -/
def State.beginCommit (s : State) (c n : Nat) : State :=
  if s.incsDone s.here s.slotNo then
    (s.modSeat c n (fun st => { st with state := 2, step := 1, finishing := true })).park .commit
  else s.again 15

/-- `quit`: the founder of a split task acts as `done` (R355). -/
def execQuit (s : State) : Outcome :=
  s.gate [] [] (fun t =>
    s.unless (t.fate s.here none true false) 0 (fun _ =>
      match s.splitSeat t with
      | some (c, n, _) => if t.ctx.status.fnd then s.beginCommit c n else s.quitRunning
      | none => s.quitRunning))

/-- `done` (R134, R356). -/
def execDone (s : State) : Outcome :=
  s.gate [] [] (fun t =>
    s.unless (t.fate s.here none true false) 0 (fun _ =>
      if t.task.isNone then s.quitRunning
      else if !t.ctx.status.fnd then s.trapWord 1
      else match s.splitSeat t with
        | some (c, n, _) => s.beginCommit c n
        | none => s.quitRunning))

/-- `abort` (R139, R356). -/
def execAbort (s : State) : Outcome :=
  s.gate [] [] (fun t =>
    s.unless (t.fate s.here none true false) 0 (fun _ =>
      match s.splitSeat t with
      | some (c, n, _) => if t.ctx.status.fnd then s.abortTask c n 3 else s.trapWord 1
      | none => s.trapWord 1))

/-- The frame of a thread's task, if a `yield` of the thread acts (R133): the founder, alone, of a task with a frame. -/
def State.yieldFrame (s : State) (t : Thread) : Option (TaskInfo × Seat) :=
  match t.task with
  | none => none
  | some i =>
    let st := s.seatOf i
    if t.ctx.status.fnd && st.live = 1 && (st.image.isSplit || st.frame ≠ 0) then some (i, st) else none

/-- The record of a task that yields: its entry is the resume address, and `saved` is set. -/
def Rec.yielded (r : Rec) (ip : Word) : Rec := { r with entry := ip, flags := setBits r.flags 7 7 1 }

/-- The acts of a `yield` at the home of its frame (R133 steps 2 to 4), with the keys of F and of F + 128: the context and the record's
two words are stored, the seat is freed, the scratch stays, and the entry is pushed on the core homing F. -/
def State.storeYield (s : State) (c k : Nat) (t : Thread) (i : TaskInfo) (st : Seat) (rec save : Nat) : State :=
  let ip := t.ctx.ip + 4
  let x : Ctx := { t.ctx with ip }
  let s1 := s.storeHome save (bytesOf x.words)
  let flags := setBits (s1.word (rec + 8)) 7 7 1
  let s2 := (s1.storeHome rec (toBytes ip.toNat 8)).storeHome (rec + 8) (toBytes flags.toNat 8)
  let home := if st.image.isSplit then c else coreOfKey rec
  let frame := if st.image.isSplit then BitVec.ofNat 64 st.scratchBase else st.frame
  let e : QEntry := { image := st.image.yielded ip, frame }
  let s3 := (s2.modCore i.seatCore (fun o =>
      { (o.retag i.seat (yieldedSeat e.yieldKey)) with seats := o.seats.set i.seat {} })).modCore home (fun o =>
    if st.scratchUnits = 0 then o else { o with yielded := o.yielded.set e.yieldKey st })
  ((s3.emptySlot c k).endBindings t.tid).pushTail home st.image.prio e

/-- A `yield` that acts, in slot `k` of core `c`, whose turn it is: it goes to its frame's home first. -/
def State.yieldAt (s : State) (c k : Nat) (t : Thread) (i : TaskInfo) (st : Seat) : State :=
  if !s.mayDepartAt c k then s.modSlot c k (fun l => { l with park := some (.step 15) })
  else if st.image.isSplit then
    s.storeYield c k t i st (localKey c st.scratchBase) (localKey c (st.scratchBase + 128))
  else
    let f := st.frame.toNat
    match s.check c t none .store [(f, 16), (f + 128, 128)] [] with
    | (s1, .trap sub a) => s1.trapAt c k 4 sub (BitVec.ofNat 64 a) t.ctx.ip
    | (s1, .fault cls a) => s1.parkThread c k (BitVec.ofNat 64 a) cls AccKind.store.code
    | (s1, .refused a) => s1.refuse (BitVec.ofNat 64 a)
    | (s1, .busy) => s1.modSlot c k (fun l => { l with park := some (.step 9) })
    | (s1, .places [(.away d _, _), _]) => s1.departAt c k d (some (.yield st.frame))
    | (s1, .places [(.device _, _), _]) => s1.trapAt c k 4 1 st.frame t.ctx.ip
    | (s1, .places [(p, _), (q, _)]) => s1.storeYield c k t i st p.key q.key
    | (s1, _) => s1

/-- `yield` (R133, R356). -/
def execYield (s : State) : Outcome :=
  s.gate [] [] (fun t =>
    s.unless (t.fate s.here none true false) 0 (fun _ =>
      match s.yieldFrame t with
      | none => s.complete []
      | some (i, st) => s.yieldAt s.here s.slotNo t i st))

/-! ## `alloc` (R138, R145, R357) -/

/-- A byte count rounded up to a multiple of 8. -/
def roundUp8 (n : Nat) : Nat := (n + 7) / 8 * 8

/-- `alloc` (R357). -/
def execAlloc (d a : Reg) (s : State) : Outcome :=
  s.gate [a] [d] (fun t =>
    s.unless (t.fate s.here none true false) 0 (fun _ =>
      let n := roundUp8 (s.X a).toNat
      match t.task with
      | none => s.result [a] d 0
      | some i =>
        let st := s.seatOf i
        let floor := if st.image.isSplit then st.logEnd else 0
        if st.scratchUnits = 0 then s.result [a] d 0
        else if floor + n ≤ st.lowRes then
          (s.modSeat i.seatCore i.seat (fun st => { st with lowRes := st.lowRes - n })).result [a] d
            (BitVec.ofNat 64 (st.scratchBase + (st.lowRes - n)))
        else if st.image.isSplit && !st.finishing then s.abortTask i.seatCore i.seat 1
        else s.result [a] d 0))

/-! ## `fork` (R150, R358) -/

/-- A core has a free slot for stealing: empty, and not held (R147). -/
def Core.freeSlot (o : Core) (head : Bool) : Bool :=
  (List.range (if head then 7 else 8)).any (fun k =>
    (o.slot k).thread.isNone && (o.slot k).reserved.isNone && !o.dbgh.getLsbD k)

/-- A core's ready queue is empty with its overflow parts. -/
def Core.queueEmpty (o : Core) : Bool := [0, 1, 2, 3].all (fun p => o.countAt p == 0)

/-- A compute core is idle (R147): it has had an empty queue and a free slot for 256 cycles, and still has. -/
def State.isIdle (s : State) (c : Nat) : Bool :=
  let o := s.core c
  !isHead c && !o.lost && o.queueEmpty && o.freeSlot false && 256 ≤ o.idleFor

/-- A core shows idle in the fork tree: no child on its way has claimed it (R150). -/
def State.showsIdle (s : State) (c : Nat) : Bool := s.isIdle c && !(s.core c).claimed

/-- The cores that a `fork` counts, in their order (R150 step 1). A head core is in no district: from there the partition's districts come in
ascending order (DESIGN CHOICE, log 115). -/
def State.forkCores (s : State) (c : Nat) : List Nat :=
  match s.partRec c with
  | none => [c]
  | some p =>
    let own := if isHead c then 0 else districtOf c
    let ds := if isHead c then p.districts
      else ((List.range 128).map (fun i => (own + i) % 128)).filter (fun d => p.districts.contains d)
    let sorted := fun d => (districtCores (moduleOf c) d).mergeSort (fun a b => decide (a ≤ b))
    c :: (ds.flatMap sorted).filter (fun x => x != c && s.showsIdle x)

/-- The children of a `fork` by `k` over `n` indices (R150 step 3). -/
def forkChildren (r : Rec) (t : Thread) (n k : Nat) : List Rec :=
  let launch := taskField (some t) (·.launch)
  (List.range k).map (fun i =>
    { r with dom0 := domWord (i * n / k) ((i + 1) * n / k), launch, fmta := t.ctx.fmta, fmtb := t.ctx.fmtb,
             parent := taskField (some t) (·.task) })

/-- What a `fork` in slot `k` of core `c`, whose turn it is, does when its template, or its cell, cannot be used there: the stream elements
that it took when it departed go back to their bindings (R346). -/
def State.forkFails (s0 : State) (c k : Nat) (t : Thread) (took : List (Reg × Word)) (kind : AccKind) (r : Checked) : State :=
  let s := s0.giveBack t.origin t.tid took
  match r with
  | .trap sub x => s.trapAt c k 4 sub (BitVec.ofNat 64 x) t.ctx.ip
  | .fault cls x => s.parkThread c k (BitVec.ofNat 64 x) cls kind.code
  | .refused x => s.refuse (BitVec.ofNat 64 x)
  | .busy => s.modSlot c k (fun l => { l with park := some (.step 9) })
  | .places _ => s.trapAt c k 4 1 0 t.ctx.ip

/-- The key of the roll-call cell that a `fork` sets, none when its template names none (R120), or why it cannot be set. -/
def State.forkCell (s : State) (c : Nat) (t : Thread) (cell : Word) : State × Except Checked (Option Nat) :=
  if cell = 0 then (s, .ok none)
  else match s.check c t none .store [(cell.toNat, 8)] [] with
    | (s1, .places [(.device _, _)]) => (s1, .error (.trap 1 cell.toNat))
    | (s1, .places [(q, _)]) => (s1, .ok (some (nearKey q.key)))
    | (s1, r) => (s1, .error r)

/-- A `fork` in slot `k` of core `c`, whose turn it is (R150): at its template's home, its children are made and its cell is set. Its operands
are X(a) and X(b), from fields `srcs` whose stream elements it takes when it acts, or has taken, as `took`, when it departed. -/
def State.forkAt (s : State) (c k : Nat) (t : Thread) (d : Reg) (xa : Nat) (va : Word) (srcs : List Reg) (took : List (Reg × Word)) :
    State :=
  let n := xa % 2 ^ 32
  match s.check c t none .load [(va.toNat, 128)] [] with
  | (s1, .places [(.away home _, _)]) =>
    if s1.mayDepartAt c k then
      (s1.takeAt c k srcs).departAt c k home (some (.fork d (BitVec.ofNat 64 n) va (took ++ s1.tookAt c k srcs)))
    else s1.modSlot c k (fun l => { l with park := some (.step 15) })
  | (s1, .places [(.device _, _)]) => s1.forkFails c k t took .load (.trap 1 va.toNat)
  | (s1, .places [(p, _)]) =>
    let r := Rec.ofWords (wordsOf (s1.seenBytes c k p.key 128))
    if (r.isSplit && r.dims = 0) || r.grain 0 = 0 then s1.forkFails c k t took .load (.trap 1 va.toNat)
    else if !s1.mayDepartAt c k then s1.modSlot c k (fun l => { l with park := some (.step 15) })
    else
      let cores := s1.forkCores c
      let count := min ((n + r.grain 0 - 1) / r.grain 0) cores.length
      let finish := fun (s : State) =>
        (((s.takeAt c k srcs).setRegAt c k d (BitVec.ofNat 64 count)).modSlot c k (fun l => { l with carried := none })).advanceAt c k
      if count = 0 then finish s1
      else
        match s1.forkCell c t r.cell with
        | (s2, .error e) => s2.forkFails c k t took .store e
        | (s2, .ok cell) =>
          let s3 := match cell with
            | none => s2
            | some q => s2.storeHome q (toBytes count 8)
          let kids := (forkChildren r t n count).zip cores
          let s4 := kids.foldl (fun s x => if x.2 = c then s else s.modCore x.2 (fun o => { o with claimed := true })) s3
          let send := fun (x : Rec × Nat) =>
            if x.2 = c then Release.pushTail x.1.prio { image := x.1 }
            else Release.send { src := c, dst := x.2, vc := 2, tag := s.tagOf c, part := s.partTag c, load := .forkChild x.1 }
          let launch := bits (taskField (some t) (·.launch)) 31 0
          finish (s4.increment c launch count false (some t.tid) (kids.map send))
  | (s1, r) => s1.forkFails c k t took .load r

/-- `fork` (R358). -/
def execFork (d a b : Reg) (s : State) : Outcome :=
  s.gate [a, b] [d] (fun t =>
    s.unless (t.fate s.here (some (7, 0)) true false) (s.X b) (fun _ =>
      if bits (s.X a) 63 32 ≠ 0 then s.trap 4 1 0
      else if (s.X b).toNat % 128 ≠ 0 then s.trap 3 0 (s.X b)
      else s.forkAt s.here s.slotNo t d (s.X a).toNat (s.X b) [a, b] []))

/-! ## `join` (R151, R359) -/

/-- `join`: an atomic at the cell's home; in a split task an 8-byte item of the log. -/
def execJoin (a : Reg) (s : State) : Outcome :=
  s.gate [a] [] (fun t =>
    let va := s.X a
    s.unless (t.fate s.here none true false) va (fun _ =>
      match s.splitSeat t with
      | none => s.access t .join va 16 [a]
      | some (c, n, _) =>
        s.checked t va 16 16 .atomic (fun s1 ps =>
          match ps with
          | [(.device _, _)] => s1.trap 4 1 va
          | [(p, _)] => s1.logItem c n 8 va [a] (fun st => st.logMem (.join va (nearKey p.key)))
          | _ => s1)))

/-! ## `wake` (R230, R232, R360) -/

/-- A park record of core `c` is reloaded (R230): its context bytes are read as they stand, the record is freed, and the context enters
the arrival queue. -/
def State.reloadPark (s : State) (c n : Nat) (t : Thread) : State :=
  let base := bits (s.core c).upv 15 12 * 4096
  let ctx := Ctx.ofWords (wordsOf (s.bytes (localKey c (base + 256 * n)) 128))
  let s1 := s.modCore c (fun o => { o with parkUsed := eraseNat o.parkUsed n, parked := o.parked.del n })
  let s2 := match t.task with
    | none => s1
    | some i => s1.modSeat i.seatCore i.seat (fun st => { st with parked := st.parked - 1 })
  (s2.enqueue c { src := c, dst := c, vc := 0, tag := s.tagOf c, part := s.partTag c,
                  load := .context { t with ctx } none none }).retryParks c

/-- The park record that holds a thread. -/
def Core.parkOf (o : Core) (tid : BitVec 32) : Option (Nat × Thread) := o.parked.find? (fun r => r.2.tid == tid)

/-- The park form: dropped below supervisor level, or when no record of the core holds the thread. -/
def State.wakePark (s : State) (t : Thread) (v : Word) (srcs : List Reg) : State :=
  if bits v 31 0 = 0 || bits v 62 33 ≠ 0 then s.trap 4 1 0
  else
    let s1 := if t.ctx.status.sup then
        match (s.core s.here).parkOf (v.truncate 32) with
        | none => s
        | some (n, h) => s.reloadPark s.here n h
      else s
    s1.complete srcs

/-- The notice form: a send under step 8 (R360). -/
def State.wakeNotice (s : State) (t : Thread) (v : Word) (srcs : List Reg) : State :=
  if bits v 31 0 = 0 || bits v 62 37 ≠ 0 then s.trap 4 1 0
  else
    s.unless (t.fate s.here (some (7, 0)) false false) (BitVec.ofNat 64 (bits v 31 8)) (fun _ =>
      let dst := bits v 31 8
      if !s.inGroup s.here dst then s.trap 4 1 0
      else if s.mayDepart then
        (s.send { src := s.here, dst, vc := 2, tag := s.tagOf s.here, part := s.partTag s.here,
                  load := .wake (bits v 36 33) (noticeWord 5 0 t.tid.toNat) }).complete srcs
      else s.again 15)

/-- The copy forms: supervisor level only; the wake travels, with its core's tag (R233), to the core in a[47:24] (R232). -/
def State.wakeCopy (s : State) (t : Thread) (v : Word) (srcs : List Reg) : State :=
  if !t.ctx.status.sup then s.trapWord 2
  else if s.mayDepart then
    (s.send { src := s.here, dst := bits v 47 24, vc := 2, tag := s.tagOf s.here, part := s.partTag s.here,
              load := .wakeCopy (bits v 47 0) (bit v 62) }).complete srcs
  else s.again 15

/-- `wake`, by its operand. -/
def execWakePark (a : Reg) (s : State) : Outcome :=
  s.gate [a] [] (fun t =>
    let v := s.X a
    if bit v 63 then s.wakeCopy t v [a] else if bit v 32 then s.wakeNotice t v [a] else s.wakePark t v [a])

/-- The field a of the word in issue. -/
def State.irA (s : State) : Reg := BitVec.ofNat 4 (fld s.ir.toNat 21 18)

/-- The notice form of `wake`. -/
def execWakeNotice (s : State) : Outcome := s.gate [s.irA] [] (fun t => s.wakeNotice t (s.X s.irA) [s.irA])

/-- The resume form of `wake`. -/
def execWakeCopyResume (s : State) : Outcome :=
  s.gate [s.irA] [] (fun t => s.wakeCopy t (setBits (s.X s.irA) 62 62 0) [s.irA])

/-- The abandon form of `wake`. -/
def execWakeCopyAbandon (s : State) : Outcome :=
  s.gate [s.irA] [] (fun t => s.wakeCopy t (setBits (s.X s.irA) 62 62 1) [s.irA])

/-! ## `tsk` (R136, R361) -/

/-- A task record as a task made from it is queued: with the maker's launch and `task` value. -/
def Rec.made (r : Rec) (launch parent : Word) : Rec := { r with launch, parent }

/-- F of a task made from a record at an address whose home core is `c`: the *here* offset for the core's global window, 0 for a split
record (R361). -/
def madeFrame (r : Rec) (va c : Nat) : Word :=
  if r.isSplit then 0
  else if 2 ^ 40 ≤ va && va < 2 ^ 41 && va / 2 ^ 16 % 2 ^ 24 = c % 2 ^ 24 then BitVec.ofNat 64 (va % 2 ^ 16)
  else BitVec.ofNat 64 va

/-- The place of a record that `tsk` names: no access of the thread is made, so the windows do not bound it, and space 3 is no home of
a record at any level (R167, R361). -/
def State.recordPlace (s : State) (t : Thread) (va : Word) : State × Place :=
  match s.place s.here t none va.toNat 32 .load with
  | (s1, .refused _) => (s1, .priv (localKey s.here (va.toNat % 2 ^ 16)))
  | (s1, .device _) => (s1, .trap 1)
  | (s1, .trap 0) =>
    match s1.lookup s.here va.toNat false with
    | (s2, .page e) => (s2, if e.u && e.r && spaceOf (e.phys va.toNat) = 3 then .trap 1 else .trap 0)
    | (s2, _) => (s2, .trap 0)
  | r => r

/-- `tsk` (R361). -/
def execTsk (a b : Reg) (s : State) : Outcome :=
  s.gate [a, b] [] (fun t =>
    let va := s.X a
    let prio := (s.X b).toNat
    s.unless (t.fate s.here none true false) va (fun _ =>
      if 3 < prio then s.trap 4 1 0
      else if va.toNat % 128 ≠ 0 then s.trap 3 0 va
      else
        match s.recordPlace t va with
        | (s1, .trap sub) => s1.trap 4 sub va
        | (s1, .fault cls) => s1.pageFault va cls AccKind.load.code
        | (s1, .busy) => s1.again 9
        | (s1, place) =>
          let home := nearKey place.key
          let launch := taskField (some t) (·.launch)
          let parent := taskField (some t) (·.task)
          match s1.splitSeat t with
          | some (c, n, _) =>
            let r := Rec.ofWords (wordsOf (s1.bytes home 128))
            let e : QEntry := { image := r.made launch parent, frame := madeFrame r va.toNat (coreOfKey home) }
            s1.logItem c n 136 va [a, b] (fun st => st.logMem (.tsk home prio e))
          | none =>
            if s1.mayDepart then
              let token : Traveller :=
                { src := s1.here, dst := coreOfKey home, vc := 2, tag := s1.tagOf s1.here, part := s1.partTag s1.here,
                  load := .task home va prio launch parent }
              (s1.increment s1.here (bits launch 31 0) 1 false (some t.tid) [.send token]).complete [a, b]
            else s1.again 15))

/-! ## The ready queue (R130, R362) -/

/-- A virtual address is a position of ring 5 of a core's overflow area (R127). -/
def Core.isRing5 (o : Core) (va : Nat) : Bool :=
  bit o.qovf 0 && o.ringAddr 5 0 ≤ va && va < o.ringAddr 5 256 && va % 256 = 0

/-- A record that `qpush` or `mbind` names. -/
inductive Named where
  | entry (e : QEntry)
  | trap (sub : Nat)
  | fault (cls : Nat)
  /-- the overflow area cannot be used: the fatal fault of R127 -/
  | fatal
  /-- the miss queue is full (R170, R199 code 9) -/
  | busy
  deriving DecidableEq, Repr

/-- The record at an address, by the address rules of `qpush` (R362): *here*, the commons, the own quad column, or a position of
ring 5. -/
def State.namedRecord (s : State) (t : Thread) (va : Word) : State × Named :=
  if (s.core s.here).isRing5 va.toNat then
    match s.netKey s.here va.toNat 1 false with
    | (s1, none) => (s1, .fatal)
    | (s1, some k) =>
      let w := wordsOf (s1.bytes k 136)
      (s1, .entry { image := Rec.ofWords w, frame := w.getD 16 0 })
  else
    let (s1, p) := s.place s.here t none va.toNat 32 .load
    let read := fun k => Named.entry { image := Rec.ofWords (wordsOf (s1.seenBytes s.here s.slotNo k 128)), frame := va }
    (s1, match p with
      | .priv k => read k
      | .quad k => read k
      | .trap sub => .trap sub
      | .fault cls => .fault cls
      | .busy => .busy
      | _ => .trap 1)

/-- `qpush` (R362). -/
def execQpush (a b : Reg) (s : State) : Outcome :=
  s.gate [a, b] [] (fun t =>
    let va := s.X a
    let prio := (s.X b).toNat
    s.unless (t.fate s.here (some (4, 1)) true true) va (fun _ =>
      if va.toNat % 128 ≠ 0 then s.trap 3 0 va
      else
        match s.namedRecord t va with
        | (s1, .trap sub) => s1.trap 4 sub va
        | (s1, .fault cls) => s1.pageFault va cls AccKind.load.code
        | (s1, .fatal) => s1.fatalPartition s1.here 4
        | (s1, .busy) => s1.again 9
        | (s1, .entry e) =>
          if 3 < prio then s1.trap 4 1 0
          else if e.image.isSplit && !(s1.core s1.here).isRing5 va.toNat then s1.trap 4 1 va
          else (s1.pushTail s1.here prio e).complete [a, b]))

/-- The highest priority that has a record, in its queue part or its overflow part. -/
def Core.topPrio (o : Core) : Option Nat := [0, 1, 2, 3].find? (fun p => o.countAt p != 0)

/-- The entry at the head of the highest non-empty priority, in its queue part or its overflow part. -/
def State.topEntry (s : State) (c : Nat) : Option (Nat × QEntry) :=
  (s.core c).topPrio.bind (fun p => (s.entries c p).head?.map (fun e => (p, e)))

/-- `qpop` (R130, R362). -/
def execQpop (d : Reg) (s : State) : Outcome :=
  s.gate [] [d] (fun t =>
    s.unless (t.fate s.here (some (4, 1)) true true) 0 (fun _ =>
      if !s.ringsRead s.here then s.fatalPartition s.here 4
      else match s.topEntry s.here with
      | none => s.result [] d 0
      | some (p, e) =>
        let drop := fun (s : State) => s.modCore s.here (fun o => o.takeEntry p 0)
        if !e.image.isSplit && e.frame ≠ 0 then (drop s).result [] d e.frame
        else if !bit (s.core s.here).qovf 0 then s.trap 4 1 0
        else
          let o := s.core s.here
          match s.writeRing s.here 5 o.ring5Next e.bytes with
          | (s2, false) => s2.fatalPartition s2.here 4
          | (s2, true) =>
            (drop (s2.modCore s2.here (fun o => { o with ring5Next := (o.ring5Next + 1) % 256 }))).result [] d
              (BitVec.ofNat 64 (o.ringAddr 5 o.ring5Next))))

/-- `qlen` (R362). -/
def execQlen (d b : Reg) (s : State) : Outcome :=
  s.gate [b] [d] (fun _ =>
    let n := (s.X b).toNat
    let o := s.core s.here
    if n ≤ 3 then s.result [b] d (BitVec.ofNat 64 (o.countAt n))
    else if n = 4 then s.result [b] d (BitVec.ofNat 64 (o.countAt 0 + o.countAt 1 + o.countAt 2 + o.countAt 3))
    else s.trap 4 1 0)

end Sys2Proof.Machine
end

