-- ==== Sys2Proof/Machine/Mail.lean ====
section
/-! DEFINITION. Mailboxes: major 0x26 (R205 to R207, R349, R363, R364). -/
namespace Sys2Proof.Machine

/-- The lowest-numbered mailbox of a set that has a notice in its FIFO. -/
def Core.firstFull (o : Core) (mask : BitVec 16) : Option Nat :=
  (List.range 16).find? (fun n => mask.getLsbD n && !(o.mailbox n).fifo.isEmpty)

/-- A core whose mailbox `n` has lost its oldest notice. -/
def Core.dropHead (o : Core) (n : Nat) : Core :=
  { o with mailboxes := o.mailboxes.set n { o.mailbox n with fifo := (o.mailbox n).fifo.drop 1 } }

/-- The oldest notice of the lowest-numbered non-empty mailbox of a set, taken from core `c` (R206): a ring's head moves to its FIFO
before it is looked at and after a notice is taken. -/
def State.takeNotice (s : State) (c : Nat) (mask : BitVec 16) : State × Option Word :=
  let s1 := (List.range 16).foldl (fun s n => if mask.getLsbD n then s.refillMailbox c n else s) s
  match (s1.core c).firstFull mask with
  | none => (s1, none)
  | some n => ((s1.modCore c (fun o => o.dropHead n)).refillMailbox c n, ((s1.core c).mailbox n).fifo.head?)

/-- A mailbox mask is legal (R363). -/
def maskLegal (v : Word) : Bool := bits v 63 16 = 0 && v ≠ 0

/-- `recv` (R363). -/
def execRecv (d a : Reg) (s : State) : Outcome :=
  s.gate [a] [d] (fun t =>
    s.unless (t.fate s.here none true false) 0 (fun _ =>
      let v := s.X a
      if !maskLegal v then s.trap 4 1 0
      else
        match s.takeNotice s.here (v.truncate 16) with
        | (s1, some w) => s1.result [a] d w
        | (s1, none) => (s1.park (.recv d a (v.truncate 16) s1.stamp)).stampUp))

/-- `mpoll` (R363). -/
def execMpoll (d a : Reg) (s : State) : Outcome :=
  s.gate [a] [d] (fun t =>
    s.unless (t.fate s.here none true false) 0 (fun _ =>
      let v := s.X a
      if !maskLegal v then s.trap 4 1 0
      else
        match s.takeNotice s.here (v.truncate 16) with
        | (s1, some w) => s1.result [a] d w
        | (s1, none) => s1.result [a] d 0))

/-- Mailbox `n` of the running core bound to an entry, or unbound. -/
def State.bindMailbox (s : State) (n : Nat) (e : Option QEntry) : State :=
  s.modCore s.here (fun o => { o with mailboxes := o.mailboxes.set n { o.mailbox n with bound := e } })

/-- The entry that a binding holds: the record image with the issuer's launch; F is the record's address for a plain record, and 0 for a
split one (R364). -/
def boundEntry (e : QEntry) (va launch : Word) : QEntry :=
  { image := { e.image with launch }, frame := if e.image.isSplit then 0 else va }

/-- `mbind` (R364). -/
def execMbind (a b : Reg) (s : State) : Outcome :=
  s.gate [a, b] [] (fun t =>
    let n := (s.X a).toNat
    let va := s.X b
    s.unless (t.fate s.here (some (4, 1)) true true) va (fun _ =>
      if 15 < n then s.trap 4 1 0
      else if va = 0 then (s.bindMailbox n none).complete [a, b]
      else if va.toNat % 128 ≠ 0 then s.trap 3 0 va
      else
        match s.namedRecord t va with
        | (s1, .trap sub) => s1.trap 4 sub va
        | (s1, .fault cls) => s1.pageFault va cls AccKind.load.code
        | (s1, .fatal) => s1.fatalPartition s1.here 4
        | (s1, .busy) => s1.again 9
        | (s1, .entry e) => (s1.bindMailbox n (some (boundEntry e va (taskField (some t) (·.launch))))).complete [a, b]))

end Sys2Proof.Machine
end

