-- ==== Sys2Proof/Machine/Barrier.lean ====
section
/-! DEFINITION. Barriers: major 0x27 (R193 to R195, R365 to R370, R422). The scopes `core` and `quad` act at once; signals of `die`,
`pkg` and `pod` are travellers of VC3 between the place of the arrival, the root and the dies. -/
namespace Sys2Proof.Machine

/-! ## Instances -/

/-- The key of the quad that holds a core's `quad` barriers; a head core, which is a member of no quad (R88), has its own. -/
def barQuad (c : Nat) : Nat := if isHead c then 2 ^ 22 + c % 2 ^ 24 / 4 else quadOf c

/-- The key of a barrier of a partition: scope, number, and the die of a `die` instance or of a copy. -/
def barKey (scope n die : Nat) : Nat := (scope * 16 + n) * 8 + die

/-- The root module of the pod group of partition `p` of module `m`: the lowest that holds partition `p` (R370). -/
def State.podRoot (s : State) (m p : Nat) : Nat :=
  ((List.range 256).find? (fun i => s.routed m i && (s.part i p).state != .absent)).getD m

/-- The module of a barrier's root. -/
def State.barModule (s : State) (m p scope : Nat) : Nat := if scope ≤ 3 then m else s.podRoot m p

/-- The core id beside which a root stands: the quad at column 32, row 16 of a die, or the power arbiter on die 0 (R370). -/
def barRoot (m die scope : Nat) : Nat := if scope = 2 then coreId m die (16 * 64 + 32) 0 else coreId m 0 0 0

/-- The key of the root's state in its partition. -/
def rootKey (scope n die : Nat) : Nat := barKey scope n (if scope = 2 then die else 0)

/-- The barrier at the root of a scope above `quad`, for a core of partition `p`. -/
def State.rootBar (s : State) (c p scope n : Nat) : Barrier :=
  ((s.part (s.barModule (moduleOf c) p scope) p).bars.get (rootKey scope n (dieOf c))).getD {}

/-- The participant count that a thread on a core finds. -/
def State.barCount (s : State) (c scope n : Nat) : Nat :=
  if scope = 0 then (((s.core c).barriers.get n).getD {}).count
  else if scope = 1 then (((s.quad (barQuad c)).barriers.get n).getD {}).count
  else match s.partOf c with
    | none => 0
    | some p => (s.rootBar c p scope n).count

/-- The generation that a core's instance presents (R193, R368). -/
def State.barGen (s : State) (c scope n : Nat) : BitVec 16 :=
  if scope = 0 then (((s.core c).barriers.get n).getD {}).gen
  else if scope = 1 then (((s.quad (barQuad c)).barriers.get n).getD {}).gen
  else match s.partOf c with
    | none => 0
    | some p => ((s.part (moduleOf c) p).copies.get (barKey scope n (dieOf c))).getD 0

/-! ## Arrivals and releases -/

/-- `k` arrivals counted one after another: the last of each round adds 1 to the generation and resets the count (R367). -/
def Barrier.arrive (b : Barrier) (k : Nat) : Barrier :=
  if b.count = 0 then { b with arrived := b.arrived + k }
  else { b with arrived := (b.arrived + k) % b.count, gen := b.gen + BitVec.ofNat 16 ((b.arrived + k) / b.count) }

/-- A participant count taken by a root (R369). -/
def Barrier.take (b : Barrier) (count : Nat) : Barrier :=
  if count = b.count then b
  else if count ≤ b.arrived then { count, arrived := 0, gen := b.gen + 1 }
  else { b with count }

/-- The generation that a parked slot waits to leave, and the source fields whose elements it then takes. -/
def Slot.waitsBar (l : Slot) (scope n : Nat) : Option (BitVec 16 × List Reg) :=
  match l.park with
  | some (.barrier sc i g srcs) => if sc = scope && i = n then some (g, srcs) else none
  | _ => none

/-- Every slot of a core that waits for a generation other than `gen`'s predecessor goes on (step 16). -/
def State.freeBar (s : State) (c scope n : Nat) (gen : BitVec 16) : State :=
  (List.range 8).foldl (fun s k => match (s.slot c k).waitsBar scope n with
    | some (g, srcs) => if g = gen then s else (s.takeAt c k srcs).advanceAt c k
    | none => s) s

/-- A `core` barrier changed, and its waiters freed. -/
def State.coreBar (s : State) (c n : Nat) (f : Barrier → Barrier) : State :=
  let b := f (((s.core c).barriers.get n).getD {})
  (s.modCore c (fun o => { o with barriers := o.barriers.set n b })).freeBar c 0 n b.gen

/-- A `quad` barrier changed, and its waiters freed. -/
def State.quadBar (s : State) (c n : Nat) (f : Barrier → Barrier) : State :=
  let q := barQuad c
  let b := f (((s.quad q).barriers.get n).getD {})
  let cores := if isHead c then [c] else (List.range 4).map (coreOfQuad q)
  cores.foldl (fun s d => s.freeBar d 1 n b.gen) (s.modQuad q (fun o => { o with barriers := o.barriers.set n b }))

/-- Releases sent to every die of a module (R193); a `die` release only to its own. -/
def State.releaseDies (s : State) (src m p scope n die : Nat) (gen : BitVec 16) : State :=
  (if scope = 2 then [die] else List.range 8).foldl (fun s d =>
    s.send { src, dst := coreId m d 0 0, vc := 3, part := p, load := .barRelease scope n p gen }) s

/-- The other modules of a pod group. -/
def State.podOthers (s : State) (m p : Nat) : List Nat :=
  (List.range 256).filter (fun i => i != m && s.routed m i && (s.part i p).state != .absent)

/-- A root's barrier changed on module `m`: a changed generation is released to its dies, and to the relays of a pod (R193, R422). -/
def State.rootChange (s : State) (m p scope n die : Nat) (f : Barrier → Barrier) : State :=
  let key := rootKey scope n die
  let old := ((s.part m p).bars.get key).getD {}
  let b := f old
  let s1 := s.modPart m p (fun q => { q with bars := q.bars.set key b })
  if b.gen = old.gen then s1
  else
    let root := barRoot m die scope
    let s2 := s1.releaseDies root m p scope n die b.gen
    if scope ≤ 3 then s2
    else (s2.podOthers m p).foldl (fun s i =>
      s.send { src := root, dst := barRoot i 0 4, vc := 3, part := p, load := .barRelease scope n p b.gen }) s2

/-- The signal of a core toward a root, or, for a `pod` barrier, toward its module's relay (R422). -/
def State.signal (s : State) (c scope : Nat) (load : Nat → Payload) : State :=
  match s.partOf c with
  | none => s
  | some p => s.send { src := c, dst := barRoot (moduleOf c) (dieOf c) scope, vc := 3, part := p, load := load p }

/-- An arrival from a core (step 15). -/
def State.arriveBar (s : State) (c scope n : Nat) : State :=
  if scope = 0 then s.coreBar c n (·.arrive 1)
  else if scope = 1 then s.quadBar c n (·.arrive 1)
  else s.signal c scope (fun p => .barArrive scope n p 1)

/-! ## The instructions -/

/-- The scope code and the number of a barrier. -/
def scopeOf (s : BitVec 3) : Nat := s.toNat

/-- An arrival by `bar` or `barn` (R367). -/
def State.barAt (s : State) (scope n : Nat) (wait : Bool) : State :=
  if s.barCount s.here scope n = 0 then s.trap 4 1 0
  else if !s.drained then s.again 15
  else
    let g := s.barGen s.here scope n
    if wait then (s.park (.barrier scope n g [])).arriveBar s.here scope n
    else (s.complete []).arriveBar s.here scope n

/-- `bar` (R367). -/
def execBar (sc : BitVec 3) (n : BitVec 4) (s : State) : Outcome :=
  s.gate [] [] (fun t => s.unless (t.fate s.here none true false) 0 (fun _ => s.barAt (scopeOf sc) n.toNat true))

/-- `barn` (R367). -/
def execBarn (sc : BitVec 3) (n : BitVec 4) (s : State) : Outcome :=
  s.gate [] [] (fun t => s.unless (t.fate s.here none true false) 0 (fun _ => s.barAt (scopeOf sc) n.toNat false))

/-- `barw` (R368): a stream element is taken when it acts (R296). -/
def execBarw (a : Reg) (sc : BitVec 3) (n : BitVec 4) (s : State) : Outcome :=
  s.gate [a] [] (fun t =>
    s.unless (t.fate s.here none true false) 0 (fun _ =>
      let g : BitVec 16 := (s.X a).truncate 16
      if s.barGen s.here (scopeOf sc) n.toNat ≠ g then s.complete [a]
      else s.park (.barrier (scopeOf sc) n.toNat g [a])))

/-- `barg` (R368). -/
def execBarg (a : Reg) (sc : BitVec 3) (n : BitVec 4) (s : State) : Outcome :=
  s.gate [] [a] (fun _ => s.result [] a ((s.barGen s.here (scopeOf sc) n.toNat).zeroExtend 64))

/-- The largest participant count of a scope (R366). -/
def barMax (scope : Nat) : Nat :=
  if scope = 0 then 8 else if scope = 1 then 32 else if scope = 2 then 65536 else if scope = 3 then 524288 else 134217728

/-- `barset` (R369). -/
def execBarset (a : Reg) (sc : BitVec 3) (n : BitVec 4) (s : State) : Outcome :=
  s.gateFor (decide (2 ≤ scopeOf sc)) [a] [] (fun t =>
    let scope := scopeOf sc
    let count := (s.X a).toNat
    s.unless (t.fate s.here none true false) 0 (fun _ =>
      if count = 0 || barMax scope < count then s.trap 4 1 0
      else if scope = 0 then (s.complete [a]).coreBar s.here n.toNat (·.take count)
      else if scope = 1 then (s.complete [a]).quadBar s.here n.toNat (·.take count)
      else ((s.takeAt s.here s.slotNo [a]).park .barset).signal s.here scope (fun p => .barSet scope n.toNat p count s.slotNo)))

/-! ## The events -/

/-- The position of the first traveller that a test accepts and that heads its FIFO: the travellers of one source, destination and
virtual channel arrive in the order in which they left (R44), for each capacity port apart. -/
def headsFifo (l : List Traveller) (i : Nat) : Bool :=
  match l[i]? with
  | none => false
  | some t => !(l.take i).any (fun u => u.src == t.src && u.dst == t.dst && u.vc == t.vc && u.port == t.port && u.fromBuffer == t.fromBuffer)

/-- The link that a traveller must still cross from the module where it stands (R50, R63): by the route table, or, at its destination's
module, to its capacity port; what a buffer sends crosses from there first (link 32 + port). -/
def State.nextLink (s : State) (t : Traveller) : Option Nat :=
  if t.fromBuffer then t.port.map (32 + ·)
  else if moduleOf t.stands ≠ moduleOf t.dst then (s.module (moduleOf t.stands)).routes.get (moduleOf t.dst)
  else if t.atBuffer then none
  else t.port.map (16 + ·)

/-- A traveller cannot come to a router of its module now. -/
def State.stalled (s : State) (t : Traveller) (dst : Nat) : Bool := s.legStalled t.stands dst

/-- A traveller on its way that may arrive next: it is in its destination's module, and at the buffer of its port if it has one. -/
def State.arriving (s : State) (i : Nat) : Option Traveller :=
  match s.net[i]? with
  | none => none
  | some t =>
    if headsFifo s.net i && t.link.isNone && !t.fromBuffer && moduleOf t.stands == moduleOf t.dst && (t.atBuffer || (t.port.isNone && !s.stalled t t.dst))
    then some t else none

/-- Signals of the `die` and `pkg` barriers use wires of their own (R42), and so do the tiles of the matrix rings (R407). -/
def Payload.onMesh : Payload → Bool
  | .barArrive sc _ _ _ => sc == 4
  | .barRelease sc _ _ _ => sc == 4
  | .barSet sc _ _ _ _ => sc == 4
  | .latch _ => false
  | _ => true

/-- A traveller's flits counted at the router ports on its way to core `dst`, while the census is on (R253, R423). -/
def State.countFlits (s : State) (t : Traveller) (dst : Nat) : State :=
  let m := moduleOf t.stands
  if (s.module m).census && t.load.onMesh then
    s.modModule m (fun o => { o with
      flits := (legPorts t.stands dst).foldl (fun f x =>
        let k := x.1 * 16 + x.2 * 4 + t.vc
        f.set k ((f.get k).getD 0 + t.load.flits)) o.flits })
  else s

/-- The network without a traveller that has arrived; it is counted at its destination, but for what arrives at a capacity buffer (R239;
DESIGN CHOICE, log 15). -/
def State.landed (s : State) (i : Nat) (t : Traveller) : State :=
  let s1 := { s with net := s.net.eraseIdx i }.countFlits t (if t.atBuffer then t.stands else t.dst)
  if t.vc < 3 && !t.atBuffer then s1.modCore t.dst (fun o => { o with arrived := bump o.arrived t.vc }) else s1

/-- An arriving traveller of the event, named by its position in the network: the meaning of its arrival, or nothing when no such
traveller may arrive. -/
def State.onArrival (s : State) (f : State → Traveller → Option State) : Outcome :=
  .next (match s.arriving s.args.n with
    | none => s
    | some t => (f (s.landed s.args.n t) t).getD s)

/-- BARRIER_ARRIVAL_AT_ROOT (R193, R422): combined arrivals count one after another, so that each release stands for one generation
(R195). -/
def execBarrierArrivalAtRoot (s : State) : Outcome :=
  s.onArrival (fun s t => match t.load with
    | .barArrive scope n p k =>
      let m := moduleOf t.dst
      if scope = 4 && s.podRoot m p ≠ m then none
      else some ((List.range k).foldl (fun s _ => s.rootChange m p scope n (dieOf t.dst) (·.arrive 1)) s)
    | _ => none)

/-- Waiting slots of the cores of a partition on a die are freed by its copy's new value. -/
def State.freeDie (s : State) (m d p scope n : Nat) (gen : BitVec 16) : State :=
  s.cores.foldl (fun s e =>
    if moduleOf e.1 = m && dieOf e.1 = d && s.partOf e.1 == some p then s.freeBar e.1 scope n gen else s) s

/-- BARRIER_RELEASE_ARRIVAL (R193): at a die; a release that reaches a relay is passed on by POD_RELAY_FORWARD. -/
def execBarrierReleaseArrival (s : State) : Outcome :=
  s.onArrival (fun s t => match t.load with
    | .barRelease scope n p gen =>
      let m := moduleOf t.dst
      let d := dieOf t.dst
      if moduleOf t.src ≠ m then none
      else some ((s.modPart m p (fun q => { q with copies := q.copies.set (barKey scope n d) gen })).freeDie m d p scope n gen)
    | _ => none)

/-- The number of arrivals that a traveller brings to barrier `n` of partition `p` at a relay. -/
def Traveller.brings (u : Traveller) (relay n p : Nat) : Option Nat :=
  match u.load with
  | .barArrive 4 i q k => if u.vc == 3 && u.dst == relay && i == n && q == p then some k else none
  | _ => none

/-- The arrivals of a barrier that reach a relay together, one after another: their number, added to `k`, and the state in which they have
landed (R422). -/
def State.combine (relay n p : Nat) : Nat → State → Nat → State × Nat
  | 0, s, k => (s, k)
  | fuel + 1, s, k =>
    match (List.range s.net.length).findSome? (fun i => (s.arriving i).bind (fun u => (u.brings relay n p).map (fun j => (i, u, j)))) with
    | none => (s, k)
    | some (i, u, j) => State.combine relay n p fuel (s.landed i u) (k + j)

/-- POD_RELAY_FORWARD (R422). With `ok` the arrivals that reach the relay now go on as one message; otherwise one arrival goes on. -/
def execPodRelayForward (s : State) : Outcome :=
  let all := s.args.ok
  s.onArrival (fun s t =>
    let m := moduleOf t.dst
    match t.load with
    | .barArrive 4 n p k =>
      if s.podRoot m p = m then none
      else
        let (s1, sum) := if all then State.combine t.dst n p s.net.length s k else (s, k)
        some (s1.send { src := t.dst, dst := barRoot (s.podRoot m p) 0 4, vc := 3, part := p, load := .barArrive 4 n p sum })
    | .barSet 4 n p count slot =>
      if s.podRoot m p = m then none
      else some (s.send { t with dst := barRoot (s.podRoot m p) 0 4, load := .barSet 4 n p count slot })
    | .barRelease 4 n p gen =>
      if moduleOf t.src = m then none else some (s.releaseDies t.dst m p 4 n 0 gen)
    | _ => none)

/-- BARSET_ROOT_TAKE (R369): the root takes the count, and the slot that waits goes on. -/
def execBarsetRootTake (s : State) : Outcome :=
  s.onArrival (fun s t => match t.load with
    | .barSet scope n p count slot =>
      let m := moduleOf t.dst
      if scope = 4 && s.podRoot m p ≠ m then none
      else
        let s1 := s.rootChange m p scope n (dieOf t.dst) (·.take count)
        some (if (s1.slot t.src slot).park == some .barset then s1.advanceAt t.src slot else s1)
    | _ => none)

end Sys2Proof.Machine
end

