-- ==== Sys2Proof/Machine/System.lean ====
section
/-! DEFINITION. Special registers and system instructions: majors 0x28 to 0x2A (R162, R165, R172, R207, R250, R269, R308 to R310, R371
to R375), but for `ctxsv` and `ctxrs`. -/
namespace Sys2Proof.Machine

/-! ## Access to special registers (R308, R309) -/

/-- Who may access a register. -/
inductive Grade where
  | all | sup | res | never
  deriving DecidableEq, Repr

/-- The read and write columns of R309; none for an index that names no register. -/
def sregAccess (i : Nat) : Option (Grade × Grade) :=
  if i = 0x000 || (0x002 ≤ i && i ≤ 0x006) || (0x010 ≤ i && i ≤ 0x016) || i = 0x018 || i = 0x019 then some (.all, .never)
  else if i = 0x020 then some (.all, .all)
  else if 0x021 ≤ i && i ≤ 0x024 then some (.all, .never)
  else if i = 0x032 || i = 0x033 || i = 0x037 || i = 0x039 then some (.all, .res)
  else if 0x030 ≤ i && i ≤ 0x038 then some (.all, .sup)
  else if i = 0x041 || i = 0x042 then some (.sup, .never)
  else if 0x040 ≤ i && i ≤ 0x045 then some (.sup, .sup)
  else if 0x046 ≤ i && i ≤ 0x048 then some (.all, .sup)
  else if i = 0x050 then some (.all, .all)
  else if i = 0x058 then some (.all, .sup)
  else if 0x060 ≤ i && i ≤ 0x062 then some (.sup, .sup)
  else if i = 0x063 || i = 0x064 || i = 0x066 then some (.all, .sup)
  else if i = 0x070 then some (.all, .never)
  else none

/-- The writable bits of a register that a write simply stores. -/
def sregMask (i : Nat) : Word :=
  match i with
  | 0x031 => 1
  | 0x032 => 0x1FFFFFFFF
  | 0x033 => 0x1FFFFFFFF
  | 0x034 => 0xFFFFFFFF
  | 0x035 => 0xFFFFFFFF0001
  | 0x036 => 0xFFFFFFFF8001
  | 0x037 => 0xFFFF
  | 0x043 => 0xFFFF00000001FFFF
  | 0x047 => 0x1FF
  | 0x048 => 0xF001
  | 0x058 => 0x1FFFFFFFF
  | 0x060 => 0xFFF
  | 0x063 => 0xFFFFFFFC0001
  | 0x064 => 0x03FF0000FFFFFFFF
  | 0x066 => 0xFF
  | _ => 0xFFFFFFFFFFFFFFFF

/-- A core with a core register stored. -/
def Core.store (o : Core) (i : Nat) (v : Word) : Core :=
  match i with
  | 0x031 => { o with qgroup := v }
  | 0x032 => { o with win0 := v }
  | 0x033 => { o with win1 := v }
  | 0x034 => { o with spool := v }
  | 0x035 => { o with qovf := v }
  | 0x036 => { o with mbovf := v }
  | 0x037 => { o with mbie := v }
  | 0x038 => { o with tcmp := v }
  | 0x046 => { o with ivec := v }
  | 0x047 => { o with ivslot := v }
  | 0x048 => { o with upv := v }
  | 0x060 => { o with asid := v }
  | 0x061 => { o with ptbase := v }
  | 0x063 => { o with dumpa := v }
  | 0x064 => { o with smpc := v, smpNext := 0 }
  | 0x066 => { o with dbgh := v }
  | _ => o

/-- A slot with a slot register stored. -/
def Slot.store (l : Slot) (i : Nat) (v : Word) : Slot :=
  match i with
  | 0x020 => { l with mdl := v }
  | 0x040 => { l with eip := v }
  | 0x043 => { l with estat := v }
  | 0x044 => { l with es0 := v }
  | 0x045 => { l with es1 := v }
  | 0x058 => { l with sigst := v }
  | _ => l

/-- A register of R309 that belongs to the slot. -/
def isSlotReg (i : Nat) : Bool := i = 0x020 || (0x040 ≤ i && i ≤ 0x045) || i = 0x058

/-! ## The writes -/

/-- A write of a register without a rule of its own: its writable bits (REGISTER_WRITE). -/
def State.storeSreg (s : State) (i : Nat) (v : Word) : State :=
  let w := v &&& sregMask i
  if isSlotReg i then s.modRunning (fun l => l.store i w) else s.modCore s.here (fun o => o.store i w)

/-- `lmsplit` (R162): the checks; a legal write parks until it takes effect (R165). -/
def State.writeLmsplit (s : State) (srcs : List Reg) (v : Word) : State :=
  let com := bits v 7 4
  let cache := bits v 11 8
  if isHead s.here || 4 < com || 12 < com + cache then s.trap 4 1 0
  else (s.takeAt s.here s.slotNo srcs).park (.lmsplit v)

/-- `tlbinv` (R172): the slot's store buffer drains, then the slot parks until the invalidation has completed. -/
def State.writeTlbinv (s : State) (srcs : List Reg) (v : Word) : State :=
  if bits v 62 61 = 3 then s.trap 4 1 0
  else if !s.drained then s.again 9
  else (s.takeAt s.here s.slotNo srcs).park (.tlbinv v)

/-- `ptbase` (R309). -/
def State.writePtbase (s : State) (v : Word) (done : State → State) : State :=
  if bits v 13 0 ≠ 0 || bits v 63 52 ≠ 0 || spaceOf v.toNat ≠ 0 then s.trap 4 1 0 else done (s.storeSreg 0x061 v)

/-- `fcsr` (R269). -/
def State.writeFcsr (s : State) (v : Word) (done : State → State) : State :=
  if 4 ≤ bits v 7 5 then s.trap 4 1 0
  else done (s.modCtx (fun x => { x with status := { x.status with fcs := v.truncate 8 } }))

/-- `mbst` (R207): the W1C bits written as 1 are cleared. -/
def Core.clearMbst (o : Core) (v : Word) : Core :=
  { o with mbLost := o.mbLost &&& ~~~(BitVec.ofNat 16 (bits v 63 48)), mbOvf := o.mbOvf &&& ~~~(BitVec.ofNat 16 (bits v 47 32)) }

/-- A write of a special register whose access has been allowed; `done` ends the instruction. -/
def State.putSreg (s : State) (srcs : List Reg) (i : Nat) (v : Word) (done : State → State) : State :=
  if i = 0x030 then s.writeLmsplit srcs v
  else if i = 0x062 then s.writeTlbinv srcs v
  else if i = 0x061 then s.writePtbase v done
  else if i = 0x050 then s.writeFcsr v done
  else if i = 0x039 then done (s.modCore s.here (fun o => o.clearMbst v))
  else if i = 0x031 && isHead s.here then s.trap 4 1 0
  else done (s.storeSreg i v)

/-- A `swr` of the running thread: the access column, then the write (R308, R371). -/
def State.writeSreg (s : State) (t : Thread) (srcs : List Reg) (i : Nat) (v : Word) (done : State → State) : State :=
  match sregAccess i with
  | none => s.trapWord 1
  | some (_, .never) => if t.ctx.status.sup then done s else s.trapWord 2
  | some (_, .sup) => if t.ctx.status.sup then s.putSreg srcs i v done else s.trapWord 2
  | some (_, .res) => if t.bounded s.here then s.trap 4 6 0 else s.putSreg srcs i v done
  | some (_, .all) => s.putSreg srcs i v done

/-- A column of R309 that needs supervisor level (R307). -/
def Grade.needsSup (g : Grade) : Bool := g == .sup || g == .never

/-- `srd` (R371): an index that names no register is an illegal encoding. -/
def execSrd (f : BitVec 10) (a : Reg) (s : State) : Outcome :=
  match sregAccess f.toNat with
  | none => s.gate [] [] (fun _ => s.trapWord 1)
  | some (r, _) => s.gateFor r.needsSup [] [a] (fun _ => s.result [] a (s.sreg s.here s.slotNo f.toNat))

/-- `swr` (R371). -/
def execSwr (f : BitVec 10) (a : Reg) (s : State) : Outcome :=
  match sregAccess f.toNat with
  | none => s.gate [] [] (fun _ => s.trapWord 1)
  | some (_, w) => s.gateFor w.needsSup [a] [] (fun t => s.writeSreg t [a] f.toNat (s.X a) (fun s => s.complete [a]))

/-! ## The writes as events: a write lands in the slot that the event names -/

/-- The state with the event's slot in its turn. -/
def State.inSlot (s : State) : State := { s with cur := (s.args.c, s.args.k) }

/-- A write by the thread of the event's slot, if it holds one. -/
def State.eventWrite (s : State) (f : State → Thread → State) : Outcome :=
  let s1 := s.inSlot
  .next (match s1.running.thread with
    | none => s
    | some t => f s1 t)

/-- A status register's W1C bits cleared (R384). -/
def State.clearStatus (s : State) (c : Nat) (f : EngineFile) (v : Word) : State :=
  s.modCore c (fun o => o.putFile f (setReg f (o.file f) (statusIndex f) v))

/-- REGISTER_WRITE (R308, R384): a special or engine register without a row of its own. -/
def execRegisterWrite (s : State) : Outcome :=
  s.eventWrite (fun s t => match s.args.reg with
    | .special i => s.writeSreg t [] i s.args.v (fun s => s)
    | .engine f i => s.modCore s.here (fun o => o.putFile f (setReg f (o.file f) i s.args.v)))

/-- LMSPLIT_WRITE (R162). -/
def execLmsplitWrite (s : State) : Outcome := s.eventWrite (fun s t => s.writeSreg t [] 0x030 s.args.v (fun s => s))

/-- PTBASE_WRITE (R309). -/
def execPtbaseWrite (s : State) : Outcome := s.eventWrite (fun s t => s.writeSreg t [] 0x061 s.args.v (fun s => s))

/-- FCSR_WRITE (R269). -/
def execFcsrWrite (s : State) : Outcome := s.eventWrite (fun s t => s.writeSreg t [] 0x050 s.args.v (fun s => s))

/-- MBST_WRITE (R207). -/
def execMbstWrite (s : State) : Outcome := s.eventWrite (fun s t => s.writeSreg t [] 0x039 s.args.v (fun s => s))

/-- ENGINE_STATUS_WRITE (R384). -/
def execEngineStatusWrite (s : State) : Outcome := s.eventWrite (fun s _ => s.clearStatus s.here s.args.file s.args.v)

/-! ## Invalidation (R172) -/

/-- A TLB entry that an invalidation names. -/
def TlbEntry.named (e : TlbEntry) (part op asid vpn : Nat) : Bool :=
  e.part == part &&
    (if op = 0 then decide (e.vpn ≤ vpn && vpn < e.vpn + e.size) && (e.glob || e.asid == asid || e.size == 2 ^ 9)
     else if op = 1 then !e.glob && e.asid == asid
     else true)

/-- The entries that an operation of `tlbinv` names leave the TLBs of its scope: this core and its quad, or every core and quad of the
partition. -/
def State.invalidate (s : State) (c : Nat) (v : Word) : State :=
  let part := s.partTag c
  let keep := fun (l : List TlbEntry) => l.filter (fun e => !e.named part (bits v 62 61) (bits v 59 48) (bits v 47 16))
  let core := fun (o : Core) => { o with dtlb := keep o.dtlb, itlb := keep o.itlb }
  if bit v 63 then
    { s with
      cores := s.cores.map (fun e => if s.partTag e.1 = part && moduleOf e.1 = moduleOf c then (e.1, core e.2) else e)
      quads := s.quads.map (fun e => if e.1 / 2 ^ 14 = moduleOf c then (e.1, { e.2 with tlb := keep e.2.tlb }) else e) }
  else
    let s1 := s.modCore c core
    if isHead c then s1 else s1.modQuad (quadOf c) (fun q => { q with tlb := keep q.tlb })

/-- The invalidation of the event's slot acts in its whole scope, if its slot waits for one with this operation. -/
def State.invalidateFor (s : State) (op : Nat) : State :=
  let c := s.args.c
  let k := s.args.k
  match (s.slot c k).park with
  | some (.tlbinv v) =>
    if bits v 62 61 = op then (s.invalidate c v).modCore c (fun o => { o with invDone := insertNat o.invDone k }) else s
  | _ => s

/-- TLBINV_PAGE (R172). -/
def execTlbinvPage (s : State) : Outcome := .next (s.invalidateFor 0)

/-- TLBINV_ASID (R172). -/
def execTlbinvAsid (s : State) : Outcome := .next (s.invalidateFor 1)

/-- TLBINV_PARTITION (R172). -/
def execTlbinvPartition (s : State) : Outcome := .next (s.invalidateFor 2)

/-- TLBINV_COMPLETE (R172): the slot unparks once its invalidation has acted. -/
def execTlbinvComplete (s : State) : Outcome :=
  let c := s.args.c
  let k := s.args.k
  .next (match (s.slot c k).park with
    | some (.tlbinv _) =>
      if (s.core c).invDone.contains k then
        (s.modCore c (fun o => { o with invDone := eraseNat o.invDone k })).advanceAt c k
      else s
    | _ => s)

/-! ## A change of the local-memory division (R165) -/

/-- Some store-buffer entry of a core of the quad names a commons byte of it. -/
def State.commonsPending (s : State) (q : Nat) : Bool :=
  (List.range 4).any (fun i => (s.core (coreOfQuad q i)).buffer.any (fun e => isLocalKey e.home))

/-- The dirty lines of a core's cache portion are written to the DRAM. -/
def State.writeBackAll (s : State) (c : Nat) : State := { s with dirty := s.dirty.filter (fun e => coreOfKey (e.1 * 64) != c) }

/-- `n` bytes at a key become undefined, with the full bits of their words (DESIGN CHOICE, log 3). -/
def State.blur (s : State) (key n : Nat) : State :=
  let s1 := s.putBytes key (freeBytes s.free n)
  let s2 := (List.range (n / 4)).foldl (fun s i => s.setFull (key + 4 * i) 4 (Config.freeBool (s1.free + i))) s1
  { s2 with free := s2.free + n }

/-- The division of core `c` becomes that of `v`: private bytes below the smaller private size are kept; the rest of the local memory,
and, after a change of `com`, the commons above this core's contribution, become undefined. -/
def State.divide (s : State) (c : Nat) (v : Word) : State :=
  let com := bits v 7 4
  let cache := bits v 11 8
  let o := s.core c
  if o.lmsplitCom = com && o.lmsplitCache = cache then s
  else
    let old := s.privSize c
    let s1 := s.modCore c (fun o => { o with lmsplitCom := com, lmsplitCache := cache })
    let low := min old (s1.privSize c)
    let s2 := s1.blur (localKey c low) (0xC000 - low)
    if o.lmsplitCom = com then s2
    else
      ((List.range 4).filter (fun i => decide (coreInQuad c < i))).foldl (fun s i =>
        let d := coreOfQuad (quadOf c) i
        s.blur (localKey d (s.privSize d)) (s.comSize d)) s2

/-- A full/empty access that waits on a commons word waits on the byte that its offset names now (R192); where its
offset names none, it goes on waiting on the old one (DESIGN CHOICE, log 124). -/
def Access.rehomed (s : State) (c : Nat) (a : Access) : Access :=
  let off := a.va.toNat - 0x10000
  if !isHead c && 0x10000 ≤ a.va.toNat && a.va.toNat < 0x20000 && off + a.op.size ≤ s.commonsSize (quadOf c) then
    { a with parts := [(s.commonsKey (quadOf c) off, a.op.size)] }
  else a

/-- The accesses that wait in a core, after a change of its quad's commons. -/
def Core.rehomed (s : State) (c : Nat) (o : Core) : Core :=
  { o with slots := o.slots.map (fun e => match e.2.park with
      | some (.full a since) => (e.1, { e.2 with park := some (.full (a.rehomed s c) since) })
      | _ => e) }

/-- The waits on commons words of a quad go on against the new contents (R192). -/
def State.rehomeWaiters (s : State) (q : Nat) : State :=
  State.resolve (localKey (coreOfQuad q 0) 0) 32
    ((List.range 4).foldl (fun s1 i => s1.modCore (coreOfQuad q i) (Core.rehomed s (coreOfQuad q i))) s)

/-- LMSPLIT_TAKE_EFFECT (R70, R165). -/
def execLmsplitTakeEffect (s : State) : Outcome :=
  let c := s.args.c
  let k := s.args.k
  .next (match (s.slot c k).park with
    | some (.lmsplit v) => if s.commonsPending (quadOf c) || s.relocking (moduleOf c) (dieOf c) then s
      else (((s.writeBackAll c).divide c v).rehomeWaiters (quadOf c)).advanceAt c k
    | _ => s)

/-! ## System instructions (R372 to R375) -/

/-- `trap` (R372): `eip` is the next instruction. -/
def execTrap (k : BitVec 8) (s : State) : Outcome :=
  s.gate [] [] (fun _ => s.trapAt s.here s.slotNo 13 0 (k.zeroExtend 64) s.nextIp)

/-- `rte` (R373). -/
def execRte (s : State) : Outcome :=
  s.gateFor true [] [] (fun t => s.unless (t.fate s.here none true false) 0 (fun _ => s.returnAt s.here s.slotNo))

/-- `brk` (R374). -/
def execBrk (s : State) : Outcome := s.gate [] [] (fun _ => s.trap 10 0 0)

/-- `isync` (R374): the fetch buffer is emptied. -/
def execIsync (s : State) : Outcome :=
  s.gate [] [] (fun _ => (s.modRunning (fun l => { l with fetch := [] })).complete [])

/-- The fields of `sigst` (R250). -/
def sigVal (w : Word) : Bool := bit w 32
def sigExp (w : Word) : Nat := bits w 31 16
def sigAcc (w : Word) : Nat := bits w 15 0

/-- A checker state. -/
def sigWord (val : Bool) (exp acc : Nat) : Word := BitVec.ofNat 64 (val.toNat * 2 ^ 32 + exp % 2 ^ 16 * 2 ^ 16 + acc % 2 ^ 16)

/-- The `eaddr` of a signature mismatch (R225). -/
def sigAddr (exp acc : Nat) : Word := BitVec.ofNat 64 (exp % 2 ^ 16 * 2 ^ 16 + acc % 2 ^ 16)

/-- `blk` (R250). -/
def execBlk (h : BitVec 16) (s : State) : Outcome :=
  s.gate [] [] (fun _ =>
    let w := s.running.sigst
    if sigVal w && sigAcc w ≠ sigExp w then s.trap 9 0 (sigAddr (sigExp w) (sigAcc w))
    else (s.modRunning (fun l => { l with sigst := sigWord true h.toNat 0 })).complete [])

end Sys2Proof.Machine
end

