-- ==== Sys2Proof/Machine/Arrive.lean ====
section
/-! DEFINITION. Arrivals at a core and at a cloakroom, and the slots that take them (R89, R95, R142 to R144, R147 to R151, R206, R209 to
R220, R224, R232, R235, R248, R354, R360, R361). -/
namespace Sys2Proof.Machine

/-! ## The items of a commit (R145) -/

/-- The home of a memory item. -/
def MemLog.home : MemLog → Nat
  | .store _ h _ _ => h
  | .red _ _ h _ _ => h
  | .join _ h => h
  | .tsk h _ _ => h

/-- The address that a memory item names; the push of a task record names none. -/
def MemLog.addr : MemLog → Word
  | .store va _ _ _ => va
  | .red _ va _ _ _ => va
  | .join va _ => va
  | .tsk _ _ _ => 0

/-- What a memory item reads at its home: key, length and virtual address. -/
def MemLog.reads : MemLog → Option (Nat × Nat × Word)
  | .red _ va h n _ => some (h, n, va)
  | .join va h => some (h, 16, va)
  | _ => none

/-- The copy-fault class with which a memory item stops, and its address: a read that meets a memory error (R231, R245). -/
def State.itemFault (s : State) (e : MemLog) : Option (Nat × Word) :=
  match e.reads with
  | none => none
  | some (k, n, va) => match s.health k n with
    | .sound => none
    | .media => some (5, va)
    | .integrity => some (6, va)

/-- The commit engine stops at item `i` of a log: the stop is a command of the copy engine that moves nothing, until a wake ends it
(R231, R232; DESIGN CHOICE, log 111). -/
def State.stopItem (s : State) (c n i cls : Nat) (va : Word) : State :=
  let id := c % 2 ^ 24 * 2 ^ 24 + ((s.core c).cmdCount + 1) % 2 ^ 24
  let d : Cmd := { id, engine := .copy, op := .cp, seat := some n, logged := true, item := some i, started := true, tag := s.tagOf c }
  (s.modCore c (fun o => { o with cmdCount := o.cmdCount + 1, cmds := o.cmds ++ [d] })).stopCmd c id cls 1 va

/-- The bytes of a log's item hold a media error. -/
def State.logBad (s : State) (st : Seat) (i : Nat) : Bool :=
  st.logAt.any (fun a => a.1 == i && s.hasBad (localKey st.scratchCore (st.scratchBase + a.2.1)) a.2.2)

/-- An entry pushed on the core homing a key, once the launch has been incremented. -/
def State.commitPush (s : State) (c : Nat) (founder : BitVec 32) (launch home prio : Nat) (e : QEntry) : State :=
  let d := coreOfKey home
  let r : Release := if d = c then .pushTail prio e
    else .send { src := c, dst := d, vc := 2, tag := s.tagOf c, part := s.partTag c, load := .push prio e }
  s.increment c launch 1 false (some founder) [r]

/-- The plain task that a logged `join` starts. -/
def continuation (st : Seat) (entry va : Word) : QEntry :=
  { image :=
      { entry, flags := BitVec.ofNat 64 (st.image.prio * 2), budget := 1, launch := st.image.launch, fmta := st.image.fmta,
        fmtb := st.image.fmtb, parent := st.task },
    x0 := va }

/-- One memory item performs at its home. -/
def State.commitItem (s : State) (c : Nat) (st : Seat) : MemLog → State
  | .store _ h n v => s.storeHome h (toBytes v.toNat n)
  | .red f _ h n v =>
    let s1 := s.countRead h n
    match amoNew f n (s.num h n) (v.toNat % 2 ^ (8 * n)) 0 with
    | none => s1
    | some w => s1.storeHome h (toBytes w n)
  | .join va h =>
    let s1 := s.countRead h 16
    let l := s.bytes h 16
    let count := joinNew (ofBytes (l.take 8))
    let s2 := s1.storeHome h (toBytes count 8)
    if count = 0 then
      s2.commitPush c st.founderTid st.image.launchNo h st.image.prio (continuation st (BitVec.ofNat 64 (ofBytes (l.drop 8))) va)
    else s2
  | .tsk h prio e => s.commitPush c st.founderTid e.image.launchNo h prio e

/-- A memory item that its core performs without a traveller: in the core's own quad, or the push of a task record, which goes as a
record of its own. -/
def MemLog.near (e : MemLog) (c : Nat) : Bool :=
  match e with
  | .tsk _ _ _ => true
  | _ => nearHome c e.home

/-- A memory item leaves its log and performs at its home, or the commit stops at it. -/
def State.landItem (s : State) (c n i : Nat) (e : MemLog) : State :=
  let s1 := s.modSeat c n (fun st => { st with away := eraseNat st.away i })
  match s.itemFault e with
  | some (cls, va) => s1.stopItem c n i cls va
  | none =>
    (s1.modSeat c n (fun st =>
      { st with memLog := st.memLog.filter (fun f => f.1 != i), done := st.done + 1 })).commitItem c ((s.core c).seat n) e

/-- A memory item that has travelled arrives at its home (R42, R145); one whose commit has ended is discarded. -/
def State.itemIn (s : State) (c n i : Nat) (e : MemLog) : State :=
  if ((s.core c).seat n).away.contains i then s.landItem c n i e else s

/-- A memory item is turned back: the commit stops at it (R248; DESIGN CHOICE, log 111). -/
def State.itemBack (s : State) (c n i : Nat) (e : MemLog) : State :=
  if ((s.core c).seat n).away.contains i then
    (s.modSeat c n (fun st => { st with away := eraseNat st.away i })).stopItem c n i 7 e.addr
  else s

/-! ## Travellers turned back (R248) -/

/-- The kind of a traveller in a kind-12 notice (R224). -/
def Payload.code : Payload → Nat
  | .context _ _ _ => 0
  | .faulted _ _ _ _ => 0
  | .party _ => 1
  | .partyReturn _ _ _ => 1
  | .luggageWrite _ _ _ _ => 1
  | .luggageAck _ => 1
  | .notice _ _ _ => 2
  | .copyData _ _ => 4
  | .copyRead _ => 4
  | .commitItem _ _ _ => 4
  | .poolAsk _ _ => 4
  | .poolShare _ _ => 4
  | .poolPart _ _ => 4
  | .poolSum _ _ _ _ _ _ => 4
  | .binAsk _ _ _ _ => 4
  | .binTaken _ _ _ _ _ => 4
  | .hostMove _ => 4
  | _ => 3

/-- The kind-12 notice with status 1 to the sender of a traveller that is turned back; a lost sender gets none. -/
def State.report (s : State) (t : Traveller) : State :=
  if (s.core t.src).lost then s
  else s.send { src := t.dst, dst := t.src, vc := 2, part := t.part,
                load := .notice 15 (noticeWord 12 1 (t.dst % 2 ^ 24 * 2 ^ 24 + t.load.code)) none }

/-- The address of the instruction with which a context departed: an access issues again; any other has moved on by a word. -/
def departIp (h : Thread) : Option Carried → Word
  | none => h.ctx.ip - 4
  | some (.moved _ _) => h.ctx.ip - 4
  | some (.luggage _ _) => h.ctx.ip - 4
  | _ => h.ctx.ip

/-- A context sent back to the core that it departed from, to trap there. -/
def State.bounce (s : State) (t : Traveller) (h : Thread) (ip : Word) (b : TurnedBack) : State :=
  s.send { src := t.dst, dst := h.origin, vc := 0, tag := t.tag, part := t.part,
           load := .context { h with ctx := { h.ctx with ip } } none (some b) }

/-- The address or core id that the instruction of a departed context names (R225), and the stream elements that it took. -/
def Carried.named : Option Carried → Word × List (Reg × Word)
  | some (.access a) => (a.va, a.took)
  | some (.moved va took) => (va, took)
  | some (.yield va) => (va, [])
  | some (.luggage va took) => (va, took)
  | some (.fork _ _ va took) => (va, took)
  | _ => (0, [])

/-- A read of a distant source is turned back: its command stops with class 7 (R248). -/
def State.readBack (s : State) (r : FarRead) : State :=
  match (s.core r.core).cmd r.id with
  | none => s
  | some d => if d.asked.any (fun a => a.1 == r.key) then s.stopCmd r.core r.id 7 0 (BitVec.ofNat 64 ((r.todo.map (·.1)).headD 0)) else s

/-- The take of a bin is turned back. -/
def State.takeBack (s : State) (c id key : Nat) (va : Word) : State :=
  match (s.core c).cmd id with
  | none => s
  | some d => if d.asked.any (fun a => a.1 == key) then s.stopCmd c id 7 1 va else s

/-- What becomes of a traveller that is turned back (R248, R149, R354). A party whose origin has no entry for its tag is rolled back with
the context that it had at the cloakroom and comes again, and so does a context that goes home to trap or to be parked; a luggage write,
and what no rule sends on, is discarded (DEDUCED, log 63). -/
def State.turnFate (s : State) (t : Traveller) (sub : Nat) : State :=
  let back := fun (vc : Nat) (load : Payload) (dst : Nat) =>
    s.send { src := t.dst, dst, vc, tag := t.tag, part := t.part, load }
  match t.load with
  | .context h c none =>
    s.bounce t h (departIp h c) { cause := 4, sub, addr := (Carried.named c).1, took := (Carried.named c).2 }
  | .context _ _ (some _) => if sub = 1 then s.send t else s
  | .faulted _ _ _ _ => if sub = 1 then s.send t else s
  | .party p => back 0 (.partyReturn p (some 3) false) p.origin
  | .partyReturn p _ _ => if sub = 1 then s.send { t with load := .partyReturn { p with thread := p.came } (some 3) false } else s
  | .spawn _ _ _ _ _ _ h slot => back 2 (.spawnReply slot 1 0 h.tid) t.src
  | .probe => back 2 .emptyReply t.src
  | .stolen e => if (s.core t.src).lost then s else back 2 (.stolen e) t.src
  | .seeded r => s.decrement t.dst { launch := r.launchNo, grain := true }
  | .notice _ _ (some d) => s.decrement t.src d
  | .copyData id w => s.stopCmd t.src id 7 1 w.va
  | .copyRead r => s.readBack r
  | .commitItem n i e => s.itemBack t.src n i e
  | .binAsk id key _ va => s.takeBack t.src id key va
  | _ => s

/-- A traveller turned back. -/
def State.turnBack (s : State) (t : Traveller) (sub : Nat) : State := (s.turnFate t sub).report t

/-! ## Held arrivals (R235) -/

/-- The bytes that a held arrival takes. -/
def heldSize (p : Payload) : Nat := (16 + p.size + 15) / 16 * 16

/-- An entry of the held table changed. -/
def State.modHeld (s : State) (c : Nat) (tag : BitVec 16) (f : Held → Held) : State :=
  s.modCore c (fun o => { o with held := o.held.map (fun g => if g.tag == tag then f g else g) })

/-- Bytes written at an offset of a held buffer: in the page of its save record at the home that `ctxsv` found, and from there on through
the core's translations. -/
def State.putHeldBytes (s : State) (c : Nat) (h : Held) (off : Nat) (bs : List Byte) : State :=
  (unitPieces (bs.length / 4096 + 2) off bs.length).foldl (fun s x =>
    let part := (bs.drop (x.1 - off)).take x.2
    if x.1 < 32768 then s.storeHome (h.home + x.1) part
    else match s.netKey c (h.buffer.toNat + x.1) x.2 true with
      | (s1, some k) => s1.storeHome k part
      | (s1, none) => s1) s

/-- An arrival's bytes in a held buffer: 16 bytes and the padding, which no rule gives, are free (DESIGN CHOICE, log 64). -/
def State.putHeld (s : State) (c : Nat) (h : Held) (off : Nat) (p : Payload) : State :=
  let n := heldSize p
  let bs := freeBytes s.free 16 ++ p.bytes ++ freeBytes (s.free + 16) (n - 16 - p.size)
  State.putHeldBytes { s with free := s.free + 32 } c h off bs

/-- The kind-15 notices of an entry that has grown from `h`: for its first arrival, and for the crossing of half its buffer. -/
def State.heldGrew (s : State) (c : Nat) (h : Held) : State :=
  let used := (((s.core c).held.find? (fun g => g.tag == h.tag)).map (·.used)).getD 0
  let s1 := if h.told then s
    else (s.modHeld c h.tag (fun g => { g with told := true })).sendNotice c c 15 (noticeWord 15 0 h.tag.toNat) 0 none
  if h.used * 2 < h.length && h.length ≤ used * 2 then s1.sendNotice c c 15 (noticeWord 15 1 h.tag.toNat) 0 none else s1

/-- An arrival goes to the held buffer of its tag, or is turned back when the held table has no entry for it. -/
def State.holdArrival (s : State) (t : Traveller) : State :=
  let c := t.dst
  match (s.core c).held.find? (fun h => h.tag == t.tag) with
  | none => s.turnBack t 1
  | some h =>
    let used := h.used + heldSize t.load
    if h.length < used then s.fatalPartition c 5
    else
      ((s.modHeld c t.tag (fun g => { g with arrivals := g.arrivals ++ [t], used })).putHeld c h h.used t.load).heldGrew c h

/-! ## Contexts (R89, R158, R167, R201, R213) -/

/-- What a carried access meets on arrival: an offset beyond the private size, or a window refusal. -/
def State.carriedFate (s : State) (c : Nat) (h : Thread) (a : Access) : List (Nat × Nat) → Nat → Option TurnedBack
  | [], _ => none
  | (key, n) :: rest, done =>
    if isLocalKey key && coreOfKey key == c then
      let off := localOff key
      let size := s.privSize c
      let at' := fun (x : Nat) => BitVec.ofNat 64 (a.va.toNat + done + x)
      if size < off + n then some { cause := 4, sub := 1, addr := at' (size - off), took := a.took }
      else match s.refusal c h off n with
        | some x => some { cause := 5, sub := 0, addr := at' (x - off), took := a.took }
        | none => s.carriedFate c h a rest (done + n)
    else s.carriedFate c h a rest (done + n)

/-- The fate of a context that its core admits. -/
def State.contextFate (s : State) (c : Nat) (h : Thread) : Option Carried → Option TurnedBack
  | some (.access a) =>
    if isHead c && !h.ctx.status.sup then some { cause := 4, sub := 0, addr := a.va, took := a.took }
    else s.carriedFate c h a a.parts (a.op.size - (a.parts.map (·.2)).foldl (· + ·) 0)
  | x =>
    if isHead c && !h.ctx.status.sup then some { cause := 4, sub := 0, addr := (Carried.named x).1, took := (Carried.named x).2 }
    else none

/-- A context arrives: refused, or queued. -/
def State.contextIn (s : State) (t : Traveller) : State :=
  match t.load with
  | .context h c none =>
    match s.contextFate t.dst h c with
    | some b => s.bounce t h (departIp h c) b
    | none => s.enqueue t.dst t
  | _ => s.enqueue t.dst t

/-! ## Tasks and tokens -/

/-- A seat counts one thread less (R132); the last of a plain task retires it. -/
def State.threadGone (s : State) (c n : Nat) (tid : BitVec 32) : State :=
  let st := (s.core c).seat n
  if st.state = 0 || !st.tids.contains tid then s
  else
    let s1 := s.modSeat c n (fun st => { st with live := st.live - 1, tids := st.tids.filter (fun x => x != tid) })
    if st.live ≤ 1 && !st.image.isSplit then s1.retireSeat c n else s1

/-- A spawn token is declined (R354). -/
def State.decline (s : State) (t : Traveller) (slot : Nat) : State :=
  let who := match t.load with
    | .spawn _ _ _ _ _ _ h _ => h.tid
    | _ => 0
  s.send { src := t.dst, dst := t.src, vc := 2, tag := s.tagOf t.dst, part := t.part, load := .spawnReply slot 1 0 who }

/-- The seat of a spawner counts its threads again without the declined one. -/
def State.restoreSeat (s : State) (h : Thread) : State :=
  match h.task with
  | none => s
  | some i =>
    if (s.seatOf i).tids.contains h.tid then s.modSeat i.seatCore i.seat (fun st => { st with live := st.live - 1 }) else s

/-- A spawn reply is written to the parked slot of the thread that awaits it. -/
def State.spawnReplyIn (s : State) (c slot status : Nat) (tid who : BitVec 32) : State :=
  match (s.slot c slot).thread, (s.slot c slot).park with
  | some h, some (.spawn d) =>
    if h.tid ≠ who then s
    else
      let s1 := if status = 0 then s else s.restoreSeat h
      (s1.setRegAt c slot d (if status = 0 then tid.zeroExtend 64 else 0)).advanceAt c slot
  | _, _ => s

/-- A record made into an entry by `tsk` at its home (R361). -/
def State.taskIn (s : State) (c home : Nat) (va : Word) (prio : Nat) (launch parent : Word) : State :=
  let r := Rec.ofWords (wordsOf (s.bytes home 128))
  s.pushTail c prio { image := r.made launch parent, frame := madeFrame r va.toNat c }

/-! ## Stealing (R147, R148) -/

/-- The offsets at mesh distance `d`, by ascending row offset and then column offset. -/
def ringOffsets (d : Nat) : List (Int × Int) :=
  (List.range (2 * d + 1)).flatMap (fun (i : Nat) =>
    let row : Int := Int.ofNat i - Int.ofNat d
    let col : Int := Int.ofNat d - Int.ofNat row.natAbs
    if col = 0 then [(row, 0)] else [(row, -col), (row, col)])

/-- The cores that a thief probes, in order. -/
def State.probeList (s : State) (c : Nat) : List Nat :=
  let mine := fun (x : Nat) => s.partOf x == s.partOf c
  let siblings := ((List.range 4).map (coreOfQuad (quadOf c))).filter (fun x => x != c)
  let far := [1, 2, 3, 4].flatMap (fun d => (ringOffsets d).flatMap (fun o => (List.range 4).filterMap (fun i =>
    coreAt (moduleOf c) ((packageX c : Int) + o.2) ((packageY c : Int) + o.1) i)))
  (siblings ++ far).filter mine

/-- A thief sends probe `n` of its sequence, or begins its wait when none is left. -/
def State.sendProbe (s : State) (c n : Nat) : State :=
  match (s.probeList c)[n]? with
  | none => s.modCore c (fun o => { o with steal := .waiting, waited := 0 })
  | some v =>
    (s.modCore c (fun o => { o with steal := .probing n })).send
      { src := c, dst := v, vc := 2, tag := s.tagOf c, part := s.partTag c, load := .probe }

/-- The tail entry of the highest non-empty priority, with its priority and its place. -/
def State.tailEntry (s : State) (c : Nat) : Option (Nat × Nat × QEntry) :=
  (s.core c).topPrio.bind (fun p => (s.entries c p).getLast?.map (fun e => (p, (s.entries c p).length - 1, e)))

/-- A victim answers a probe (R148). -/
def State.probeIn (s : State) (c thief : Nat) : State :=
  let o := s.core c
  let answer := fun (s : State) (load : Payload) =>
    s.send { src := c, dst := thief, vc := 2, tag := s.tagOf c, part := s.partTag c, load }
  let count := o.countAt 0 + o.countAt 1 + o.countAt 2 + o.countAt 3
  if !s.ringsRead c then s.fatalPartition c 4
  else match s.tailEntry c with
    | none => answer s .emptyReply
    | some (p, i, e) =>
      if 2 ≤ count && e.image.steal && !e.image.saved then answer (s.modCore c (fun o => o.takeEntry p i)) (.stolen e)
      else answer s .emptyReply

/-- A thief's empty reply. -/
def State.emptyIn (s : State) (c : Nat) : State :=
  match (s.core c).steal with
  | .probing n => s.sendProbe c (n + 1)
  | _ => s

/-! ## Accounts (R142 to R144) -/

/-- An account of a partition changed. -/
def State.modAccount (s : State) (m p launch : Nat) (f : Account → Account) : State :=
  s.modPart m p (fun q => { q with accounts := q.accounts.map (fun a => if a.launch = launch then f a else a) })

/-- An increment reaches the account and is acknowledged. -/
def State.incrementIn (s : State) (t : Traveller) (launch k : Nat) (copy : Bool) (key : Nat) : State :=
  (s.modAccount (moduleOf t.dst) t.part launch (fun a =>
    if copy then { a with copies := a.copies + k } else { a with count := a.count + k })).send
    { src := t.dst, dst := t.src, vc := 2, part := t.part, load := .incAck key }

/-- A decrement reaches the account. -/
def State.decrementIn (s : State) (t : Traveller) (d : Decrement) : State :=
  s.modAccount (moduleOf t.dst) t.part d.launch (fun a =>
    { a with
      count := if d.copy then a.count else a.count - d.amount
      copies := if d.copy then a.copies - d.amount else a.copies
      copyFaults := a.copyFaults + d.copyFault.toNat
      grainFaults := a.grainFaults + d.grain.toNat })

/-- An acknowledgement releases what its increment holds. -/
def State.incAckIn (s : State) (c key : Nat) : State :=
  match (s.core c).holds.find? (fun h => h.key == key) with
  | none => s
  | some h =>
    let s1 := s.modCore c (fun o => { o with holds := o.holds.filter (fun g => g.key != key) })
    (h.releases.foldl (fun s r => s.release c r) s1).settleQuits c

/-! ## Stopped copies (R231, R232) -/

/-- A core's copy-fault record `n` is freed, and so is a stopped command's hold of it. -/
def Core.freeFault (o : Core) (n : Option Nat) : Core :=
  match n with
  | none => o
  | some i => { o with faultUsed := eraseNat o.faultUsed i }

/-- A stopped copy that is woken before it could be reported leaves its launch as its report would have made it (R144). -/
def State.leaveUnreported (s : State) (c : Nat) (d : Cmd) : State :=
  if d.reported || d.launch = 0 then s else s.decrement c { launch := bits d.launch 31 0, copy := true, copyFault := true }

/-- An abandoned memory item of a commit performs nothing: it leaves its log (R231, R232). -/
def State.settleItem (s : State) (c : Nat) (d : Cmd) (abandon : Bool) : State :=
  match abandon, d.seat, d.item with
  | true, some n, some i =>
    s.modSeat c n (fun st => { st with memLog := st.memLog.filter (fun f => f.1 != i), done := st.done + 1 })
  | _, _, _ => s

/-- The wake of a stopped copy (R232); a wake that names none is dropped. -/
def State.wakeCopyIn (s : State) (c id : Nat) (abandon : Bool) : State :=
  match (s.core c).cmds.find? (fun d => d.id == id && d.fault.isSome) with
  | none => s
  | some d =>
    (((s.leaveUnreported c d).settleItem c d abandon).modCore c (fun o =>
      let o1 := o.freeFault d.record
      let rest := o1.cmds.filter (fun e => e.id != id)
      { o1 with
        cmds := if abandon then rest else d.restart :: rest
        streams := if abandon then o1.streams.filter (fun b => b.cmd != id) else o1.streams })).reportWaiting c

/-! ## Parties (R215 to R220) -/

/-- An entry put in its place of a list in ascending order. -/
def cloakInsert (f : CloakEntry → Nat) (x : Nat × CloakEntry) : List (Nat × CloakEntry) → List (Nat × CloakEntry)
  | [] => [x]
  | y :: l => if f x.2 ≤ f y.2 then x :: y :: l else y :: cloakInsert f x l

/-- Entries in ascending order. -/
def cloakSort (f : CloakEntry → Nat) (l : List (Nat × CloakEntry)) : List (Nat × CloakEntry) := l.foldr (cloakInsert f) []

/-- Unmatched parties of a quad, oldest first. -/
def Quad.waitingParties (q : Quad) : List (Nat × CloakEntry) := cloakSort (·.order) (q.cloak.filter (fun e => e.2.state == .waiting))

/-- Free entries of a cloakroom: 16, less those in use and those in reserve. -/
def Quad.freeEntries (q : Quad) : Nat := 16 - q.cloak.length - q.waitingParties.length

/-- The lowest entry number not in use. -/
def Quad.freshEntry (q : Quad) : Nat := ((List.range 16).find? (fun n => (q.cloak.get n).isNone)).getD 15

/-- A slot that a pair may be placed in (R216). -/
def State.placeable (s : State) (c k : Nat) : Bool :=
  (s.slot c k).thread.isNone && (s.slot c k).reserved.isNone && !(s.core c).dbgh.getLsbD k

/-- The empty slots of a core, those whose turns come first leading (R198). -/
def State.emptySlots (s : State) (c : Nat) : List Nat :=
  let o := s.core c
  let next := if o.lastTurn = some o.cycle then o.cycle + 1 else o.cycle
  ((List.range 8).map (fun i => (next + i) % 8)).filter (s.placeable c)

/-- The partition of a core is stopped or halted: nothing of it expires (R238). -/
def State.frozen (s : State) (c : Nat) : Bool :=
  match s.partRec c with
  | none => false
  | some p => p.state == .stopped || p.state == .halted

/-- A deadline acts at a quad's cloakroom: `ref` has reached it, in a partition that is not stopped and on a die that does not relock
(R71, R215, R238). -/
def State.expired (s : State) (q deadline : Nat) : Bool :=
  decide (deadline ≤ s.refNs (q / 2 ^ 14)) && !s.frozen (coreOfQuad q 0) && !s.relocking (q / 2 ^ 14) (dieOf (coreOfQuad q 0))

/-- An entry whose party has been placed: from now on it is met, and its `meet` returns 0 (R216). A stream register takes its element as
the party enters its slot. -/
def CloakEntry.meets (e : CloakEntry) (state : CloakState) : CloakEntry :=
  let h := e.party.thread
  let x := { h.ctx with status := { h.ctx.status with met := true } }
  { e with state, met := some { h with ctx := if isStream e.party.d then x else x.put e.party.d 0 } }

/-- A pair placed on the lowest core that qualifies, if one does: in the cycle of the matching arrival whatever its deadlines (R223), later
only while they have not come. -/
def State.placePair (s : State) (q early late : Nat) (fresh : Bool) : State :=
  match (s.quad q).cloak.get early, (s.quad q).cloak.get late with
  | some e, some l =>
    let fits := fun (c : Nat) => !s.coreHalted c && s.tagOf c == e.party.tag && 2 ≤ (s.emptySlots c).length
    if !fresh && (s.expired q e.party.deadline || s.expired q l.party.deadline) then s
    else match ((List.range 4).map (coreOfQuad q)).find? fits with
    | none => s
    | some c =>
      match s.emptySlots c with
      | k1 :: k2 :: _ =>
        let s1 := s.modQuad q (fun o =>
          { o with cloak := (o.cloak.set early (e.meets (.placed c k1 late k2))).set late (l.meets (.placed c k2 early k1)) })
        (s1.modSlot c k1 (fun x => { x with reserved := some (q, early) })).modSlot c k2
          (fun x => { x with reserved := some (q, late) })
      | _ => s
  | _, _ => s

/-- The unplaced pairs of a quad, in the order in which they were matched. -/
def Quad.pairs (q : Quad) : List (Nat × Nat) :=
  (cloakSort (·.pair) (q.cloak.filter (fun e => e.2.first))).filterMap (fun e =>
    match e.2.state with
    | .matched p => some (e.1, p)
    | _ => none)

/-- Every unplaced pair that can be placed is placed (R216); `fresh` is the earlier party of the pair that this arrival has matched. -/
def State.placePairs (s : State) (q : Nat) (fresh : Option Nat) : State :=
  (s.quad q).pairs.foldl (fun s p => s.placePair q p.1 p.2 (fresh == some p.1)) s

/-- A party leaves for its origin with a status and its context alone. -/
def State.sendHome (s : State) (q : Nat) (p : Party) (status : Nat) : State :=
  s.send { src := coreOfQuad q 0, dst := p.origin, vc := 0, tag := p.tag, part := s.partTag p.origin,
           load := .partyReturn p (some status) false }

/-- A party takes an entry, and its luggage stands in the cloakroom. -/
def State.storeParty (s : State) (q n : Nat) (e : CloakEntry) : State :=
  ((s.modQuad q (fun o => { o with cloak := o.cloak.set n e })).putBytes (cloakKey q n 0) e.party.luggage).stampUp

/-- A party arrives at the cloakroom of a quad (R215): one that waits is matched though its deadline has come, as arrivals act first
(R223). -/
def State.partyIn (s : State) (q : Nat) (p : Party) : State :=
  let o := s.quad q
  match o.waitingParties.find? (fun e => e.2.party.pennant == p.pennant && e.2.party.tag == p.tag) with
  | some (w, e) =>
    let n := o.freshEntry
    let s1 := s.storeParty q n { party := p, state := .matched w, order := s.stamp, pair := s.stamp, first := false }
    (s1.modQuad q (fun o => { o with cloak := o.cloak.set w { e with state := .matched n, pair := s.stamp, first := true } })).placePairs q (some w)
  | none =>
    if s.expired q p.deadline then s.sendHome q p 1
    else if 2 ≤ o.freeEntries then s.storeParty q o.freshEntry { party := p, order := s.stamp }
    else s.sendHome q p 2

/-- A party returns to its origin (R215, R218, R219): its luggage is written first, and a status other than 0 goes to its xd. -/
def State.partyHome (s : State) (t : Traveller) (p : Party) (status : Option Nat) (writes : Bool) : State :=
  let c := t.dst
  let s1 := if writes then s.storeHome (localKey c p.la) p.luggage else s
  let v := BitVec.ofNat 64 (status.getD 0)
  let h := p.thread
  let s2 := if status.isSome && isStream p.d then
      s1.modCore c (fun o => o.modStream h.tid p.d (fun b =>
        if b.input then b else { b with elems := b.elems ++ [v], used := b.used + 1 }))
    else s1
  let h1 := if status.isSome && !isStream p.d then { h with ctx := h.ctx.put p.d v } else h
  s2.enqueue c { t with load := .context h1 none none }

/-- The party that awaits the acknowledgement of its luggage write. -/
def Carried.isLuggage : Option Carried → Bool
  | some (.luggage _ _) => true
  | _ => false

/-- The party that awaits the acknowledgement of its luggage write continues (R218). -/
def Carried.acked (tid : BitVec 32) (h : Thread) (c : Option Carried) : Option Carried :=
  match c with
  | some (.luggage va took) => if h.tid = tid then some (.moved va took) else c
  | _ => c

/-- The same in a traveller that holds it. -/
def Traveller.acked (tid : BitVec 32) (t : Traveller) : Traveller :=
  match t.load with
  | .context h c b => { t with load := .context h (Carried.acked tid h c) b }
  | _ => t

/-- The acknowledgement of a luggage write reaches the core of its party: the party's wait ends in its slot, in the arrival queue or in
its spill, in a held buffer, or on its way. -/
def State.luggageAckIn (s : State) (c : Nat) (tid : BitVec 32) : State :=
  let s1 := { s with net := s.net.map (Traveller.acked tid) }
  s1.modCore c (fun o =>
    { o with
      slots := o.slots.map (fun e => match e.2.thread with
        | some h => if h.tid = tid && Carried.isLuggage e.2.carried then (e.1, { e.2 with carried := none, park := none }) else e
        | none => e)
      arrivals := o.arrivals.map (Traveller.acked tid)
      rings := o.rings.map (fun r => (r.1, { r.2 with items := r.2.items.map (fun i => { i with context := i.context.map (Traveller.acked tid) }) }))
      held := o.held.map (fun h => { h with arrivals := h.arrivals.map (Traveller.acked tid) }) })

/-! ## One arrival -/

/-- A traveller of a thread, a task or a notice acts at the core that admits it. -/
def State.actOn (s : State) (t : Traveller) : State :=
  let c := t.dst
  match t.load with
  | .context _ _ _ => s.contextIn t
  | .faulted _ _ _ _ => s.enqueue c t
  | .partyReturn p st w => s.partyHome t p st w
  | .luggageWrite la l dest tid =>
    (s.storeHome (localKey c la) l).send { src := c, dst := dest, vc := 2, tag := t.tag, part := t.part, load := .luggageAck tid }
  | .notice mb w after =>
    let s1 := s.deliver c mb w
    match after with
    | none => s1
    | some d => s1.decrement t.src d
  | .quit n tid => s.threadGone c n tid
  | .wake mb w => s.deliver c mb w
  | .wakeCopy id ab => s.wakeCopyIn c id ab
  | .spawn _ _ _ _ _ deadline _ slot => if deadline < s.refNs (moduleOf c) then s.decline t slot else s.enqueue c t
  | .spawnReply slot st tid who => s.spawnReplyIn c slot st tid who
  | .probe => s.probeIn c t.src
  | .stolen e => s.pushTail c e.image.prio e
  | .emptyReply => s.emptyIn c
  | .seeded r => s.pushTail c r.prio { image := r }
  | .forkChild r => (s.pushTail c r.prio { image := r }).modCore c (fun o => { o with claimed := false })
  | .task home va prio l p => s.taskIn c home va prio l p
  | .push prio e => s.pushTail c prio e
  | .increment l k cp key => s.incrementIn t l k cp key
  | .incAck key => s.incAckIn c key
  | .decrement d => s.decrementIn t d
  | .luggageAck tid => s.luggageAckIn c tid
  | .copyData id w => s.landWrite t.src id w
  | .commitItem n i e => s.itemIn t.src n i e
  | _ => s

/-- What the network interface of a lost core still takes, as it carries out a commit to its end: the acknowledgement of an increment
(R247). -/
def Payload.endsCommit : Payload → Bool
  | .incAck _ => true
  | _ => false

/-- An arrival at a core: turned back by a lost core or by a core of no partition of its group, held for its tag, or acting. A decrement
that follows a delivered notice is sent by the core that sent the notice (R142). -/
def State.arriveNow (s : State) (t : Traveller) : State :=
  let c := t.dst
  if (s.core c).lost && !t.load.endsCommit then s.turnBack t 2
  else if s.partTag c ≠ t.part then s.turnBack t 2
  else if t.tag ≠ 0 && t.tag ≠ s.tagOf c then s.holdArrival t
  else s.actOn t

/-- The arrival that an event names, when it is of the event's kind. -/
def State.rowArrival (s : State) (mine : Payload → Bool) : Outcome :=
  s.onArrival (fun s t => if mine t.load then some (s.arriveNow t) else none)

/-- CONTEXT_ARRIVAL (R213). -/
def execContextArrival (s : State) : Outcome :=
  s.rowArrival (fun p => match p with
    | .context _ _ _ => true
    | .faulted _ _ _ _ => true
    | _ => false)

/-- NOTICE_ARRIVAL (R206). -/
def execNoticeArrival (s : State) : Outcome :=
  s.rowArrival (fun p => match p with
    | .notice _ _ _ => true
    | _ => false)

/-- ACCOUNT_INCREMENT_ARRIVAL (R142). -/
def execAccountIncrementArrival (s : State) : Outcome :=
  s.rowArrival (fun p => match p with
    | .increment _ _ _ _ => true
    | _ => false)

/-- ACCOUNT_ACK_ARRIVAL (R142). -/
def execAccountAckArrival (s : State) : Outcome :=
  s.rowArrival (fun p => match p with
    | .incAck _ => true
    | _ => false)

/-- ACCOUNT_DECREMENT_ARRIVAL (R143, R144). -/
def execAccountDecrementArrival (s : State) : Outcome :=
  s.rowArrival (fun p => match p with
    | .decrement _ => true
    | _ => false)

/-- QUIT_NOTICE_ARRIVAL (R132). -/
def execQuitNoticeArrival (s : State) : Outcome :=
  s.rowArrival (fun p => match p with
    | .quit _ _ => true
    | _ => false)

/-- STEAL_PROBE_ARRIVAL (R148). -/
def execStealProbeArrival (s : State) : Outcome :=
  s.rowArrival (fun p => match p with
    | .probe => true
    | _ => false)

/-- STOLEN_TASK_RECORD_ARRIVAL (R148, R149). -/
def execStolenTaskRecordArrival (s : State) : Outcome :=
  s.rowArrival (fun p => match p with
    | .stolen _ => true
    | _ => false)

/-- EMPTY_REPLY_ARRIVAL (R147). -/
def execEmptyReplyArrival (s : State) : Outcome :=
  s.rowArrival (fun p => match p with
    | .emptyReply => true
    | _ => false)

/-- SEEDED_RECORD_ARRIVAL (R113, R114). -/
def execSeededRecordArrival (s : State) : Outcome :=
  s.rowArrival (fun p => match p with
    | .seeded _ => true
    | _ => false)

/-- FORK_CHILD_ARRIVAL (R150). -/
def execForkChildArrival (s : State) : Outcome :=
  s.rowArrival (fun p => match p with
    | .forkChild _ => true
    | _ => false)

/-- TASK_TOKEN_ARRIVAL (R361), and the push of a committed `tsk` or `join` (R145). -/
def execTaskTokenArrival (s : State) : Outcome :=
  s.rowArrival (fun p => match p with
    | .task _ _ _ _ _ => true
    | .push _ _ => true
    | _ => false)

/-- SPAWN_TOKEN_ARRIVAL (R354). -/
def execSpawnTokenArrival (s : State) : Outcome :=
  s.rowArrival (fun p => match p with
    | .spawn _ _ _ _ _ _ _ _ => true
    | _ => false)

/-- SPAWN_REPLY_ARRIVAL (R354). -/
def execSpawnReplyArrival (s : State) : Outcome :=
  s.rowArrival (fun p => match p with
    | .spawnReply _ _ _ _ => true
    | _ => false)

/-- WAKE_TOKEN_ARRIVAL (R360), and the arrival of a copy wake (R232). -/
def execWakeTokenArrival (s : State) : Outcome :=
  s.rowArrival (fun p => match p with
    | .wake _ _ => true
    | .wakeCopy _ _ => true
    | _ => false)

/-- PARTY_RETURN_ARRIVAL (R218). -/
def execPartyReturnArrival (s : State) : Outcome :=
  s.rowArrival (fun p => match p with
    | .partyReturn _ _ _ => true
    | _ => false)

/-- LUGGAGE_WRITE_ARRIVAL (R218). -/
def execLuggageWriteArrival (s : State) : Outcome :=
  s.rowArrival (fun p => match p with
    | .luggageWrite _ _ _ _ => true
    | _ => false)

/-- LUGGAGE_WRITE_ACKNOWLEDGEMENT (R218). -/
def execLuggageWriteAcknowledgement (s : State) : Outcome :=
  s.rowArrival (fun p => match p with
    | .luggageAck _ => true
    | _ => false)

/-- A quad takes a party: it is of the party's group, and one of its cores lives (R95, R248). -/
def State.takesParty (s : State) (t : Traveller) : Bool :=
  s.partTag t.dst == t.part && ((List.range 4).map (coreOfQuad (quadOf t.dst))).any s.live

/-- PARTY_ARRIVAL (R215): at the cloakroom of a quad, whatever the tags of its cores. -/
def execPartyArrival (s : State) : Outcome :=
  s.onArrival (fun s t => match t.load with
    | .party p => some (if s.takesParty t then s.partyIn (quadOf t.dst) p else s.turnBack t 2)
    | _ => none)

/-- PAIR_PLACEMENT (R216). -/
def execPairPlacement (s : State) : Outcome := .next (s.placePairs s.args.quad none)

/-- MEETING_DEADLINE (R215): an unplaced party whose deadline has come returns alone; its partner waits again. -/
def execMeetingDeadline (s : State) : Outcome :=
  let q := s.args.quad
  let n := s.args.entry
  .next (match (s.quad q).cloak.get n with
    | none => s
    | some e =>
      if !s.expired q e.party.deadline then s
      else
        let gone := (s.modQuad q (fun o => { o with cloak := o.cloak.del n })).sendHome q e.party 1
        match e.state with
        | .waiting => gone
        | .matched p =>
          gone.modQuad q (fun o => match o.cloak.get p with
            | none => o
            | some f => { o with cloak := o.cloak.set p { f with state := .waiting, first := true } })
        | .placed _ _ _ _ => s)

/-! ## Slots take work (R209, R212, R216) -/

/-- ARRIVAL_QUEUE_REFILL (R212): the oldest spilled context returns, its registers read from the ring. -/
def execArrivalQueueRefill (s : State) : Outcome :=
  let c := s.args.c
  let o := s.core c
  .next (if 8 ≤ o.arrivals.length || s.relocking (moduleOf c) (dieOf c) then s
    else match (o.ring 0).items.find? (fun i => i.context.isSome) with
      | none => s
      | some i =>
        match i.context, s.netKey c (o.ringAddr 0 i.pos) 1 false with
        | some t, (s1, some k) =>
          let t1 := match t.load with
            | .context h x b => { t with load := .context { h with ctx := Ctx.ofWords (wordsOf (s1.bytes k 128)) } x b }
            | _ => t
          s1.modCore c (fun o =>
            { o with arrivals := o.arrivals ++ [t1], rings := o.rings.set 0 { o.ring 0 with items := (o.ring 0).items.erase i } })
        | _, (s1, _) => s1.fatalPartition c 4)

/-- A reserved party enters its slot, met (R216, R217). -/
def State.enterParty (s : State) (c k q n : Nat) : State :=
  match (s.quad q).cloak.get n with
  | none => s.modSlot c k (fun l => { l with reserved := none })
  | some e =>
    match e.state with
    | .placed _ _ partner partnerSlot =>
      let m : Meet := { quad := q, entry := n, partnerEntry := partner, partnerSlot, first := e.first }
      let s1 := (s.enterSlot c k (e.met.getD e.party.thread)).modSlot c k (fun l => { l with meet := some m })
      if isStream e.party.d then s1.setRegAt c k e.party.d 0 else s1
    | _ => s.modSlot c k (fun l => { l with reserved := none })

/-- The status of a spawned thread (R354). -/
def spawnedStatus (x : Status) : Status := { sup := x.sup, spl := x.spl }

/-- A spawn token is accepted (R354): a new thread, its place in its task, and the reply. -/
def State.acceptSpawn (s : State) (c k : Nat) (t : Traveller) (x0 x1 x2 x3 entry : Word) (p : Thread) (slot : Nat) : State :=
  let x : Ctx := { x0, x1, x2, x3, ip := entry, fmta := p.ctx.fmta, fmtb := p.ctx.fmtb, status := spawnedStatus p.ctx.status }
  let s1 := s.newThread c k { ctx := x, task := p.task, origin := c }
  let tid := ((s1.slot c k).thread.map (·.tid)).getD 0
  let s2 := match p.task with
    | none => s1
    | some i => s1.modSeat i.seatCore i.seat (fun st => if st.tids.contains p.tid then { st with tids := st.tids ++ [tid] } else st)
  s2.send { src := c, dst := t.src, vc := 2, tag := s.tagOf c, part := t.part, load := .spawnReply slot 0 tid p.tid }

/-- What a context still has to do in the slot that it enters; one that has moved has nothing left to do. -/
def Carried.entered (x : Option Carried) : Option Carried :=
  match x with
  | some (.moved _ _) => none
  | _ => x

/-- What an arrival does when it enters slot `k` (R209 row 4): a context, with what it carries; a context turned back, which traps; a
page fault met while met, which parks; or a new thread, whose token is accepted in the cycle of its deadline too (R377). -/
def State.takeArrival (s : State) (c k : Nat) (t : Traveller) : State :=
  match t.load with
  | .context h x none =>
    (s.enterSlot c k h).modSlot c k (fun l =>
      { l with carried := Carried.entered x, park := if Carried.isLuggage x then some .luggage else none })
  | .context h _ (some b) => ((s.enterSlot c k h).giveBack c h.tid b.took).trapAt c k b.cause b.sub b.addr h.ctx.ip
  | .faulted h va cls kind => (s.enterSlot c k h).parkThread c k va cls kind
  | .spawn x0 x1 x2 x3 entry deadline p slot =>
    if deadline < s.refNs (moduleOf c) then s.decline t slot else s.acceptSpawn c k t x0 x1 x2 x3 entry p slot
  | _ => s

/-- A slot may take work: it is empty, it is not held, and it is not a monitor slot (R90, R209, R256). -/
def State.slotOpen (s : State) (c k : Nat) : Bool :=
  (s.slot c k).thread.isNone && !(s.core c).dbgh.getLsbD k && decide (k < (if isHead c then 7 else 8)) && !s.coreHalted c

/-- CONTEXT_TAKE (R209): the reserved party, or the oldest context of the arrival queue. -/
def State.contextTake (s : State) (c k : Nat) : State :=
  if !s.slotOpen c k then s
  else
    match (s.slot c k).reserved with
    | some (q, n) => s.enterParty c k q n
    | none =>
      match (s.core c).arrivals with
      | [] => s
      | t :: rest => (s.modCore c (fun o => { o with arrivals := rest })).takeArrival c k t

/-- A spawn token among arrivals past its deadline: the token and its spawner's slot. -/
def State.lateToken (s : State) (c : Nat) (t : Traveller) : Option Nat :=
  match t.load with
  | .spawn _ _ _ _ _ deadline _ slot => if deadline ≤ s.refNs (moduleOf c) then some slot else none
  | _ => none

/-- The core without item `i` of its arrival queue, or, past the queue's end, of what ring 0 holds of it (R212). -/
def Core.dropWaiting (o : Core) (i : Nat) : Core :=
  if i < o.arrivals.length then { o with arrivals := o.arrivals.eraseIdx i }
  else match ((o.ring 0).items.filter (fun x => x.context.isSome))[i - o.arrivals.length]? with
    | none => o
    | some x => { o with rings := o.rings.set 0 { o.ring 0 with items := (o.ring 0).items.erase x } }

/-- The arrivals that wait for a slot, oldest first: the queue, then what ring 0 holds of it. -/
def Core.waitingArrivals (o : Core) : List Traveller := o.arrivals ++ (o.ring 0).items.filterMap (·.context)

/-- SPAWN_DEADLINE (R354): the token at a place of the arrival queue, or of its spill in ring 0, is declined. -/
def execSpawnDeadline (s : State) : Outcome :=
  let c := s.args.c
  .next (match (s.core c).waitingArrivals[s.args.idx]? with
    | none => s
    | some t =>
      match s.lateToken c t with
      | none => s
      | some slot =>
        if s.relocking (moduleOf c) (dieOf c) then s
        else (s.modCore c (fun o => o.dropWaiting s.args.idx)).decline t slot)

/-! ## Interrupts and timers (R208, R210) -/

/-- A notice of one of these kinds waits in a mailbox, in its FIFO or in its ring. -/
def State.waitsKind (s : State) (c : Nat) (ks : List Nat) : Bool :=
  (s.core c).mailboxes.any (fun m =>
    m.2.fifo.any (fun w => ks.contains (noticeKind w)) || (s.ringNotices c m.1).any (fun w => ks.contains (noticeKind w)))

/-- The source of the raised level that an interrupt reports: 3, 1 or 2, in that order (R208, R210). -/
def State.level (s : State) (c : Nat) : Option Nat :=
  let o := s.core c
  if s.waitsKind c [2, 8, 9, 10, 12, 14] then some 3
  else if o.tcmp ≠ 0 && o.tcmp.toNat ≤ s.cycOf (moduleOf c) (dieOf c) && bit o.ivslot 4 then some 1
  else if (List.range 16).any (fun n => o.mbie.getLsbD n && (o.mailbox n).holds) then some 2
  else none

/-- A park that an interrupt may interrupt (R210); a full/empty or other access of which a piece has performed may not. A wait for the miss
queue whose event has ended (`walks`) parks no more. -/
def Slot.interruptible (l : Slot) (walks : Bool) : Bool :=
  let whole := match l.carried with
    | some (.access a) => a.got.isEmpty && (a.parts.map (·.2)).foldl (· + ·) 0 == a.op.size
    | none => true
    | some (.fork _ _ _ _) => true
    | some (.yield _) => true
    | _ => false
  whole && !l.meet.any (·.rolled) && (match l.park with
    | none => l.busy == 0
    | some p => [1, 2, 3, 4, 6, 11, 15].contains p.code || (p == .step 9 && walks))

/-- The walkers of a core's quad have room for another miss (R170); a head core has walkers of its own. -/
def State.walksOpen (s : State) (c : Nat) : Bool := isHead c || !(s.quad (quadOf c)).missesFull

/-- Slot `k` of core `c` takes an interrupt in its turn (R210); the monitor slot of a head core takes none of a partition (R90). -/
def State.mayInterrupt (s : State) (c k : Nat) : Option Nat :=
  let o := s.core c
  let l := o.slot k
  if !bit o.ivslot 3 || bits o.ivslot 2 0 ≠ k || o.dbgh.getLsbD k || s.coreHalted c || (isHead c && k = 7) then none
  else
    match l.thread with
    | none => if l.reserved.isSome then none else s.level c
    | some t => if !t.ctx.status.sup && l.interruptible (s.walksOpen c) then s.level c else none

/-- INTERRUPT_ENTRY (R210): what a thread had carried issues again, and the stream elements that it took are back in their bindings. -/
def State.enterInterrupt (s : State) (c k : Nat) : State :=
  match s.mayInterrupt c k with
  | none => s
  | some src =>
    let s1 := match (s.slot c k).thread with
      | none => s
      | some t => s.giveBack t.origin t.tid (Carried.named (s.slot c k).carried).2
    (s1.modSlot c k (fun l => { l with carried := none })).interruptAt c k src

/-- The timer of a core whose `tie` is 0 expires (R208). -/
def State.timerExpire (s : State) (c : Nat) : State :=
  let o := s.core c
  let now := s.cycOf (moduleOf c) (dieOf c)
  if o.tcmp ≠ 0 && o.tcmp.toNat ≤ now && !bit o.ivslot 4 then
    (s.modCore c (fun o => { o with tcmp := 0 })).deliver c (bits o.ivslot 8 5) (noticeWord 4 0 now)
  else s

/-- TIMER_EXPIRY (R208). With `tie` = 1 the level rises, which `State.level` shows. -/
def execTimerExpiry (s : State) : Outcome := .next (s.timerExpire s.args.c)

/-- MAILBOX_RING_REFILL (R206). -/
def execMailboxRingRefill (s : State) : Outcome := .next (s.refillMailbox s.args.c s.args.mb)

end Sys2Proof.Machine
end

