-- ==== Sys2Proof/Machine/Sched.lean ====
section
/-! DEFINITION. The events of the scheduler and of the ordering machine at a core: dispatch, overflow, stealing, periods, retirement, the
commit of a split task, the store buffer, the loop-back queue and table walks (R125, R128, R138, R143, R145, R147, R158, R170, R179). -/
namespace Sys2Proof.Machine

/-! ## A core's turn (R198, R209) -/

/-- It is the turn of slot `k` of core `c`: slot k is served in the cycles whose number is k modulo 8, once in each (R198). -/
def State.turnOf (s : State) (c k : Nat) : Bool := (s.core c).cycle % 8 == k && (s.core c).lastTurn != some (s.core c).cycle

/-- Slot `k` of core `c` may act in its turn now: while `ctxsv` runs no other slot issues (R234). -/
def State.hasTurn (s : State) (c k : Nat) : Bool := s.turnOf c k && (s.core c).switching.all (· == k)

/-- The turn of this cycle is taken. -/
def State.tookTurn (s : State) (c : Nat) : State := s.modCore c (fun o => { o with lastTurn := some o.cycle })

/-- What comes first in a core's cycle: a stopped command is reported when a record has become free (R231), its timer is evaluated (R208,
R310), and pairs of its quad are placed (R216). -/
def State.cycleStart (s : State) (c : Nat) : State :=
  let s1 := (s.reportWaiting c).timerExpire c
  if isHead c || s.coreHalted c then s1 else s1.placePairs (quadOf c) none

/-- A part of a slot's turn as an event: in its cycle, after what comes first there, when it is that slot's next act. -/
def State.turnPart (s : State) (c k : Nat) (due : State → Bool) (act : State → State) : State :=
  let s1 := s.cycleStart c
  if s.hasTurn c k && due s1 then act (s1.tookTurn c) else s

/-- An empty slot takes work now: no interrupt comes first (R209). -/
def State.takesWork (s : State) (c k : Nat) : Bool := s.slotOpen c k && (s.mayInterrupt c k).isNone

/-- INTERRUPT_ENTRY as an event. -/
def execInterruptEntry (s : State) : Outcome :=
  let c := s.args.c
  let k := s.args.k
  .next (s.turnPart c k (fun s => (s.mayInterrupt c k).isSome) (fun s => s.enterInterrupt c k))

/-- CONTEXT_TAKE as an event. -/
def execContextTake (s : State) : Outcome :=
  let c := s.args.c
  let k := s.args.k
  .next (s.turnPart c k (fun s => s.takesWork c k && ((s.slot c k).reserved.isSome || !(s.core c).arrivals.isEmpty))
    (fun s => s.contextTake c k))

/-! ## Dispatch, overflow and stealing -/

/-- Slot `k` of core `c` takes a queue entry, when nothing of R209 comes before it (R128). -/
def State.dispatchTurn (s : State) (c k : Nat) : State :=
  if s.slotOpen c k && (s.slot c k).reserved.isNone && (s.core c).arrivals.isEmpty then s.dispatch c k else s

/-- DISPATCH (R128). -/
def execDispatch (s : State) : Outcome :=
  let c := s.args.c
  let k := s.args.k
  .next (s.turnPart c k (fun s => s.takesWork c k && (s.slot c k).reserved.isNone && (s.core c).arrivals.isEmpty)
    (fun s => s.dispatch c k))

/-- OVERFLOW_REFILL (R125). -/
def execOverflowRefill (s : State) : Outcome :=
  .next (if s.relocking (moduleOf s.args.c) (dieOf s.args.c) then s else s.refill s.args.c)

/-- The partition of a core is running. -/
def State.runs (s : State) (c : Nat) : Bool := ((s.partRec c).map (·.state == .running)).getD false

/-- STEAL_IDLE (R147): an idle core becomes a thief. -/
def execStealIdle (s : State) : Outcome :=
  let c := s.args.c
  .next (if (s.core c).steal = .busy && s.isIdle c && s.runs c && !s.relocking (moduleOf c) (dieOf c) then s.sendProbe c 0 else s)

/-- STEAL_WAIT_END (R147, R149): after 1,024 cycles a core that is still idle probes again. -/
def execStealWaitEnd (s : State) : Outcome :=
  let c := s.args.c
  let o := s.core c
  .next (if o.steal = .waiting && 1024 ≤ o.waited && s.runs c && !s.relocking (moduleOf c) (dieOf c) then
      (if s.isIdle c then s.sendProbe c 0 else s.modCore c (fun o => { o with steal := .busy }))
    else s)

/-! ## Periods and retirement -/

/-- A core without the queue entries that a test names, in both parts of every priority (R125). -/
def State.dropEntries (s : State) (c : Nat) (mine : QEntry → Bool) : State :=
  let keep := fun (l : List QEntry) => l.filter (fun e => !mine e)
  let gone := fun (p : Nat) => ((s.spilled c p).filter (fun x => mine x.2)).map (·.1)
  s.modCore c (fun o =>
    { o with
      q0 := keep o.q0, q1 := keep o.q1, q2 := keep o.q2, q3 := keep o.q3
      rings := o.rings.map (fun e => (e.1, { e.2 with items := e.2.items.filter (fun i => !(gone e.1).contains i) })) })

/-- A yielded split task whose period has ended (R152): its entry leaves the queue, wherever it stands, and the abort runs from step 2. -/
def State.expireYielded (s : State) (c base : Nat) (st : Seat) : State :=
  let n := ((s.core c).freeSeat).getD 64
  let s1 := (s.dropEntries c (fun e => e.image.isSplit && e.image.saved && e.frame.toNat == base)).modCore c (fun o =>
    { (o.retag (yieldedSeat base) n) with yielded := o.yielded.del base })
  (s1.modSeat c n (fun _ => { st with state := 3, live := 0, tids := [] })).abortTask c n 2

/-- PERIOD_EXPIRY (R138): of a seated task, or of one yielded in the queue. -/
def execPeriodExpiry (s : State) : Outcome :=
  let c := s.args.c
  let n := s.args.seat
  let st := (s.core c).seat n
  .next (if st.state = 1 && st.image.isSplit && st.prdl = 0 && !st.finishing then s.abortTask c n 2
    else match (s.core c).yielded.get n with
      | some y => if y.image.isSplit && y.prdl = 0 then s.expireYielded c n y else s
      | none => s)

/-- RETIREMENT_DECREMENT_SEND (R143): once the store buffers of the task's threads have drained; a thread quits only then, and one that a
fault has ended leaves only then. -/
def execRetirementDecrementSend (s : State) : Outcome :=
  let c := s.args.c
  let n := s.args.seat
  let st := (s.core c).seat n
  .next (if st.retiring && !s.cores.any (fun e => e.2.leaving.any (fun l => l.2.inSeat c n)) then (s.decrement c { launch := st.image.launchNo }).modSeat c n (fun _ => {}) else s)

/-! ## The commit of a split task (R145) -/

/-- A command that writes memory: one of a split task that is not logged has its destination in scratch (R136, R145). A `cpsi` delivers
to a stream register, and its binding does not delay the commit (DEDUCED, log 110). -/
def CmdOp.writesMemory : CmdOp → Bool
  | .cpsi | .cps | .cpc | .vtab | .mldb | .mmac | .mpass | .mzero | .maddx => false
  | _ => true

/-- COMMIT_LOG_HANDOFF (R145 steps 1 to 3). -/
def execCommitLogHandoff (s : State) : Outcome :=
  let c := s.args.c
  let n := s.args.seat
  let o := s.core c
  let st := o.seat n
  .next (if st.state = 2 && st.step = 1 && st.live = 1 && st.parked = 0 &&
      !o.cmds.any (fun d => d.seat == some n && d.op.writesMemory) && o.drainedSlot st.founder &&
      !s.relocking (moduleOf c) (dieOf c) then
      s.modSeat c n (fun st => { st with step := 4 })
    else s)

/-- A logged command is taken up by the committing core's copy engine (R222): its id, and the increment of its copy. -/
def State.commitCommand (s : State) (c n : Nat) (d : Cmd) : State :=
  let id := c % 2 ^ 24 * 2 ^ 24 + ((s.core c).cmdCount + 1) % 2 ^ 24
  let s1 := s.modCore c (fun o => { o with cmdCount := o.cmdCount + 1, cmds := o.cmds ++ [{ d with id, seat := some n, logged := true }] })
  if d.op = .binapp then s1
  else s1.increment c (bits d.launch 31 0) 1 true (some ((s.core c).seat n).founderTid) [.copy]

/-- COMMIT_ENTRY (R145 step 4): the entry with log number `idx`, when the earlier entries bound for its home have performed. A command is
bound to every home, so it follows every earlier entry and precedes every later one. A memory item for a home beyond the quad travels on
VC1 (R42; DEDUCED, log 114). A log that holds a media error ends the commit with
the fatal fault of kind 7 (R247). -/
def execCommitEntry (s : State) : Outcome :=
  let c := s.args.c
  let n := s.args.seat
  let i := s.args.idx
  let o := s.core c
  let st := o.seat n
  let busy := o.cmds.any (fun d => d.logged && d.seat == some n)
  let here := st.memLog.any (fun e => e.1 == i) || st.cmdLog.any (fun e => e.1 == i)
  .next (if st.state ≠ 2 || st.step ≠ 4 || busy || !here || st.away.contains i || st.cmdLog.any (fun d => decide (d.1 < i)) ||
      s.relocking (moduleOf c) (dieOf c) then s
    else if s.logBad st i then (s.modSeat c n (fun st => { st with step := 15 })).fatalPartition c 7
    else match st.memLog.find? (fun e => e.1 == i), st.cmdLog.find? (fun e => e.1 == i) with
      | some (_, e), _ =>
        if st.memLog.any (fun f => decide (f.1 < i) && coreOfKey f.2.home == coreOfKey e.home) then s
        else if e.near c then s.landItem c n i e
        else (s.modSeat c n (fun st => { st with away := st.away ++ [i] })).send
          { src := c, dst := coreOfKey e.home, vc := 1, tag := s.tagOf c, part := s.partTag c, load := .commitItem n i e }
      | none, some (_, d) =>
        if st.memLog.any (fun f => decide (f.1 < i)) then s
        else
          (s.modSeat c n (fun st =>
            { st with cmdLog := st.cmdLog.filter (fun f => f.1 != i), done := st.done + 1 })).commitCommand c n d
      | none, none => s)

/-- COMMIT_END (R145 step 5): scratch and seat are released, the founder's slot empties, and the retirement decrement follows. -/
def execCommitEnd (s : State) : Outcome :=
  let c := s.args.c
  let n := s.args.seat
  let o := s.core c
  let st := o.seat n
  .next (if st.state = 2 && st.step = 4 && st.memLog.isEmpty && st.cmdLog.isEmpty && !o.cmds.any (fun d => d.logged && d.seat == some n) &&
      !o.holds.any (fun h => h.who == some st.founderTid) && !s.relocking (moduleOf c) (dieOf c) then
      let mine := ((o.slot st.founder).thread.map (fun t => t.tid == st.founderTid)).getD false
      (((if mine then s.emptySlot c st.founder else s).endBindings st.founderTid).modCore c (fun o =>
        { o with cmds := o.cmds.map (fun d => if d.seat = some n then { d with seat := none } else d) })).retireSeat c n
    else s)

/-! ## The ordering machine at a core -/

/-- STORE_BUFFER_DRAIN (R179 step 3): the oldest entry performs at its home. -/
def execStoreBufferDrain (s : State) : Outcome :=
  let c := s.args.c
  .next (match (s.core c).buffer with
    | [] => s
    | e :: rest =>
      if s.relocking (moduleOf c) (dieOf c) then s
      else ((s.modCore c (fun o => { o with buffer := rest })).storeHome e.home e.bytes).settleQuits c)

/-- A store that left by the loop-back port performs its next piece (R173); what is left of it stays at the head of the queue. -/
def State.loopStore (s : State) (c k : Nat) (a : Access) (rest : List (Nat × Access)) : State :=
  match a.parts with
  | [] => s.modCore c (fun o => { o with loopq := rest })
  | (key, n) :: more =>
    let off := a.op.size - (a.parts.map (·.2)).foldl (· + ·) 0
    (s.storeHome key ((a.op.data.drop off).take n)).modCore c (fun o =>
      { o with loopq := match more with
          | [] => rest
          | _ => (k, { a with parts := more }) :: rest })

/-- An access that waits at the loop-back port performs its next piece; what is left of it stays at the head of the queue, so that its
pieces follow in the order of the queue (R158, R173, R179 step 7). -/
def State.loopLoad (s : State) (c k : Nat) (a : Access) (rest : List (Nat × Access)) : State :=
  let s1 := s.modCore c (fun o => { o with loopq := rest })
  if (s1.slot c k).park ≠ some .loopback then s1
  else
    let s2 := (s1.runParts c k a.op a.va [] [] true a.parts a.got).1
    match (s2.slot c k).torn, (s2.slot c k).carried with
    | true, some (.access b) =>
      (s2.modSlot c k (fun l => { l with park := some .loopback, carried := none, torn := false })).modCore c (fun o =>
        { o with loopq := (k, b) :: rest })
    | _, _ => s2

/-- LOOPBACK_PERFORM (R158, R179 step 7). -/
def execLoopbackPerform (s : State) : Outcome :=
  let c := s.args.c
  .next (match (s.core c).loopq with
    | [] => s
    | (k, a) :: rest =>
      if s.relocking (moduleOf c) (dieOf c) then s
      else match a.op with
      | .store _ _ => (s.loopStore c k a rest).settleQuits c
      | .storeQuad _ _ _ _ => (s.loopStore c k a rest).settleQuits c
      | _ => (s.loopLoad c k a rest).settleQuits c)

/-- TABLE_WALK_COMPLETE (R170, R171): the walk of an address at a core ends, and its place at the quad's walkers is free. -/
def execTableWalkComplete (s : State) : Outcome :=
  .next (if s.relocking (moduleOf s.args.c) (dieOf s.args.c) then s else s.walkEnds s.args.c s.args.va.toNat s.args.fetch)

end Sys2Proof.Machine
end

