-- ==== Sys2Proof/Machine/CopyEngine.lean ====
section
/-! DEFINITION. The copy engine: checks and fates of its commands, what it reads and the writes it produces (R136, R177, R382,
R385 to R393). -/
namespace Sys2Proof.Machine

/-! ## Acceptance errors (R382, R386 to R392) -/

/-- The range of a `cps`: its tag, base and length. -/
def Cmd.subTag (d : Cmd) : Nat := bits d.xa 15 0
def Cmd.subLength (d : Cmd) : Nat := bits d.xa 47 16

/-- A binding whose count is not spent. -/
def Stream.bound (b : Stream) : Bool := b.used < b.count

/-- Every value is a multiple of `n`. -/
def multiples (n : Nat) (l : List Word) : Bool := l.all (fun v => v.toNat % n == 0)

/-- The full-mode check (error 5). -/
def State.fullModeBad (s : State) (c : Nat) (d : Cmd) : Bool :=
  d.op.hasGeometry && d.fe &&
    (d.op == .cpr || d.op == .cpm || !multiples 4 [d.targetBase, d.reg 0, d.reg 2, d.reg 5] ||
      !d.copyTargets.all (fun r => s.localRun c r.1 r.2))

/-- A subscription of a tag that its core does not hold, beside 16 others. -/
def Core.subsFull (o : Core) (d : Cmd) : Bool := d.subLength != 0 && !o.subs.any (fun b => b.tag == d.subTag) && 16 ≤ o.subs.length

/-- The code of the first acceptance error of a copy-engine command, 0 none. -/
def State.copyError (s : State) (c : Nat) (t : Thread) (d : Cmd) : Nat :=
  let o := s.core c
  let q := d.ef % 2
  let isStream := d.op == .cpsi || d.op == .cpso
  let live := o.streams.filter Stream.bound
  if (d.op != .cpn && 16 < (d.reg 7).toNat) || (d.op == .cps && bits d.xa 63 48 != 0) || (d.op == .cpf && d.xb.toNat % 4 != 0) then 1
  else if (d.op == .cps && d.subLength != 0 && !s.privRun c d.xb.toNat d.subLength) ||
      (d.op == .cpf && (d.xa.toNat % 4 != 0 || !s.localRun c d.xa.toNat d.xb.toNat)) ||
      (d.op == .cpr && !multiples (reduceSize d.red) [d.reg 0, d.xa, d.xb, d.reg 1, d.reg 2, d.reg 4, d.reg 5]) ||
      (isStream && d.xa.toNat % 8 != 0) ||
      !d.copySources.all (fun r => s.sourceRun c r.1 r.2) || !d.copyTargets.all (fun r => s.targetRun c r.1 r.2) then 4
  else if s.fullModeBad c d then 5
  else if isStream && (d.xb == 0 || live.any (fun b => b.q == q && b.tid == t.tid) || 8 ≤ live.length) then 6
  else if d.op == .cps && o.subsFull d then 9
  else 0

/-! ## Fates in a split task (R136, R385) -/

/-- What becomes of a command before it is accepted. -/
inductive Fate where
  | act
  /-- an item of the commit log -/
  | log
  | trap (cause sub : Nat) (addr : Word)
  /-- a page fault in the translation of a source -/
  | park (va : Word) (cls : Nat)
  /-- a translation that finds the miss queue full (R170, R199 code 9) -/
  | busy
  deriving DecidableEq, Repr

/-- The bytes lie in a split task's scratch; they touch the part of it that belongs to the hardware. -/
def Seat.holdsRun (st : Seat) (va n : Nat) : Bool := st.scratchBase ≤ va && va + n ≤ st.scratchBase + st.scratchUnits * 256
def Seat.logRun (st : Seat) (va n : Nat) : Bool := va < st.scratchBase + st.logEnd && st.scratchBase + 256 < va + n

/-- Where the results of a command go: all in the scratch, at an address outside it, or into the log's region. -/
def Seat.resultFate (st : Seat) (l : List (Nat × Nat)) (outside : Nat → Fate) : Fate :=
  match l.find? (fun r => !st.holdsRun r.1 r.2) with
  | some r => outside r.1
  | none => match l.find? (fun r => st.logRun r.1 r.2) with
    | some r => .trap 4 4 (BitVec.ofNat 64 r.1)
    | none => .act

/-- The addresses at which a range enters a page. -/
def pageStarts (va n : Nat) : List Nat :=
  if n = 0 then []
  else va :: (List.range ((va + n - 1) / 2 ^ 16 - va / 2 ^ 16)).map (fun i => (va / 2 ^ 16 + 1 + i) * 2 ^ 16)

/-- The columns of R136 for a source: every page is translated as a load's address; a source outside the columns traps with cause 7. -/
def State.sourceFate (s : State) (c : Nat) (t : Thread) : List Nat → State × Fate
  | [] => (s, .act)
  | va :: rest =>
    let away := Fate.trap 7 0 (BitVec.ofNat 64 va)
    if 2 ^ 40 ≤ va && va < 2 ^ 41 then
      if va / 2 ^ 16 % 2 ^ 24 = c then s.sourceFate c t rest else (s, away)
    else if !bulkRun c va 1 then s.sourceFate c t rest
    else
      match s.lookup c va false with
      | (s1, .full) => (s1, .busy)
      | (s1, .fault k) => (s1, .park (BitVec.ofNat 64 va) k)
      | (s1, .page e) =>
        let pa := e.phys va
        if !t.ctx.status.sup && !e.u || !e.r then (s1, .trap 4 0 (BitVec.ofNat 64 va))
        else if spaceOf pa = 0 && !isHead c && quadOfPa pa = quadOf c then s1.sourceFate c t rest
        else (s1, away)

/-- The fate of a copy-engine command of a split task. -/
def State.copyFate (s : State) (c : Nat) (t : Thread) (st : Seat) (d : Cmd) : State × Fate :=
  match d.op with
  | .cps | .cpc => (s, .act)
  | .cpf | .cpso => (s, st.resultFate d.copyTargets (fun a => .trap 4 4 (BitVec.ofNat 64 a)))
  | _ =>
    match s.sourceFate c t (d.copySources.flatMap (fun r => pageStarts r.1 r.2)) with
    | (s1, .act) =>
      if d.op = .cpsi then (s1, .act)
      else if d.op = .cpm then (s1, .log)
      else (s1, st.resultFate d.copyTargets (fun _ => .log))
    | r => r

/-! ## Starting and reading (R387 to R392) -/

/-- A subscription is recorded, replaced or removed (R389). -/
def Core.subscribe (o : Core) (d : Cmd) : Core :=
  let rest := o.subs.filter (fun b => b.tag != d.subTag)
  { o with subs := if d.subLength = 0 then rest else rest ++ [{ tag := d.subTag, base := d.xb.toNat, length := d.subLength }] }

/-- A command has flits in flight, or written, under a tag at a core. -/
def Cmd.flies (e : Cmd) (tag h : Nat) : Bool :=
  e.started && e.fault.isNone &&
    (if e.op = .cpm then bits e.xb 15 0 == tag && e.recipients.any (fun r => r.1 == h)
    else e.op.file == .copy && e.copyTag == tag && (e.performed != 0 || e.pending.any (fun w => w.sent && coreOfKey w.home == h)))

/-- `cps` on core `c` (R389): a 17th tag is error 9, also when commands that waited before it have taken the room. A tag removed while
copies toward it are in flight cuts them off (R421). -/
def State.subscribe (s : State) (c : Nat) (d : Cmd) : State :=
  let o := s.core c
  if o.subsFull d then s.engineError c d 9
  else
    let s1 := s.modCore c (fun o => o.subscribe d)
    if d.subLength = 0 && o.subs.any (fun b => b.tag == d.subTag) then
      { s1 with cores := s1.cores.map (fun e =>
          if e.2.cmds.any (fun x => x.flies d.subTag c) then
            (e.1, { e.2 with cmds := e.2.cmds.map (fun x => if x.flies d.subTag c then { x with cut := x.cut ++ [c] } else x) })
          else e) }
    else s1

/-- The smallest piece in which a copy moves. -/
def Cmd.unit (d : Cmd) : Nat := if d.op = .cpr then reduceSize d.red else if d.fe then 4 else 1

/-- Every offset of a multicast lies within a length. -/
def Cmd.fits (d : Cmd) (length : Nat) : Bool := (List.range d.runs).all (fun r => (d.targetAt r).toNat + d.cnt0 ≤ length)

/-- The recipients of a multicast, fixed when its first flit leaves (R390); those whose length it passes get nothing, and the copy will
stop with class 8. -/
def State.fixRecipients (s : State) (c : Nat) (d : Cmd) : Cmd :=
  if d.phase ≠ 0 then d
  else
    let tag := bits d.xb 15 0
    let all := s.cores.flatMap (fun e =>
      if moduleOf e.1 = moduleOf c && s.partTag e.1 = s.partTag c then
        (e.2.subs.filter (fun b => b.tag == tag)).map (fun b => (e.1, b.base, b.length))
      else [])
    let bad := all.filter (fun r => !d.fits r.2.2)
    { d with
      phase := 1
      recipients := all.filter (fun r => d.fits r.2.2)
      status := if bad.isEmpty then 0 else 1
      gathered := bad.map (fun r => gaddr r.1 r.2.1) }

/-- The writes of a piece of a multicast: one for each recipient. -/
def Cmd.multicast (d : Cmd) (pos off : Nat) (l : List Byte) : List PWrite :=
  d.recipients.map (fun r =>
    { pos, va := gaddr r.1 (r.2.1 + off), home := localKey r.1 (r.2.1 + off), bytes := l, sub := some (bits d.xb 15 0) })

/-- A piece that has been read joins the pending set (step 12). -/
def State.joinPending (s : State) (c : Nat) (d : Cmd) (pos n : Nat) (l : List Byte) (dest : Word) : State :=
  let put := fun (s : State) (ws : List PWrite) =>
    s.modCmd c d.id (fun e => { e with reads := e.reads ++ [(pos, n)], pending := e.pending ++ ws })
  if d.op = .cpm then put s (d.multicast pos dest.toNat l)
  else
    match s.engineKey c d.user dest.toNat (d.op == .cpr) true with
    | (s1, .error k) => s1.stopCmd c d.id k 1 dest
    | (s1, .ok key) =>
      put s1 [{ pos, va := dest, home := key, bytes := l, full := d.fe, red := if d.op = .cpr then some d.red else none,
                sub := if s1.windowRun c dest.toNat 1 then some d.copyTag else none }]

/-! ## Distant sources (R3, R42, R65; DEDUCED, log 114) -/

/-- A home's core, or the edge quad and the port through which it is reached (R50). -/
def homeTarget (key : Nat) : Nat × Option Nat :=
  match homeCore key with
  | some h => (h, none)
  | none => (edgeCore (key / 2 ^ 44 % 256) (16 + portOfKey key), some (portOfKey key))

/-- A read of a distant source goes on from core `src`, or from the buffer of port `buf`: to the home of its next piece, or, when it has
everything, when it has failed, or from a buffer, back to its core. -/
def State.readOn (s : State) (src : Nat) (buf : Option Nat) (tag : BitVec 16) (part : Nat) (r : FarRead) : State :=
  match buf, r.err, r.todo with
  | none, none, x :: _ =>
    s.send { src, dst := (homeTarget x.2.1).1, vc := 1, tag, part, load := .copyRead r, port := (homeTarget x.2.1).2 }
  | _, _, _ => s.send { src, dst := r.core, vc := 1, tag, part, load := .copyRead r, port := buf, fromBuffer := buf.isSome }

/-- A command asks distant homes for a range of its source. -/
def State.askFar (s : State) (c : Nat) (d : Cmd) (pos n : Nat) (dest : Word) (todo : List (Nat × Nat × Nat)) : State :=
  ((s.modCmd c d.id (fun e => { e with asked := e.asked ++ [(s.stamp, pos, n)] })).stampUp).readOn c none d.tag (s.partTag c)
    { core := c, id := d.id, key := s.stamp, pos, dest, todo }

/-- The pieces of a read that its home has, read there one after another until one meets a memory error (R231, R244). -/
def State.takePieces (s : State) (r : FarRead) (mine : Nat → Bool) : List (Nat × Nat × Nat) → List Byte → State × FarRead
  | [], got => (s, { r with todo := [], got })
  | (va, key, n) :: rest, got =>
    if !mine key then (s, { r with todo := (va, key, n) :: rest, got })
    else match s.health key n with
      | .media => (s, { r with todo := (va, key, n) :: rest, got, err := some (5, va) })
      | .integrity => (s, { r with todo := (va, key, n) :: rest, got, err := some (6, va) })
      | .sound => State.takePieces (s.countRead key n) r mine rest (got ++ s.bytes key n)

/-- A range of a source read: `go` receives the bytes of what lies in the own quad; anything else is asked for. -/
def State.readSource (s : State) (c : Nat) (d : Cmd) (pos n : Nat) (va dest : Word) (go : State → List Byte → State) : State :=
  match s.engineKeys c d.user (unitPieces (n / 4096 + 2) va.toNat n) [] with
  | (s1, .error (k, a)) => s1.stopCmd c d.id k 0 (BitVec.ofNat 64 a)
  | (s1, .ok todo) =>
    if todo.all (fun x => nearHome c x.2.1) then
      match s1.engineBytes c d.user va.toNat n with
      | (s2, .wait) => s2
      | (s2, .fault k a) => s2.stopCmd c d.id k 0 (BitVec.ofNat 64 a)
      | (s2, .bytes l) => go s2 l
    else s1.askFar c d pos n dest todo

/-- A range is being asked for, or has been read. -/
def Cmd.hasRead (d : Cmd) (pos n : Nat) : Bool := d.reads.any (rangesMeet (pos, n)) || d.asked.any (fun a => rangesMeet (pos, n) a.2)

/-- The copy engine reads a piece of its source from position `pos`, at most `len` bytes (step 11): in its own quad at once, elsewhere by
a traveller. A piece never leaves its packet's 2,048 bytes (R53). -/
def State.readCopy (s : State) (c : Nat) (d0 : Cmd) (pos len : Nat) : State :=
  let d := if d0.op = .cpm then s.fixRecipients c d0 else d0
  let s := s.modCmd c d.id (fun _ => d)
  let u := d.unit
  if d.total ≤ pos || pos % u ≠ 0 then s
  else
    let r := pos / d.cnt0
    let j := pos % d.cnt0
    let dest := d.targetAt r + BitVec.ofNat 64 j
    let room := min (min (d.cnt0 - j) (4096 - dest.toNat % 4096)) (2048 - pos % 2048)
    let n := if d.op = .cpr then u else max u (min len room / u * u)
    if d.hasRead pos n then s
    else if d.op = .cpz then s.joinPending c d pos n (List.replicate n 0) dest
    else
      s.readSource c d pos n (d.sourceAt r + BitVec.ofNat 64 j) dest (fun s l => s.joinPending c d pos n l dest)

/-- `cpf`: the word at a position joins the set of bits to change (R388). -/
def State.readBits (s : State) (c : Nat) (d : Cmd) (pos : Nat) : State :=
  if d.xb.toNat ≤ pos || pos % 4 ≠ 0 || d.reads.any (rangesMeet (pos, 4)) then s
  else
    let va := d.xa + BitVec.ofNat 64 pos
    s.modCmd c d.id (fun e =>
      { e with
        reads := e.reads ++ [(pos, 4)]
        pending := e.pending ++ [{ pos, va, home := s.localAt c va.toNat, bytes := List.replicate 4 0, bits := some (d.ef % 2 = 1) }] })

/-- The binding that a stream command serves. -/
def Core.bindingOf (o : Core) (d : Cmd) : Option Stream := o.streams.find? (fun b => b.cmd == d.id)

/-- A binding of a command changed. -/
def Core.modBinding (o : Core) (id : Nat) (f : Stream → Stream) : Core :=
  { o with streams := o.streams.map (fun b => if b.cmd = id then f b else b) }

/-- An element of an input stream joins the pending set, in source order. -/
def State.joinElement (s : State) (c id pos : Nat) (va : Word) (l : List Byte) : State :=
  s.modCmd c id (fun e => { e with
    pending := e.pending.filter (fun w => w.pos < pos) ++ [{ pos, va, home := 0, bytes := l }] ++ e.pending.filter (fun w => pos < w.pos) })

/-- The next element of an input stream is read, at most 16 ahead (R177, R392). -/
def State.readStreamIn (s : State) (c : Nat) (d : Cmd) (b : Stream) : State :=
  if d.xb.toNat ≤ d.phase || b.tid = 0 || 16 ≤ d.pending.length + d.asked.length + b.elems.length then s
  else
    let va := d.xa + BitVec.ofNat 64 (8 * d.phase)
    (s.modCmd c d.id (fun e => { e with phase := e.phase + 1 })).readSource c d d.phase 8 va va (fun s l => s.joinElement c d.id d.phase va l)

/-- The oldest unsent element of an output stream leaves for memory; in local memory its words become full (R175). -/
def State.readStreamOut (s : State) (c : Nat) (d : Cmd) (b : Stream) : State :=
  match b.elems with
  | [] => s
  | v :: rest =>
    let va := d.xa + BitVec.ofNat 64 (8 * d.phase)
    match s.engineKey c d.user va.toNat false true with
    | (s1, .error k) => s1.stopCmd c d.id k 1 va
    | (s1, .ok key) =>
      let w : PWrite := { pos := d.phase, va, home := key, bytes := toBytes v.toNat 8, full := isLocalKey key,
                          sub := if s1.windowRun c va.toNat 1 then some d.copyTag else none }
      (s1.modCmd c d.id (fun e => { e with phase := e.phase + 1, pending := e.pending ++ [w] })).modCore c (fun o =>
        o.modBinding d.id (fun b => { b with elems := rest, moved := b.moved + 1 }))

/-- A read of the copy engine for one of its commands. -/
def State.readByCopy (s : State) (c : Nat) (d : Cmd) (pos len : Nat) : State :=
  match d.op with
  | .cpf => s.readBits c d pos
  | .cpsi => match (s.core c).bindingOf d with
    | none => s
    | some b => s.readStreamIn c d b
  | .cpso => match (s.core c).bindingOf d with
    | none => s
    | some b => s.readStreamOut c d b
  | _ => if d.op.hasGeometry then s.readCopy c d pos len else s

/-- A read of a distant source comes back to its core: its bytes join the command's pending set, or the command stops (R231). A command
that has stopped or ended since has no use for it. -/
def State.readDone (s : State) (r : FarRead) : State :=
  let c := r.core
  match (s.core c).cmd r.id with
  | none => s
  | some d =>
    match d.asked.find? (fun a => a.1 == r.key), r.err with
    | none, _ => s
    | some _, some (k, va) => s.stopCmd c d.id k 0 (BitVec.ofNat 64 va)
    | some (_, pos, n), none =>
      let s1 := s.modCmd c d.id (fun e => { e with asked := e.asked.filter (fun a => a.1 != r.key) })
      if d.op = .cpsi then s1.joinElement c d.id pos r.dest r.got else s1.joinPending c d pos n r.got r.dest

/-- A read arrives (R42): at a home, which reads what it has of it and sends it on, or turns it back when it is lost or of another group
(R95, R248); at a capacity buffer; or at its core. -/
def State.readIn (s : State) (t : Traveller) (r : FarRead) : State :=
  let h := t.dst
  if t.atBuffer then
    let m := moduleOf h
    let x := s.takePieces r (fun k => (homeCore k).isNone && k / 2 ^ 44 % 256 == m && t.port == some (portOfKey k)) r.todo r.got
    x.1.readOn h t.port t.tag t.part x.2
  else if h = r.core && (r.todo.isEmpty || r.err.isSome) then s.readDone r
  else if h = r.core && !r.todo.any (fun x => homeCore x.2.1 == some h) then s.readOn h none t.tag t.part r
  else if (s.core h).lost || s.partTag h ≠ t.part then s.turnBack t 2
  else
    let x := s.takePieces r (fun k => homeCore k == some h) r.todo r.got
    if h = r.core && (x.2.todo.isEmpty || x.2.err.isSome) then x.1.readDone x.2 else x.1.readOn h none t.tag t.part x.2

/-- The bytes that a command has read. -/
def Cmd.readTotal (d : Cmd) : Nat := d.reads.foldl (fun a r => a + r.2) 0

/-- Every write of a copy-engine command has performed (step 14). -/
def State.copyDone (s : State) (c : Nat) (d : Cmd) : Bool :=
  match d.op with
  | .cps | .cpc => true
  | .cpf => d.pending.isEmpty && d.readTotal == d.xb.toNat
  | .cpsi => match (s.core c).bindingOf d with
    | none => true
    | some b => b.count ≤ b.used && b.elems.isEmpty
  | .cpso => d.pending.isEmpty && (match (s.core c).bindingOf d with
    | none => true
    | some b => decide (b.count ≤ b.used) && b.elems.isEmpty)
  | _ => d.pending.isEmpty && d.readTotal == d.total

/-! ## Writes to other cores (R235, R389, R390) -/

/-- A pending write replaced by what has become of it. -/
def State.changeWrite (s : State) (c id : Nat) (w v : PWrite) : State :=
  s.modCmd c id (fun e => { e with pending := e.pending.map (fun p => if p = w then v else p) })

/-- The write performs where its core reaches without a traveller: in its own memory, in its quad's commons and column, and as the bits
of a write whose data have performed. -/
def PWrite.near (w : PWrite) (c : Nat) : Bool := w.bits.isSome || (w.sub.isNone && nearHome c w.home)

/-- A write leaves for a home beyond its quad, or through a window, as a traveller of VC1 with the tag of its command (R42, R233): to the
core of its home, or to the edge quad of its capacity port (R50). -/
def State.sendWrite (s : State) (c : Nat) (d : Cmd) (w : PWrite) : State :=
  let v := { w with sent := true }
  (s.changeWrite c d.id w v).send
    { src := c, dst := (homeTarget w.home).1, vc := 1, tag := d.tag, part := s.partTag c, load := .copyData d.id v, port := (homeTarget w.home).2 }

/-- A travelling write arrives at its home: turned back by a lost core or a core of another group (R95, R248), held for its tag
(R235), or performed. -/
def State.writeIn (s : State) (t : Traveller) (id : Nat) (w : PWrite) : State :=
  let h := t.dst
  if t.port.isSome then s.landWrite t.src id w
  else if (s.core h).lost || s.partTag h ≠ t.part then s.turnBack t 2
  else if t.tag ≠ 0 && t.tag ≠ s.tagOf h then
    if (s.core h).held.any (fun g => g.tag == t.tag) then
      let v := { w with held := true }
      (s.changeWrite t.src id w v).holdArrival { t with load := .copyData id v }
    else s.turnBack t 1
  else s.landWrite t.src id w

/-- A memory item of a commit arrives: the same, with the item in place of the write (R145). -/
def State.commitIn (s : State) (t : Traveller) (n i : Nat) (e : MemLog) : State :=
  let h := t.dst
  if (s.core h).lost || s.partTag h ≠ t.part then s.turnBack t 2
  else if t.tag ≠ 0 && t.tag ≠ s.tagOf h then s.holdArrival t
  else s.itemIn t.src n i e

/-- An element of an input stream is delivered to its binding, in source order (R177). -/
def State.deliverElem (s : State) (c : Nat) (d : Cmd) (w : PWrite) : State :=
  if ((s.core c).bindingOf d).any (fun b => b.tid != 0 && b.moved != w.pos) then s
  else (s.modCore c (fun o => o.modBinding d.id (fun b =>
    if b.tid = 0 then b else { b with elems := b.elems ++ [BitVec.ofNat 64 (ofBytes w.bytes)], moved := b.moved + 1 }))).wrote c d.id w

end Sys2Proof.Machine
end

