-- ==== Sys2Proof/Machine/PoolBin.lean ====
section
/-! DEFINITION. Pooling over the capacity tier, and binning: the commands that pass through the copy engine's queue (R66, R68, R154,
R155, R287, R288, R412 to R420). -/
namespace Sys2Proof.Machine

/-! ## Bins (R154, R416 to R420) -/

/-- `bn.set`, `bn.sh`, `bn.nreg`, `bn.mode`, `bn.anc`. -/
def Cmd.binSet (d : Cmd) : Nat := (d.reg 0).toNat
def Cmd.binShift (d : Cmd) : Nat := bits (d.reg 1) 4 0
def Cmd.binRegions (d : Cmd) : Nat := bits (d.reg 2) 16 0
def Cmd.binMode (d : Cmd) : Bool := bit (d.reg 3) 0
def Cmd.binAnchor (d : Cmd) : Int := (d.reg 4).toInt

/-- The size of a target element of a replay. -/
def Cmd.binElem (d : Cmd) : Nat := if d.binMode then 8 else 4

/-- The ranges that a bin command reads and writes locally. -/
def Cmd.binSources (d : Cmd) : List (Nat × Nat) := if d.op = .binapp then [(d.xa.toNat, 8 * d.xb.toNat)] else []
def Cmd.binTargets (d : Cmd) : List (Nat × Nat) :=
  if d.op = .binplay then [(d.xb.toNat, d.binElem * 2 ^ d.binShift)] else []

/-- The code of the first acceptance error of a bin command (R416, R418, R419). -/
def State.binError (s : State) (c : Nat) (d : Cmd) : Nat :=
  let n := d.binRegions
  let sets := d.op != .binflush
  if (d.op != .binapp && 16 < (d.reg 5).toNat) || (sets && (n = 0 || 65536 < n)) || (d.op == .binapp && 4096 < d.xb.toNat) ||
      (d.op == .binplay && n ≤ d.xa.toNat) then 1
  else if (sets && (d.binSet % 2 ^ 16 != 0 || !bulkRun c d.binSet (n * 2 ^ 16))) || (d.op == .binapp && d.xa.toNat % 8 != 0) ||
      (d.op == .binplay && d.xb.toNat % d.binElem != 0) ||
      !d.binSources.all (fun r => s.localRun c r.1 r.2) || !d.binTargets.all (fun r => s.localRun c r.1 r.2) then 4
  else 0

/-- The home key of the bin of a region: a writable page of stacked bulk memory, or a copy fault's class (R418, R419). -/
def State.binKey (s : State) (c : Nat) (d : Cmd) (region : Nat) : State × Except Nat Nat :=
  match s.engineKey c d.user (d.binSet + region * 2 ^ 16) false true with
  | (s1, .ok key) => if !isBulkKey key then (s1, .error 4) else if s1.homeGone c key then (s1, .error 7) else (s1, .ok key)
  | r => r

/-- Record `i` of an append: from the log's copy, or from local memory as it stands. -/
def State.binRecord (s : State) (c : Nat) (d : Cmd) (i : Nat) : State × EngineRead :=
  if d.logged then (s, .bytes (toBytes (d.gathered.getD i 0).toNat 8))
  else s.engineBytes c d.user (d.xa.toNat + 8 * i) 8

/-- The next record of an append joins the pending set, is dropped with `bkey`, or stops the command. -/
def State.readAppend (s : State) (c : Nat) (d : Cmd) : State :=
  match (List.range d.xb.toNat).find? (fun i => !d.reads.contains (i, 1)) with
  | none => s
  | some i =>
    match s.binRecord c d i with
    | (s1, .wait) => s1
    | (s1, .fault k va) => s1.stopCmd c d.id k 0 (BitVec.ofNat 64 va)
    | (s1, .bytes l) =>
      let region := ofBytes (l.take 4) / 2 ^ d.binShift
      if d.binRegions ≤ region then
        (s1.modCore c (fun o => o.orStatus .bin 0x200)).modCmd c d.id (fun e => { e with reads := e.reads ++ [(i, 1)] })
      else
        let va := BitVec.ofNat 64 (d.binSet + region * 2 ^ 16)
        match s1.binKey c d region with
        | (s2, .error k) => s2.stopCmd c d.id k 1 va
        | (s2, .ok key) =>
          s2.modCmd c d.id (fun e =>
            { e with
              reads := e.reads ++ [(i, 1)]
              pending := e.pending ++ [{ pos := i, va, home := key, bytes := l, append := true }] })

/-- BIN_TAKE at the home of a page (R419): in one event its records and whether any were lost, and the page reads as an empty bin
afterwards; or the class of the memory error that the counts, or the records present, meet. A count above 8,191, which no append makes, is
read as 8,191 (DESIGN CHOICE, log 120). -/
def State.takePage (s : State) (key : Nat) : State × Except Nat (List Word × Bool) :=
  let n := min (s.num key 4) 8191
  let health := match s.health key 8 with
    | .sound => s.health (key + 8) (8 * n)
    | h => h
  match health with
  | .media => (s, .error 5)
  | .integrity => (s, .error 6)
  | .sound =>
    (s.storeHome key (List.replicate (8 + 8 * n) 0), .ok (wordsOf (s.bytes (key + 8) (8 * n)), s.num (key + 4) 4 ≠ 0))

/-- A `binplay` has its records, or stops. -/
def State.binTaken (s : State) (c id : Nat) (va : Word) (r : Except Nat (List Word × Bool)) : State :=
  match r with
  | .error k => s.stopCmd c id k 1 va
  | .ok (records, lost) =>
    s.modCmd c id (fun e => { e with gathered := records, phase := 1, asked := [], status := if lost then 2 else 0 })

/-- A `binplay` takes its bin: in its own quad at once, elsewhere by a traveller to its home (R42; DEDUCED, log 114). -/
def State.takeBin (s : State) (c : Nat) (d : Cmd) : State :=
  let va := BitVec.ofNat 64 (d.binSet + d.xa.toNat * 2 ^ 16)
  match s.binKey c d d.xa.toNat with
  | (s1, .error k) => s1.stopCmd c d.id k 1 va
  | (s1, .ok key) =>
    if nearHome c key then (s1.takePage key).1.binTaken c d.id va (s1.takePage key).2
    else
      ((s1.modCmd c d.id (fun e => { e with asked := [(s1.stamp, 0, 0)] })).stampUp).send
        { src := c, dst := coreOfKey key, vc := 1, tag := d.tag, part := s1.partTag c, load := .binAsk d.id s1.stamp key va }

/-- The take arrives at the home of the page, which sends the records back; a lost home, or one of another group, turns it back (R95,
R248). -/
def State.binAskIn (s : State) (t : Traveller) (id key page : Nat) (va : Word) : State :=
  if (s.core t.dst).lost || s.partTag t.dst ≠ t.part then s.turnBack t 2
  else
    let back := fun (s : State) (records : List Word) (lost : Bool) (error : Option (Nat × Word)) =>
      s.send { src := t.dst, dst := t.src, vc := 1, tag := t.tag, part := t.part, load := .binTaken id key records lost error }
    match s.takePage page with
    | (s1, .error k) => back s1 [] false (some (k, va))
    | (s1, .ok (records, lost)) => back s1 records lost none

/-- The records of a bin come to the core that took it. -/
def State.binTakenIn (s : State) (c id key : Nat) (records : List Word) (lost : Bool) (error : Option (Nat × Word)) : State :=
  match (s.core c).cmd id with
  | none => s
  | some d =>
    if !d.asked.any (fun a => a.1 == key) then s
    else match error with
      | some (k, va) => s.stopCmd c id k 1 va
      | none => s.binTaken c id 0 (.ok (records, lost))

/-- The element that a record adds to, and its new value (R155): bytes, and whether an int64 sum saturated. -/
def Cmd.replayValue (d : Cmd) (free : Word) (old : List Byte) (v : Nat) : List Byte × Bool :=
  if d.binMode then
    let r := sat64 (sextInt 64 (ofBytes old) + replayInt d.binAnchor free (fp32.decode v))
    (toBytes (BitVec.ofInt 64 r.1).toNat 8, r.2)
  else (toBytes (fp32.fadd .rne (ofBytes old) v).1 4, false)

/-- The next record of a replay: its target element is read, and the sum joins the pending set. -/
def State.readReplay (s : State) (c : Nat) (d : Cmd) : State :=
  match d.pending.isEmpty && decide (1 ≤ d.phase), d.gathered[d.phase - 1]? with
  | true, some r =>
    let va := d.xb.toNat + d.binElem * (bits r 31 0 % 2 ^ d.binShift)
    match s.engineBytes c d.user va d.binElem with
    | (s1, .wait) => s1
    | (s1, .fault k a) => s1.stopCmd c d.id k 1 (BitVec.ofNat 64 a)
    | (s1, .bytes old) =>
      let (l, sat) := d.replayValue (Config.freeWord s1.free) old (bits r 63 32)
      let s2 := (if sat then s1.modCore c (fun o => o.orStatus .bin 0x100) else s1).tick
      s2.modCmd c d.id (fun e =>
        { e with
          phase := e.phase + 1
          status := if sat then e.status ||| 1 else e.status
          pending := [{ pos := 8 * (d.phase - 1), va := BitVec.ofNat 64 va, home := s2.localAt c va, bytes := l }] })
  | _, _ => s

/-! ## Pooling (R412 to R415, R288) -/

/-- `po.len`, `po.fmt`, `po.anc`, `po.w`, `po.nrow`. -/
def Cmd.poolLen (d : Cmd) : Nat := bits (d.reg 1) 8 0
def Cmd.poolFmt (d : Cmd) : Nat := bits (d.reg 2) 3 0
def Cmd.poolAnchor (d : Cmd) : Int := (d.reg 3).toInt
def Cmd.poolWeighted (d : Cmd) : Bool := bit (d.reg 4) 0
def Cmd.poolRows (d : Cmd) : Nat := bits (d.reg 5) 31 0

/-- The bytes of a row, and the row stride (R413). -/
def Cmd.rowBytes (d : Cmd) : Nat := d.poolLen * elemSize d.poolFmt + (if d.poolFmt = 5 then 4 else 0)
def Cmd.rowStride (d : Cmd) : Nat := 64 * ((d.rowBytes + 63) / 64)

/-- The bytes of a bag block with n bags and m indices (R414). -/
def Cmd.blockBytes (d : Cmd) (n m : Nat) : Nat := 8 + 8 * n + 4 * m + (if d.poolWeighted then 4 * m else 0)

/-- The bytes that a pool with n bags writes (R415). -/
def Cmd.poolBytes (d : Cmd) (n : Nat) : Nat := 4 * n * d.poolLen + 32

/-- n, or m, of a bag block as it stands in local memory. -/
def State.bagField (s : State) (c : Nat) (d : Cmd) (i : Nat) : Nat :=
  if s.localRun c d.xa.toNat 8 then s.num (s.localAt c (d.xa.toNat + 4 * i)) 4 else 0

/-- A legal count of bags and of indices. -/
def legalBags (n m : Nat) : Bool := 1 ≤ n && n ≤ 256 && m ≤ 4096

/-- The ranges that a pool reads and writes, with n and m as they stand. -/
def State.poolSources (s : State) (c : Nat) (d : Cmd) : List (Nat × Nat) :=
  let n := s.bagField c d 0
  let m := s.bagField c d 1
  [(d.xa.toNat, if legalBags n m then d.blockBytes n m else 8)]
def State.poolTargets (s : State) (c : Nat) (d : Cmd) : List (Nat × Nat) :=
  let n := s.bagField c d 0
  if 1 ≤ n ∧ n ≤ 256 then [(d.xb.toNat, d.poolBytes n)] else []

/-- The code of the first acceptance error of a pool. -/
def State.poolError (s : State) (c : Nat) (d : Cmd) : Nat :=
  if d.poolLen = 0 || 256 < d.poolLen || 16 < (d.reg 6).toNat then 1
  else if !([0, 2, 3, 5].contains d.poolFmt) then 2
  else if d.xa.toNat % 4 != 0 || d.xb.toNat % 4 != 0 || !(s.poolSources c d).all (fun r => s.localRun c r.1 r.2) ||
      !(s.poolTargets c d).all (fun r => s.localRun c r.1 r.2) then 4
  else 0

/-- The home key of the table's base: a capacity-tier page of the issuing core's module with `r`, or a copy fault's class (R413). -/
def State.poolTable (s : State) (c : Nat) (d : Cmd) : State × Except Nat Nat :=
  if !bulkRun c (d.reg 0).toNat 1 then (s, .error 4)
  else
    match s.engineKey c d.user (d.reg 0).toNat true false with
    | (s1, .ok key) => if spaceOf key = 1 && key / 2 ^ 44 % 256 = moduleOf c then (s1, .ok key) else (s1, .error 4)
    | r => r

/-- The key of row `r`: channel r mod 16, rank ⌊r / 16⌋ mod 4 (R66, R413). -/
def Cmd.rowKey (d : Cmd) (tbl r : Nat) : Nat :=
  tbl / 2 ^ 42 * 2 ^ 42 + r % 16 * 2 ^ 38 + r / 16 % 4 * 2 ^ 36 + (tbl % 2 ^ 36 + r / 64 * d.rowStride)

/-- A row is out of range: at or above the row count, or past the 64 GiB of its rank. -/
def Cmd.rowBad (d : Cmd) (tbl r : Nat) : Bool :=
  d.poolRows ≤ r || 2 ^ 36 < tbl % 2 ^ 36 + r / 64 * d.rowStride + d.rowBytes

/-- The terms of a row with its weight (R288). -/
def Cmd.rowTerms (d : Cmd) (w : Fl) (l : List Byte) : List Fl :=
  let scale : Fl := if d.poolFmt = 5 then fp32.decode (ofBytes (l.take 4)) else .fin false 1 0
  let body := if d.poolFmt = 5 then l.drop 4 else l
  (List.range d.poolLen).map (fun i =>
    let v := elemValue d.poolFmt [] [] (rawElem d.poolFmt body i)
    (w.mul ((v.mul scale).1)).1)

/-- A row of a bag, in the buffer of its channel, with its weight. -/
def State.addRow (s : State) (d : Cmd) (tbl : Nat) (b : BagSum) (row : Nat × Option Nat) : BagSum :=
  if d.rowBad tbl row.1 then { b with bad := true }
  else
    let key := d.rowKey tbl row.1
    if s.hasBad key d.rowBytes then { b with error := some 5 }
    else
      let w : Fl := (row.2.map fp32.decode).getD (.fin false 1 0)
      { b with acc := List.zipWith (fun a t => a.term d.poolAnchor t) b.acc (d.rowTerms w (s.bytes key d.rowBytes)) }

/-- A list in an order that the spec leaves open: free numbers from `free` on choose it (DESIGN CHOICE, log 108). -/
def pickOrder {α : Type} : Nat → Nat → List α → List α
  | 0, _, l => l
  | _, _, [] => []
  | _, _, [x] => [x]
  | n + 1, free, x :: y :: rest =>
    let l := x :: y :: rest
    let i := Config.freeNat free % l.length
    l.getD i x :: pickOrder n (free + 1) (l.eraseIdx i)

/-- A buffer's sums of its share of a block, for each bag: its rows in an order that shows only when the bag saturates (R288). -/
def State.sumShare (s : State) (j : PoolJob) (bags : List (List (Nat × Option Nat))) : List BagSum :=
  bags.zipIdx.map (fun b => (pickOrder b.1.length (s.free + 8192 * b.2) b.1).foldl (s.addRow j.cmd j.table)
    { acc := List.replicate j.cmd.poolLen {} })

/-- Two parts of a bag added by R286. -/
def BagSum.add (a b : BagSum) : BagSum :=
  { acc := List.zipWith AccElem.addRaw a.acc b.acc, bad := a.bad || b.bad, error := a.error <|> b.error }

/-- The hub adds the sixteen buffers' partial sums of every bag, in the order in which they answered (R68, R288). -/
def hubSums : List (List BagSum) → List BagSum
  | [] => []
  | p :: rest => rest.foldl (fun a q => List.zipWith BagSum.add a q) p

/-- The rows of bag `k` of a block with `n` bags and `m` indices, each with its weight (R414). -/
def Cmd.bagRows (d : Cmd) (n m : Nat) (block : List Byte) (k : Nat) : List (Nat × Option Nat) :=
  let word := fun (off : Nat) => ofBytes ((block.drop off).take 4)
  let first := word (8 + 8 * k)
  (List.range (word (12 + 8 * k))).map (fun i =>
    (word (8 + 8 * n + 4 * (first + i)), if d.poolWeighted then some (word (8 + 8 * n + 4 * m + 4 * (first + i))) else none))

/-- A block whose counts, or one of whose bags, is out of range (R414). -/
def bagsMalformed (n m : Nat) (block : List Byte) : Bool :=
  !legalBags n m || (List.range n).any (fun k =>
    decide (m < ofBytes ((block.drop (8 + 8 * k)).take 4) + ofBytes ((block.drop (12 + 8 * k)).take 4)))

/-- The words that a pool writes: the results of its bags, each rounded once, then the bad-index vector. -/
def Cmd.poolWords (d : Cmd) (sums : List BagSum) : List (List Byte) :=
  let results := sums.flatMap (fun b => b.acc.map (fun a => toBytes (a.drain fp32 d.poolAnchor (.fin false 1 0)).1 4))
  let mask := (sums.zipIdx.map (fun b => if b.1.bad then 2 ^ b.2 else 0)).foldl (· + ·) 0
  results ++ (List.range 8).map (fun i => toBytes (mask / 2 ^ (32 * i)) 4)

/-- The core beside whose router stands the hub slice of a core's pool commands: that of its die row's capacity die, beside that die's
capacity ports (R68). -/
def hubCore (c : Nat) : Nat := edgeCore (moduleOf c) (16 + 4 * (dieOf c % 4))

/-- A pool reads its block, and sends it to its hub slice (R68, R415; DEDUCED, log 114). -/
def State.readPool (s : State) (c : Nat) (d : Cmd) : State :=
  if d.phase ≠ 0 then s
  else
    let stop10 := fun (s : State) => (s.engineError c d 10).modCmd c d.id (fun e => { e with phase := 1, status := 8 })
    match s.engineBytes c d.user d.xa.toNat 8 with
    | (s1, .wait) => s1
    | (s1, .fault k a) => s1.stopCmd c d.id k 0 (BitVec.ofNat 64 a)
    | (s1, .bytes head) =>
      let n := ofBytes (head.take 4)
      let m := ofBytes (head.drop 4)
      if !legalBags n m || !s1.localRun c d.xa.toNat (d.blockBytes n m) || !s1.localRun c d.xb.toNat (d.poolBytes n) then stop10 s1
      else
        match s1.engineBytes c d.user d.xa.toNat (d.blockBytes n m) with
        | (s2, .wait) => s2
        | (s2, .fault k a) => s2.stopCmd c d.id k 0 (BitVec.ofNat 64 a)
        | (s2, .bytes block) =>
          if bagsMalformed n m block then stop10 s2
          else
            match s2.poolTable c d with
            | (s3, .error k) => s3.stopCmd c d.id k 0 (d.reg 0)
            | (s3, .ok tbl) =>
              ((s3.modCmd c d.id (fun e => { e with phase := 1, asked := [(s3.stamp, 0, 0)] })).stampUp).send
                { src := c, dst := hubCore c, vc := 1, tag := d.tag, part := s3.partTag c
                  load := .poolAsk { core := c, cmd := d, key := s3.stamp, table := tbl } ((List.range n).map (d.bagRows n m block)) }

/-- A pool comes to its hub slice, which sends each buffer its share (R68). -/
def State.poolAskIn (s : State) (t : Traveller) (j : PoolJob) (bags : List (List (Nat × Option Nat))) : State :=
  let m := moduleOf t.dst
  (List.range 16).foldl (fun s p =>
    s.send { src := t.dst, dst := edgeCore m (16 + p), vc := 1, tag := t.tag, part := t.part, port := some p
             load := .poolShare j (bags.map (fun b => b.filter (fun r => r.1 % 16 == p))) })
    (s.modModule m (fun o => { o with hub := o.hub ++ [(j, [])] }))

/-- A share comes to its buffer, which answers with its sums. -/
def State.poolShareIn (s : State) (t : Traveller) (j : PoolJob) (bags : List (List (Nat × Option Nat))) : State :=
  { s with free := s.free + 8192 * bags.length }.send
    { src := t.dst, dst := hubCore j.core, vc := 1, tag := t.tag, part := t.part, port := t.port, fromBuffer := true
      load := .poolPart j (s.sumShare j bags) }

/-- A buffer's sums come to the hub slice: the last of the sixteen makes the result, which goes to the pool's core. -/
def State.poolPartIn (s : State) (t : Traveller) (j : PoolJob) (sums : List BagSum) : State :=
  let m := moduleOf t.dst
  match (s.module m).hub.find? (fun x => x.1 == j) with
  | none => s
  | some (_, parts) =>
    let all := parts ++ [sums]
    if all.length < 16 then
      s.modModule m (fun o => { o with hub := o.hub.map (fun x => if x.1 == j then (j, all) else x) })
    else
      let total := hubSums all
      (s.modModule m (fun o => { o with hub := o.hub.filter (fun x => x.1 != j) })).send
        { src := t.dst, dst := j.core, vc := 1, tag := t.tag, part := t.part
          load := .poolSum j.cmd.id j.key (j.cmd.poolWords total) (total.any (·.bad)) (total.any (fun b => b.acc.any (·.sat)))
            (total.findSome? (·.error)) }

/-- The result of a pool comes to its core: its words join the pending set with full mode (R415), or the pool stops (R231). -/
def State.poolSumIn (s : State) (c id key : Nat) (words : List (List Byte)) (bad sat : Bool) (error : Option Nat) : State :=
  match (s.core c).cmd id with
  | none => s
  | some d =>
    if !d.asked.any (fun a => a.1 == key) then s
    else match error with
      | some k => s.stopCmd c id k 0 (d.reg 0)
      | none =>
        let ws := words.zipIdx.map (fun (x : List Byte × Nat) =>
          ({ pos := 4 * x.2, va := d.xb + BitVec.ofNat 64 (4 * x.2), home := s.localAt c (d.xb.toNat + 4 * x.2), bytes := x.1,
             full := true } : PWrite))
        (s.modCore c (fun o => o.orStatus .pool (bad.toNat * 0x200 + sat.toNat * 0x100))).modCmd c id (fun e =>
          { e with pending := ws, asked := [], status := bad.toNat + sat.toNat * 2 })

/-- An arrival of a distant read, of pooling or of a bin's take (R42, R68, R419); what comes back to a core is its engine's own. -/
def State.engineIn (s : State) (t : Traveller) : Option State :=
  match t.load with
  | .copyRead r => some (s.readIn t r)
  | .poolAsk j bags => some (s.poolAskIn t j bags)
  | .poolShare j bags => some (s.poolShareIn t j bags)
  | .poolPart j sums => some (s.poolPartIn t j sums)
  | .poolSum id key words bad sat error => some (s.poolSumIn t.dst id key words bad sat error)
  | .binAsk id key page va => some (s.binAskIn t id key page va)
  | .binTaken id key records lost error => some (s.binTakenIn t.dst id key records lost error)
  | _ => none

/-! ## Reads and completion -/

/-- A read of the copy engine for a pool or bin command. -/
def State.readByPoolBin (s : State) (c : Nat) (d : Cmd) : State :=
  match d.op with
  | .binapp => s.readAppend c d
  | .binplay => s.readReplay c d
  | .pool => s.readPool c d
  | _ => s

/-- A command was accepted, or taken up by a commit, before another on its core: ids count modulo 2^24 (R222). -/
def Cmd.before (e d : Cmd) : Bool :=
  e.id != d.id && decide ((d.id % 2 ^ 24 + 2 ^ 24 - e.id % 2 ^ 24) % 2 ^ 24 < 2 ^ 23)

/-- Every write of a pool or bin command has performed (step 14). A `binflush` waits for the appends of every `binapp` that was accepted
before it (R420). -/
def State.poolBinDone (s : State) (c : Nat) (d : Cmd) : Bool :=
  match d.op with
  | .binapp => d.pending.isEmpty && d.reads.length == d.xb.toNat
  | .binplay => d.pending.isEmpty && d.phase == d.gathered.length + 1
  | .pool => d.pending.isEmpty && d.asked.isEmpty && d.phase != 0
  | .binflush => !(s.core c).cmds.any (fun e => e.op == .binapp && e.before d)
  | _ => false

/-- An append performs at its bin in record order: the first of its command bound for that bin. -/
def Cmd.firstAt (d : Cmd) (w : PWrite) : Bool := (d.pending.find? (fun p => p.home == w.home)) == some w

end Sys2Proof.Machine
end

