-- ==== Sys2Proof/Machine/VectorEngine.lean ====
section
/-! DEFINITION. The vector engine: operands, checks, and the groups of elements that it reads, computes and writes (R280 to R282, R287,
R289, R394 to R404). -/
namespace Sys2Proof.Machine

/-! ## Registers and options (R378, R394) -/

/-- `v.len`, the strides, `v.fmt`. -/
def Cmd.vlen (d : Cmd) : Nat := (d.reg 0).toNat
def Cmd.vstride (d : Cmd) (i : Nat) : Int := (d.reg i).toInt
def Cmd.vfmt (d : Cmd) : Nat := bits (d.reg 6) 3 0

/-- The options `k`, `msk`, and the field ef[7:4]. -/
def Cmd.optK (d : Cmd) : Bool := d.ef % 2 = 1
def Cmd.optMask (d : Cmd) : Bool := d.ef / 2 % 2 = 1
def Cmd.optField (d : Cmd) : Nat := d.ef / 16 % 16

/-- The function reads a B operand, which `k` may replace. -/
def CmdOp.hasB : CmdOp → Bool
  | .vadd | .vsub | .vmul | .vfma | .vmin | .vmax | .vsel | .vdot | .vcmp => true
  | _ => false

/-- The function works through an index list. -/
def CmdOp.indexed : CmdOp → Bool
  | .vgat | .vsca | .vscadd => true
  | _ => false

/-- The function uses a tensor header. -/
def CmdOp.usesHeader : CmdOp → Bool
  | .vrot | .vquant | .vdeq => true
  | _ => false

/-! ## Tensor headers (R280) -/

/-- Fields of a header's four words. -/
def Cmd.hdrFmt (d : Cmd) : Nat := bits (d.header.getD 0 0) 7 0
def Cmd.hdrLog (d : Cmd) : Nat := bits (d.header.getD 0 0) 15 8
def Cmd.hdrScl (d : Cmd) : Bool := bit (d.header.getD 0 0) 17
def Cmd.hdrScales (d : Cmd) : Nat := (d.header.getD 1 0).toNat
def Cmd.hdrScale (d : Cmd) : Nat := bits (d.header.getD 2 0) 31 0
def Cmd.hdrSeed (d : Cmd) : Word := d.header.getD 3 0

/-- The key of a header (R380): local; that of a matrix command, as its operands, also in the issuing core's own quad column. -/
def State.headerKey (s : State) (c : Nat) (user column : Bool) (va : Nat) : State × Option Nat :=
  if va = 0 || va % 32 ≠ 0 then (s, none)
  else if s.localRun c va 32 then (s, some (s.localAt c va))
  else if !column then (s, none)
  else
    match s.engineKey c user va true false with
    | (s1, .ok k) => if isBulkKey k && !isHead c && quadOfPa k = quadOf c then (s1, some k) else (s1, none)
    | (s1, .error _) => (s1, none)

/-- A header read at acceptance for slot `k`; none when it is missing, misplaced, or has a reserved bit set. -/
def State.readHeader (s : State) (c k : Nat) (user column : Bool) (va : Nat) : State × Option (List Word) :=
  match s.headerKey c user column va with
  | (s1, none) => (s1, none)
  | (s1, some key) =>
    match s1.readHome c k key 32 with
    | .did s2 l =>
      let w := wordsOf l
      (s2, if bits (w.getD 0 0) 63 18 = 0 && bits (w.getD 2 0) 63 48 = 0 then some w else none)
    | .stop s2 => (s2, none)
    | _ => (s1, none)

/-! ## Operand ranges (R395) -/

/-- The format of the elements of A, and of D. -/
def Cmd.fmtA (d : Cmd) : Nat := match d.op with
  | .vflt => 7
  | .vdeq => d.hdrFmt
  | _ => d.vfmt
def Cmd.fmtD (d : Cmd) : Nat := match d.op with
  | .vcvt => d.optField
  | .vfix => 7
  | .vflt => 0
  | .vquant => d.hdrFmt
  | .vdeq => 0
  | _ => d.vfmt

/-- The address of an element: base + i × stride × size, modulo 2^64. -/
def elemAddr (base : Word) (i : Nat) (stride : Int) (size : Nat) : Nat := (base + BitVec.ofInt 64 (i * stride * size)).toNat

/-- Element `i` of A, B and D. -/
def Cmd.elemA (d : Cmd) (i : Nat) : Nat × Nat := (elemAddr d.xb i (d.vstride 1) (elemSize d.fmtA), elemSize d.fmtA)
def Cmd.elemB (d : Cmd) (i : Nat) : Nat × Nat := (elemAddr (d.reg 4) i (d.vstride 2) (elemSize d.fmtA), elemSize d.fmtA)
def Cmd.elemD (d : Cmd) (i : Nat) : Nat × Nat := (elemAddr d.xa i (d.vstride 3) (elemSize d.fmtD), elemSize d.fmtD)

/-- The byte of mask bit `i`, and the index of element `i`. -/
def Cmd.maskByte (d : Cmd) (i : Nat) : Nat × Nat := ((d.reg 9 + BitVec.ofNat 64 (i / 8)).toNat, 1)
def Cmd.indexWord (d : Cmd) (i : Nat) : Nat × Nat := ((d.reg 10 + BitVec.ofNat 64 (4 * i)).toNat, 4)

/-- The element that an index names, from a base. -/
def Cmd.indexedElem (d : Cmd) (base : Word) (x : Nat) : Nat × Nat := (elemAddr base x 1 (elemSize d.vfmt), elemSize d.vfmt)

/-- The scale bytes of the blocks that a command touches (R402). -/
def Cmd.scaleRange (d : Cmd) : Nat × Nat :=
  (((d.header.getD 1 0) + BitVec.ofNat 64 ((d.reg 5).toNat / 2 ^ d.hdrLog)).toNat, d.vlen / 2 ^ d.hdrLog)

/-- The mask is read. -/
def Cmd.readsMask (d : Cmd) : Bool := d.op == .vsel || d.optMask

/-- The ranges that a vector command reads. -/
def Cmd.vectorSources (d : Cmd) : List (Nat × Nat) :=
  let all := fun (f : Nat → Nat × Nat) => (List.range d.vlen).map f
  if d.op = .vtab then [(d.xb.toNat, 1024)]
  else if d.op = .vdeq then [(d.xb.toNat, packedSize d.hdrFmt d.vlen)] ++ (if d.hdrScl then [d.scaleRange] else [])
  else
    (if d.op = .vgat then [] else all d.elemA) ++ (if d.op.hasB && !d.optK then all d.elemB else []) ++
    (if d.op = .vfma then all d.elemD else []) ++ (if d.readsMask then all d.maskByte else []) ++
    (if d.op.indexed then all d.indexWord else [])

/-- The ranges that a vector command writes, but for those that an index list gives. -/
def Cmd.vectorTargets (d : Cmd) : List (Nat × Nat) :=
  match d.op with
  | .vtab | .vsca | .vscadd => []
  | .vred | .vdot => [(d.xa.toNat, elemSize d.vfmt)]
  | .vcmp => if d.vlen = 0 then [] else [(d.xa.toNat, (d.vlen + 7) / 8)]
  | .vquant => [(d.xa.toNat, packedSize d.hdrFmt d.vlen)] ++ (if d.hdrScl then [d.scaleRange] else [])
  | _ => (List.range d.vlen).map d.elemD

/-- The elements that the index list names as it stands, among those that are local (R400). -/
def State.indexTargets (s : State) (c : Nat) (d : Cmd) (base : Word) : List (Nat × Nat) :=
  ((List.range d.vlen).map (fun i => d.indexedElem base (s.num (s.localAt c (d.indexWord i).1) 4))).filter
    (fun r => s.localRun c r.1 r.2)

/-! ## Acceptance errors (R396 to R404) -/

/-- The format codes that a function accepts. -/
def CmdOp.formats : CmdOp → List Nat
  | .vsqrt => [0, 1]
  | .vexp2 => [0]
  | .vfix => [0, 1]
  | .vflt => [0]
  | .vquant | .vdeq | .vrot => [0]
  | .vsel | .vcvt => [0, 1, 2, 3, 4, 5, 6, 7]
  | .vgat | .vsca => [0, 1, 2, 3, 5, 6, 7]
  | _ => [0, 1, 2, 3, 5, 6, 7]

/-- A per-tensor scale is positive and finite (R282). -/
def goodScale (v : Nat) : Bool :=
  match fp32.decode v with
  | .fin s m _ => !s && m != 0
  | _ => false

/-- Registers of a function that works on whole blocks of `n` elements. -/
def Cmd.blocksBad (d : Cmd) (n : Nat) : Bool :=
  d.vstride 1 != 1 || d.vstride 3 != 1 || d.vlen % n != 0 || (d.reg 5).toNat % n != 0

/-- The code of the first acceptance error of a vector command whose header, if it uses one, has been read. -/
def State.vectorError (s : State) (c : Nat) (d : Cmd) (header : Bool) : Nat :=
  let quant := d.op == .vquant || d.op == .vdeq
  let fmtOk := d.op == .vtab || (d.op.formats.contains d.vfmt && (d.op != .vcvt || d.optField ≤ 7))
  let log := d.hdrLog
  if (d.op == .vcmp && d.vfmt < 4 && 8 ≤ d.optField) || (d.op == .vrot && (d.vfmt != 0 || d.blocksBad 64)) ||
      (quant && header && (log < 4 || 10 < log || d.blocksBad (2 ^ log))) then 1
  else if !fmtOk || (quant && header && (d.hdrFmt < 8 || 11 < d.hdrFmt)) then 2
  else if d.op.usesHeader && (!header || (quant && !goodScale d.hdrScale)) then 3
  else if (d.op == .vtab && d.xb.toNat % 64 != 0) || !d.vectorSources.all (fun r => s.localRun c r.1 r.2) ||
      !d.vectorTargets.all (fun r => s.localRun c r.1 r.2) then 4
  else 0

/-! ## One element (R395 to R398, R404) -/

/-- An integer wrapped to `w` bits. -/
def wrapInt (w : Nat) (v : Int) : Nat := (BitVec.ofInt w v).toNat

/-- The sum of two elements of a format, with flags. -/
def addElem (f : Nat) (a b : Nat) : Nat × Nat :=
  match fmtOf f with
  | some g => g.fadd .rne a b
  | none => (wrapInt (intWidth f) (sextInt (intWidth f) a + sextInt (intWidth f) b), 0)

/-- The product of two elements, rounded once. -/
def mulElem (f : Nat) (a b : Nat) : Nat × Nat :=
  match fmtOf f with
  | some g => g.fmul .rne a b
  | none => (wrapInt (intWidth f) (sextInt (intWidth f) a * sextInt (intWidth f) b), 0)

/-- The arithmetic functions on integers of `w` bits. -/
def intElem (op : CmdOp) (w : Nat) (a b e : Int) : Nat :=
  wrapInt w (match op with
    | .vadd => a + b
    | .vsub => a - b
    | .vmul => a * b
    | .vfma => a * b + e
    | .vmin => if a ≤ b then a else b
    | .vmax => if b ≤ a then a else b
    | .vabs => if a < 0 then -a else a
    | .vneg => -a
    | _ => 0)

/-- The arithmetic functions on a floating format. -/
def floatElem (op : CmdOp) (g : Fmt) (a b e : Nat) : Nat × Nat :=
  match op with
  | .vadd => g.fadd .rne a b
  | .vsub => g.fsub .rne a b
  | .vmul => g.fmul .rne a b
  | .vfma => g.ffma .rne a b e
  | .vmin => g.fmin a b
  | .vmax => g.fmax a b
  | .vabs => g.fabs a
  | .vneg => g.fneg a
  | .vsqrt => g.fsqrt .rne a
  | .vexp2 => g.fexp2 a
  | _ => (0, 0)

/-- An integer saturated to `w` bits, and whether it was out of range. -/
def saturate (w : Nat) (v : Int) : Nat × Bool :=
  if v < -2 ^ (w - 1) then (wrapInt w (-2 ^ (w - 1)), true)
  else if 2 ^ (w - 1) - 1 < v then (wrapInt w (2 ^ (w - 1) - 1), true)
  else (wrapInt w v, false)

/-- A conversion (R398): the element and what it sets in `v.st`. -/
def convertElem (src dst : Nat) (a : Nat) : Nat × Nat :=
  match fmtOf src, fmtOf dst with
  | some f, some g => fcvt f g .rne a
  | none, some g => g.ofInt .rne (sextInt (intWidth src) a)
  | none, none =>
    let r := saturate (intWidth dst) (sextInt (intWidth src) a)
    (r.1, if r.2 then 0x100 else 0)
  | some f, none =>
    match f.decode a with
    | .nan _ => (0, flagNv)
    | .inf s => ((saturate (intWidth dst) (if s then -2 ^ 64 else 2 ^ 64)).1, flagNv)
    | .fin s m e =>
      let v := roundInt .rne s m e
      let r := saturate (intWidth dst) v.1
      (r.1, if r.2 then flagNv else if v.2 then flagNx else 0)

/-- An element of an elementwise function, `vcvt`, `vfix` or `vflt`: A, B, the old D, and the mask bit. -/
def Cmd.element (d : Cmd) (a b e : Nat) (m : Bool) : Nat × Nat :=
  match d.op with
  | .vsel => match fmtOf d.vfmt with
    | some g => g.pass (if m then a else b)
    | none => (if m then a else b, 0)
  | .vcvt => convertElem d.vfmt d.fmtD a
  | .vfix =>
    let x := (fmtOf d.vfmt).getD fp32
    let r := fixInt (d.reg 8).toInt (x.decode a)
    (wrapInt 64 r.1, (if r.2 then 0x100 else 0) ||| snanFlag [x.decode a])
  | .vflt => fltInt (d.reg 8).toInt (sextInt 64 a)
  | op =>
    match fmtOf d.vfmt with
    | some g => floatElem op g a b e
    | none =>
      let w := intWidth d.vfmt
      (intElem op w (sextInt w a) (sextInt w b) (sextInt w e), 0)

/-- A comparison of `vcmp` (R397, R299). -/
def Cmd.compare (d : Cmd) (a b : Nat) : Bool × Nat :=
  let cc := BitVec.ofNat 4 d.optField
  match fmtOf d.vfmt with
  | some g =>
    let r := fcond g cc a b
    (r.1, if r.2 then flagNv else 0)
  | none =>
    let w := intWidth d.vfmt
    (cond cc (BitVec.ofNat w a) (BitVec.ofNat w b), 0)

/-! ## Reading a group (R395) -/

/-- Concatenated bytes cut into the numbers of some ranges. -/
def cutNums : List (Nat × Nat) → List Byte → List Nat
  | [], _ => []
  | (_, n) :: rest, l => ofBytes (l.take n) :: cutNums rest (l.drop n)

/-- The numbers of some local ranges; none when the core is lost in the reading. -/
def State.localNums (s : State) (c : Nat) (rs : List (Nat × Nat)) : State × Option (List Nat) :=
  match s.localBytes c (rs.flatMap (fun r => unitPieces 3 r.1 r.2)) [] with
  | (s1, none) => (s1, none)
  | (s1, some l) => (s1, some (cutNums rs l))

/-- What a group reads: its element numbers, their indices, A, B, old D and mask bits. -/
structure Group where
  is : List Nat
  idx : List Nat := []
  a : List Nat := []
  b : List Nat := []
  e : List Nat := []
  mask : List Nat := []
  deriving DecidableEq, Repr

/-- A range that lies outside local memory is not read. -/
def State.orEmpty (s : State) (c : Nat) (r : Nat × Nat) : Nat × Nat := if s.localRun c r.1 r.2 then r else (r.1, 0)

/-- The A element of a group's element: through the index for `vgat`, where one outside local memory is not read. -/
def State.rangeA (s : State) (c : Nat) (d : Cmd) (i x : Nat) : Nat × Nat :=
  if d.op = .vgat then s.orEmpty c (d.indexedElem d.xb x) else d.elemA i

/-- The old D element of a group's element, where the function reads it. -/
def State.rangeE (s : State) (c : Nat) (d : Cmd) (i x : Nat) : Nat × Nat :=
  if d.op = .vfma then d.elemD i else if d.op = .vscadd then s.orEmpty c (d.indexedElem d.xa x) else (0, 0)

/-- Every read of a group, before any write of it. -/
def State.readGroup (s : State) (c : Nat) (d : Cmd) (is : List Nat) : State × Option Group :=
  match s.localNums c (if d.op.indexed then is.map d.indexWord else []) with
  | (s1, none) => (s1, none)
  | (s1, some idx) =>
    let at' := fun (f : Nat → Nat → Nat × Nat) => is.zipIdx.map (fun p => f p.1 (idx.getD p.2 0))
    match s1.localNums c (at' (s1.rangeA c d)) with
    | (s2, none) => (s2, none)
    | (s2, some a) =>
      match s2.localNums c (if d.op.hasB && !d.optK then is.map d.elemB else []) with
      | (s3, none) => (s3, none)
      | (s3, some b) =>
        match s3.localNums c (at' (s3.rangeE c d)) with
        | (s4, none) => (s4, none)
        | (s4, some e) =>
          match s4.localNums c (if d.readsMask then is.map d.maskByte else []) with
          | (s5, none) => (s5, none)
          | (s5, some mask) => (s5, some { is, idx, a, b, e, mask })

/-- The parts of element `p` of a group. -/
def Group.mbit (g : Group) (p : Nat) : Bool := g.mask.getD p 0 / 2 ^ (g.is.getD p 0 % 8) % 2 = 1
def Cmd.valueB (d : Cmd) (g : Group) (p : Nat) : Nat :=
  if d.optK then (d.reg 5).toNat % 2 ^ (8 * elemSize d.fmtA) else g.b.getD p 0

/-- The element is written: its mask bit is 1, or the option is off. -/
def Cmd.writes (d : Cmd) (g : Group) (p : Nat) : Bool := !d.optMask || g.mbit p

/-! ## The writes of a group -/

/-- Bytes at a local address as pending writes, one for each 4 KiB unit. -/
def State.localWrites (s : State) (c pos va : Nat) (bs : List Byte) : List PWrite :=
  (unitPieces (bs.length / 4096 + 2) va bs.length).map (fun r =>
    { pos, va := BitVec.ofNat 64 r.1, home := s.localAt c r.1, bytes := (bs.drop (r.1 - va)).take r.2 })

/-- What a group gives: its writes as (address, bytes), and what it sets in `v.st`. -/
structure Result where
  writes : List (Nat × List Byte) := []
  flags : Nat := 0
  deriving DecidableEq, Repr

/-- An elementwise group. -/
def Cmd.groupElements (d : Cmd) (g : Group) : Result :=
  (List.range g.is.length).foldl (fun r p =>
    if !d.writes g p then r
    else
      let v := d.element (g.a.getD p 0) (d.valueB g p) (g.e.getD p 0) (g.mbit p)
      let at' := d.elemD (g.is.getD p 0)
      { writes := r.writes ++ [(at'.1, toBytes v.1 at'.2)], flags := r.flags ||| v.2 }) {}

/-- A gathered group: an element from outside local memory is skipped with `bidx`. -/
def State.groupGather (s : State) (c : Nat) (d : Cmd) (g : Group) : Result :=
  (List.range g.is.length).foldl (fun r p =>
    if !d.writes g p then r
    else
      let src := d.indexedElem d.xb (g.idx.getD p 0)
      if !s.localRun c src.1 src.2 then { r with flags := r.flags ||| 0x200 }
      else
        let at' := d.elemD (g.is.getD p 0)
        { r with writes := r.writes ++ [(at'.1, toBytes (g.a.getD p 0) at'.2)] }) {}

/-- A scatter group's write of a target replaces an earlier one of the group. -/
def putWrite (l : List (Nat × List Byte)) (va : Nat) (bs : List Byte) : List (Nat × List Byte) :=
  l.filter (fun w => w.1 != va) ++ [(va, bs)]

/-- A target that a scatter may write: local, and for a split task in its scratch. -/
def State.scatterOk (s : State) (c : Nat) (d : Cmd) (r : Nat × Nat) : Bool :=
  s.localRun c r.1 r.2 && (match d.seat with
    | none => true
    | some n =>
      let st := (s.core c).seat n
      st.holdsRun r.1 r.2 && !st.logRun r.1 r.2)

/-- A scattered group (R400): equal targets leave the highest element's value, or gather their terms in ascending order. -/
def State.groupScatter (s : State) (c : Nat) (d : Cmd) (g : Group) : Result :=
  (List.range g.is.length).foldl (fun r p =>
    if !d.writes g p then r
    else
      let at' := d.indexedElem d.xa (g.idx.getD p 0)
      if !s.scatterOk c d at' then { r with flags := r.flags ||| 0x200 }
      else if d.op = .vsca then { r with writes := putWrite r.writes at'.1 (toBytes (g.a.getD p 0) at'.2) }
      else
        let old := match r.writes.find? (fun w => w.1 == at'.1) with
          | some w => ofBytes w.2
          | none => g.e.getD p 0
        let v := addElem d.vfmt old (g.a.getD p 0)
        { writes := putWrite r.writes at'.1 (toBytes v.1 at'.2), flags := r.flags ||| v.2 }) {}

/-- A compared group: its mask bytes; bits at and beyond `v.len` keep the values that their byte holds (R397). -/
def State.groupCompare (s : State) (c : Nat) (d : Cmd) (g : Group) : Result :=
  let bit' := fun p => d.compare (g.a.getD p 0) (d.valueB g p)
  let first := g.is.headD 0
  let writes := (List.range ((g.is.length + 7) / 8)).map (fun j =>
    let va := (d.xa + BitVec.ofNat 64 (first / 8 + j)).toNat
    let old := (s.byte (s.localAt c va)).toNat
    let v := (List.range 8).map (fun i =>
      if 8 * j + i < g.is.length then (if (bit' (8 * j + i)).1 then 2 ^ i else 0) else old / 2 ^ i % 2 * 2 ^ i)
    (va, toBytes (v.foldl (· + ·) 0) 1))
  { writes, flags := (List.range g.is.length).foldl (fun f p => f ||| (bit' p).2) 0 }

/-- A rotated block (R401). -/
def Cmd.groupRotate (d : Cmd) (g : Group) : Result :=
  let first := d.reg 5 + BitVec.ofNat 64 (g.is.headD 0)
  let r := rotateBlock (d.optField % 4 != 1) (d.optField % 4 != 2) d.hdrSeed first g.a
  { writes := r.1.zipIdx.map (fun v => ((d.elemD (g.is.getD v.2 0)).1, toBytes v.1 4)), flags := r.2 }

/-- The magnitude half's value M, in units of 2^−136: that of entry f (R276, R282). -/
def tableMax (six : Bool) (tab : List Nat) : Int :=
  ((((List.range (if six then 32 else 128)).reverse).findSome? (fun i => entryUnits (tab.getD i 0)))).getD 0

/-- Codes of a format as packed bytes. -/
def packCodes (code : Nat) (l : List Nat) : List Byte := if isSix code then packSix l else l.flatMap (fun v => toBytes v 1)

/-- A quantised block (R282, R402): its codes, and its scale byte when the tensor has scales. -/
def State.groupQuantise (s : State) (c : Nat) (d : Cmd) (g : Group) : Result :=
  let o := s.core c
  let t := d.hdrFmt % 2
  let six := isSix d.hdrFmt
  let tab := if t = 0 then o.tab0 else o.tab1
  let xs := g.a.map fp32.decode
  let nan := xs.any Fl.isNan
  let (sm, se) := match fp32.decode d.hdrScale with
    | .fin _ m e => (m, e)
    | _ => (1, 0)
  let a := xs.foldl Fl.maxMag (.fin false 0 0)
  let sb := if nan then 0x7F else blockScale sm se (tableMax six tab) a
  let zero := match a with
    | .fin _ m _ => m == 0
    | _ => false
  let (bm, be) := match (if d.hdrScl then scaleValue (BitVec.ofNat 8 sb) else .fin false 1 0) with
    | .fin _ m e => (m, e)
    | _ => (1, 0)
  let code := fun (v : Nat) =>
    let x := fp32.decode v
    let k := encCtl (d.reg 11) t
    let none' := Config.freeNat s.free
    let neg := fp32.neg v
    if nan then encodeCode six tab k none' neg .nan
    else if zero then (if neg then (if six then 32 else 128) else 0)
    else encodeCode six tab k none' neg (x.over (sm * bm) (se + be))
  let first := g.is.headD 0
  let codes := packCodes d.hdrFmt (g.a.map code)
  let scale := if d.hdrScl then [((d.scaleRange).1 + first / 2 ^ d.hdrLog, toBytes sb 1)] else []
  { writes := [(d.xa.toNat + packedSize d.hdrFmt first, codes)] ++ scale, flags := snanFlag xs }

/-- A dequantised group: each element rne_fp32(val × s_b × S) (R282). -/
def State.groupDequantise (s : State) (c : Nat) (d : Cmd) (g : Group) (codes : List Byte) (scale : Option Byte) : Result :=
  let o := s.core c
  let sb : Fl := match scale with
    | none => .fin false 1 0
    | some b => scaleValue b
  (List.range g.is.length).foldl (fun r p =>
    let x := elemValue d.hdrFmt o.tab0 o.tab1 (rawElem d.hdrFmt codes p)
    let m := x.mul sb
    let q := m.1.mul (fp32.decode d.hdrScale)
    let f := fp32.finish .rne [x] (q.1, m.2 ||| q.2)
    { writes := r.writes ++ [((d.elemD (g.is.getD p 0)).1, toBytes f.1 4)], flags := r.flags ||| f.2 })
    { flags := if (scale.map badScale).getD false then 0x400 else 0 }

/-! ## The phases of a command -/

/-- The elements of a group. -/
def Cmd.groupSize (d : Cmd) : Nat :=
  if d.op = .vrot then 64 else if d.op = .vquant then 2 ^ d.hdrLog else 16

/-- The number of groups; a reduction reads at least one, and a table is read whole. -/
def Cmd.groups (d : Cmd) : Nat :=
  let n := (d.vlen + d.groupSize - 1) / d.groupSize
  if d.op = .vtab then 1 else if d.op = .vred || d.op = .vdot then max 1 n else n

/-- The element numbers of group `k`. -/
def Cmd.groupIs (d : Cmd) (k : Nat) : List Nat :=
  ((List.range d.groupSize).map (fun i => k * d.groupSize + i)).filter (fun i => i < d.vlen)

/-- A group's result: its writes join the pending set, and its flags go to `v.st`. -/
def State.emit (s : State) (c : Nat) (d : Cmd) (r : Result) : State :=
  (s.modCore c (fun o => o.orStatus .vector r.flags)).modCmd c d.id (fun e =>
    { e with phase := e.phase + 1, pending := r.writes.zipIdx.flatMap (fun w => s.localWrites c w.2 w.1.1 w.1.2) })

/-- The terms of a reduction's group are gathered; with its last group the tree gives the result (R399). -/
def State.reduceGroup (s : State) (c : Nat) (d : Cmd) (g : Group) : State :=
  let terms := (List.range g.is.length).map (fun p =>
    if d.op = .vdot then mulElem d.vfmt (g.a.getD p 0) (d.valueB g p) else (g.a.getD p 0, 0))
  let flags := terms.foldl (fun f t => f ||| t.2) 0
  let all := d.gathered.map BitVec.toNat ++ terms.map (·.1)
  if d.phase + 1 < d.groups then
    (s.modCore c (fun o => o.orStatus .vector flags)).modCmd c d.id (fun e =>
      { e with phase := e.phase + 1, gathered := all.map (BitVec.ofNat 64) })
  else
    let r := treeSum (addElem d.vfmt) 33 all flags
    let v := match fmtOf d.vfmt with
      | some g => g.pass r.1
      | none => (r.1, 0)
    s.emit c d { writes := [(d.xa.toNat, toBytes v.1 (elemSize d.vfmt))], flags := r.2 ||| v.2 }

/-- The group of a `vdeq`: its codes and its scale byte are read, and its elements computed. -/
def State.dequantise (s : State) (c : Nat) (d : Cmd) (is : List Nat) : State :=
  let first := is.headD 0
  let range := (d.xb.toNat + packedSize d.hdrFmt first, packedSize d.hdrFmt is.length)
  match s.localRead c range.1 range.2 with
  | (s1, none) => s1
  | (s1, some codes) =>
    if d.hdrScl then
      match s1.localRead c ((d.scaleRange).1 + first / 2 ^ d.hdrLog) 1 with
      | (s2, none) => s2
      | (s2, some b) => s2.emit c d (s2.groupDequantise c d { is } codes (b.head?))
    else s1.emit c d (s1.groupDequantise c d { is } codes none)

/-- The words of a decode-table image. -/
def imageWords (l : List Byte) : List Nat := (List.range 256).map (fun i => ofBytes ((l.drop (4 * i)).take 4))

/-- `vtab`: the table is replaced by an image whose words have bits [31:19] zero; any other is error 12 (R403). -/
def State.loadTable (s : State) (c : Nat) (d : Cmd) : State :=
  match s.localRead c d.xb.toNat 1024 with
  | (s1, none) => s1
  | (s1, some l) =>
    let t := imageWords l
    let next := fun (e : Cmd) => { e with phase := 1 }
    if t.any (fun v => 2 ^ 19 ≤ v) then (s1.engineError c d 12).modCmd c d.id next
    else (s1.modCore c (fun o => if d.optField % 2 = 0 then { o with tab0 := t } else { o with tab1 := t })).modCmd c d.id next

/-- The vector engine reads its next group, once every write of the group before has performed, and computes it. -/
def State.readVector (s : State) (c : Nat) (d : Cmd) : State :=
  if !d.pending.isEmpty || d.groups ≤ d.phase then s
  else if d.op = .vtab then s.loadTable c d
  else
    let is := d.groupIs d.phase
    if d.op = .vdeq then s.dequantise c d is
    else
      match s.readGroup c d is with
      | (s1, none) => s1
      | (s1, some g) =>
        match d.op with
        | .vred | .vdot => s1.reduceGroup c d g
        | .vcmp => s1.emit c d (s1.groupCompare c d g)
        | .vgat => s1.emit c d (s1.groupGather c d g)
        | .vsca | .vscadd => s1.emit c d (s1.groupScatter c d g)
        | .vrot => s1.emit c d (d.groupRotate g)
        | .vquant => (s1.emit c d (s1.groupQuantise c d g)).tick
        | _ => s1.emit c d (d.groupElements g)

/-- Every group has been written (step 14). -/
def Cmd.vectorDone (d : Cmd) : Bool := d.pending.isEmpty && d.groups ≤ d.phase

end Sys2Proof.Machine
end

