-- ==== Sys2Proof/Machine/MatrixEngine.lean ====
section
/-! DEFINITION. The matrix engine: operands, checks, latches and rings, and the steps of its commands (R283 to R286, R405 to R411). -/
namespace Sys2Proof.Machine

/-! ## Registers (R405) -/

/-- `m.anc`, `m.next`, `m.acc`. -/
def Cmd.matAnchor (d : Cmd) : BitVec 16 := (d.reg 2).truncate 16
def Cmd.ringDir (d : Cmd) : Nat := bits (d.reg 5) 2 0
def Cmd.tileNo (d : Cmd) : Nat := bits (d.reg 6) 1 0

/-- The format register that the command uses: `m.fb` for `mldb`, `m.fa` for `mmac`. -/
def Cmd.formatReg (d : Cmd) : Nat := bits (d.reg (if d.op = .mldb then 1 else 0)) 3 0

/-- The command takes its format and its scales from a header (R406). -/
def Cmd.matHeader (d : Cmd) : Bool := (d.op == .mldb || d.op == .mmac) && d.formatReg == 0

/-- The format of the operand, and whether it has scales. -/
def Cmd.matFmt (d : Cmd) : Nat := if d.matHeader then d.hdrFmt else d.formatReg
def Cmd.matScaled (d : Cmd) : Bool := d.matHeader && d.hdrScl

/-- The bytes of 32 elements along K: a row of A, or a column of B. -/
def Cmd.lineBytes (d : Cmd) : Nat := packedSize d.matFmt 32

/-- `clr` and the format of a drain. -/
def Cmd.drainClear (d : Cmd) : Bool := d.ef / 64 % 2 = 1
def Cmd.drainFmt (d : Cmd) : Fmt := if d.ef / 16 % 4 = 0 then fp32 else if d.ef / 16 % 4 = 1 then bf16 else fp16
def Cmd.drainSize (d : Cmd) : Nat := if d.ef / 16 % 4 = 0 then 4 else 2

/-! ## Operand ranges (R406, R411) -/

/-- The rows of A, and their scale bytes. -/
def Cmd.rowsA (d : Cmd) : List (Nat × Nat) :=
  (List.range 8).map (fun i => ((d.xa + BitVec.ofNat 64 (i * (d.reg 3).toNat)).toNat, d.lineBytes))
def Cmd.scalesA (d : Cmd) : List (Nat × Nat) :=
  if d.matScaled then (List.range 8).map (fun i => ((d.xb + BitVec.ofNat 64 (i * (d.reg 4).toNat)).toNat, 1)) else []

/-- The B tile, and its scale bytes. -/
def Cmd.tileB (d : Cmd) : Nat × Nat := (d.xa.toNat, 8 * d.lineBytes)
def Cmd.scalesB (d : Cmd) : List (Nat × Nat) := if d.matScaled then [(d.xb.toNat, 8)] else []

/-- The ranges that a matrix command reads, and those that it writes. -/
def Cmd.matrixSources (d : Cmd) : List (Nat × Nat) :=
  match d.op with
  | .mldb => d.tileB :: d.scalesB
  | .mmac => d.rowsA ++ d.scalesA
  | .maddx => [(d.xa.toNat, 1024)]
  | _ => []
def Cmd.matrixTargets (d : Cmd) : List (Nat × Nat) :=
  match d.op with
  | .mdrain => [(d.xa.toNat, 64 * d.drainSize)]
  | .mdrainx => [(d.xa.toNat, 1024)]
  | _ => []

/-- The addresses that must be aligned, with their alignment. -/
def Cmd.matrixAligned (d : Cmd) : Bool :=
  match d.op with
  | .mldb => d.xa.toNat % 8 == 0 && (!d.matScaled || d.xb.toNat % 8 == 0)
  | .mmac => d.rowsA.all (fun r => r.1 % 8 == 0) && (!d.matScaled || d.xb.toNat % 8 == 0)
  | .mdrain => d.xa.toNat % 8 == 0
  | .mdrainx | .maddx => d.xa.toNat % 16 == 0
  | _ => true

/-! ## The core grid (R407) -/

/-- The neighbour of a core in a direction of `m.next`, whatever it is: N and S are one grid row up and down. -/
def ringNext (c dir : Nat) : Option Nat :=
  let i := coreInQuad c
  if dir = 5 then some (coreOfQuad (quadOf c) (if i = 0 then 1 else if i = 1 then 3 else if i = 3 then 2 else 0))
  else
    let x : Int := 2 * packageX c + (i % 2 : Nat) + (if dir = 2 then 1 else if dir = 4 then -1 else 0)
    let y : Int := 2 * packageY c + (i / 2 : Nat) + (if dir = 3 then 1 else if dir = 1 then -1 else 0)
    coreAt (moduleOf c) (x / 2) (y / 2) ((x % 2).toNat + 2 * (y % 2).toNat)

/-- The neighbour, where it is an active compute core of the same die and partition. -/
def State.ringPeer (s : State) (c dir : Nat) : Option Nat :=
  if isHead c || dir = 0 || 5 < dir then none
  else (ringNext c dir).bind (fun n =>
    if dieOf n = dieOf c && s.partTag n = s.partTag c && s.live n then some n else none)

/-! ## Acceptance errors -/

/-- The formats that the matrix engine accepts (R406). -/
def matrixFormat (f : Nat) : Bool := [2, 3, 5, 8, 9, 10, 11].contains f

/-- A source range of a matrix command names memory that it may: the B tile and its scales also bulk addresses. -/
def State.matrixSource (s : State) (c : Nat) (d : Cmd) (r : Nat × Nat) : Bool :=
  s.localRun c r.1 r.2 || (d.op == .mldb && bulkRun c r.1 r.2)

/-- The code of the first acceptance error of a matrix command whose header, if it uses one, has been read. -/
def State.matrixError (s : State) (c : Nat) (d : Cmd) (header : Bool) : Nat :=
  let ring := (d.op == .mmac || d.op == .mpass) && d.ringDir != 0
  let operand := d.op == .mldb || d.op == .mmac
  let known := header || !d.matHeader
  if ring && (s.ringPeer c d.ringDir).isNone then 1
  else if operand && known && !matrixFormat d.matFmt then 2
  else if d.matHeader && (!header || (d.hdrScl && d.hdrLog != 5)) then 3
  else if !d.matrixAligned || !d.matrixSources.all (s.matrixSource c d) ||
      !d.matrixTargets.all (fun r => s.localRun c r.1 r.2) then 4
  else 0

/-! ## Latches (R407 to R410) -/

/-- A tile is on its way to a core's incoming latch. -/
def State.latchComing (s : State) (c : Nat) : Bool :=
  s.net.any (fun t => t.dst == c && (match t.load with
    | .latch _ => true
    | _ => false))

/-- A tile from a core has not arrived yet. -/
def State.latchGoing (s : State) (c : Nat) : Bool :=
  s.net.any (fun t => t.src == c && (match t.load with
    | .latch _ => true
    | _ => false))

/-- The command waits on the ring: the count of R410 begins. -/
def State.ringWaits (s : State) (c : Nat) (d : Cmd) : State :=
  s.modCmd c d.id (fun e => { e with ringWait := if e.ringWait = 0 then (s.core c).cycle + 1 else e.ringWait })

/-- The command goes on to a phase. -/
def State.matrixPhase (s : State) (c : Nat) (d : Cmd) (n : Nat) : State := s.modCmd c d.id (fun e => { e with phase := n, ringWait := 0 })

/-- The working tile, moved from the incoming latch when the working one is empty; none when both are. -/
def State.workingTile (s : State) (c : Nat) : State × Option Latch :=
  let o := s.core c
  match o.working, o.incoming with
  | some l, _ => (s, some l)
  | none, some l => (s.modCore c (fun o => { o with working := some l, incoming := none }), some l)
  | none, none => (s, none)

/-- The working tile leaves for the neighbour once its incoming latch is empty. `mpass` empties the working latch with it. -/
def State.sendTile (s : State) (c : Nat) (d : Cmd) : State :=
  match s.ringPeer c d.ringDir, (s.core c).working with
  | some n, some l =>
    if (s.core n).incoming.isSome || s.latchComing n || s.stalledPath c n then s.ringWaits c d
    else
      let s1 := s.send { src := c, dst := n, vc := 4, tag := s.tagOf c, part := s.partTag c, load := .latch l }
      let s2 := if d.op = .mpass then s1.modCore c (fun o => { o with working := none }) else s1
      s2.matrixPhase c d (if d.op = .mpass then matrixEnd else 2)
  | _, _ => s.ringWaits c d

/-! ## Reading -/

/-- A page of the bulk ranges of a B operand lies outside the core's own quad column: its address. -/
def State.offColumn (s : State) (c : Nat) (user : Bool) : List (Nat × Nat) → State × Option (Nat × Nat)
  | [] => (s, none)
  | (va, n) :: rest =>
    if n = 0 || s.localRun c va n then s.offColumn c user rest
    else
      match s.engineKey c user va true false with
      | (s1, .error k) => (s1, some (k, va))
      | (s1, .ok key) =>
        if isBulkKey key && !isHead c && quadOfPa key = quadOf c then s1.offColumn c user rest else (s1, some (4, va))

/-- A range of a B operand: local memory as the matrix engine reads it, or the quad column. -/
def State.readB (s : State) (c : Nat) (d : Cmd) (r : Nat × Nat) : State × EngineRead :=
  if s.localRun c r.1 r.2 then
    match s.localRead c r.1 r.2 with
    | (s1, none) => (s1, .wait)
    | (s1, some l) => (s1, .bytes l)
  else
    match s.offColumn c d.user (unitPieces 3 r.1 r.2) with
    | (s1, some (k, va)) => (s1, .fault k va)
    | (s1, none) => s1.engineBytes c d.user r.1 r.2

/-- `mldb` (R408): the tile and its scales, into the working latch. -/
def State.loadTile (s : State) (c : Nat) (d : Cmd) : State :=
  match s.readB c d d.tileB with
  | (s1, .wait) => s1
  | (s1, .fault k va) => s1.stopCmd c d.id k 0 (BitVec.ofNat 64 va)
  | (s1, .bytes l) =>
    let put := fun (s : State) (scales : Option (List Byte)) =>
      (s.modCore c (fun o => { o with working := some { fmt := d.matFmt, bytes := l, scales } })).matrixPhase c d matrixEnd
    match d.scalesB with
    | [] => put s1 none
    | r :: _ =>
      match s1.readB c d r with
      | (s2, .wait) => s2
      | (s2, .fault k va) => s2.stopCmd c d.id k 0 (BitVec.ofNat 64 va)
      | (s2, .bytes b) => put (s2.modCore c (fun o => o.orStatus .matrix ((b.any badScale).toNat * 0x400))) (some b)

/-- A tile of a core. -/
def Core.tile (o : Core) (t : Nat) : AccTile := o.acc.getD t {}

/-- A tile replaced. -/
def State.putTile (s : State) (c t : Nat) (v : AccTile) : State := s.modCore c (fun o => { o with acc := o.acc.set t v })

/-- A run-time error stops the command, which then completes (R383). -/
def State.matrixStop (s : State) (c : Nat) (d : Cmd) (code : Nat) : State := (s.engineError c d code).matrixPhase c d matrixEnd

/-- The first step of an `mmac` (R409): the working tile, the anchor, then the A block and its scales. -/
def State.startMac (s : State) (c : Nat) (d : Cmd) : State :=
  match s.workingTile c with
  | (s1, none) => s1.ringWaits c d
  | (s1, some _) =>
    if ((s1.core c).tile d.tileNo).anc ≠ d.matAnchor then s1.matrixStop c d 7
    else
      match s1.localBytes c (d.rowsA ++ d.scalesA |>.flatMap (fun r => unitPieces 3 r.1 r.2)) [] with
      | (s2, none) => s2
      | (s2, some l) =>
        (s2.modCmd c d.id (fun e => { e with gathered := wordsOf l })).matrixPhase c d (if d.ringDir = 0 then 2 else 1)

/-! ## Computing (R283, R409) -/

/-- Element (i, j) after its 32 terms. -/
def macElem (o : Core) (d : Cmd) (a : List Byte) (b : Latch) (e : AccElem) (i j : Nat) : AccElem :=
  let n := d.lineBytes
  let m := packedSize b.fmt 32
  let row := (a.drop (i * n)).take n
  let col := (b.bytes.drop (j * m)).take m
  let sa : Fl := if d.matScaled then scaleValue (a.getD (8 * n + i) 0) else .fin false 1 0
  let sb : Fl := match b.scales with
    | some l => scaleValue (l.getD j 0)
    | none => .fin false 1 0
  ((List.range 32).foldl (fun e k =>
    let x := elemValue d.matFmt o.tab0 o.tab1 (rawElem d.matFmt row k)
    let y := elemValue b.fmt o.tab0 o.tab1 (rawElem b.fmt col k)
    e.term d.matAnchor.toInt ((((x.mul y).1.mul sa).1).mul sb).1) e).settle

/-- The status bits of an `mmac`: an element that saturated, a bad scale byte of A. -/
def macStatus (d : Cmd) (a : List Byte) (old new : List AccElem) : Nat :=
  let sat := (List.zip old new).any (fun p => !p.1.sat && p.2.sat)
  let bad := (d.matScaled && ((a.drop (8 * d.lineBytes)).take 8).any badScale)
  sat.toNat * 0x100 + bad.toNat * 0x400

/-- The end of the compute of an `mmac`: the tile takes its terms, and on a ring the working latch takes what has come. -/
def State.endMac (s : State) (c : Nat) (d : Cmd) : State :=
  let o := s.core c
  match o.working with
  | none => s.matrixPhase c d matrixEnd
  | some b =>
    let a := bytesOf d.gathered
    let t := o.tile d.tileNo
    let elems := t.elems.zipIdx.map (fun (p : AccElem × Nat) => macElem o d a b p.1 (p.2 / 8) (p.2 % 8))
    let s1 := (s.putTile c d.tileNo { t with elems }).modCore c (fun o => o.orStatus .matrix (macStatus d a t.elems elems))
    (if d.ringDir = 0 then s1 else s1.modCore c Core.handOff).matrixPhase c d matrixEnd

/-! ## Tile commands (R411) -/

/-- A tile zeroed, with an anchor. -/
def zeroTile (anc : BitVec 16) : AccTile := { anc }

/-- `mzero`. -/
def State.zeroTiles (s : State) (c : Nat) (d : Cmd) : State :=
  ([0, 1, 2, 3].foldl (fun s t => if bit d.xa t then s.putTile c t (zeroTile d.matAnchor) else s) s).matrixPhase c d matrixEnd

/-- A drained tile's bytes, and whether a drain overflowed. -/
def Cmd.drained (d : Cmd) (t : AccTile) : List Byte × Bool :=
  if d.op = .mdrainx then (t.elems.flatMap (fun e => e.raw t.anc), false)
  else
    let r := t.elems.map (fun e => e.drain d.drainFmt t.anc.toInt (fp32.decode (bits d.xb 31 0)))
    (r.flatMap (fun v => toBytes v.1 d.drainSize), r.any (·.2))

/-- `mdrain` and `mdrainx`: the tile's bytes join the pending set, and `clr` zeroes the tile. -/
def State.drainTile (s : State) (c : Nat) (d : Cmd) : State :=
  let t := (s.core c).tile d.tileNo
  let (l, spilled) := d.drained t
  let s1 := if d.drainClear then s.putTile c d.tileNo (zeroTile t.anc) else s
  ((s1.modCore c (fun o => o.orStatus .matrix (spilled.toNat * 0x200))).modCmd c d.id (fun e =>
    { e with pending := s.localWrites c 0 d.xa.toNat l })).matrixPhase c d matrixEnd

/-- `maddx`. -/
def State.addTile (s : State) (c : Nat) (d : Cmd) : State :=
  match s.localRead c d.xa.toNat 1024 with
  | (s1, none) => s1
  | (s1, some l) =>
    let t := (s1.core c).tile d.tileNo
    let raws := (List.range 64).map (fun i => rawOf ((l.drop (16 * i)).take 16))
    if raws.any (fun r => r.2 != t.anc) then s1.matrixStop c d 7
    else
      let elems := List.zipWith (fun (e : AccElem) (r : AccElem × BitVec 16) => e.addRaw r.1) t.elems raws
      let sat := (List.zip t.elems elems).any (fun p => !p.1.sat && p.2.sat)
      ((s1.putTile c d.tileNo { t with elems }).modCore c (fun o => o.orStatus .matrix (sat.toNat * 0x100))).matrixPhase c d matrixEnd

/-! ## The steps of a command -/

/-- `mpass` (R408). -/
def State.passTile (s : State) (c : Nat) (d : Cmd) : State :=
  if d.ringDir = 0 then s.matrixPhase c d matrixEnd
  else
    match s.workingTile c with
    | (s1, none) => s1.ringWaits c d
    | (s1, some _) => (s1.matrixPhase c d 1).sendTile c d

/-- A step of the matrix engine for its command in progress. -/
def State.readMatrix (s : State) (c : Nat) (d : Cmd) : State :=
  if matrixEnd ≤ d.phase then s
  else
    match d.op with
    | .mldb => s.loadTile c d
    | .mmac =>
      if d.phase = 0 then s.startMac c d
      else if d.phase = 1 then s.sendTile c d
      else if s.latchGoing c then s
      else s.endMac c d
    | .mpass => if d.phase = 1 then s.sendTile c d else s.passTile c d
    | .mzero => s.zeroTiles c d
    | .mdrain | .mdrainx => s.drainTile c d
    | .maddx => s.addTile c d
    | _ => s

/-- The command has computed, its writes have performed, and its tile has been delivered (R409, step 14). -/
def State.matrixDone (s : State) (c : Nat) (d : Cmd) : Bool := matrixEnd ≤ d.phase && d.pending.isEmpty && !s.latchGoing c

/-- The command waits longer than a ring member may (R410). -/
def State.ringStalled (s : State) (c : Nat) (d : Cmd) : Bool :=
  d.ringWait != 0 && d.phase < matrixEnd && 2 ^ 20 < (s.core c).cycle + 1 - d.ringWait

end Sys2Proof.Machine
end

