-- ==== Sys2Proof/Machine/Command.lean ====
section
/-! DEFINITION. Engine commands from their issue turn to their completion: the checks of R379, acceptance, starting, reading, the writes
of step 12, and step 14 (R136, R137, R144, R167, R179, R221, R222, R379 to R385, R393, R403, R409, R410). -/
namespace Sys2Proof.Machine

/-! ## What a command names -/

/-- The engine that carries out a function (R221). -/
def CmdOp.engineOf (op : CmdOp) : Engine :=
  match op.file with
  | .vector => .vector
  | .matrix => .matrix
  | _ => .copy

/-- The ranges that a command reads, and those that it writes, in memory that its operands name. -/
def State.cmdSources (s : State) (c : Nat) (d : Cmd) : List (Nat × Nat) :=
  match d.op.file with
  | .copy => d.copySources
  | .vector => d.vectorSources ++ (if d.op = .vgat then s.indexTargets c d d.xb else [])
  | .matrix => d.matrixSources
  | .pool => s.poolSources c d
  | .bin => d.binSources
def State.cmdTargets (s : State) (c : Nat) (d : Cmd) : List (Nat × Nat) :=
  match d.op.file with
  | .copy => if d.op = .cps then [(d.xb.toNat, d.subLength)] else d.copyTargets
  | .vector => d.vectorTargets ++ (if d.op = .vsca || d.op = .vscadd then s.indexTargets c d d.xa else [])
  | .matrix => d.matrixTargets
  | .pool => s.poolTargets c d
  | .bin => d.binTargets

/-- The code of the first acceptance error of a command (R382); `header` says that the header it uses could be read. -/
def State.acceptError (s : State) (c : Nat) (t : Thread) (d : Cmd) (header : Bool) : Nat :=
  match d.op.file with
  | .copy => s.copyError c t d
  | .vector => s.vectorError c d header
  | .matrix => s.matrixError c d header
  | .pool => s.poolError c d
  | .bin => s.binError c d

/-! ## Check 1: fates in a split task (R136, R385) -/

/-- The fate of a command of a split task. Where the header that gives the size of a `vquant`'s result could not be read, its first byte
decides. The table of a pool is no source of a copy, and check 1 leaves it to the checks that follow (DEDUCED, log 30). -/
def State.cmdFate (s : State) (c : Nat) (t : Thread) (st : Seat) (d : Cmd) (header : Bool) : State × Fate :=
  let sized := fun (r : Nat × Nat) => if d.op = .vquant && !header then (r.1, min 1 r.2) else r
  let outside := fun (a : Nat) => Fate.trap 4 4 (BitVec.ofNat 64 a)
  match d.op with
  | .binplay | .binflush => (s, .trap 8 11 0)
  | .binapp => (s, .log)
  | .vtab | .mzero | .mldb | .mpass | .mmac | .maddx => (s, .act)
  | op => if op.file = .copy then s.copyFate c t st d else (s, st.resultFate ((s.cmdTargets c d).map sized) outside)

/-! ## Check 4: visitor windows (R167) -/

/-- The lowest private byte of a command's local operands that a visitor may not touch. -/
def State.cmdRefusal (s : State) (c : Nat) (t : Thread) (d : Cmd) (header : Option Nat) : Option Nat :=
  if t.bounded c then
    let rs := s.cmdSources c d ++ s.cmdTargets c d ++ (header.map (fun va => (va, 32))).toList
    (rs.filterMap (fun r => if s.privRun c r.1 r.2 then s.refusal c t r.1 r.2 else none)).foldl (fun b a => match b with
      | none => some a
      | some m => some (min m a)) none
  else none

/-! ## Headers (R280) -/

/-- The command uses a tensor header. -/
def Cmd.wantsHeader (d : Cmd) : Bool := d.op.usesHeader || d.matHeader

/-- The address of the header that a command uses: `v.hdr`, or `fmta`; `fmtb` for `mldb`. -/
def Cmd.headerAddr (d : Cmd) (t : Thread) : Nat :=
  if d.op = .mldb then t.ctx.fmtb.toNat
  else if d.op = .mmac then t.ctx.fmta.toNat
  else if d.reg 7 = 0 then t.ctx.fmta.toNat else (d.reg 7).toNat

/-- The command with the header that it uses, and whether that could be read. -/
def State.withHeader (s : State) (t : Thread) (d : Cmd) : State × Cmd × Bool :=
  if d.wantsHeader then
    match s.readHeader s.here s.slotNo d.user (d.op.file == .matrix) (d.headerAddr t) with
    | (s1, some w) => (s1, { d with header := w }, true)
    | (s1, none) => (s1, d, false)
  else (s, d, true)

/-! ## Acceptance (R115, R221, R222, R392, R393) -/

/-- The commands that a launch counts as open copies (R115). -/
def CmdOp.counted : CmdOp → Bool
  | .cp | .cpn | .cpm | .cpr | .cpz => true
  | _ => false

/-- The id of the next command that a core accepts: the count includes that command (R222; DEDUCED, log 97). -/
def State.nextId (s : State) (c : Nat) : Nat := c % 2 ^ 24 * 2 ^ 24 + ((s.core c).cmdCount + 1) % 2 ^ 24

/-- The launch number of a command. -/
def Cmd.launchNo (d : Cmd) : Nat := bits d.launch 31 0

/-- A binding made (R392): a spent one of the same register and thread no longer names it. -/
def Core.bind (o : Core) (d : Cmd) : Core :=
  let q := d.ef % 2
  { o with
    streams := o.streams.map (fun b => if b.q = q && b.tid = d.tid then b.ended else b) ++
      [{ q, tid := d.tid, input := d.op == .cpsi, cmd := d.id, base := d.xa, count := d.xb.toNat }] }

/-- A command leaves its core, with the binding it serves. -/
def Core.dropCmd (o : Core) (id : Nat) : Core :=
  { o with cmds := o.cmds.filter (fun d => d.id != id), streams := o.streams.filter (fun b => b.cmd != id) }

/-- The slot that waits for a command in its `.w` form, if it still does. -/
def State.waiter (s : State) (c : Nat) (d : Cmd) : Option Nat :=
  if (s.slot c d.slot).park == some (.engine d.id) then some d.slot else none

/-- The mailbox of a command's notice and the notice's kind and status (R387, R415, R419, R420). -/
def Cmd.noticeOf (d : Cmd) : Option (Nat × Nat × Nat) :=
  let at' := fun (i kind status : Nat) => if bits (d.reg i) 4 0 < 16 then some (bits (d.reg i) 4 0, kind, status) else none
  if d.item.isSome then none
  else match d.op with
  | .cpn | .binapp => none
  | .pool => at' 6 3 d.status
  | .binplay | .binflush => at' 5 13 d.status
  | op => if op.file = .copy then at' 7 1 0 else none

/-- The completion notice of a command, with the tag under which it was accepted. -/
def State.notify (s : State) (c : Nat) (d : Cmd) : State :=
  match d.noticeOf with
  | none => s
  | some (mb, kind, status) => s.sendNotice c c mb (noticeWord kind status d.id) d.tag none

/-- The copy of a command leaves its launch (R144). -/
def State.leaveLaunch (s : State) (c : Nat) (d : Cmd) : State :=
  if d.launchNo = 0 then s else s.decrement c { launch := d.launchNo, copy := true }

/-- A command that `cpc` cancels: its slot goes on, and its copy leaves its launch. -/
def State.cancel (s : State) (c : Nat) (d : Cmd) : State :=
  let s1 := (s.modCore c (fun o => o.dropCmd d.id)).leaveLaunch c d
  match s.waiter c d with
  | none => s1
  | some k => s1.advanceAt c k

/-- `cpc` (R393): commands accepted and not started, with the tag. -/
def State.cancelTagged (s : State) (c : Nat) (tag : Nat) : State :=
  ((s.core c).cmds.filter (fun d =>
    d.op.file == .copy && !d.started && !d.resumed && d.fault.isNone && d.copyTag == tag)).foldl (fun s d => s.cancel c d) s

/-- Step 10: a command that has passed its checks is accepted. -/
def State.accept (s : State) (srcs : List Reg) (t : Thread) (d0 : Cmd) : State :=
  let c := s.here
  let launch := if d0.op.counted then taskField (some t) (·.launch) else 0
  let d := { d0 with id := s.nextId c, launch }
  let s1 := s.modCore c (fun o => { o with cmdCount := o.cmdCount + 1 })
  let tagged := fun (s : State) => match d.seat with
    | some n => s.modSeat c n (fun st => { st with cmdIds := st.cmdIds ++ [d.id] })
    | none => s
  if d.op = .cpc then ((tagged (s1.complete srcs)).cancelTagged c (bits d.xa 15 0)).notify c d
  else
    let s2 := s1.modCore c (fun o =>
      let o1 := { o with cmds := o.cmds ++ [d] }
      if d.op = .cpsi || d.op = .cpso then o1.bind d else o1)
    let s3 := tagged s2
    let s4 := if d.launchNo = 0 then s3 else s3.increment c d.launchNo 1 true (some d.tid) [.copy]
    if d.wait then (s4.takeAt c s.slotNo srcs).park (.engine d.id) else s4.complete srcs

/-- A logged command (R137): its registers, and for a `binapp` its records, are captured now. -/
def State.logCommand (s : State) (srcs : List Reg) (t : Thread) (c n : Nat) (d : Cmd) : State :=
  let size := if d.op = .binapp then 32 + 8 * d.xb.toNat else 104
  let item := fun (recs : List Word) =>
    { d with wait := false, launch := if d.op.counted then taskField (some t) (·.launch) else 0, gathered := recs }
  let put := fun (s : State) (recs : List Word) =>
    s.logItem c n size d.xa srcs (fun st => { st with cmdLog := st.cmdLog ++ [(st.logged, item recs)] })
  if d.op = .binapp then
    match s.localRead s.here d.xa.toNat (8 * d.xb.toNat) with
    | (s1, none) => s1
    | (s1, some l) => put s1 (wordsOf l)
  else put s []

/-- The failed command of an engine's recorded error still has its own slot waiting, which will trap with it (R383 step 3). -/
def State.errorAwaited (s : State) (c : Nat) (f : EngineFile) : Bool :=
  (((s.core c).cmd ((s.core c).eid f)).bind (s.waiter c)).isSome

/-- Checks 2 to 4 of R379, then acceptance, or the log. -/
def State.judge (s : State) (srcs : List Reg) (t : Thread) (d : Cmd) (header : Bool) (log : Option (Nat × Nat)) : State :=
  let c := s.here
  let f := d.op.file
  let code := s.acceptError c t d header
  let err := (s.core c).err f
  if code ≠ 0 then s.trap 8 code 0
  else if err ≠ 0 && !s.errorAwaited c f then
    (s.modCore c (fun o => o.clearErr f)).trap 8 err (BitVec.ofNat 64 ((s.core c).eid f))
  else
    match s.cmdRefusal c t d (if d.wantsHeader then some (d.headerAddr t) else none) with
    | some a => s.refuse (BitVec.ofNat 64 a)
    | none => match log with
      | some (k, n) => s.logCommand srcs t k n d
      | none => s.accept srcs t d

/-- Check 1 of R379, then the others. -/
def State.submit (s : State) (srcs : List Reg) (t : Thread) (d : Cmd) (header : Bool) : State :=
  match s.splitSeat t with
  | none => s.judge srcs t d header none
  | some (c, n, st) =>
    match s.cmdFate s.here t st d header with
    | (s1, .trap cause sub a) => s1.trap cause sub a
    | (s1, .park va cls) => s1.pageFault va cls 0
    | (s1, .busy) => s1.again 9
    | (s1, .log) => s1.judge srcs t d header (some (c, n))
    | (s1, .act) => s1.judge srcs t { d with seat := some n } header none

/-- AN ENGINE COMMAND of the running thread, with X(a), X(b), its engine field, its `w` bit, and the registers it captures: the turn in which it could be accepted
is the first in which its slot has no buffer entry and the queue has room (R379, R199). -/
def State.command (s : State) (srcs : List Reg) (op : CmdOp) (ef : Nat) (xa xb : Word) (w : Bool)
    (capture : List Word → List Word) : Outcome :=
  s.gate srcs [] (fun t =>
    let o := s.core s.here
    let engine := op.engineOf
    if !s.drained then s.again 15
    else if 2 ≤ o.queued engine then s.again 4
    else
      let d0 : Cmd :=
        { id := 0, engine, op, ef, xa, xb, regs := capture (o.file op.file), wait := w, slot := s.slotNo, tid := t.tid, ip := s.ip,
          tag := s.tagOf s.here, user := !t.ctx.status.sup }
      match s.withHeader t d0 with
      | (s1, d, header) => if s1.coreHalted s.here then s1 else s1.submit srcs t d header)

/-! ## Configuration words (R303, R384) -/

/-- A `*set`: the register takes the value in the issuing turn. -/
def State.engineSet (s : State) (f : EngineFile) (b : Reg) (r : BitVec 6) : Outcome :=
  s.gate [b] [] (fun _ =>
    (s.modCore s.here (fun o => o.putFile f (setReg f (o.file f) r.toNat (s.X b)))).complete [b])

/-- A `*get`. -/
def State.engineGet (s : State) (f : EngineFile) (b : Reg) (r : BitVec 6) : Outcome :=
  s.gate [] [b] (fun _ => s.result [] b (s.engineReg s.here f r.toNat))

/-! ## Starting (R381, R390, R403, R419) -/

/-- The engines of a core do nothing for a command: the core is stopped or lost. A lost core's copy engine still ends a commit, and in a
core that runs `ctxsv` the engines come to their end whatever stops the core (R257). -/
def State.engineOff (s : State) (c : Nat) (d : Cmd) : Bool :=
  let still := s.relocking (moduleOf c) (dieOf c)
  if (s.core c).lost then !d.logged || still
  else if (s.core c).switching.isSome then still
  else s.coreHalted c

/-- The next command of an engine: one that has been resumed, or the oldest that has not started. -/
def Core.nextToStart (o : Core) (e : Engine) : Option Cmd :=
  let l := o.cmds.filter (fun d => d.engine == e && !d.started && d.fault.isNone)
  match l.find? (·.resumed) with
  | some d => some d
  | none => l.head?

/-- A command may start: up to 16 in progress in the copy engine, one in the others; a `vtab` and matrix commands wait for each other in
acceptance order. -/
def Core.mayStart (o : Core) (d : Cmd) : Bool :=
  let earlier := o.cmds.takeWhile (fun e => e.id != d.id)
  let inHand := (o.cmds.filter (fun e => e.engine == d.engine && (e.started || e.fault.isSome))).length
  decide (inHand < (if d.engine = .copy then 16 else 1)) &&
    !(d.op == .vtab && earlier.any (fun e => e.engine == .matrix)) &&
    !(d.engine == .matrix && earlier.any (fun e => e.op == .vtab))

/-- A command starts. -/
def State.startCmd (s : State) (c : Nat) (d : Cmd) : State :=
  let s1 := s.modCmd c d.id (fun e => { e with started := true })
  match d.op with
  | .cps => s1.subscribe c d
  | .binplay => if d.phase = 0 then s1.takeBin c { d with started := true } else s1
  | _ => s1

/-- ENGINE_COMMAND_START (R381). -/
def execEngineCommandStart (s : State) : Outcome :=
  let c := s.args.c
  .next (match (s.core c).nextToStart s.args.engine with
    | none => s
    | some d => if s.engineOff c d || !(s.core c).mayStart d then s else s.startCmd c d)

/-! ## Reading and writing (steps 11 to 13) -/

/-- A started command of a core that no fault has stopped. -/
def State.activeCmd (s : State) (c id : Nat) : Option Cmd :=
  ((s.core c).cmd id).filter (fun d => d.started && d.fault.isNone && !s.engineOff c d)

/-- ENGINE_READ (R179 step 11): of the command that the event names, or, as an arrival, at the place at which a read arrives as a
traveller. -/
def execEngineRead (s : State) : Outcome :=
  let c := s.args.c
  if s.args.k ≠ 0 then s.onArrival State.engineIn
  else .next (match s.activeCmd c s.args.id with
    | none => s
    | some d => match d.op.file with
      | .copy => s.readByCopy c d s.args.pos s.args.len
      | .vector => s.readVector c d
      | .matrix => s.readMatrix c d
      | _ => s.readByPoolBin c d)

/-- A pending write of a command takes its step: an element is delivered, a near write performs, and any other leaves for its home. -/
def State.performPending (s : State) (c : Nat) (d : Cmd) (w : PWrite) : State :=
  if w.held || w.sent then s
  else if d.op = .cpsi then s.deliverElem c d w
  else if w.near c then s.performWrite c d.id w
  else s.sendWrite c d w

/-- The pending write may be the next to perform: any, but for the appends of one bin, which keep their order, as do the elements of a
stream (`State.deliverElem`). -/
def Cmd.mayPerform (d : Cmd) (w : PWrite) : Bool := if w.append then d.firstAt w else true

/-- `n` bytes of a pending write from byte `off` on stand alone, so that they perform before or after its others: any plain write, and
whole words of a full-mode one (step 12). -/
def State.splitWrite (s : State) (c id : Nat) (w : PWrite) (off n : Nat) : State × PWrite :=
  let unit := if w.full then 4 else 1
  let part := fun (a k : Nat) => { w with pos := w.pos + a, va := w.va + BitVec.ofNat 64 a, home := w.home + a, bytes := (w.bytes.drop a).take k }
  if n = 0 || w.bytes.length ≤ off || w.append || w.red.isSome || w.bits.isSome || w.held || w.sent || off % unit ≠ 0 || n % unit ≠ 0 then (s, w)
  else
    let parts := [part 0 off, part off n, part (off + n) (w.bytes.length - (off + n))].filter (fun p => !p.bytes.isEmpty)
    (s.modCmd c id (fun e => { e with pending := e.pending.flatMap (fun p => if p = w then parts else [p]) }), part off n)

/-- ENGINE_WRITE_PERFORM (R179 steps 12 and 13): of the pending write that the event names, or of some of its bytes, or, as an arrival, of
the write that comes as a traveller. -/
def execEngineWritePerform (s : State) : Outcome :=
  let c := s.args.c
  if s.args.k ≠ 0 then
    s.onArrival (fun s t => match t.load with
      | .copyData id w => some (s.writeIn t id w)
      | .commitItem n i e => some (s.commitIn t n i e)
      | _ => none)
  else
    .next (match s.activeCmd c s.args.id with
      | none => s
      | some d => match d.pending[s.args.idx]? with
        | none => s
        | some w =>
          if !d.mayPerform w then s
          else if d.op = .cpsi then s.performPending c d w
          else
            let x := s.splitWrite c d.id w s.args.pos s.args.len
            x.1.performPending c d x.2)

/-! ## Completion (step 14) -/

/-- Every write of a command has performed. -/
def State.cmdDone (s : State) (c : Nat) (d : Cmd) : Bool :=
  match d.op.file with
  | .copy => s.copyDone c d
  | .vector => d.vectorDone
  | .matrix => s.matrixDone c d
  | _ => s.poolBinDone c d

/-- The waiting slot of a completed command goes on, or traps with the command's error, whose record is cleared (R383 step 3). -/
def State.endWait (s : State) (c : Nat) (d : Cmd) : State :=
  match s.waiter c d with
  | none => s
  | some k =>
    if d.error = 0 then s.advanceAt c k
    else
      let f := d.op.file
      let s1 := if (s.core c).eid f = d.id then s.modCore c (fun o => o.clearErr f) else s
      s1.trapAt c k 8 d.error (BitVec.ofNat 64 d.id) (ctxField (s.slot c k).thread (·.ip))

/-- A command completes. -/
def State.completeCmd (s : State) (c : Nat) (d : Cmd) : State :=
  if d.op = .cpm && d.status ≠ 0 then s.stopCmd c d.id 8 1 (d.gathered.headD 0)
  else (((s.modCore c (fun o => o.dropCmd d.id)).notify c d).leaveLaunch c d).endWait c d

/-- ENGINE_COMMAND_COMPLETE (R381, R383, R179 step 14). -/
def execEngineCommandComplete (s : State) : Outcome :=
  let c := s.args.c
  .next (match s.activeCmd c s.args.id with
    | none => s
    | some d => if s.cmdDone c d then s.completeCmd c d else s)

/-! ## Rings (R407, R410) -/

/-- LATCH_TILE_ARRIVAL (R407). -/
def execLatchTileArrival (s : State) : Outcome :=
  s.onArrival (fun s t => match t.load with
    | .latch l => some (s.modCore t.dst (fun o => { o with incoming := some l }))
    | _ => none)

/-- RING_STALL (R410). -/
def execRingStall (s : State) : Outcome :=
  let c := s.args.c
  .next (match s.activeCmd c s.args.id with
    | none => s
    | some d => if d.engine = .matrix && s.ringStalled c d then s.matrixStop c d 8 else s)

end Sys2Proof.Machine
end

