-- ==== Sys2Proof/Machine/Crypto.lean ====
section
/-! DEFINITION. The hash and the signature scheme that the spec names: SHA-512, as FIPS 180-4 gives it, and ECDSA on P-521, as FIPS 186-5
gives it (R97 to R101, R107; PRESUMED, log 113); and the AES-256-XTS and AES-CMAC of stacked memory, as FIPS 197, IEEE 1619 and SP 800-38B
give them (R93; PRESUMED, log 112). -/
namespace Sys2Proof.Machine

/-! ## SHA-512 -/

/-- The largest r below 2^fuel with r^k at most n, one binary digit after another. -/
def rootFloor (k n : Nat) : Nat → Nat
  | 0 => 0
  | fuel + 1 =>
    let r := 2 * rootFloor k (n / 2 ^ k) fuel
    if (r + 1) ^ k ≤ n then r + 1 else r

/-- The primes below a bound, ascending. -/
def primesBelow (n : Nat) : List Nat := (List.range n).foldl (fun l v => if 2 ≤ v ∧ l.all (v % · != 0) then l ++ [v] else l) []

/-- The first 64 bits of the fractional part of the k-th root of a number. -/
def rootBits (k v : Nat) : Word := BitVec.ofNat 64 (rootFloor k (v * 2 ^ (64 * k)) 72)

/-- The constants of the 80 rounds: from the cube roots of the first 80 primes. -/
def shaConstants : List Word := (primesBelow 410).map (rootBits 3)

/-- The working variables as two delay lines, the newest value first: a to d, and e to h. -/
structure Sha where
  ad : List Word
  eh : List Word
  deriving DecidableEq, Repr

/-- The first hash value: from the square roots of the first 8 primes. -/
def Sha.first : Sha := { ad := (primesBelow 8).map (rootBits 2), eh := ([11, 13, 17, 19] : List Nat).map (rootBits 2) }

/-- The exclusive or of rotations of a word to the right. -/
def rotations (w : Word) (l : List Nat) : Word := (l.map w.rotateRight).foldr (· ^^^ ·) 0

/-- Bits of `x` where `m` has 1, of `y` where it has 0; the value that at least two of three bits have. -/
def chooseBits (m x y : Word) : Word := y ^^^ (m &&& (x ^^^ y))
def majorBits (x y z : Word) : Word := chooseBits (x ^^^ y) z x

/-- One round, with the sum of its constant and its word of the message schedule: each line takes a new value and drops its oldest. -/
def Sha.round (x : Sha) (kw : Word) : Sha :=
  match x.ad, x.eh with
  | [a, b, c, d], [e, f, g, h] =>
    let t := kw + (h + chooseBits e f g + rotations e [14, 18, 41])
    { ad := [rotations a [28, 34, 39] + majorBits a b c + t, a, b, c], eh := [t + d, e, f, g] }
  | _, _ => x

/-- The next word of the message schedule, from the 16 before it. -/
def scheduleNext (w : List Word) : Word :=
  let part := fun (i r q z : Nat) => rotations (w.getD i 0) [r, q] ^^^ (w.getD i 0 >>> z)
  w.getD 0 0 + part 1 1 8 7 + w.getD 9 0 + part 14 19 61 6

/-- The rounds of a list of constants, with the 16 words of the schedule that come next. -/
def Sha.rounds (x : Sha) (w : List Word) : List Word → Sha
  | [] => x
  | k :: ks => Sha.rounds (x.round (k + w.headD 0)) (w.tail ++ [scheduleNext w]) ks

/-- The sum of two hash values, word by word. -/
def Sha.add (x y : Sha) : Sha := { ad := List.zipWith (· + ·) x.ad y.ad, eh := List.zipWith (· + ·) x.eh y.eh }

/-- Big-endian bytes as a number, and a number as `n` big-endian bytes. -/
def bigEndian (l : List Byte) : Nat := ofBytes l.reverse
def toBigEndian (v n : Nat) : List Byte := (toBytes v n).reverse

/-- The words of a block of 128 bytes. -/
def blockWords (l : List Byte) : List Word := (List.range 16).map (fun i => BitVec.ofNat 64 (bigEndian ((l.drop (8 * i)).take 8)))

/-- The hash value after a number of blocks. -/
def Sha.blocks : Nat → List Byte → Sha → Sha
  | 0, _, x => x
  | n + 1, l, x => Sha.blocks n (l.drop 128) (x.add (x.rounds (blockWords l) shaConstants))

/-- A message padded to whole blocks. -/
def shaPadded (l : List Byte) : List Byte :=
  l ++ (0x80 : Byte) :: List.replicate ((239 - l.length % 128) % 128) 0 ++ toBigEndian (8 * l.length) 16

/-- The bytes of a hash value. -/
def Sha.bytes (x : Sha) : List Byte := (x.ad ++ x.eh).flatMap (fun w => toBigEndian w.toNat 8)

/-- SHA-512. -/
def sha512 (l : List Byte) : List Byte := (Sha.blocks ((l.length + 144) / 128) (shaPadded l) Sha.first).bytes

/-! ## ECDSA on P-521 -/

/-- b to the power e modulo m, for an e below 2^fuel. -/
def powMod (m : Nat) : Nat → Nat → Nat → Nat
  | 0, _, _ => 1 % m
  | fuel + 1, b, e =>
    if e = 0 then 1 % m
    else
      let h := powMod m fuel (b * b % m) (e / 2)
      if e % 2 = 1 then b * h % m else h

/-- The inverse of a number modulo a prime below 2^522. -/
def inverseMod (m a : Nat) : Nat := powMod m 522 (a % m) (m - 2)

/-- The curve: y² = x³ − 3x + b over the field of p elements, with a base point G of order n. -/
def p521P : Nat := 2 ^ 521 - 1
def p521B : Nat :=
  0x51953eb9618e1c9a1f929a21a0b68540eea2da725b99b315f3b8b489918ef109e156193951ec7e937b1652c0bd3bb1bf073573df883d2c34f1ef451fd46b503f00
def p521N : Nat :=
  0x1fffffffffffffffffffffffffffffffffffffffffffffffffffffffffffffffffa51868783bf2f966b7fcc0148f709a5d03bb5c9b8899c47aebb6fb71e91386409
def p521G : Nat × Nat :=
  (0xc6858e06b70404e9cd9e3ecb662395b4429c648139053fb521f828af606b4d3dbaa14b5e77efe75928fe1dc127a2ffa8de3348b3c1856a429bf97e7e31c2e5bd66,
   0x11839296a789a3bc0045c8a5fb42c7d1bd998f54449579b446817afbd17273e662c97ee72995ef42640c550b9013fad0761353c7086a272c24088be94769fd16650)

/-- A difference in the field. -/
def subP (a b : Nat) : Nat := (a + (p521P - b % p521P)) % p521P

/-- A pair of field elements is a point of the curve. -/
def onCurve (q : Nat × Nat) : Bool :=
  q.1 < p521P && q.2 < p521P && q.2 * q.2 % p521P == subP (q.1 * q.1 % p521P * q.1 + p521B) (3 * q.1)

/-- The third point of a sum, with the slope of its line. -/
def sumAt (l : Nat) (a b : Nat × Nat) : Nat × Nat :=
  let x := subP (subP (l * l) a.1) b.1
  (x, subP (l * subP a.1 x) a.2)

/-- The sum of two points; none is the point at infinity. -/
def pointAdd : Option (Nat × Nat) → Option (Nat × Nat) → Option (Nat × Nat)
  | none, q => q
  | p, none => p
  | some a, some b =>
    if a.1 = b.1 then
      if (a.2 + b.2) % p521P = 0 then none
      else some (sumAt (subP (3 * (a.1 * a.1)) 3 * inverseMod p521P (2 * a.2) % p521P) a b)
    else some (sumAt (subP b.2 a.2 * inverseMod p521P (subP b.1 a.1) % p521P) a b)

/-- A multiple of a point, for a factor below 2^fuel. -/
def pointMul : Nat → Nat → Option (Nat × Nat) → Option (Nat × Nat)
  | 0, _, _ => none
  | fuel + 1, k, q =>
    if k = 0 then none
    else if k = 1 then q
    else
      let h := pointMul fuel (k / 2) (pointAdd q q)
      if k % 2 = 1 then pointAdd q h else h

/-- A signature (r, s) of the hash e verifies under the public key q. -/
def ecdsaAccepts (q : Nat × Nat) (e r s : Nat) : Bool :=
  let w := inverseMod p521N s
  1 ≤ r && r < p521N && 1 ≤ s && s < p521N && onCurve q &&
    match pointAdd (pointMul 522 (e * w % p521N) (some p521G)) (pointMul 522 (r * w % p521N) (some q)) with
    | none => false
    | some x => x.1 % p521N == r

/-- ECDSA verification on P-521 (R99, R107): the key of 133 bytes is 0x04 and the coordinates of its point, 66 big-endian bytes each
(PRESUMED, log 113), the digest is the hash as a big-endian number, and r and s are 66 big-endian bytes each (R98). -/
def ecdsaVerify (key digest sig : List Byte) : Bool :=
  let part := fun (l : List Byte) (off : Nat) => bigEndian ((l.drop off).take 66)
  key.length == 133 && key.headD 0 == 4 && ecdsaAccepts (part key 1, part key 67) (bigEndian digest) (part sig 0) (part sig 66)

/-! ## AES-256 -/

/-- A byte times x in the field of AES. -/
def timesX (a : Byte) : Byte := (a <<< 1) ^^^ (if a.msb then 0x1B else 0)

/-- The product of two bytes. -/
def timesByte (a b : Byte) : Byte := (List.range 8).foldl (fun r i => timesX r ^^^ (if b.getLsbD (7 - i) then a else 0)) 0

/-- The inverse of a byte, its 254th power; 0 gives 0. -/
def inverseByte (a : Byte) : Byte :=
  ((List.range 7).foldl (fun (x : Byte × Byte) _ => let p := timesByte x.2 x.2; (timesByte x.1 p, p)) (1, a)).1

/-- The substitution of a byte. -/
def subByte (a : Byte) : Byte :=
  let b := inverseByte a
  b ^^^ b.rotateLeft 1 ^^^ b.rotateLeft 2 ^^^ b.rotateLeft 3 ^^^ b.rotateLeft 4 ^^^ 0x63

/-- Bytes combined by exclusive or. -/
def xorBytes (a b : List Byte) : List Byte := List.zipWith (· ^^^ ·) a b

/-- The 60 words of the key schedule, of four bytes each. -/
def keySchedule (key : List Byte) : List (List Byte) :=
  (List.range 52).foldl (fun w j =>
    let i := j + 8
    let prev := w.getD (i - 1) []
    let next := if i % 8 = 0 then xorBytes ((prev.rotateLeft 1).map subByte) [BitVec.ofNat 8 (2 ^ (i / 8 - 1)), 0, 0, 0]
      else if i % 8 = 4 then prev.map subByte else prev
    w ++ [xorBytes (w.getD (i - 8) []) next]) ((List.range 8).map (fun i => (key.drop (4 * i)).take 4))

/-- Row r of the block moves r places to the left. -/
def shiftRows (b : List Byte) : List Byte := (List.range 16).map (fun i => b.getD ((i + 4 * (i % 4)) % 16) 0)

/-- The columns of the block, mixed. -/
def mixColumns (b : List Byte) : List Byte :=
  (List.range 16).map (fun i =>
    let a := fun (n : Nat) => b.getD (i / 4 * 4 + (i + n) % 4) 0
    timesX (a 0) ^^^ timesX (a 1) ^^^ a 1 ^^^ a 2 ^^^ a 3)

/-- The cipher of a block of 16 bytes under a key of 32. -/
def aes256 (key block : List Byte) : List Byte :=
  let w := keySchedule key
  let rk := fun (r : Nat) => ((w.drop (4 * r)).take 4).flatten
  let b := (List.range 13).foldl (fun b r => xorBytes (mixColumns (shiftRows (b.map subByte))) (rk (r + 1))) (xorBytes block (rk 0))
  xorBytes (shiftRows (b.map subByte)) (rk 14)

/-! ## XTS and CMAC -/

/-- A 128-bit number times x in the field of XTS and CMAC. -/
def timesX128 (t : Nat) : Nat := (2 * t % 2 ^ 128) ^^^ (if 2 ^ 127 ≤ t then 0x87 else 0)

/-- A data unit of whole blocks, encrypted: the data key, the tweak key, and the number of the unit. -/
def xtsEncrypt (dataKey tweakKey : List Byte) (unit : Nat) (plain : List Byte) : List Byte :=
  let first := ofBytes (aes256 tweakKey (toBytes unit 16))
  ((List.range (plain.length / 16)).foldl (fun (x : List Byte × Nat) j =>
    let t := toBytes x.2 16
    (x.1 ++ xorBytes (aes256 dataKey (xorBytes ((plain.drop (16 * j)).take 16) t)) t, timesX128 x.2)) ([], first)).1

/-- A 128-bit number as a block, the highest byte first. -/
def blockOf (n : Nat) : List Byte := (toBytes n 16).reverse

/-- The CMAC of a message. -/
def cmac (key msg : List Byte) : List Byte :=
  let k1 := timesX128 (bigEndian (aes256 key (blockOf 0)))
  let n := max 1 ((msg.length + 15) / 16)
  let block := fun (j : Nat) => (msg.drop (16 * j)).take 16
  let last := block (n - 1)
  let closed := if last.length = 16 then xorBytes last (blockOf k1)
    else xorBytes (last ++ [0x80] ++ List.replicate (15 - last.length) 0) (blockOf (timesX128 k1))
  let x := (List.range (n - 1)).foldl (fun x j => aes256 key (xorBytes x (block j))) (blockOf 0)
  aes256 key (xorBytes x closed)

end Sys2Proof.Machine
end

