-- ==== Sys2Proof/Machine/EngineOps.lean ====
section
/-! DEFINITION. The words of the engines: majors 0x30 to 0x39 (R378, R384, R386 to R420), each by its operands and its engine field. -/
namespace Sys2Proof.Machine

/-- X(a), or 0 for a command that does not use it, of the fields that a command reads. -/
def State.cmd1 (s : State) (op : CmdOp) (ef : Nat) (a : Reg) (w : BitVec 1) : Outcome := s.command [a] op ef (s.X a) 0 (w == 1) id
def State.cmd2 (s : State) (op : CmdOp) (ef : Nat) (a b : Reg) (w : BitVec 1) : Outcome := s.command [a, b] op ef (s.X a) (s.X b) (w == 1) id

/-! ## The copy engine -/

/-- `cp` (R387). -/
def execCp (a : Reg) (b : Reg) (w : BitVec 1) (s : State) : Outcome := s.cmd2 .cp 0 a b w

/-- `cpn` (R387). -/
def execCpn (a : Reg) (b : Reg) (w : BitVec 1) (s : State) : Outcome := s.cmd2 .cpn 0 a b w

/-- `cpm` (R390). -/
def execCpm (a : Reg) (b : Reg) (w : BitVec 1) (s : State) : Outcome := s.cmd2 .cpm 0 a b w

/-- `cps` (R389). -/
def execCps (a : Reg) (b : Reg) (w : BitVec 1) (s : State) : Outcome := s.cmd2 .cps 0 a b w

/-- `cpr` (R391, by `c.red`). -/
def execCprFp32 (a : Reg) (b : Reg) (w : BitVec 1) (s : State) : Outcome := s.cmd2 .cpr 0 a b w

/-- `cpsi` (R392). -/
def execCpsi (a : Reg) (b : Reg) (q : BitVec 1) (s : State) : Outcome := s.cmd2 .cpsi q.toNat a b 0

/-- `cpso` (R392). -/
def execCpso (a : Reg) (b : Reg) (q : BitVec 1) (s : State) : Outcome := s.cmd2 .cpso q.toNat a b 0

/-- `cpf` (R388). -/
def execCpf (a : Reg) (b : Reg) (w : BitVec 1) (e : BitVec 1) (s : State) : Outcome := s.cmd2 .cpf e.toNat a b w

/-- `cpz` (R388). -/
def execCpz (a : Reg) (w : BitVec 1) (s : State) : Outcome := s.cmd1 .cpz 0 a w

/-- `cpc` (R393). -/
def execCpc (a : Reg) (w : BitVec 1) (s : State) : Outcome := s.cmd1 .cpc 0 a w

/-- `cpset` (R303, R384). -/
def execCpset (b : Reg) (r : BitVec 6) (s : State) : Outcome := s.engineSet .copy b r

/-- `cpget` (R303, R384). -/
def execCpget (b : Reg) (r : BitVec 6) (s : State) : Outcome := s.engineGet .copy b r

/-! ## The vector engine -/

/-- `vadd` (R396). -/
def execVadd (a : Reg) (b : Reg) (w : BitVec 1) (m : BitVec 1) (k : BitVec 1) (s : State) : Outcome :=
  s.cmd2 .vadd (m.toNat * 2 + k.toNat) a b w

/-- `vsub` (R396). -/
def execVsub (a : Reg) (b : Reg) (w : BitVec 1) (m : BitVec 1) (k : BitVec 1) (s : State) : Outcome :=
  s.cmd2 .vsub (m.toNat * 2 + k.toNat) a b w

/-- `vmul` (R396). -/
def execVmul (a : Reg) (b : Reg) (w : BitVec 1) (m : BitVec 1) (k : BitVec 1) (s : State) : Outcome :=
  s.cmd2 .vmul (m.toNat * 2 + k.toNat) a b w

/-- `vfma` (R396). -/
def execVfma (a : Reg) (b : Reg) (w : BitVec 1) (m : BitVec 1) (k : BitVec 1) (s : State) : Outcome :=
  s.cmd2 .vfma (m.toNat * 2 + k.toNat) a b w

/-- `vmin` (R396). -/
def execVmin (a : Reg) (b : Reg) (w : BitVec 1) (m : BitVec 1) (k : BitVec 1) (s : State) : Outcome :=
  s.cmd2 .vmin (m.toNat * 2 + k.toNat) a b w

/-- `vmax` (R396). -/
def execVmax (a : Reg) (b : Reg) (w : BitVec 1) (m : BitVec 1) (k : BitVec 1) (s : State) : Outcome :=
  s.cmd2 .vmax (m.toNat * 2 + k.toNat) a b w

/-- `vabs` (R396). -/
def execVabs (a : Reg) (b : Reg) (w : BitVec 1) (m : BitVec 1) (s : State) : Outcome := s.cmd2 .vabs (m.toNat * 2) a b w

/-- `vneg` (R396). -/
def execVneg (a : Reg) (b : Reg) (w : BitVec 1) (m : BitVec 1) (s : State) : Outcome := s.cmd2 .vneg (m.toNat * 2) a b w

/-- `vsqrt` (R396). -/
def execVsqrt (a : Reg) (b : Reg) (w : BitVec 1) (m : BitVec 1) (s : State) : Outcome := s.cmd2 .vsqrt (m.toNat * 2) a b w

/-- `vexp2` (R396). -/
def execVexp2 (a : Reg) (b : Reg) (w : BitVec 1) (m : BitVec 1) (s : State) : Outcome := s.cmd2 .vexp2 (m.toNat * 2) a b w

/-- `vcmp` (R397). -/
def execVcmp (a : Reg) (b : Reg) (w : BitVec 1) (c : BitVec 4) (k : BitVec 1) (s : State) : Outcome :=
  s.cmd2 .vcmp (c.toNat * 16 + k.toNat) a b w

/-- `vsel` (R396). -/
def execVsel (a : Reg) (b : Reg) (w : BitVec 1) (m : BitVec 1) (k : BitVec 1) (s : State) : Outcome :=
  s.cmd2 .vsel (m.toNat * 2 + k.toNat) a b w

/-- `vcvt` (R398). -/
def execVcvt (a : Reg) (b : Reg) (w : BitVec 1) (f : BitVec 4) (m : BitVec 1) (s : State) : Outcome :=
  s.cmd2 .vcvt (f.toNat * 16 + m.toNat * 2) a b w

/-- `vred` (R399). -/
def execVred (a : Reg) (b : Reg) (w : BitVec 1) (s : State) : Outcome := s.cmd2 .vred 0 a b w

/-- `vdot` (R399). -/
def execVdot (a : Reg) (b : Reg) (w : BitVec 1) (k : BitVec 1) (s : State) : Outcome := s.cmd2 .vdot k.toNat a b w

/-- `vgat` (R400). -/
def execVgat (a : Reg) (b : Reg) (w : BitVec 1) (m : BitVec 1) (s : State) : Outcome := s.cmd2 .vgat (m.toNat * 2) a b w

/-- `vsca` (R400). -/
def execVsca (a : Reg) (b : Reg) (w : BitVec 1) (m : BitVec 1) (s : State) : Outcome := s.cmd2 .vsca (m.toNat * 2) a b w

/-- `vscadd` (R400). -/
def execVscadd (a : Reg) (b : Reg) (w : BitVec 1) (m : BitVec 1) (s : State) : Outcome := s.cmd2 .vscadd (m.toNat * 2) a b w

/-- `vrot` (R401). -/
def execVrot (a : Reg) (b : Reg) (w : BitVec 1) (r : BitVec 2) (s : State) : Outcome := s.cmd2 .vrot (r.toNat * 16) a b w

/-- `vquant` (R402). -/
def execVquant (a : Reg) (b : Reg) (w : BitVec 1) (s : State) : Outcome := s.cmd2 .vquant 0 a b w

/-- `vdeq` (R402). -/
def execVdeq (a : Reg) (b : Reg) (w : BitVec 1) (s : State) : Outcome := s.cmd2 .vdeq 0 a b w

/-- `vtab` (R403). -/
def execVtab (b : Reg) (w : BitVec 1) (t : BitVec 1) (s : State) : Outcome := s.command [b] .vtab (t.toNat * 16) 0 (s.X b) (w == 1) id

/-- `vfix` (R404). -/
def execVfix (a : Reg) (b : Reg) (w : BitVec 1) (m : BitVec 1) (s : State) : Outcome := s.cmd2 .vfix (m.toNat * 2) a b w

/-- `vflt` (R404). -/
def execVflt (a : Reg) (b : Reg) (w : BitVec 1) (m : BitVec 1) (s : State) : Outcome := s.cmd2 .vflt (m.toNat * 2) a b w

/-- `vset` (R303, R384). -/
def execVset (b : Reg) (r : BitVec 6) (s : State) : Outcome := s.engineSet .vector b r

/-- `vget` (R303, R384). -/
def execVget (b : Reg) (r : BitVec 6) (s : State) : Outcome := s.engineGet .vector b r

/-! ## The matrix engine -/

/-- `mldb` (R408). -/
def execMldb (a : Reg) (b : Reg) (w : BitVec 1) (s : State) : Outcome := s.cmd2 .mldb 0 a b w

/-- `mmac` (R409). -/
def execMmac (a : Reg) (b : Reg) (w : BitVec 1) (s : State) : Outcome := s.cmd2 .mmac 0 a b w

/-- `mpass` (R408). -/
def execMpass (w : BitVec 1) (s : State) : Outcome := s.command [] .mpass 0 0 0 (w == 1) id

/-- `mzero` (R411). -/
def execMzero (a : Reg) (w : BitVec 1) (s : State) : Outcome := s.cmd1 .mzero 0 a w

/-- `mdrain` (R411). -/
def execMdrain (a : Reg) (b : Reg) (w : BitVec 1) (c : BitVec 1) (f : BitVec 2) (s : State) : Outcome :=
  s.cmd2 .mdrain (c.toNat * 64 + f.toNat * 16) a b w

/-- `mdrainx` (R411). -/
def execMdrainx (a : Reg) (w : BitVec 1) (c : BitVec 1) (s : State) : Outcome := s.cmd1 .mdrainx (c.toNat * 64) a w

/-- `maddx` (R411). -/
def execMaddx (a : Reg) (w : BitVec 1) (s : State) : Outcome := s.cmd1 .maddx 0 a w

/-- `mset` (R303, R384). -/
def execMset (b : Reg) (r : BitVec 6) (s : State) : Outcome := s.engineSet .matrix b r

/-- `mget` (R303, R384). -/
def execMget (b : Reg) (r : BitVec 6) (s : State) : Outcome := s.engineGet .matrix b r

/-! ## Pooling -/

/-- `pool` (R415). -/
def execPool (a : Reg) (b : Reg) (w : BitVec 1) (s : State) : Outcome := s.cmd2 .pool 0 a b w

/-- `poset` (R303, R384). -/
def execPoset (b : Reg) (r : BitVec 6) (s : State) : Outcome := s.engineSet .pool b r

/-- `poget` (R303, R384). -/
def execPoget (b : Reg) (r : BitVec 6) (s : State) : Outcome := s.engineGet .pool b r

/-! ## Binning -/

/-- `binapp` (R418). -/
def execBinapp (a : Reg) (b : Reg) (w : BitVec 1) (s : State) : Outcome := s.cmd2 .binapp 0 a b w

/-- `binplay` (R419, by `bn.mode`). -/
def execBinplayFp32 (a : Reg) (b : Reg) (w : BitVec 1) (s : State) : Outcome := s.cmd2 .binplay 0 a b w

/-- `binflush` (R420). -/
def execBinflush (w : BitVec 1) (s : State) : Outcome := s.command [] .binflush 0 0 0 (w == 1) id

/-- `bnset` (R303, R384). -/
def execBnset (b : Reg) (r : BitVec 6) (s : State) : Outcome := s.engineSet .bin b r

/-- `bnget` (R303, R384). -/
def execBnget (b : Reg) (r : BitVec 6) (s : State) : Outcome := s.engineGet .bin b r

/-! ## Rows that share a word -/

/-- The fields of the command word in issue. -/
def State.irB (s : State) : Reg := BitVec.ofNat 4 (fld s.ir.toNat 21 18)
def State.irTop (s : State) : Reg := BitVec.ofNat 4 (fld s.ir.toNat 25 22)
def State.irW (s : State) : Bool := fld s.ir.toNat 11 11 = 1

/-- The word in issue as a command whose captured register `i` holds `v`. -/
def State.fixedCommand (s : State) (op : CmdOp) (i : Nat) (v : Word) : Outcome :=
  s.command [s.irTop, s.irB] op 0 (s.X s.irTop) (s.X s.irB) s.irW (fun l => l.set i v)

/-- `cpr` in mode 1 (R391). -/
def execCprFp64 (s : State) : Outcome := s.fixedCommand .cpr 10 1

/-- `cpr` in mode 2 (R391). -/
def execCprRaw (s : State) : Outcome := s.fixedCommand .cpr 10 2

/-- `cpr` in mode 3 (R391). -/
def execCprInt64 (s : State) : Outcome := s.fixedCommand .cpr 10 3

/-- `binplay` in mode 1 (R419, R155). -/
def execBinplayAnchored (s : State) : Outcome := s.fixedCommand .binplay 3 1

end Sys2Proof.Machine
end

