-- ==== Sys2Proof/Machine/Switch.lean ====
section
/-! DEFINITION. Context switch: `ctxsv` and `ctxrs`, and the bytes of a save record (R233 to R237, R376). What a record has no field for is
kept beside it in `State.saved` (DESIGN CHOICE, log 11). -/
namespace Sys2Proof.Machine

/-! ## The bytes of a save record (R234), beside `State.coreImage` -/

/-- The accumulators in raw form, and the decode tables. -/
def Core.accBytes (o : Core) : List Byte := (List.range 4).flatMap (fun t => (o.tile t).elems.flatMap (fun e => e.raw (o.tile t).anc))
def Core.tabBytes (o : Core) : List Byte := tableBytes o.tab0 ++ tableBytes o.tab1

/-- The entries of the queue, by priority and then queue order. -/
def Core.allQueued (o : Core) : List (Nat × QEntry) := [0, 1, 2, 3].flatMap (fun p => (o.queue p).map (fun e => (p, e)))

/-- The 64 ready-queue entries. -/
def Core.queueWords (o : Core) : List Word := padWords 1088 (o.allQueued.flatMap (fun e => e.2.image.words ++ [e.2.frame]))

/-- The 24 words of a seat record. -/
def Seat.words (st : Seat) : List Word :=
  st.image.words ++
    [BitVec.ofNat 64 (st.state + st.step * 2 ^ 8), st.task,
     BitVec.ofNat 64 (st.live % 2 ^ 8 + st.founder % 8 * 2 ^ 8 + st.parked % 16 * 2 ^ 16),
     BitVec.ofNat 64 (st.scratchBase % 2 ^ 16 + st.scratchUnits % 2 ^ 16 * 2 ^ 16 + st.logEnd % 2 ^ 16 * 2 ^ 32 +
       st.lowRes % 2 ^ 16 * 2 ^ 48),
     st.prdl, BitVec.ofNat 64 st.done, 0, 0]

/-- A core barrier as 8 bytes. -/
def Barrier.word (b : Barrier) : Word := BitVec.ofNat 64 (b.count % 2 ^ 8 + b.arrived % 2 ^ 8 * 2 ^ 8 + b.gen.toNat * 2 ^ 16)

/-- Cycles of the idle count, and of the wait, of R147. -/
def idleCycles : Nat := 256
def waitCycles : Nat := 1024

/-- The steal state: its code, the next probe, and the cycles left. -/
def Core.stealWord (o : Core) : Word :=
  match o.steal with
  | .busy => BitVec.ofNat 64 ((idleCycles - o.idleFor) * 2 ^ 16)
  | .probing n => BitVec.ofNat 64 (1 + n % 2 ^ 8 * 2 ^ 8)
  | .waiting => BitVec.ofNat 64 (2 + (waitCycles - o.waited) * 2 ^ 16)

/-- A set of numbers below 64 as a word. -/
def setWord (l : List Nat) (base : Nat) : Word :=
  BitVec.ofNat 64 (l.foldl (fun v i => if base ≤ i && i < base + 64 then v ||| 2 ^ (i - base) else v) 0)

/-- The scheduler state. -/
def Core.schedWords (o : Core) : List Word :=
  [0, 0, o.stealWord, setWord o.scratch 0, setWord o.scratch 64, setWord o.scratch 128,
   BitVec.ofNat 64 ((setWord o.parkUsed 0).toNat % 2 ^ 8 + (setWord o.faultUsed 0).toNat % 2 ^ 4 * 2 ^ 8), 0]

/-- The bytes of the save record of a core from +16, with its tag and without slot `k`. -/
def State.recordBytes (s0 : State) (c k : Nat) (tag : BitVec 16) : List Byte :=
  let s := s0.modSlot c k (fun _ => {})
  let o := s.core c
  bytesOf [tag.zeroExtend 64, s.cyc c, s.ref c, BitVec.ofNat 64 (c % 2 ^ 24), 0, 0] ++ s.coreImage c ++ o.accBytes ++ o.tabBytes ++
    bytesOf (o.queueWords ++ (List.range 64).flatMap (fun n => (o.seat n).words) ++
      (List.range 16).map (fun n => ((o.barriers.get n).getD {}).word) ++ o.schedWords) ++ List.replicate 2304 0

/-- The first word of a record: magic and version. -/
def saveMagic : Nat := 0x56535843 + 2 ^ 32

/-! ## `ctxsv` -/

/-- The home of a record: a 64 KiB-aligned bulk address of a page that the supervisor may use so, with a home at a core. -/
def State.recordAt (s : State) (t : Thread) (va : Word) (kind : AccKind) : State × Checked :=
  if va.toNat % 2 ^ 16 ≠ 0 || !bulkRun s.here va.toNat 1 then (s, .trap 1 va.toNat)
  else
    match s.check s.here t none kind [(va.toNat, 32)] [] with
    | (s1, .places [(p, _)]) => (match p with
      | .quad _ | .away _ _ => (s1, .places [(p, 32)])
      | _ => (s1, .trap 1 va.toNat))
    | r => r

/-- The checks before `ctxsv` and `ctxrs` that concern the record's address; `go` gets its home. -/
def State.withRecord (s : State) (t : Thread) (va : Word) (kind : AccKind) (go : State → Nat → State) : State :=
  match s.recordAt t va kind with
  | (s1, .places [(p, _)]) => go s1 p.key
  | (s1, .trap sub a) => s1.trap 4 sub (BitVec.ofNat 64 a)
  | (s1, .fault cls a) => s1.pageFault (BitVec.ofNat 64 a) cls kind.code
  | (s1, .busy) => s1.again 9
  | (s1, _) => s1.trap 4 1 va

/-- A legal length of a held buffer. -/
def heldLength (n : Nat) : Bool := n % 4096 = 0 && 4096 ≤ n && n ≤ 2 ^ 24

/-- Step 1 of `ctxsv` for a record at a key, and the end of every stream binding: from now on every tagged arrival is held. -/
def State.beginSave (s : State) (srcs : List Reg) (va : Word) (key length : Nat) : State :=
  let c := s.here
  let tag := s.tagOf c
  ((s.takeAt c s.slotNo srcs).modCore c (fun o =>
    { o with
      switching := some s.slotNo
      held := o.held ++ [{ tag, buffer := va + 32768, home := key + 32768, length }]
      ctxid := 0
      streams := o.streams.map Stream.ended })).park (.ctxsv va)

/-- `ctxsv` (R376, R234). -/
def execCtxsv (a : Reg) (s : State) : Outcome :=
  s.gateFor true [a] [] (fun t =>
    let va := s.X a
    s.unless (t.fate s.here none true false) va (fun _ =>
      s.withRecord t va .store (fun s1 key =>
        let n := (s1.word (key + 8)).toNat
        if !heldLength n then s1.trap 4 1 va
        else if 8 ≤ (s1.core s1.here).held.length then s1.trap 4 5 va
        else s1.beginSave [a] va key n)))

/-- Steps 2 and 3 are over: the buffers are empty, no other slot is inside an instruction, and every command has completed or stopped. -/
def Core.quiet (o : Core) (k : Nat) : Bool :=
  o.buffer.isEmpty && o.loopq.isEmpty && o.holds.isEmpty && o.leaving.isEmpty && o.cmds.all (fun d => d.fault.isSome) &&
    (List.range 8).all (fun i => i == k || ((o.slot i).busy == 0 && !(o.slot i).torn))

/-- Contexts that wait in the arrival queue move to the head of the held buffer (step 4), which is written anew; they count as arrivals
held (DEDUCED, log 64). -/
def State.holdQueued (s : State) (c : Nat) (h : Held) : State :=
  let queued := (s.core c).arrivals
  if queued.isEmpty then s
  else
    let used := h.used + (queued.map (fun t => heldSize t.load)).foldl (· + ·) 0
    let h1 := { h with arrivals := queued ++ h.arrivals, used }
    let s1 := s.modCore c (fun o =>
      { o with arrivals := [], held := o.held.map (fun g => if g.tag == h.tag then h1 else g) })
    if h.length < used then s1.fatalPartition c 5
    else ((h1.arrivals.foldl (fun (x : State × Nat) t => (x.1.putHeld c h1 x.2 t.load, x.2 + heldSize t.load)) (s1, 0)).1).heldGrew c h

/-- A core whose context has been saved: registers keep their values; the rest is empty, but for the slot that executes. -/
def Core.vacated (o : Core) (k : Nat) : Core :=
  { o with
    slots := o.slots.map (fun e => if e.1 = k then e else (e.1, { gen := e.2.gen })), mailboxes := []
    q0 := [], q1 := [], q2 := [], q3 := [], rings := [], seats := [], yielded := [], scratch := [], steal := .busy, idleFor := 0, waited := 0
    claimed := false, parkUsed := [], faultUsed := [], parked := [], barriers := [], cmds := [], streams := [], switching := none }

/-- The key of a saved context. -/
def savedKey (c : Nat) (tag : BitVec 16) : Nat := c * 2 ^ 16 + tag.toNat

/-- Steps 4 and 5 of `ctxsv`, once the core is quiet; until then the slot stays parked. -/
def State.finishSave (s : State) (c k : Nat) (va : Word) : State :=
  let o := s.core c
  match o.held.find? (fun h => h.buffer == va + 32768) with
  | some h =>
    if !o.quiet k then s
    else
      let key := h.home - 32768
      let s2 := s.holdQueued c h
      let bs := s2.recordBytes c k h.tag
      let s3 := ((s2.storeHome key (toBytes saveMagic 8)).storeHome (key + 16) bs)
      let kept := (s3.core c).putSlot k {}
      let s4 := { s3 with saved := s3.saved.set (savedKey c h.tag) kept }
      (s4.modCore c (fun o => o.vacated k)).advanceAt c k
  | none => s

/-! ## `ctxrs` -/

/-- `n` words of a record from an offset. -/
def recWords (w : List Word) (off n : Nat) : List Word := (w.drop (off / 8)).take n

/-- A slot's park after a restore: the wait that stands beside the record when its code is the record's, evaluated afresh; the
instruction of any other issues again, as does a `barw` whose generation is a stream element that it has not taken. -/
def Park.restored (p : Option Park) (code : Nat) (operand : Word) (stamp : Nat) : Park :=
  match p with
  | some (.recv d a m _) => if code = 6 then .recv d a m stamp else .step code
  | some (.full _ _) => .step 2
  | some q => if q.code ≠ code then .step code else match q with
    | .barrier sc n _ srcs => if srcs.isEmpty then .barrier sc n (operand.truncate 16) [] else .step code
    | r => r
  | none => .step code

/-- A thread that a restore brings from core `from'` to core `c`: its seat moves with it. -/
def Thread.moved (t : Thread) (from' c : Nat) : Thread :=
  { t with task := t.task.map (fun i => if i.seatCore = from' then { i with seatCore := c } else i) }

/-- A slot from its record of 32 words and what stands beside it. `mdl` and `sigst` take their entry values, as for every context that
enters a slot (R202, R250; DEDUCED, log 109). -/
def slotOf (base : Slot) (from' c stamp gen : Nat) (w : List Word) : Slot :=
  let x := Ctx.ofWords w
  let state := (w.getD 17 0).toNat
  if state % 2 ^ 8 = 0 || (x.status.met && base.meet.isNone) then { gen, reserved := base.reserved }
  else
    let t := base.thread.getD {}
    { base with
      gen
      thread := some ({ t with ctx := x, tid := (w.getD 16 0).truncate 32 }.moved from' c)
      park := if state % 2 ^ 8 = 1 then none else some (Park.restored base.park (state / 2 ^ 8 % 2 ^ 8) (w.getD 26 0) stamp)
      mdl := 0, sigst := 0, eip := w.getD 20 0, estat := w.getD 21 0, ecause := w.getD 22 0, eaddr := w.getD 23 0
      es0 := w.getD 24 0, es1 := w.getD 25 0, fetch := [] }

/-- A seat from its record of 24 words and what stands beside it. -/
def seatFrom (base : Seat) (from' c : Nat) (w : List Word) : Seat :=
  let f := fun (i hi lo : Nat) => bits (w.getD i 0) hi lo
  { base with
    image := Rec.ofWords w, state := f 16 7 0, step := f 16 11 8, task := w.getD 17 0, live := f 18 7 0, founder := f 18 10 8
    parked := f 18 19 16, scratchBase := f 19 15 0, scratchUnits := f 19 31 16, logEnd := f 19 47 32, lowRes := f 19 63 48
    prdl := w.getD 20 0, done := (w.getD 21 0).toNat, scratchCore := if base.scratchCore = from' then c else base.scratchCore }

/-- Queue entry `i` of a record: with what stands beside it when that is the same entry; an empty one gives none. -/
def entryFrom (base : List (Nat × QEntry)) (w : List Word) (i : Nat) : Option (Nat × QEntry) :=
  let x := recWords w (9280 + 136 * i) 17
  let r := Rec.ofWords x
  let f := x.getD 16 0
  if x.all (· == 0) then none
  else match base[i]? with
    | some (p, e) => if e.image = r && e.frame = f then some (p, e) else some (r.prio, { image := r, frame := f })
    | none => some (r.prio, { image := r, frame := f })

/-- A tile from its raw bytes. -/
def tileFrom (bs : List Byte) : AccTile :=
  { anc := (rawOf (bs.take 16)).2, elems := (List.range 64).map (fun i => (rawOf ((bs.drop (16 * i)).take 16)).1) }

/-- A set of numbers from a word. -/
def wordSet (w : Word) (n base : Nat) : List Nat := ((List.range n).filter (bit w)).map (· + base)

/-- A core with the steal state of a word, and the count of R147 that belongs to it; a thief has been idle (DEDUCED, log 109). -/
def Core.stealFrom (o : Core) (w : Word) : Core :=
  let left := bits w 47 16
  match bits w 1 0 with
  | 1 => { o with steal := .probing (bits w 15 8), idleFor := idleCycles, waited := 0 }
  | 2 => { o with steal := .waiting, idleFor := idleCycles, waited := waitCycles - left }
  | _ => { o with steal := .busy, idleFor := idleCycles - left, waited := 0 }

/-- The registers of a record, but for `lmsplit`. -/
def Core.putRegisters (o : Core) (w : List Word) : Core :=
  let r := fun (i : Nat) => w.getD (328 + i) 0
  { o with
    win0 := r 0, win1 := r 1, tcmp := r 2, ivslot := r 3, ivec := r 4, mbie := r 5, mbovf := r 6
    mbLost := (r 7 >>> 48).truncate 16, mbOvf := (r 7 >>> 32).truncate 16
    qovf := r 8, spool := r 9, qgroup := r 11, upv := r 12, asid := r 13, ptbase := r 14, smpc := r 15, smpNext := 0 }

/-- The read-only status fields that an engine shows are not stored. -/
def storedStatus (f : EngineFile) (v : Word) : Word :=
  match f with
  | .copy => v &&& ~~~(0xFE0 : Word)
  | .vector => v &&& ~~~(0x800 : Word)
  | .matrix => v &&& ~~~(0x8C0 : Word)
  | _ => v

/-- The engine registers of a record. -/
def Core.putEngines (o : Core) (w : List Word) : Core :=
  let l := w.drop 344
  let file := fun (f : EngineFile) (off : Nat) =>
    let x := (l.drop off).take (EngineFile.size f)
    x.set (statusIndex f) (storedStatus f (x.getD (statusIndex f) 0))
  { o with copyRegs := file .copy 0, vecRegs := file .vector 12, matRegs := file .matrix 25, poolRegs := file .pool 33, binRegs := file .bin 41 }

/-- The mailbox of a record: its notices, and the ring and the binding that stand beside it. -/
def mailboxFrom (base : Mailbox) (w : List Word) (n : Nat) : Mailbox :=
  { base with fifo := (recWords w (2112 + 32 * n) 4).filter (· != 0) }

/-- A core with every field of a record written back, but for `lmsplit`; `base` is what stands beside the record. -/
def Core.restored (o base : Core) (w : List Word) (bs : List Byte) (from' c k stamp : Nat) : Core :=
  let entries := (List.range 64).filterMap (entryFrom base.allQueued w)
  let at' := fun (p : Nat) => (entries.filter (fun e => e.1 == p)).map (·.2)
  let used := w.getD 3806 0
  let o1 := ((o.putRegisters w).putEngines w).stealFrom (w.getD 3802 0)
  { o1 with
    slots := (List.range 8).map (fun i =>
      if i = k then (i, o.slot i) else (i, slotOf (base.slot i) from' c (stamp + i) (o.slot i).gen (recWords w (64 + 256 * i) 32)))
    mailboxes := (List.range 16).map (fun n => (n, mailboxFrom (base.mailbox n) w n))
    q0 := at' 0, q1 := at' 1, q2 := at' 2, q3 := at' 3, rings := base.rings, ring4Next := base.ring4Next, ring5Next := base.ring5Next
    seats := (List.range 64).map (fun n => (n, seatFrom (base.seat n) from' c (recWords w (17984 + 192 * n) 24)))
    yielded := base.yielded, parked := base.parked.map (fun p => (p.1, p.2.moved from' c))
    scratch := wordSet (w.getD 3803 0) 64 0 ++ wordSet (w.getD 3804 0) 64 64 ++ wordSet (w.getD 3805 0) 64 128
    parkUsed := wordSet used 8 0, faultUsed := (wordSet (used >>> 8) 4 0)
    fair := [0, 0, 0, 0]
    barriers := (List.range 16).map (fun n =>
      let v := w.getD (3784 + n) 0
      (n, { count := bits v 7 0, arrived := bits v 15 8, gen := (v >>> 16).truncate 16 }))
    acc := (List.range 4).map (fun t => tileFrom ((bs.drop (3136 + 1024 * t)).take 1024))
    tab0 := imageWords (bs.drop 7232), tab1 := imageWords (bs.drop 8256)
    cmds := base.cmds ++ o.cmds, streams := o.streams }

/-- The state that stands beside a record: of the core and tag that it names. -/
def State.savedFor (s : State) (from' : Nat) (tag : BitVec 16) : Option (Nat × Core) :=
  s.saved.find? (fun e => e.1 / 2 ^ 16 % 2 ^ 24 == from' && e.1 % 2 ^ 16 == tag.toNat)

/-- A slot record that holds a thread; one that holds a met party. -/
def slotUsed (w : List Word) (k : Nat) : Bool := (w.getD (8 + 32 * k + 17) 0).toNat % 2 ^ 8 != 0
def slotMet (w : List Word) (k : Nat) : Bool := slotUsed w k && (Status.ofWord (w.getD (8 + 32 * k + 15) 0)).met

/-- Steps 1 to 4 of `ctxrs`, and the end of the instruction. -/
def State.restore (s : State) (srcs : List Reg) (w : List Word) (bs : List Byte) : State :=
  let c := s.here
  let tag : BitVec 16 := (w.getD 2 0).truncate 16
  let from' := bits (w.getD 5 0) 23 0
  let side := s.savedFor from' tag
  let base := (side.map (·.2)).getD {}
  let s1 := (s.writeBackAll c).divide c (w.getD 338 0)
  let s2 := s1.modCore c (fun o =>
    { o.restored base w bs (if from' = c % 2 ^ 24 then c else from') c s.slotNo s.stamp with
      ctxid := tag, held := o.held.filter (fun h => h.tag != tag) })
  let s3 := { s2 with stamp := s2.stamp + 8, saved := match side with
    | some (k, _) => s2.saved.del k
    | none => s2.saved }
  let arrivals := (((s.core c).held.find? (fun h => h.tag == tag)).map (·.arrivals)).getD []
  let s4 := (s3.complete srcs)
  arrivals.foldl (fun s t => s.arriveNow t) s4

/-- `ctxrs` (R376, R236). -/
def execCtxrs (a : Reg) (s : State) : Outcome :=
  s.gateFor true [a] [] (fun t =>
    let va := s.X a
    s.unless (t.fate s.here none true false) va (fun _ =>
      s.withRecord t va .load (fun s1 key =>
        let bs := s1.bytes key 32768
        let w := wordsOf bs
        if bits (w.getD 0 0) 31 0 ≠ saveMagic % 2 ^ 32 then s1.trap 4 1 va
        else if (List.range 8).any (slotMet w) && bits (w.getD 5 0) 23 0 ≠ s1.here % 2 ^ 24 then s1.trap 4 1 va
        else if slotUsed w s1.slotNo then s1.trap 4 1 va
        else s1.restore [a] w bs)))

end Sys2Proof.Machine
end

