-- ==== Sys2Proof/Machine/Links.lean ====
section
/-! DEFINITION. Links: lanes, retraining and down links, link-event notices, and the protocol of packets, acknowledgements and replay
(R50 to R61, R65). Links 0 to 11 are Lanify links, 16 to 31 capacity ports 0 to 15; 32 to 47 are the far ends of the capacity links, at
the buffers. -/
namespace Sys2Proof.Machine

/-! ## Ends of a link -/

/-- Ticks of 10 ns, of 500 ns, of 2 µs and of 1 ms. -/
def ticks10ns : Nat := 72
def ticksAck : Nat := 3600
def ticksRetrain : Nat := 14400
def ticksMs : Nat := 7200000

/-- The data lanes of a link. -/
def laneCount (l : Nat) : Nat := if l < 16 then 16 else 8

/-- The other side. -/
def otherSide : LinkSide → LinkSide
  | .tx => .rx
  | .rx => .tx

/-- A direction of a link at a module's end. -/
def Link.side (k : Link) : LinkSide → LinkDir
  | .tx => k.tx
  | .rx => k.rx

/-- A direction changed. -/
def State.modDir (s : State) (m l : Nat) (d : LinkSide) (f : LinkDir → LinkDir) : State :=
  s.modLink m l (fun k => match d with
    | .tx => { k with tx := f k.tx }
    | .rx => { k with rx := f k.rx })

/-- The far end of a link: by the cabling (R63), or at the buffer. -/
def State.farEnd (s : State) (m l : Nat) : Option (Nat × Nat) :=
  if l < 16 then (s.module m).cables.get l else some (m, if l < 32 then l + 16 else l - 16)

/-- A physical direction changed at both of its ends. -/
def State.modBoth (s : State) (m l : Nat) (d : LinkSide) (f : LinkDir → LinkDir) : State :=
  let s1 := s.modDir m l d f
  match s.farEnd m l with
  | none => s1
  | some (m2, l2) => s1.modDir m2 l2 (otherSide d) f

/-! ## Lane groups (R58) -/

/-- The aligned groups of `n` lanes as (width, first), the largest first, and the lowest lanes first. -/
def laneGroups (n : Nat) : List (Nat × Nat) :=
  ([16, 8, 4, 2, 1].filter (fun w => w ≤ n)).flatMap (fun w => (List.range (n / w)).map (fun i => (w, w * i)))

/-- The largest aligned group with no failed lane number. -/
def cleanGroup (n : Nat) (failed : List Nat) : Option (Nat × Nat) :=
  (laneGroups n).find? (fun g => !failed.any (fun x => g.2 ≤ x && x < g.2 + g.1))

/-- The code of a width in a link-event notice. -/
def widthCode (w : Nat) : Nat := if w = 16 then 0 else if w = 8 then 1 else if w = 4 then 2 else if w = 2 then 3 else if w = 1 then 4 else 7

/-! ## Link-event notices (R61) -/

/-- The sequence number from which class 1 is replayed: the first that is not acknowledged. -/
def LinkDir.replayFrom (d : LinkDir) (side : LinkSide) : Nat :=
  match side with
  | .rx => d.expected.getD 1 0
  | .tx => ((d.replay.find? (fun p => p.cls == 1)).map (·.seq)).getD (d.nextSeq.getD 1 0)

/-- The notice word of an event (number, lane) of a direction as it stands. A down direction has width 7 and `first` 0, a notice of
status 2 gives the group as it was, an event that names no failing lane gives the last one, and `time` saturates (DESIGN CHOICE,
log 98). -/
def linkWord (now l : Nat) (side : LinkSide) (d : LinkDir) (status : Nat) (ev : Nat × Nat) : Word :=
  let time := min 2047 ((now - d.since) / ticks10ns)
  let down := d.down || status = 1
  BitVec.ofNat 64 (10 * 2 ^ 58 + status * 2 ^ 48 + l * 2 ^ 43 + (if side = .tx then 0 else 2 ^ 42) + ev.1 * 2 ^ 39 + ev.2 * 2 ^ 34 +
    (if down then 7 else widthCode d.width) * 2 ^ 31 + (if down then 0 else d.first) * 2 ^ 27 + d.replayFrom side * 2 ^ 11 + time)

/-- A notice that the monitor forwards to the supervisor core of each partition of a module, in the mailbox for link events. -/
def State.tellPartitions (s : State) (m src : Nat) (w : Word) : State :=
  (List.range 16).foldl (fun s p =>
    let q := s.part m p
    if q.state = .absent then s
    else s.send { src, dst := q.supervisor, vc := 2, part := p, load := .notice q.linkMb w none }) s

/-- The link-event notice of one end of a link; a buffer sends none. -/
def State.linkNotice (s : State) (m l : Nat) (side : LinkSide) (status : Nat) (ev : Nat × Nat) : State :=
  if 32 ≤ l then s
  else s.tellPartitions m (headId m (linkDie l) 0) (linkWord s.now l side ((s.link m l).side side) status ev)

/-- The notices of both ends, one for every event. -/
def State.linkEvents (s : State) (m l : Nat) (side : LinkSide) (status : Nat) (evs : List (Nat × Nat)) : State :=
  evs.foldl (fun s ev =>
    let s1 := s.linkNotice m l side status ev
    match s.farEnd m l with
    | none => s1
    | some (m2, l2) => s1.linkNotice m2 l2 (otherSide side) status ev) s

/-! ## Failing lanes (R57 to R59, R65) -/

/-- A failure that changes the lanes in use: retraining starts, or starts again, and its end reports the event. A down direction that
is not being trained stays down. -/
def LinkDir.again (d : LinkDir) (now x event : Nat) : LinkDir :=
  { d with retraining := !d.down || d.retraining, since := now, lane := x, events := d.events ++ [(event, x)], wire := [] }

/-- A direction whose lane `x` fails: substitution by a free spare, or one lane number less. -/
def LinkDir.fail (d : LinkDir) (l now x : Nat) : LinkDir :=
  if d.failed.contains x || (x = 16 && d.spare.isNone && d.failed.contains 16) then d
  else if x = 16 then
    match d.spare with
    | none => { d with failed := d.failed ++ [16] }
    | some y => { d with spare := none, failed := d.failed ++ [16, y] }.again now x 2
  else if d.spare = some x then d
  else if l < 16 && d.spare.isNone && !d.failed.contains 16 then { d with spare := some x }.again now x 1
  else { d with failed := d.failed ++ [x] }.again now x 2

/-- The events of a direction that have been reported leave it. -/
def LinkDir.reported (d : LinkDir) : LinkDir := { d with events := [] }

/-- LANE_FAILURE (R57 to R59): an event of a down direction that is not being trained is reported at once. -/
def execLaneFailure (s : State) : Outcome :=
  let a := s.args
  .next (if a.lane < laneCount a.link || (a.lane = 16 && a.link < 16) then
      let s1 := s.modBoth a.m a.link a.side (fun d => d.fail a.link s.now a.lane)
      let d := (s1.link a.m a.link).side a.side
      if d.down && !d.retraining then
        (s1.linkEvents a.m a.link a.side 1 d.events).modBoth a.m a.link a.side LinkDir.reported
      else s1
    else s)

/-- The end of a retraining that fails: the third in succession brings the direction down. -/
def LinkDir.missed (d : LinkDir) : LinkDir :=
  if d.down then { d with retraining := false, restoring := false }
  else if 2 ≤ d.tries then
    { d with retraining := false, restoring := false, tries := 0, down := true, events := d.events ++ [(4, d.lane)] }
  else { d with tries := d.tries + 1 }

/-- The end of a retraining: the new group, a restoration if that is what the retraining was for; without a clean lane the direction is
down. -/
def LinkDir.trained (d : LinkDir) (l : Nat) : LinkDir :=
  let e := { d with retraining := false, restoring := false, tries := 0, wire := [] }
  match cleanGroup (laneCount l) d.failed with
  | some (w, first) =>
    { e with down := false, width := w, first, resend := d.replay, events := d.events ++ (if d.restoring then [(3, d.lane)] else []) }
  | none => { e with down := true, events := d.events ++ (if d.down then [] else [(4, d.lane)]) }

/-! ## Flits (R52, R54) -/

/-- One bit of CRC-32C, reflected. -/
def crcBit (c : Nat) : Nat := if c % 2 = 1 then (c / 2) ^^^ 0x82F63B78 else c / 2

/-- One byte of CRC-32C. -/
def crcByte (c : Nat) (b : Byte) : Nat := (List.range 8).foldl (fun c _ => crcBit c) (c ^^^ b.toNat)

/-- CRC-32C, polynomial 0x1EDC_6F41. -/
def crc32c (l : List Byte) : Nat := (l.foldl crcByte 0xFFFFFFFF) ^^^ 0xFFFFFFFF

/-- Bits [63:32] of the header word. -/
def LinkFlit.head (f : LinkFlit) : Nat :=
  f.strm % 2 ^ 4 + f.kind % 2 ^ 4 * 2 ^ 4 + f.tc % 4 * 2 ^ 8 + f.last.toNat * 2 ^ 10 + f.fidx % 2 ^ 5 * 2 ^ 11 + f.seq % 2 ^ 16 * 2 ^ 16

/-- The header word. -/
def LinkFlit.word (f : LinkFlit) : Nat := f.head * 2 ^ 32 + f.crc.toNat

/-- A flit from a header word and its payload. -/
def LinkFlit.ofWord (w : Nat) (payload : List Byte) : LinkFlit :=
  { seq := w / 2 ^ 48 % 2 ^ 16, fidx := w / 2 ^ 43 % 2 ^ 5, last := w / 2 ^ 42 % 2 = 1, tc := w / 2 ^ 40 % 4, kind := w / 2 ^ 36 % 16
    strm := w / 2 ^ 32 % 16, payload, crc := BitVec.ofNat 32 w }

/-- The CRC over the payload and bits [63:32] of the header. -/
def LinkFlit.sum (f : LinkFlit) : BitVec 32 := BitVec.ofNat 32 (crc32c (f.payload ++ toBytes f.head 4))

/-- A flit with its CRC. -/
def LinkFlit.seal (f : LinkFlit) : LinkFlit := { f with crc := f.sum }

/-- A flit is discarded and counted as a CRC error: its CRC fails, or its kind is reserved. -/
def LinkFlit.bad (f : LinkFlit) : Bool := f.crc != f.sum || decide (4 < f.kind)

/-- A flit as it comes off the lanes, with the bits of a mask of its header word changed. -/
def LinkFlit.struck (f : LinkFlit) (mask : Nat) : LinkFlit := LinkFlit.ofWord (f.word ^^^ mask) f.payload

/-- Bytes filled with zeros to 64. -/
def payload64 (l : List Byte) : List Byte := l.take 64 ++ List.replicate (64 - l.length) 0

/-- The flits of a packet, 64 bytes in each (R53). -/
def Packet.flits (p : Packet) : List LinkFlit :=
  let n := max 1 ((p.payload.length + 63) / 64)
  (List.range n).map (fun i =>
    LinkFlit.seal { seq := p.seq, fidx := i, last := i + 1 = n, tc := p.cls, kind := 0, strm := if p.cls = 1 then p.strm else 0
                    payload := payload64 (p.payload.drop (64 * i)) })

/-- An acknowledgement, or a replay request: the last in-order sequence number of each class, and a valid bit per class in byte 8. -/
def LinkDir.answer (d : LinkDir) (kind : Nat) : LinkFlit :=
  LinkFlit.seal { kind, payload := payload64 (d.expected.flatMap (fun e => toBytes ((e + 2 ^ 16 - 1) % 2 ^ 16) 2) ++
    toBytes ((List.range 4).foldl (fun a i => a + (d.valid.getD i false).toNat * 2 ^ i) 0) 1) }

/-- What an acknowledgement says of a class: the last in-order number, if it is valid. -/
def LinkFlit.lastOf (f : LinkFlit) (cls : Nat) : Option Nat :=
  if bit (BitVec.ofNat 64 ((f.payload.getD 8 0).toNat)) cls then some (ofBytes ((f.payload.drop (2 * cls)).take 2)) else none

/-- The receiver of a direction acknowledges at once (R58). -/
def LinkDir.ack (d : LinkDir) : LinkDir := { d with acks := d.acks ++ [d.answer 1], unacked := 0, oldest := none }

/-- LINK_RETRAINING_COMPLETE (R58 to R61): every event since the last notice is reported. A notice of status 2 names the first event that
the retraining is about; an attempt at a restoration that fails is no event, and has none (DESIGN CHOICE, log 98). -/
def execLinkRetrainingComplete (s : State) : Outcome :=
  let a := s.args
  let d := (s.link a.m a.link).side a.side
  .next (if !d.retraining then s
    else if !a.ok then
      let s1 := s.modBoth a.m a.link a.side LinkDir.missed
      let e := (s1.link a.m a.link).side a.side
      if e.retraining then s1.linkEvents a.m a.link a.side 2 (e.events.take 1)
      else (s1.linkEvents a.m a.link a.side (if d.down then 2 else 1) e.events).modBoth a.m a.link a.side LinkDir.reported
    else
      let s1 := s.modBoth a.m a.link a.side (fun d => d.trained a.link)
      let e := (s1.link a.m a.link).side a.side
      let s2 := (s1.linkEvents a.m a.link a.side e.down.toNat e.events).modBoth a.m a.link a.side LinkDir.reported
      if e.down then s2
      else if a.side = .rx then s2.modDir a.m a.link .rx LinkDir.ack
      else match s2.farEnd a.m a.link with
        | none => s2
        | some (m2, l2) => s2.modDir m2 l2 .rx LinkDir.ack)

/-- A down direction is trained again. -/
def LinkDir.retry (d : LinkDir) (now : Nat) : LinkDir :=
  { d with retraining := true, restoring := true, since := now }

/-- LINK_TRAINING_RETRY (R60): every 1 ms the monitor trains a down link again, but for one that it holds down (R62). -/
def execLinkTrainingRetry (s : State) : Outcome :=
  let a := s.args
  let d := (s.link a.m a.link).side a.side
  .next (if d.down && !d.retraining && !d.barred && ticksMs ≤ s.now - d.since then
      s.modBoth a.m a.link a.side (fun d => d.retry s.now)
    else s)

/-- A direction that the monitor retrains; after repair every lane, and the spare, is good again (R60, R82). -/
def LinkDir.restore (now : Nat) (repaired : Bool) (d : LinkDir) : LinkDir :=
  if d.barred then d
  else
    let e := if repaired then { d with failed := [], spare := none } else d
    { e with retraining := true, restoring := true, since := now, tries := 0, wire := [] }

/-- The monitor retrains the links of a mask: bit l for link l as R61 numbers it (R60, R106). -/
def State.retrainLinks (s : State) (m : Nat) (mask : Word) (repaired : Bool) : State :=
  ((List.range 32).filter (fun l => bit mask l && (l < 12 || 16 ≤ l))).foldl (fun s l =>
    (s.modBoth m l .tx (LinkDir.restore s.now repaired)).modBoth m l .rx (LinkDir.restore s.now repaired)) s

/-! ## Packets (R53, R55) -/

/-- Sequence numbers are modulo 2^16 (R53). -/
def seqNext (n : Nat) : Nat := (n + 1) % 2 ^ 16

/-- A packet number is before the next expected one. -/
def seqBefore (n expected : Nat) : Bool := (expected + 2 ^ 16 - n) % 2 ^ 16 ≠ 0 && (expected + 2 ^ 16 - n) % 2 ^ 16 ≤ 2 ^ 15

/-- The command of a traveller that is copy data. -/
def Traveller.copyId (t : Traveller) : Option Nat := match t.load with
  | .copyData id _ => some id
  | _ => none

/-- The travellers of a class that have reached the edge quad of link `l` of module `m`, in order (R50, R55). -/
def State.waitingAt (s : State) (m l cls : Nat) : List Traveller :=
  s.net.filter (fun t => t.vc == cls && t.link.isNone && moduleOf t.stands == m && s.nextLink t == some l && (t.fromBuffer || !s.stalled t (edgeCore m l)))

/-- The bytes of a traveller that no packet has taken yet. -/
def Traveller.rest (t : Traveller) : List Byte := t.load.bytes.drop t.cut

/-- As many travellers as one packet holds, 2,048 bytes at most, and no more than `n` (R53). -/
def packetLoad : Nat → Nat → List Traveller → List Traveller
  | 0, _, _ => []
  | _, _, [] => []
  | n + 1, size, t :: rest =>
    if 2048 < size + t.rest.length then [] else t :: packetLoad n (size + t.rest.length) rest

/-- A new packet on the link: numbered in its class, kept for replay, its flits on the wire (R52, R53, R55). -/
def LinkDir.put (d : LinkDir) (p : Packet) : LinkDir :=
  let q := { p with seq := d.nextSeq.getD p.cls 0 }
  { d with
    nextSeq := d.nextSeq.set p.cls (seqNext q.seq), replay := d.replay ++ [q], wire := d.wire ++ q.flits, sent := bump d.sent p.cls }

/-- The first packet that must be resent goes on the wire again. -/
def LinkDir.putAgain (d : LinkDir) : LinkDir :=
  match d.resend with
  | p :: rest => { d with resend := rest, wire := d.wire ++ p.flits, replayed := bump d.replayed p.cls }
  | [] => d

/-- The stream of a copy on a link (R53). -/
def LinkDir.streamOf (d : LinkDir) (id : Nat) : Option Nat := (d.streams.find? (fun x => x.2 == id)).map (·.1)

/-- A stream number for a new copy: a free one, or one whose copy has no data on its way (DESIGN CHOICE, log 69). -/
def State.freeStream (s : State) (d : LinkDir) : Option Nat :=
  (List.range 16).find? (fun n => match d.streams.find? (fun x => x.1 == n) with
    | none => true
    | some (_, id) => !s.net.any (fun t => t.copyId == some id))

/-- The contents of a copy's descriptor: the number of its stream; destination, geometry, tag and launch (R53). -/
def State.descriptor (s : State) (t : Traveller) (id strm : Nat) : List Byte :=
  match ((s.core t.src).cmds.find? (fun d => d.id == id)) with
  | none => toBytes strm 8 ++ toBytes t.dst 8
  | some d => toBytes strm 8 ++ toBytes t.dst 8 ++ bytesOf d.regs ++ bytesOf [d.xa, d.xb] ++ toBytes d.tag.toNat 8 ++ toBytes d.launch.toNat 8

/-- The travellers of a packet stand in it, and are counted as accepted onto the link of their quad (R239); a buffer counts none. -/
def State.board (s : State) (m l : Nat) (ts : List Traveller) : State :=
  let keys := ts.map (·.key)
  let s1 := if 32 ≤ l then s else ts.foldl (fun s t =>
    (s.countFlits t (edgeCore m l)).modQuad (edgeQuad m l) (fun q =>
      if t.vc < 3 then { q with linkOut := q.linkOut.set t.part ((q.linkOut.get t.part).getD 0 + 1) } else q)) s
  { s1 with net := s1.net.map (fun t => if keys.contains t.key then { t with link := some (m, l) } else t) }

/-- A packet takes the next 2,048 bytes of a traveller that is longer. -/
def State.cutFrom (s : State) (t : Traveller) : State :=
  { s with net := s.net.map (fun u => if u.key = t.key then { u with cut := u.cut + 2048 } else u) }

/-- A new packet of a class leaves on link `l` of module `m`, with at most `n` travellers: a copy's descriptor first, on class 2; copy
data with data of the same copy alone. A traveller of more than 2,048 bytes fills packets of its own, and boards with the last
(DEDUCED, log 114). -/
def State.newPacket (s : State) (m l cls n : Nat) : State :=
  let d := (s.link m l).tx
  let opening := (s.waitingAt m l 1).findSome? (fun t => t.copyId.bind (fun id => if (d.streamOf id).isNone then some (t, id) else none))
  match cls, opening with
  | 2, some (t, id) =>
    match s.freeStream d with
    | none => s
    | some k =>
      s.modDir m l .tx (fun d => LinkDir.put { d with streams := d.streams.filter (fun x => x.1 != k) ++ [(k, id)] }
        { cls := 2, seq := 0, opens := some id, strm := k, payload := s.descriptor t id k })
  | _, _ =>
    let ready := (s.waitingAt m l cls).filter (fun t => match t.copyId with
      | none => true
      | some id => (d.streamOf id).isSome)
    match ready with
    | [] => s
    | t :: _ =>
      let strm := (t.copyId.bind d.streamOf).getD 0
      if 2048 < t.rest.length then
        (s.cutFrom t).modDir m l .tx (fun d => d.put { cls, seq := 0, strm, payload := t.rest.take 2048 })
      else
        let ts := packetLoad n 0 (ready.takeWhile (fun u => u.copyId == t.copyId))
        (s.board m l ts).modDir m l .tx (fun d => d.put
          { cls, seq := 0, strm, travellers := ts.map (·.key), payload := ts.flatMap Traveller.rest })

/-- LANIFY_PACKET_SEND (R53, R55): packets to be resent go first; a full replay buffer takes none. Packets are counted while the census
is on (R253). -/
def execLanifyPacketSend (s : State) : Outcome :=
  let a := s.args
  let d := (s.link a.m a.link).tx
  let counts := (s.module a.m).census
  .next (if d.down || d.retraining then s
    else
      let s1 :=
        if !d.resend.isEmpty then s.modDir a.m a.link .tx LinkDir.putAgain
        else if 512 ≤ d.replay.length || 4 ≤ a.cls then s
        else s.newPacket a.m a.link a.cls (a.n + 1)
      if counts then s1 else s1.modDir a.m a.link .tx (fun e => { e with sent := d.sent, replayed := d.replayed }))

/-! ## Acknowledgement and replay (R54 to R56) -/

/-- The receiver takes a flit (R52, R54, R56); true when it ends a packet that is accepted. -/
def LinkDir.receive (d : LinkDir) (now : Nat) (f : LinkFlit) : LinkDir × Bool :=
  if f.bad then
    ({ d with
      crcErrors := d.crcErrors + 1, discarding := insertNat d.discarding f.tc, got := d.got.set f.tc 0
      requests := d.requests ++ [d.answer 2], requested := now }, false)
  else if f.kind ≠ 0 || f.seq ≠ d.expected.getD f.tc 0 then (d, false)
  else if f.fidx ≠ d.got.getD f.tc 0 && f.fidx ≠ 0 then (d, false)
  else if !f.last then ({ d with got := d.got.set f.tc (f.fidx + 1) }, false)
  else
    let e := { d with
      expected := d.expected.set f.tc (seqNext f.seq), valid := d.valid.set f.tc true, got := d.got.set f.tc 0
      discarding := eraseNat d.discarding f.tc, unacked := d.unacked + 1, oldest := some (d.oldest.getD now) }
    (if 8 ≤ e.unacked then e.ack else e, true)

/-- Travellers come off a link into the mesh of module `m` (R63), or to the buffer of their port; they are counted as delivered from it
(R239). -/
def State.alight (s : State) (m l : Nat) (keys : List Nat) : State :=
  let mine := s.net.filter (fun t => keys.contains t.key)
  let s1 := mine.foldl (fun s t => s.modQuad (edgeQuad m (if 32 ≤ l then l - 16 else l)) (fun q =>
    if t.vc < 3 && l < 32 then { q with linkIn := q.linkIn.set t.part ((q.linkIn.get t.part).getD 0 + 1) } else q)) s
  { s1 with net := s1.net.map (fun t =>
      if !keys.contains t.key then t
      else if 32 ≤ l then { t with link := none, cut := 0, atBuffer := true }
      else { t with link := none, cut := 0, stands := edgeCore m l, fromBuffer := false, port := if t.fromBuffer then none else t.port }) }

/-- An accepted packet delivers its travellers; stream data waits until its copy's descriptor has arrived (R53). -/
def State.deliverPacket (s : State) (m l : Nat) (p : Packet) : State :=
  match p.opens with
  | some id =>
    let d := (s.link m l).rx
    let free := (d.waiting.filter (fun x => x.1 == id)).map (·.2)
    (s.modDir m l .rx (fun d => { d with
      opened := d.opened.filter (fun x => x.1 != p.strm) ++ [(p.strm, id)], waiting := d.waiting.filter (fun x => x.1 != id) })).alight m l free
  | none =>
    match (s.net.find? (fun t => p.travellers.contains t.key)).bind Traveller.copyId with
    | none => s.alight m l p.travellers
    | some id =>
      if (s.link m l).rx.opened.contains (p.strm, id) then s.alight m l p.travellers
      else s.modDir m l .rx (fun d => { d with waiting := d.waiting ++ p.travellers.map (fun k => (id, k)) })

/-- LANIFY_FLIT_RECEIVE (R52, R56): the event's arguments give the bits that the lanes changed. -/
def execLanifyFlitReceive (s : State) : Outcome :=
  let a := s.args
  let here := (s.link a.m a.link).rx
  .next (match s.farEnd a.m a.link with
    | none => s
    | some (m2, l2) =>
      match (s.link m2 l2).tx.wire with
      | [] => s
      | f :: rest =>
        if here.down || here.retraining then s
        else
          let g := if a.damaged then f.struck (if a.v = 0 then 1 else a.v.toNat) else f
          let s1 := s.modDir m2 l2 .tx (fun d => { d with wire := rest })
          let s2 := s1.modDir a.m a.link .rx (fun d => (d.receive s.now g).1)
          if (here.receive s.now g).2 then
            match (s.link m2 l2).tx.replay.find? (fun p => p.cls == g.tc && p.seq == g.seq) with
            | none => s2
            | some p => s2.deliverPacket a.m a.link p
          else s2)

/-- A receiver whose acknowledgement is due (R54); one whose replay has not come by then, and which asks for it again (DEDUCED, log 117). -/
def LinkDir.ackDue (d : LinkDir) (now : Nat) : Bool := d.oldest.any (fun t => decide (ticksAck ≤ now - t))
def LinkDir.requestDue (d : LinkDir) (now : Nat) : Bool := !d.discarding.isEmpty && d.requests.isEmpty && decide (ticksAck ≤ now - d.requested)

/-- ACK_TIMEOUT (R54, R56). -/
def execAckTimeout (s : State) : Outcome :=
  let a := s.args
  let d := (s.link a.m a.link).rx
  .next (if d.ackDue s.now then s.modDir a.m a.link .rx LinkDir.ack
    else if d.requestDue s.now then s.modDir a.m a.link .rx (fun d => { d with requests := [d.answer 2], requested := s.now })
    else s)

/-- Packets that an acknowledgement frees leave the replay buffer. -/
def LinkDir.acked (d : LinkDir) (f : LinkFlit) : LinkDir :=
  let keep := fun (l : List Packet) => l.filter (fun p => match f.lastOf p.cls with
    | none => true
    | some n => !seqBefore p.seq (seqNext n))
  { d with replay := keep d.replay, resend := keep d.resend }

/-- A message of the receiver on its way to the sender of link `l` of module `m`; it waits while the other direction cannot carry it. -/
def State.linkMessage (s : State) (m l : Nat) (list : LinkDir → List LinkFlit) : Option (Nat × Nat × LinkFlit) :=
  let back := (s.link m l).rx
  if back.down || back.retraining then none
  else match s.farEnd m l with
    | none => none
    | some (m2, l2) => ((list (s.link m2 l2).rx).head?).map (fun x => (m2, l2, x))

/-- The sender takes a message; a damaged one is a flit whose CRC fails, as any other (R56). -/
def State.takeMessage (s : State) (m l : Nat) (f : LinkFlit) (g : LinkDir → LinkFlit → LinkDir) : State :=
  let a := s.args
  let x := if a.damaged then f.struck (if a.v = 0 then 1 else a.v.toNat) else f
  if x.bad then s.modDir m l .rx (fun d => (d.receive s.now x).1) else s.modDir m l .tx (fun d => g d x)

/-- LANIFY_ACKNOWLEDGEMENT (R54, R55). -/
def execLanifyAcknowledgement (s : State) : Outcome :=
  let a := s.args
  .next (match s.linkMessage a.m a.link (·.acks) with
    | none => s
    | some (m2, l2, x) =>
      (s.modDir m2 l2 .rx (fun d => { d with acks := d.acks.drop 1 })).takeMessage a.m a.link x LinkDir.acked)

/-- REPLAY_REQUEST (R56): what is not acknowledged is resent in order. -/
def execReplayRequest (s : State) : Outcome :=
  let a := s.args
  .next (match s.linkMessage a.m a.link (·.requests) with
    | none => s
    | some (m2, l2, x) =>
      (s.modDir m2 l2 .rx (fun d => { d with requests := d.requests.drop 1 })).takeMessage a.m a.link x (fun d f =>
        let e := d.acked f
        { e with resend := e.replay }))

end Sys2Proof.Machine
end

