-- ==== Sys2Proof/Machine/Power.lean ====
section
/-! DEFINITION. Clocks, temperature, current allowances, and the spares of the DRAM and of the capacity tier (R41, R69 to R76, R81, R84,
R110). -/
namespace Sys2Proof.Machine

/-- Ticks of a grant period, 5 µs, and of the thermal steps, 1 ms and 10 ms. -/
def ticksGrant : Nat := 36000
def ticksCool : Nat := 72000000

/-! ## Relocks (R70) -/

/-- The clock state that a die has, or will have at the end of its relock. -/
def Die.target (d : Die) : Nat := match d.relock with
  | some (t, _) => t
  | none => d.clock

/-- RELOCK_BEGIN: a new state is asked of a die; one that relocks keeps only the latest. -/
def Die.ask (d : Die) (now cyc state : Nat) : Die :=
  if d.relock.isSome then { d with heldTarget := some state }
  else if state = d.clock then d
  else { d with relock := some (state, now + ticksRelock), cycBase := cyc, since := now }

/-- The core beside the router at package coordinates of a module. -/
def coreBeside (m : Nat) (p : Nat × Nat) : Nat := coreOfQuad (m * 2 ^ 14 + quadAt p.1 p.2) 0

/-- Where a traveller may stand on its way through a module's mesh, its present place first: at any router that no relocking die
precedes. -/
def State.reaches (s : State) (t : Traveller) : List Nat :=
  let m := moduleOf t.stands
  let to' := match s.nextLink t with
    | some l => edgeCore m l
    | none => t.dst
  t.stands :: (if s.relocking m (dieOf t.stands) then []
    else (((legPoints t.stands to').tail.map (coreBeside m)).takeWhile (fun c => !s.relocking m (dieOf c))))

/-- A traveller of a module's mesh has come to some router of its way: free numbers choose it (DESIGN CHOICE, log 116). Its flits up to
there have been counted (R253). -/
def State.strew (s : State) (t : Traveller) : State :=
  if t.link.isSome || t.atBuffer || t.fromBuffer then s
  else
    let l := s.reaches t
    let c := l.getD (Config.freeNat s.free % l.length) t.stands
    let s1 := (s.countFlits t c).tick
    { s1 with net := s1.net.map (fun u => if u.key = t.key then { u with stands := c } else u) }

/-- The same of a die of a module. When a relock begins, what is on its way in the module's mesh stands where it has come to (R194). -/
def State.askClock (s : State) (m d state : Nat) : State :=
  let s1 := if s.relocking m d || state = (s.die m d).clock then s
    else (s.net.filter (fun t => moduleOf t.stands == m)).foldl State.strew s
  s1.modDie m d (fun o => o.ask s.now (s.cycOf m d) state)

/-- The restart of a die: `cyc` is rescaled, and the stop counted in it. -/
def Die.restart (d : Die) (now : Nat) : Die :=
  match d.relock with
  | none => d
  | some (t, _) =>
    { d with relock := none, clock := t, since := now, cycBase := d.cycBase * freqOf t / freqOf d.clock + ticksRelock / periodOf t }

/-- The latest target held for a die that has restarted starts a second relock where it differs. -/
def Die.takeHeld (d : Die) (now : Nat) : Die :=
  match d.heldTarget with
  | none => d
  | some t => { d with heldTarget := none }.ask now d.cycBase t

/-- Some die of a module relocks. -/
def State.anyRelock (s : State) (m : Nat) : Bool := (List.range 8).any (fun d => s.relocking m d)

/-- The POWER_SET commands that waited for the module's last relock have run (R110). -/
def State.endPowerSet (s : State) (m : Nat) : State :=
  if s.anyRelock m then s
  else
    (s.module m).powerWait.foldl (fun s w => s.endCommand m w.1 w.2 {}) (s.modModule m (fun o => { o with powerWait := [] }))

/-- RELOCK_RESTART (R70). -/
def execRelockRestart (s : State) : Outcome :=
  let m := s.args.m
  let d := s.args.die
  .next (match (s.die m d).relock with
    | none => s
    | some (_, t) =>
      if s.now < t then s else (s.modDie m d (fun o => (o.restart s.now).takeHeld s.now)).endPowerSet m)

/-! ## Temperature (R41, R76) -/

/-- A time since which a condition has held. -/
def heldSince (holds : Bool) (old : Option Nat) (now : Nat) : Option Nat := if holds then some (old.getD now) else none

/-- DIE_TEMPERATURE_CHANGE (R41, R76): above 85 °C the refresh doubles, above 95 °C the allowances halve. -/
def execDieTemperatureChange (s : State) : Outcome :=
  let t := s.args.temp
  .next (s.modDie s.args.m s.args.die (fun d =>
    { d with
      temp := t, refresh := 85 < t, allowHalved := 95 < t
      hotSince := heldSince (decide (95 < t)) d.hotSince s.now
      coolSince := heldSince (decide (t < 90)) d.coolSince s.now }))

/-- THERMAL_STEP_DOWN (R76). -/
def execThermalStepDown (s : State) : Outcome :=
  let m := s.args.m
  let d := s.args.die
  .next (match (s.die m d).hotSince with
    | none => s
    | some t =>
      if s.now - t < ticksMs || 3 ≤ (s.die m d).target then s
      else (s.modDie m d (fun o => { o with hotSince := some s.now })).askClock m d ((s.die m d).target + 1))

/-- THERMAL_STEP_UP (R76). -/
def execThermalStepUp (s : State) : Outcome :=
  let m := s.args.m
  let d := s.args.die
  let o := s.die m d
  .next (match o.coolSince with
    | none => s
    | some t =>
      if s.now - t < ticksCool || o.target ≤ o.wanted then s
      else (s.modDie m d (fun o => { o with coolSince := some s.now })).askClock m d (o.target - 1))

/-! ## Current allowances (R73, R75, R76) -/

/-- The most that the allowances of a module may add up to under its limit (R74, R110): 2,100 W of the budget go to what no allowance
bounds, and 2,400 W to the matrix, vector and scalar units of 128 districts at full rate (DEDUCED, log 100). -/
def allowTotal (limit : Nat) : Nat := 8192 * (limit - 2100) / 2400

/-- The allowances that the arbiter sets when it would set `asked`: within the limit as asked, and otherwise none above an equal share
of what the limit leaves (DESIGN CHOICE, log 100). -/
def allowances (limit : Nat) (asked : List Nat) : List Nat :=
  let l := (List.range 128).map (fun d => min 64 (asked.getD d 64))
  if l.foldl (· + ·) 0 ≤ allowTotal limit then l else l.map (min (allowTotal limit / 128))

/-- POWER_GRANT (R73, R76): the allowances, on a hot die half of each, rounded down (DESIGN CHOICE, log 99), leave die 0 on VC3 for
every district. -/
def execPowerGrant (s : State) : Outcome :=
  let m := s.args.m
  .next (if s.now - (s.module m).lastGrant < ticksGrant then s
    else
      (List.range 128).foldl (fun s d =>
        let a := (allowances (s.module m).limit s.args.allow).getD d 0
        let a' := if (s.die m (d / 16)).allowHalved then a / 2 else a
        s.send { src := rootCore m 0, dst := rootCore m d, vc := 3, load := .grant d a' })
        (s.modModule m (fun o => { o with lastGrant := s.now })))

/-- POWER_GRANT_ARRIVAL (R75): the district leaves the halved rate. -/
def execPowerGrantArrival (s : State) : Outcome :=
  s.onArrival (fun s t => match t.load with
    | .grant d a => some (s.modDistrict (moduleOf t.dst) d (fun o => { o with allow := a, throttled := false }))
    | _ => none)

/-- ALLOWANCE_EXCEEDED (R73). -/
def execAllowanceExceeded (s : State) : Outcome :=
  let a := s.args
  .next (if (s.district a.m a.district).allow < a.draw then
      s.modDistrict a.m a.district (fun o => { o with throttled := true })
    else s)

/-! ## Spares of the DRAM and of the capacity tier (R81, R84) -/

/-- A spare is left for a row, or for a bank of a layer: one spare bank per layer, and spare rows without end (DESIGN CHOICE, log 101). -/
def Quad.spareFor (q : Quad) (layer : Nat) (row : Option Nat) : Bool :=
  row.isSome || !q.remaps.any (fun r => r.1 == layer && r.2.2.isNone)

/-- ROW_COPY_COMPLETE (R81): contents and ordering do not change. -/
def execRowCopyComplete (s : State) : Outcome :=
  .next (match (s.quad s.args.quad).remapping with
    | none => s
    | some r =>
      (s.modQuad s.args.quad (fun q => { q with remapping := none, remaps := q.remaps ++ [r] })).modModule
        (s.args.quad / 2 ^ 14) (fun o => { o with remapTotal := o.remapTotal + 1 }))

/-- A capacity channel. -/
def State.channel (s : State) (m n : Nat) : Channel := ((s.module m).channels.get n).getD {}

/-- SPARE_RANK_BRING_IN (R84): the buffer copies a failing rank to its spare and serves reads from the failing rank meanwhile. -/
def execSpareRankBringIn (s : State) : Outcome :=
  let a := s.args
  let h := s.channel a.m a.channel
  .next (if h.copying.isSome || h.replaced.isSome || 4 ≤ a.rank then s
    else s.modModule a.m (fun o => { o with channels := o.channels.set a.channel { h with copying := some a.rank } }))

/-- SPARE_RANK_COPY_DONE (R84). -/
def execSpareRankCopyDone (s : State) : Outcome :=
  let a := s.args
  let h := s.channel a.m a.channel
  .next (match h.copying with
    | none => s
    | some r => s.modModule a.m (fun o => { o with channels := o.channels.set a.channel { copying := none, replaced := some r } }))

end Sys2Proof.Machine
end

