-- ==== Sys2Proof/Machine/Firmware.lean ====
section
/-! DEFINITION. The monitor: module reset, command windows from the post to the write-back, and what every firmware command shares
(R88 to R97, R102 to R108). -/
namespace Sys2Proof.Machine

/-! ## Module reset (R97) -/

/-- The head cores that pass the self-test of a die of which physical core `bad` fails (R83). -/
def headsWithout (bad : Nat) : List Nat := ([0, 1, 2].filter (fun n => n != bad)).take 2

/-- M0 (R91, R97). -/
def measureRom : List Byte := sha512 (BitVec.ofNat 8 Config.romLetter :: Config.rom)

/-- The rows and banks remapped in the columns of a module, and the ranks replaced. -/
def State.rowMaps (s : State) (m : Nat) : List (Nat × List (Nat × Nat × Option Nat)) :=
  s.quads.filterMap (fun e => if e.1 / 2 ^ 14 == m && !e.2.remaps.isEmpty then some (e.1, e.2.remaps) else none)
def Module.ranksReplaced (o : Module) : List (Nat × Nat) := o.channels.filterMap (fun h => h.2.replaced.map (fun r => (h.1, r)))

/-- M1 (R97, R101): the spare maps and the partition table as they stand. -/
def State.measureMonitor (s : State) (m : Nat) : List Byte :=
  sha512 (Config.spareMaps m (s.module m).sites (s.rowMaps m) (s.module m).ranksReplaced ++
    Config.partTable ((List.range 16).map (fun p => ((s.part m p).state.code, (s.part m p).head, (s.part m p).districts))))

/-- A direction after training at boot: the lanes that failed stay out of use, and the spare stays in use until repair (R58, R82); what is
not acknowledged is replayed. A link whose far module's id is not distinct is held down (R62), and so is one that boot does not come to
(R97). -/
def LinkDir.boot (d : LinkDir) (l : Nat) (barred : Bool) : LinkDir :=
  let e := { d with retraining := false, restoring := false, tries := 0, events := [], barred, resend := d.replay, wire := [] }
  match cleanGroup (laneCount l) d.failed with
  | some (w, first) => { e with width := w, first, down := barred }
  | none => { e with down := true }

/-- A link after training at boot. -/
def Link.boot (k : Link) (l : Nat) (barred : Bool) : Link := { tx := k.tx.boot l barred, rx := k.rx.boot l barred }

/-- The links of a module, and the far ends of its capacity links. -/
def linkNumbers : List Nat := (List.range 48).filter (fun l => l < 12 || 16 ≤ l)

/-- The boot step that trains a link: 4 for a capacity link, 5 for a Lanify link (R97). -/
def trainStep (l : Nat) : Nat := if l < 12 then 5 else 4

/-- Links that lead to a module of the same id: the monitor reports the error, to the partitions at the far ends as links that are down,
and in HEALTH; it holds them down (R62; DESIGN CHOICE, log 118). -/
def State.reportClashes (s : State) (m : Nat) : State :=
  (s.module m).clashes.foldl (fun s l => [LinkSide.tx, LinkSide.rx].foldl (fun s side =>
    (s.modBoth m l side (fun d => { d with barred := true, down := true, retraining := false, restoring := false })).linkEvents m l side 1
      [(4, ((s.link m l).side side).lane)]) s) s

/-- A module after its reset (R97): spares in use and fuses stay, everything else is as at reset. Step 4 trains the capacity links and step
5 the others; then the cabling is found, and the route table takes the entries of the fuse bank that name a trained link (R62, R63). -/
def State.bootModule (s : State) (m last : Nat) (failing : List Nat) : State :=
  let o := s.module m
  let a := s.args
  let cabling := a.cabling.filter (fun x => decide (x.1 < 12 ∧ 5 ≤ last))
  let cabled := cabling.map (·.1)
  let clashes := a.equalIds.filter (fun l => cabled.contains l)
  let links := linkNumbers.map (fun l => (l, (s.link m l).boot l (decide (last < trainStep l) || clashes.contains l)))
  let trained := fun (l : Nat) => cabled.contains l && links.any (fun k => k.1 == l && !k.2.tx.down && !k.2.rx.down)
  let fresh : Module :=
    { sites := o.sites, remapTotal := o.remapTotal, channels := o.channels
      bootstep := last, resetAt := s.now, links, clashes
      cables := cabling.foldl (fun t x => t.set x.1 x.2) []
      routes := (a.routes.filter (fun x => x.1 != m && x.1 < 256 && trained x.2)).foldl (fun t x => t.set x.1 x.2) []
      funcs := (List.range 17).map (fun f => (f, { ready := last == 7 }))
      dies := (List.range 8).map (fun d => (d, { heads := if 1 ≤ last then headsWithout (failing.getD d 2) else [0, 1], since := s.now })) }
  let s1 :=
    { s with
      cores := s.cores.filter (fun e => moduleOf e.1 != m)
      saved := s.saved.filter (fun e => moduleOf (e.1 / 2 ^ 16) != m)
      quads := s.quads.filterMap (fun (e : Nat × Quad) =>
        if e.1 / 2 ^ 14 % 256 != m then some e
        else if e.2.remaps.isEmpty then none else some (e.1, { remaps := e.2.remaps }))
      net := s.net.filter (fun t => moduleOf t.src != m && moduleOf t.dst != m && moduleOf t.stands != m)
      modules := s.modules.set m fresh }
  (if 6 ≤ last then s1.modModule m (fun o => { o with m0 := measureRom, m1 := s1.measureMonitor m }) else s1).reportClashes m

/-- MODULE_RESET (R97): of module `m`, to step 7, or, when the step after `n` fails, to step `n`. -/
def execModuleReset (s : State) : Outcome :=
  .next (s.bootModule s.args.m (if s.args.ok then 7 else min s.args.n 6) s.args.allow)

/-- A byte list filled with zeros, or cut, to `n` bytes. -/
def fitBytes (l : List Byte) (n : Nat) : List Byte := l.take n ++ List.replicate (n - l.length) 0

/-! ## Commands -/

/-- Argument `i` of a command. -/
def HostCmd.arg (d : HostCmd) (i : Nat) : Word := d.words.getD (i + 1) 0

/-- The head word. -/
def HostCmd.head (d : HostCmd) : Word := d.words.getD 0 0

/-- The command code. -/
def HostCmd.code (d : HostCmd) : Nat := bits d.head 15 0

/-- The arguments that R106 lists for a code; none for an unknown code. -/
def listedArgs : Nat → Option (List Nat)
  | 0x0001 => some [0, 1]
  | 0x0002 => some [0, 1, 2, 3, 4, 5, 6, 7]
  | 0x0003 => some [0]
  | 0x0004 => some [0, 1, 2]
  | 0x0010 => some [0, 1, 2]
  | 0x0011 => some [0, 1]
  | 0x0020 => some [0, 1, 2, 3, 4, 5, 6]
  | 0x0030 => some [0, 1, 2, 3, 6]
  | 0x0040 => some [0, 1, 2, 3, 4, 5, 6, 7]
  | 0x0050 => some [0, 1, 2, 3]
  | 0x0051 => some [0]
  | 0x0052 => some [0]
  | 0x0060 => some [0, 1, 2, 3, 4]
  | 0x0070 => some [0, 1]
  | 0x0080 => some [0, 1, 2, 3]
  | _ => none

/-- What a VF may issue (R107). -/
def HostCmd.allowed (d : HostCmd) : Bool :=
  [0x0001, 0x0004, 0x0010, 0x0011, 0x0020, 0x0030, 0x0040, 0x0050, 0x0051, 0x0052].contains d.code ||
    (d.code == 0x0080 && d.arg 0 == 0)

/-- The partition on which a command acts (R106); a VF's is its own. -/
def HostCmd.partNo (d : HostCmd) (fn : Nat) : Nat :=
  if fn ≠ 0 then fn - 1
  else
    let i := match d.code with
      | 0x0001 => 1
      | 0x0020 => 6
      | 0x0030 => 6
      | 0x0040 => 7
      | 0x0060 => 1
      | _ => 0
    (d.arg i).toNat

/-- The commands that run one at a time for a partition (R108). -/
def HostCmd.serial (d : HostCmd) : Bool := [0x0002, 0x0003, 0x0004, 0x0010, 0x0011, 0x0050, 0x0051, 0x0052].contains d.code

/-- The partition that an accepted command names, if it names one: a VF's is its own (R106, R107). -/
def HostCmd.names (d : HostCmd) (fn : Nat) : Option Nat :=
  if fn ≠ 0 then some (fn - 1)
  else if d.code = 0x0070 || d.code = 0x0080 || (d.code = 0x0001 && d.arg 0 = 0) || (d.code = 0x0060 && d.arg 0 ≠ 1) then none
  else some (d.partNo fn)

/-- Every accepted command of a module, with its function and slot. -/
def State.allCommands (s : State) (m : Nat) : List (Nat × Nat × HostCmd) :=
  (List.range 17).flatMap (fun fn => (s.func m fn).accepted.map (fun e => (fn, e.1, e.2)))

/-- A serial command of the partition was accepted earlier and has not run (R108). -/
def State.mustWait (s : State) (m fn : Nat) (d : HostCmd) : Bool :=
  d.serial && (s.allCommands m).any (fun e =>
    e.2.2.serial && e.2.2.partNo e.1 == d.partNo fn && decide (e.2.2.order < d.order) && e.2.2.outcome.isNone)

/-- A STOP of the partition has been accepted after a command and has not come to its end: it has suspended the command, if that is a
LAUNCH or a HOST_COPY (R108). -/
def State.stopPending (s : State) (m p order : Nat) : Bool :=
  (s.allCommands m).any (fun e => e.2.2.code == 0x0051 && e.2.2.partNo e.1 == p && e.2.2.outcome.isNone && decide (order < e.2.2.order))

/-- HOST_COPY commands of a partition that are open (R109). -/
def State.openHostCopies (s : State) (m p : Nat) : Nat :=
  ((s.allCommands m).filter (fun e => e.2.2.code == 0x0030 && e.2.2.partNo e.1 == p && e.2.2.outcome.isNone)).length

/-- The status that a command gets at its acceptance, 0 when it runs (R102, R105, R106, R107, R109). Where several checks fail, the first
of these gives it (DESIGN CHOICE, log 121). -/
def State.acceptStatus (s : State) (m fn : Nat) (d : HostCmd) : Nat :=
  if fn ≠ 0 && (s.part m (fn - 1)).state == .absent then 5
  else match listedArgs d.code with
    | none => 1
    | some l =>
      if fn ≠ 0 && !d.allowed then 3
      else if bits d.head 31 23 ≠ 0 || (List.range 12).any (fun i => !l.contains i && d.arg i != 0) then 2
      else if d.code = 0x0030 && 16 ≤ s.openHostCopies m (d.partNo fn) then 10
      else 0

/-- A status word (R103). -/
def statusWord (htag code state : Nat) : Word := BitVec.ofNat 64 (htag % 2 ^ 32 * 2 ^ 32 + code % 2 ^ 16 * 2 ^ 8 + state % 2 ^ 8)

/-! ## From the post to the write-back (R104) -/

/-- COMMAND_POST. -/
def execCommandPost (s : State) : Outcome :=
  .next (if s.args.slot < 64 && s.args.fn ≤ 16 then s.postSlot s.args.m s.args.fn s.args.slot else s)

/-- FNST_WRITE (R103). -/
def execFnstWrite (s : State) : Outcome := .next (s.writeFnst s.args.m s.args.fn s.args.v)

/-- The head of a function's posted slots is accepted. A LAUNCH slot reaches state 2 when it has been seeded (R113); a command that gets
a status at once has run. What has been written to the slot by now is seen, all 16 words (DESIGN CHOICE, log 119). -/
def State.acceptSlot (s : State) (m fn slot : Nat) (rest : List Nat) : State :=
  let f := s.func m fn
  let d : HostCmd := { words := (List.range 16).map (f.word slot), order := s.stamp }
  let code := s.acceptStatus m fn d
  let state := if d.code = 0x0020 && code = 0 then 1 else 2
  (s.modFunc m fn (fun f =>
    { f with
      posted := rest
      words := f.words.set (slot * 16 + 14) (statusWord (bits d.head 63 32) 0 state)
      accepted := f.accepted.set slot (if code = 0 then d else { d with outcome := some { code } }) })).stampUp

/-- The die of the head core that owns a function relocks: its monitor slot issues nothing (R70). -/
def State.monitorStill (s : State) (m fn : Nat) : Bool := s.relocking m (dieOf (s.ownerOf m fn))

/-- COMMAND_ACCEPT: in the order of the `go` writes of one function. -/
def execCommandAccept (s : State) : Outcome :=
  let m := s.args.m
  let fn := s.args.fn
  let f := s.func m fn
  .next (match f.posted with
    | [] => s
    | slot :: rest => if f.ready && !f.fwfault && !s.monitorStill m fn then s.acceptSlot m fn slot rest else s)

/-- The interrupt that a completion raises: `irq`, or bit 17 of a LAUNCH's control word (R103, R106). -/
def HostCmd.raises (d : HostCmd) : Bool := bit d.head 22 || (d.code == 0x0020 && bit (d.arg 1) 17)

/-- The write-back of a command that has run: returned arguments, result, status word, then MSI-X. A result that the spec does not give
is a free value (DESIGN CHOICE, log 3). A command moved by a function-level reset writes nothing. -/
def State.writeBack (s : State) (m fn slot : Nat) : State :=
  match (s.func m fn).accepted.get slot with
  | none => s
  | some d =>
    match d.outcome with
    | none => s
    | some r =>
      let s1 := s.modFunc m fn (fun f => { f with accepted := f.accepted.del slot })
      if 64 ≤ slot then s1
      else
        let s2 := s1.modFunc m fn (fun f =>
          let w1 := r.args.foldl (fun w a => w.set (slot * 16 + 1 + a.1) a.2) f.words
          let w2 := w1.set (slot * 16 + 13) (r.result.getD (Config.freeWord s.free))
          { f with words := w2.set (slot * 16 + 14) (statusWord (bits d.head 63 32) r.code 3) })
        let s3 := if d.raises then s2.sendVector m fn (bits d.head 21 16) else s2
        s3.tick

/-- COMMAND_COMPLETE. -/
def execCommandComplete (s : State) : Outcome :=
  .next (if (s.func s.args.m s.args.fn).fwfault || s.monitorStill s.args.m s.args.fn then s else s.writeBack s.args.m s.args.fn s.args.slot)

/-- An account, or a STOP, of a function that is reset points to the moved command. -/
def Part.moveCommands (q : Part) (fn : Nat) : Part :=
  { q with
    accounts := q.accounts.map (fun a => if a.fn = fn then { a with slot := a.slot + 64 } else a)
    stopFn := q.stopFn.map (fun f => if f.1 = fn then (f.1, f.2 + 64) else f) }

/-- FUNCTION_LEVEL_RESET (R104): of a VF. -/
def execFunctionLevelReset (s : State) : Outcome :=
  let m := s.args.m
  let fn := s.args.fn
  .next (if fn = 0 || 16 < fn then s
    else
      (s.modFunc m fn (fun f =>
        { f with words := [], posted := [], dblerr := false, vectors := [], pending := [], accepted := f.accepted.map (fun e => (e.1 + 64, e.2)) })).modModule m
        (fun o => { o with parts := o.parts.map (fun e => (e.1, e.2.moveCommands fn)) }))

/-- MONITOR_SLOT_STOP (R103): every function of the head core that owns function `fn`. -/
def execMonitorSlotStop (s : State) : Outcome :=
  .next (s.stopMonitor s.args.m (s.ownerOf s.args.m s.args.fn))

/-! ## Running a command -/

/-- A command in its turn: where it stands, and the partition that it names. -/
structure Call where
  m : Nat
  fn : Nat
  slot : Nat
  cmd : HostCmd
  p : Nat
  deriving DecidableEq, Repr

/-- The accepted command of the event, when it has a code, has not run, and need not wait (R70, R108). -/
def State.call (s : State) (code : Nat) (mine : HostCmd → Bool) : Option Call :=
  let a := s.args
  match (s.func a.m a.fn).accepted.get a.slot with
  | none => none
  | some d =>
    if d.code = code && mine d && d.outcome.isNone && !(s.func a.m a.fn).fwfault && !s.monitorStill a.m a.fn && !s.mustWait a.m a.fn d then
      some { m := a.m, fn := a.fn, slot := a.slot, cmd := d, p := d.partNo a.fn }
    else none

/-- A command ends with what it writes back. -/
def State.finish (s : State) (k : Call) (r : HostResult) : State := s.endCommand k.m k.fn k.slot r

/-- A command ends with a status code. -/
def State.answer (s : State) (k : Call) (code : Nat) : State := s.finish k { code }

/-- The event of a command row that names no partition. -/
def State.runCommand (s : State) (code : Nat) (mine : HostCmd → Bool) (body : Call → State) : Outcome :=
  .next (match s.call code mine with
    | none => s
    | some k => body k)

/-- The event of a command row that acts on a partition in one of the given states (R96): a number above 15 is a bad argument, an absent
partition gives status 5, another state status 4. -/
def State.partCommand (s : State) (code : Nat) (mine : HostCmd → Bool) (states : List PState) (body : Call → State) : Outcome :=
  s.runCommand code mine (fun k =>
    if 16 ≤ k.p then s.answer k 2
    else if (s.part k.m k.p).state == .absent then s.answer k 5
    else if !states.contains (s.part k.m k.p).state then s.answer k 4
    else body k)

/-- Every state but absent. -/
def present : List PState := [.created, .loaded, .running, .stopped, .halted]

/-! ## Host memory, and the partition's space at asid 0 -/

/-- Bytes of host memory at a bus address. -/
def State.hostBytes (s : State) (a n : Nat) : List Byte := Memory.readList s.host a n

/-- Bytes written to host memory. -/
def State.putHost (s : State) (a : Nat) (bs : List Byte) : State := { s with host := Memory.writeList s.host a bs }

/-- The home key of a byte of a partition's space at asid 0, or the status code of what stops an access to it: 9 for a translation or
protection failure, 12 for a home that is lost or belongs to another partition (R95, R105). `copy`: the capacity tier is reached. -/
def State.spaceKey (s : State) (m p va : Nat) (write copy : Bool) : Except Nat Nat :=
  if 2 ^ 40 ≤ va && va < 2 ^ 41 then
    let c := va / 2 ^ 16 % 2 ^ 24
    if moduleOf c = m && s.partOf c == some p && va % 2 ^ 16 < s.privSize c then
      (if (s.core c).lost then .error 12 else .ok (localKey c (va % 2 ^ 16)))
    else .error 9
  else if 2 ^ 48 ≤ va || va < 0x30000 then .error 9
  else
    match s.walk (s.part m p).ptRoot p 0 va with
    | .fault _ => .error 9
    | .full => .error 9
    | .page e =>
      let pa := e.phys va
      if !(if write then e.w else e.r) then .error 9
      else if spaceOf pa = 0 then
        (if s.partOf (coreOfKey pa) == some p && !(s.core (coreOfKey pa)).lost then .ok pa else .error 12)
      else if spaceOf pa = 1 && copy then .ok pa
      else .error 9

/-- Bytes of one page of a partition's space at asid 0, as firmware reads them: an uncorrectable or integrity error gives status 12. -/
def State.spaceRead (s : State) (m p va n : Nat) (copy : Bool) : Except Nat (List Byte) :=
  match s.spaceKey m p va false copy with
  | .error e => .error e
  | .ok k => if s.hasBad k n || s.hasUntagged k n then .error 12 else .ok (s.bytes k n)

/-- Bytes of one page written in a partition's space at asid 0. -/
def State.spaceWrite (s : State) (m p va : Nat) (bs : List Byte) (copy : Bool) : Except Nat State :=
  match s.spaceKey m p va true copy with
  | .error e => .error e
  | .ok k => .ok (s.storeHome k bs)

end Sys2Proof.Machine
end

