-- ==== Sys2Proof/Machine/Commands.lean ====
section
/-! DEFINITION. The firmware commands (R92 to R117, R238, R253): one meaning per row, run on an accepted slot (`args.fn`, `args.slot`). -/
namespace Sys2Proof.Machine

/-! ## QUERY and HEALTH (R106) -/

/-- The districts of a bit mask of two words. -/
def maskDistricts (lo hi : Word) : List Nat := (List.range 128).filter (fun d => if d < 64 then bit lo d else bit hi (d - 64))

/-- The two words of a district mask. -/
def districtMask (l : List Nat) : Word × Word :=
  (BitVec.ofNat 64 (l.foldl (fun a d => if d < 64 then a ||| 2 ^ d else a) 0),
   BitVec.ofNat 64 (l.foldl (fun a d => if d < 64 then a else a ||| 2 ^ (d - 64)) 0))

/-- Some partition owns a district of a module. -/
def State.districtTaken (s : State) (m d : Nat) : Bool :=
  (List.range 16).any (fun p => (s.part m p).state != .absent && (s.part m p).districts.contains d)

/-- The spares in use (R106): retired sites, rows and banks, spare lanes, ranks, head cores. -/
def State.spareCounts (s : State) (m : Nat) : Word :=
  let o := s.module m
  let lanes := o.links.foldl (fun n l => n + l.2.tx.spare.isSome.toNat + l.2.rx.spare.isSome.toNat) 0
  let ranks := (o.channels.filter (fun h => h.2.replaced.isSome)).length
  let heads := (o.dies.filter (fun d => d.2.heads != [0, 1])).length
  BitVec.ofNat 64 (o.sites.length % 2 ^ 16 + o.remapTotal % 2 ^ 16 * 2 ^ 16 + lanes % 2 ^ 16 * 2 ^ 32 + ranks % 2 ^ 8 * 2 ^ 48 +
    heads % 2 ^ 8 * 2 ^ 56)

/-- Argument a0 of a QUERY's return: ROM letter, module id, partitions present. -/
def State.moduleWord (s : State) (m : Nat) : Word :=
  let mask := (List.range 16).foldl (fun a p => if (s.part m p).state == .absent then a else a + 2 ^ p) 0
  BitVec.ofNat 64 (Config.romLetter + m % 256 * 2 ^ 8 + mask * 2 ^ 16)

/-- What a QUERY returns, with the districts and the head core that it names. -/
def State.queryResult (s : State) (m : Nat) (districts : List Nat) (head : Word) : HostResult :=
  let mask := districtMask districts
  { args := [(0, s.moduleWord m), (1, mask.1), (2, mask.2), (3, head), (4, capnet), (5, s.spareCounts m)] }

/-- QUERY_MODULE: a3 names no head core that the spec gives, so it is a free value (DESIGN CHOICE, log 3). -/
def execQueryModule (s : State) : Outcome :=
  s.runCommand 0x0001 (fun d => d.arg 0 == 0) (fun k =>
    (s.finish k (s.queryResult k.m ((List.range 128).filter (fun d => !s.districtTaken k.m d)) (Config.freeWord s.free))).tick)

/-- QUERY_PARTITION; an a0 above 1 is a bad argument. -/
def execQueryPartition (s : State) : Outcome :=
  s.runCommand 0x0001 (fun d => d.arg 0 != 0) (fun k =>
    if k.cmd.arg 0 != 1 || 16 ≤ k.p then s.answer k 2
    else
      let q := s.part k.m k.p
      if q.state == .absent then s.answer k 5
      else s.finish k (s.queryResult k.m q.districts (BitVec.ofNat 64 q.head)))

/-- HEALTH_REPORT: the spare counts, and with a2 a report to host memory of at most a3 bytes. -/
def execHealthReport (s : State) : Outcome :=
  s.runCommand 0x0080 (fun d => d.arg 0 == 0) (fun k =>
    let r : HostResult := { args := [(0, s.spareCounts k.m)] }
    if k.cmd.arg 2 = 0 then s.finish k r
    else if !s.args.ok then s.finish k { r with code := 8 }
    else
      ((s.putHost (k.cmd.arg 2).toNat ((Config.healthReport s.free (s.module k.m).clashes).take (k.cmd.arg 3).toNat)).tick).finish k r)

/-- The links that a mask may name (R106). -/
def goodMask (w : Word) : Bool := w.toNat < 2 ^ 32 && bits w 15 12 = 0

/-- HEALTH_RETRAIN (R60, R106); an a0 above 1 is a bad argument. -/
def execHealthRetrain (s : State) : Outcome :=
  s.runCommand 0x0080 (fun d => d.arg 0 != 0) (fun k =>
    if k.cmd.arg 0 != 1 || !goodMask (k.cmd.arg 1) then s.answer k 2
    else
      let s1 := s.retrainLinks k.m (k.cmd.arg 1) s.args.ok
      s1.finish k { args := [(0, s1.spareCounts k.m)] })

/-! ## PART_CREATE, PART_DESTROY, KEY_SET -/

/-- A home key lies in the memories of a set of districts of a module, or of a head core. -/
def keyIn (m : Nat) (districts : List Nat) (head k : Nat) : Bool :=
  if 2 ^ 53 ≤ k then false
  else if 2 ^ 52 ≤ k then coreOfKey k == head
  else (isLocalKey k || isBulkKey k) && moduleOf (coreOfKey k) == m && districts.contains (districtOf (coreOfKey k))

/-- The memories of a new partition written zero, their full/empty bits empty (R94). -/
def State.zeroFill (s : State) (m : Nat) (districts : List Nat) (head : Nat) : State :=
  let mine := keyIn m districts head
  { s with
    mem := s.mem.filter (fun c => !mine c.1)
    full := s.full.filter (fun w => !mine (w * 4))
    bad := s.bad.filter (fun w => !mine (w * 4))
    untagged := s.untagged.filter (fun t => !mine (t * 64))
    soft := s.soft.filter (fun t => !mine (t * 64))
    dirty := s.dirty.filter (fun e => !mine (e.1 * 64)) }

/-- The E4M3 and E5M2 presets (R278). -/
def presetTab0 : List Nat := presetTable e4m3Value
def presetTab1 : List Nat := presetTable e5m2Value

/-- A core as PART_CREATE leaves it: `v.tc`, the presets (R275), barriers at 0 (R366). -/
def Core.created (o : Core) : Core :=
  { o with vecRegs := o.vecRegs.set 11 0x807E807F, tab0 := presetTab0, tab1 := presetTab1, barriers := [] }

/-- The cores of a partition: of its districts, and its head core. -/
def partCores (m : Nat) (districts : List Nat) (head : Nat) : List Nat := districts.flatMap (districtCores m) ++ [head]

/-- The quads of a list of districts that hold barriers lose them. -/
def State.clearQuadBarriers (s : State) (m : Nat) (districts : List Nat) (head : Nat) : State :=
  { s with quads := s.quads.map (fun e =>
      if e.1 = barQuad head || (e.1 / 2 ^ 14 = m && districts.contains (districtOf (coreOfQuad e.1 0))) then
        (e.1, { e.2 with barriers := [] })
      else e) }

/-- The bytes of a command's first arguments. -/
def HostCmd.argBytes (d : HostCmd) (n : Nat) : List Byte := bytesOf ((List.range n).map d.arg)

/-- The arguments of a PART_CREATE are bad, or claim what a partition has (R92, R106). -/
def State.createBad (s : State) (k : Call) (districts : List Nat) : Bool :=
  let head := (k.cmd.arg 3).toNat
  let sup := (k.cmd.arg 4).toNat
  districts.isEmpty || districts.any (s.districtTaken k.m) ||
    !(isHead head && activeCore head && moduleOf head == k.m && head % 2 ^ 13 < 2) ||
    (List.range 16).any (fun p => (s.part k.m p).state != .absent && (s.part k.m p).head == head) ||
    !(sup == head || (!isHead sup && sup < 2 ^ 24 && moduleOf sup == k.m && districts.contains (districtOf sup))) ||
    decide (14 < (k.cmd.arg 5).toNat)

/-- A sector of a partition's stacked memory as it is stored: encrypted under the memory key, whose first half is the data key, with bits
[51:6] of the physical address as the tweak; and its tag under the integrity key, over the ciphertext and the address (R93; PRESUMED,
log 112). -/
def Part.seal (q : Part) (pa : Nat) (plain : List Byte) : List Byte × List Byte :=
  let key := fun (k off : Nat) => ((toBytes k 64).drop off).take 32
  let cipher := xtsEncrypt (key q.memKey 0) (key q.memKey 32) (pa / 64 % 2 ^ 46) plain
  (cipher, (cmac (key q.integKey 0) (cipher ++ toBytes pa 8)).take 4)

/-- What the DRAM stores of the sector at a physical address, where a partition owns it. State holds memory in the plain; a sector in
`untagged` has another tag. -/
def State.sector (s : State) (pa : Nat) : Option (List Byte × List Byte) :=
  if isBulkKey pa then
    (s.partRec (coreOfKey pa)).map (fun q => q.seal pa ((s.dirty.get (pa / 64)).getD (s.bytes pa 64)))
  else none

/-- PART_CREATE (R92 to R96, R275, R366). -/
def execPartCreate (s : State) : Outcome :=
  s.runCommand 0x0002 (fun _ => true) (fun k =>
    let districts := maskDistricts (k.cmd.arg 1) (k.cmd.arg 2)
    let head := (k.cmd.arg 3).toNat
    if 16 ≤ k.p then s.answer k 2
    else if (s.part k.m k.p).state != .absent then s.answer k 4
    else if s.createBad k districts then s.answer k 2
    else if !s.args.ok then s.answer k 8
    else
      let q : Part :=
        { state := .created, districts, head, supervisor := (k.cmd.arg 4).toNat, linkMb := (k.cmd.arg 5).toNat
          memKey := Config.drawKey s.free, integKey := Config.drawKey (s.free + 1)
          owner := s.hostBytes (k.cmd.arg 6).toNat 133, floor := (k.cmd.arg 7).toNat, created := k.cmd.argBytes 8 }
      let s1 := (((s.zeroFill k.m districts head).clearQuadBarriers k.m districts head).modPart k.m k.p (fun _ => q)).tick.tick
      ((partCores k.m districts head).foldl (fun s c => s.modCore c Core.created) s1).answer k 0)

/-- A core that its partition releases: no thread, task, notice or command is left, and its registers are as at module reset; what
counts from module reset, and a loss, stay (DEDUCED, log 20). -/
def Core.releasedCore (o : Core) : Core :=
  { slots := o.slots.map (fun e => (e.1, { gen := e.2.gen })), lost := o.lost, departed := o.departed, arrived := o.arrived
    cycle := o.cycle, issued := o.issued, cmdCount := o.cmdCount }

/-- The open commands that name a partition complete with status 11, and are written back (R108); a HOST_COPY's result is what it has
performed. -/
def State.cancelCommands (s : State) (m p : Nat) (self : Nat × Nat) : State :=
  (s.allCommands m).foldl (fun s e =>
    let fn := e.1
    let slot := e.2.1
    let d := e.2.2
    if d.outcome.isNone && d.names fn == some p && (fn, slot) != self then
      let result := if d.code = 0x0030 then some (BitVec.ofNat 64 d.done) else none
      (s.endCommand m fn slot { result, code := 11 }).writeBack m fn slot
    else s) s

/-- The quads of a partition's districts, and what stands for its head core, keep nothing of it: no barrier, no party, no translation. -/
def State.releaseQuads (s : State) (m p : Nat) (districts : List Nat) (head : Nat) : State :=
  { s with quads := s.quads.map (fun e =>
      if e.1 = barQuad head || (e.1 / 2 ^ 14 = m && districts.contains (districtOf (coreOfQuad e.1 0))) then
        (e.1, { e.2 with barriers := [], cloak := [], misses := [], tlb := e.2.tlb.filter (fun t => t.part != p) })
      else e) }

/-- The core to whose partition a traveller belongs: that of a thread's origin, of the command or the task that it serves, or its
source. -/
def Traveller.whose (t : Traveller) : Nat :=
  match t.load with
  | .context h _ _ => h.origin
  | .faulted h _ _ _ => h.origin
  | .party p => p.thread.origin
  | .partyReturn p _ _ => p.thread.origin
  | .copyRead r => r.core
  | .poolShare j _ => j.core
  | .poolPart j _ => j.core
  | .poolSum _ _ _ _ _ _ => t.dst
  | .binTaken _ _ _ _ _ => t.dst
  | _ => t.src

/-- The travellers that belong to a partition of a module that is destroyed are gone; those of other members of its pod group go on, and
are turned back where they reach its cores (R95; DEDUCED, log 20). -/
def State.dropTravellers (s : State) (m p : Nat) : State :=
  { s with net := s.net.filter (fun t => !(t.part == p && moduleOf t.whose == m)) }

/-- PART_DESTROY (R95, R96, R108): the keys, the districts and the head core go. -/
def execPartDestroy (s : State) : Outcome :=
  s.partCommand 0x0003 (fun _ => true) present (fun k =>
    let q := s.part k.m k.p
    let s1 := s.cancelCommands k.m k.p (k.fn, k.slot)
    let s2 := (partCores k.m q.districts q.head).foldl (fun s c => s.modCore c Core.releasedCore) s1
    ((((s2.releaseQuads k.m k.p q.districts q.head).dropTravellers k.m k.p).modPart k.m k.p (fun _ => {})).answer k 0))

/-- KEY_SET (R107). -/
def execKeySet (s : State) : Outcome :=
  s.partCommand 0x0004 (fun _ => true) [.created, .loaded, .stopped] (fun k =>
    let key := s.hostBytes (k.cmd.arg 1).toNat 133
    let sig := s.hostBytes (k.cmd.arg 2).toNat 132
    if !s.args.ok then s.answer k 8
    else if k.fn ≠ 0 && !ecdsaVerify (s.part k.m k.p).owner (sha512 key) sig then s.answer k 6
    else (s.modPart k.m k.p (fun q => { q with owner := key })).answer k 0)

/-! ## IMAGE_LOAD (R33, R34, R98, R99) -/

/-- A little-endian field of a byte list. -/
def field (l : List Byte) (off n : Nat) : Nat := ofBytes ((l.drop off).take n)

/-- A section of an image: load address, size, file offset. -/
structure Section where
  load : Nat
  size : Nat
  off : Nat
  deriving DecidableEq, Repr

/-- Section `i` of an image (R34). -/
def imageSection (img : List Byte) (i : Nat) : Section :=
  let a := field img 32 8 + 32 * i
  { load := field img (a + 8) 8, size := field img (a + 16) 8, off := field img (a + 24) 8 }

/-- The bytes of a section. -/
def Section.bytes (x : Section) (img : List Byte) : List Byte := (img.drop x.off).take x.size

/-- The kinds of sections (R17, R34). -/
def bulkSections : List Nat := [0, 2, 5, 6]

/-- The leaf bits of a bulk section's pages: `r`, `w` for data, `x` for code, user, valid (R17, R169; DESIGN CHOICE, log 12). -/
def sectionBits (i : Nat) : Nat := 0x27 + (if i = 2 || i = 5 then 8 else 0) + (if i = 0 then 16 else 0)

/-- The virtual page numbers of a section. -/
def Section.pages (x : Section) : List Nat :=
  if x.size = 0 then [] else (List.range ((x.load + x.size - 1) / 2 ^ 16 + 1 - x.load / 2 ^ 16)).map (· + x.load / 2 ^ 16)

/-- Two sections share no page. -/
def Section.apart (x y : Section) : Bool :=
  x.size = 0 || y.size = 0 || (x.load + x.size - 1) / 2 ^ 16 < y.load / 2 ^ 16 || (y.load + y.size - 1) / 2 ^ 16 < x.load / 2 ^ 16

/-- Every page of the bulk sections: section and virtual page number, in the sequence of R99. -/
def imagePages (img : List Byte) : List (Nat × Nat) :=
  bulkSections.flatMap (fun i => (imageSection img i).pages.map (fun v => (i, v)))

/-- A bulk section lies in the bulk part of the address space (R157). -/
def Section.inBulk (x : Section) : Bool :=
  x.size = 0 || (0x30000 ≤ x.load && x.load + x.size ≤ 2 ^ 48 && (x.load + x.size ≤ 2 ^ 40 || 2 ^ 41 ≤ x.load))

/-- The commons contribution of each core for a `.cdata` of a size (R100). -/
def comFor (size : Nat) : Nat := (size + 2 ^ 14 - 1) / 2 ^ 14

/-- An image is well formed, and its local sections fit (R33, R34, R99). R99's check 2 names the envelope's fields and two sizes; an
image whose own header or section table is bad, that is not linked, or whose bulk sections lie outside bulk space fails that check too;
its relocation count, its section-number fields and the file offset of its `.bdata` are not tested (DESIGN CHOICE, log 102). -/
def imageGood (img : List Byte) : Bool :=
  let sec := imageSection img
  let limit := 0xC000 - 0x1000 * comFor (sec 4).size
  let inFile := fun (x : Section) => x.off + x.size ≤ img.length
  let fits := fun (x : Section) => x.size = 0 || x.load + x.size ≤ limit
  64 ≤ img.length && field img 0 4 = 0x51534953 && field img 4 2 = 1 && field img 6 2 % 2 = 1 && field img 6 2 < 4 &&
  field img 16 4 = 7 && field img 32 8 + 224 ≤ img.length &&
  [0, 1, 2, 3, 4, 6].all (fun i => inFile (sec i)) && bulkSections.all (fun i => (sec i).inBulk) &&
  (sec 4).size ≤ 0x10000 && (sec 1).size + (sec 3).size ≤ limit && fits (sec 1) && fits (sec 3) &&
  bulkSections.all (fun i => bulkSections.all (fun j => i = j || (sec i).apart (sec j)))

/-- The fields of an envelope's header that check 2 examines (R98, R99). -/
def envelopeGood (env : List Byte) (length : Nat) : Bool :=
  256 ≤ length && field env 0 4 = 0x4D495841 && field env 4 4 = 1 && field env 8 8 + 256 = length &&
  field env 16 1 ≤ Config.romLetter && field env 17 7 = 0 && field env 228 28 = 0 && imageGood (env.drop 256)

/-- Distinct numbers in their first order. -/
def distinct : List Nat → List Nat
  | [] => []
  | a :: l => a :: (distinct l).filter (fun b => b != a)

/-- The place of the page tables of an image in the column of a quad (DESIGN CHOICE, log 12): the level-1 table at its top, then the level-2 tables,
then the level-3 tables downward. -/
structure Tables where
  quad : Nat
  /-- the 2^37-byte and 2^26-byte regions that have tables -/
  regions2 : List Nat
  regions3 : List Nat
  deriving DecidableEq, Repr

/-- The tables that a list of virtual page numbers needs. -/
def tablesFor (quad : Nat) (vpns : List Nat) : Tables :=
  { quad, regions2 := distinct (vpns.map (· / 2 ^ 21)), regions3 := distinct (vpns.map (· / 2 ^ 10)) }

def Tables.root (t : Tables) : Nat := bulkPa t.quad (2 ^ 25 - 2 ^ 14)
def Tables.low (t : Tables) : Nat := 2 ^ 25 - 2 ^ 14 * (1 + t.regions2.length) - 2 ^ 13 * t.regions3.length
def Tables.at2 (t : Tables) (vpn : Nat) : Nat := bulkPa t.quad (2 ^ 25 - 2 ^ 14 * (2 + t.regions2.idxOf (vpn / 2 ^ 21)))
def Tables.at3 (t : Tables) (vpn : Nat) : Nat :=
  bulkPa t.quad (2 ^ 25 - 2 ^ 14 * (1 + t.regions2.length) - 2 ^ 13 * (1 + t.regions3.idxOf (vpn / 2 ^ 10)))

/-- One page mapped: its level-1, level-2 and level-3 entries. -/
def State.mapPage (s : State) (t : Tables) (vpn pa flags : Nat) : State :=
  let s1 := s.putBytes (t.root + vpn / 2 ^ 21 % 2 ^ 11 * 8) (toBytes (t.at2 vpn + 1) 8)
  let s2 := s1.putBytes (t.at2 vpn + vpn / 2 ^ 10 % 2 ^ 11 * 8) (toBytes (t.at3 vpn + 1) 8)
  s2.putBytes (t.at3 vpn + vpn % 2 ^ 10 * 8) (toBytes (pa + flags) 8)

/-- The bytes of one page of a section: zero outside the section, and in `.bdata`. -/
def pageBytes (img : List Byte) (i vpn : Nat) : List Byte :=
  let x := imageSection img i
  let a := vpn * 2 ^ 16
  if i = 5 then List.replicate (2 ^ 16) 0
  else
    let body := x.bytes img
    if a < x.load then
      let front := List.replicate (x.load - a) (0 : Byte) ++ body.take (a + 2 ^ 16 - x.load)
      front ++ List.replicate (2 ^ 16 - front.length) 0
    else
      let rest := (body.drop (a - x.load)).take (2 ^ 16)
      rest ++ List.replicate (2 ^ 16 - rest.length) 0

/-- Page `j` of the sequence lies in the column of q_(j mod N), at frame j / N (R99; DESIGN CHOICE, log 12). -/
def pageHome (quads : List Nat) (j : Nat) : Nat := bulkPa (quads.getD (j % quads.length) 0) (j / quads.length * 2 ^ 16)

/-- The pages of an image placed and mapped. -/
def State.placePages (s : State) (img : List Byte) (quads : List Nat) (t : Tables) : List (Nat × Nat) → Nat → State
  | [], _ => s
  | (i, vpn) :: rest, j =>
    let pa := pageHome quads j
    State.placePages ((s.putBytes pa (pageBytes img i vpn)).mapPage t vpn pa (sectionBits i)) img quads t rest (j + 1)

/-- An image that has passed its checks is laid out (R99). -/
def State.layOut (s : State) (k : Call) (env : List Byte) (quads : List Nat) : State :=
  let img := env.drop 256
  let sec := imageSection img
  let q := s.part k.m k.p
  let pages := imagePages img
  let t := tablesFor (quads.getD 0 0) (pages.map (·.2))
  let s1 := s.putBytes (bulkPa t.quad t.low) (List.replicate (2 ^ 25 - t.low) 0)
  let s2 := s1.placePages img quads t pages 0
  let s3 := (s2.putBytes (localKey q.head (sec 1).load) ((sec 1).bytes img)).putBytes (localKey q.head (sec 3).load) ((sec 3).bytes img)
  let entry := field img 8 8
  (s3.modPart k.m k.p (fun q =>
    { q with
      state := .loaded, header := env.take 256, version := field env 24 8, entry := BitVec.ofNat 64 entry
      localSections := [((sec 1).load, (sec 1).bytes img), ((sec 3).load, (sec 3).bytes img)]
      cdata := (sec 4).bytes img, ptRoot := t.root, m2 := sha512 (env.take 96) })).finish k
    { result := some (BitVec.ofNat 64 entry) }

/-- IMAGE_LOAD: the checks of R99 in their order; an image whose pages and tables do not fit finds no room (status 10). -/
def execImageLoad (s : State) : Outcome :=
  s.partCommand 0x0010 (fun _ => true) [.created, .loaded] (fun k =>
    let length := (k.cmd.arg 2).toNat
    let env := s.hostBytes (k.cmd.arg 1).toNat length
    let img := env.drop 256
    let q := s.part k.m k.p
    let quads := partQuads k.m q
    let t := tablesFor (quads.getD 0 0) ((imagePages img).map (·.2))
    if !s.args.ok then s.answer k 8
    else if !envelopeGood env length then s.answer k 2
    else if sha512 img != (env.drop 32).take 64 then s.answer k 7
    else if !ecdsaVerify q.owner (sha512 (env.take 96)) ((env.drop 96).take 132) then s.answer k 6
    else if field env 24 8 < q.floor then s.answer k 14
    else if t.low < ((imagePages img).length + quads.length - 1) / quads.length * 2 ^ 16 then s.answer k 10
    else s.layOut k env quads)

/-! ## BOOT (R100) -/

/-- A compute core as BOOT sets it: the commons contribution, `asid`, `ptbase`, and the idle count from now (R100, R147). -/
def Core.booted (o : Core) (com : Nat) (root : Nat) : Core :=
  { o with lmsplitCom := com, lmsplitCache := 0, asid := 0, ptbase := BitVec.ofNat 64 root, idleFor := 0, waited := 0 }

/-- The local sections, and this core's part of `.cdata`, placed on a compute core. -/
def State.bootCore (s : State) (q : Part) (com c : Nat) : State :=
  let s1 := s.modCore c (fun o => o.booted com q.ptRoot)
  let s2 := q.localSections.foldl (fun s x => s.putBytes (localKey c x.1) x.2) s1
  let share := (q.cdata.drop (coreInQuad c * com * 4096)).take (com * 4096)
  s2.putBytes (localKey c (4096 * (12 - com))) share

/-- The context with which the supervisor starts, at the image's entry; the low bits of the entry are dropped (DESIGN CHOICE, log 104). -/
def bootCtx (p : Nat) (arg : Word) (q : Part) : Ctx :=
  let mask := districtMask q.districts
  { x0 := BitVec.ofNat 64 p, x1 := arg, x2 := mask.1, x3 := mask.2, ip := ipOf q.entry, status := { sup := true } }

/-- BOOT (R96, R100). -/
def execBoot (s : State) : Outcome :=
  s.partCommand 0x0011 (fun _ => true) [.loaded] (fun k =>
    let q := s.part k.m k.p
    let com := comFor q.cdata.length
    let s1 := (q.districts.flatMap (districtCores k.m)).foldl (fun s c => s.bootCore q com c) s
    let s2 := s1.modCore q.head (fun o => { o with asid := 0, ptbase := BitVec.ofNat 64 q.ptRoot })
    let s3 := s2.newThread q.head 0 { ctx := bootCtx k.p (k.cmd.arg 1) q, origin := q.head }
    (s3.modPart k.m k.p (fun q =>
      { q with
        state := .running, floor := max q.floor q.version, m3 := sha512 (q.created ++ q.owner)
        accounts := [], nextLaunch := 1, dumpSeq := 0 })).answer k 0)

/-! ## LAUNCH (R111 to R115) -/

/-- The control word of a LAUNCH. -/
def HostCmd.dims (d : HostCmd) : Nat := bits (d.arg 1) 1 0
def HostCmd.seeds (d : HostCmd) : Nat := 2 ^ bits (d.arg 1) 10 8
def HostCmd.prio (d : HostCmd) : Nat := bits (d.arg 1) 13 12
def launchTag (control : Word) : BitVec 16 := if bits control 47 32 = 0 then 1 else BitVec.ofNat 16 (bits control 47 32)

/-- Bits of the control word that must be 0 (R106). -/
def badControl (w : Word) : Bool := bits w 7 2 ≠ 0 || bit w 11 || bits w 15 14 ≠ 0 || bits w 31 18 ≠ 0 || bits w 63 48 ≠ 0

/-- Where the completion word is written (R111, R115): its key, in local memory or in the stacked bulk memory of the partition. -/
def State.wordKey (s : State) (m p : Nat) (a : Word) : Option Nat :=
  if a.toNat % 8 = 0 && (s.partOf (a.toNat / 2 ^ 16 % 2 ^ 24) == some p || a.toNat < 2 ^ 40 || 2 ^ 41 ≤ a.toNat) then
    match s.spaceKey m p a.toNat true false with
    | .ok k => if moduleOf (coreOfKey k) = m then some k else none
    | .error _ => none
  else none

/-- The record from which a launch is seeded: the template with the launch's domain, id, priority and parent task 0 (R111). -/
def launchRecord (r : Rec) (d : HostCmd) (id : Nat) : Rec :=
  { r with
    flags := setBits r.flags 2 1 d.prio, dom0 := d.arg 2, dom1 := d.arg 3, dom2 := d.arg 4, launch := BitVec.ofNat 64 id, parent := 0 }

/-- The ranges of a LAUNCH, over its dimensions. -/
def HostCmd.ranges (d : HostCmd) : List Word := [d.arg 2, d.arg 3, d.arg 4].take d.dims

/-- The checks of R111 on a readable template, in their order: the status, 0 when the launch is good. -/
def State.launchStatus (s : State) (k : Call) (r : Rec) : Nat :=
  let d := k.cmd
  let q := s.part k.m k.p
  if r.entry = 0 then 2
  else if badControl (d.arg 1) || d.dims = 0 || r.dims ≠ d.dims then 2
  else if d.ranges.any (fun w => decide (domHi w < domLo w)) then 2
  else if q.districts.length < d.seeds then 2
  else if !r.isSplit && d.seeds ≠ 1 then 2
  else if bit (d.arg 1) 16 && (d.arg 5).toNat % 8 ≠ 0 then 2
  else if bit (d.arg 1) 16 && (s.wordKey k.m k.p (d.arg 5)).isNone then 9
  else if 256 ≤ q.accounts.length then 10
  else 0

/-- The completion word (R115). -/
def completionWord (launch code : Nat) : Word := BitVec.ofNat 64 (launch % 2 ^ 32 + code % 2 ^ 16 * 2 ^ 32)

/-- The completion word written at its home, in local memory as `stf.d` does. -/
def State.putCompletion (s : State) (key : Nat) (w : Word) : State :=
  let s1 := s.storeHome key (toBytes w.toNat 8)
  if isLocalKey key then State.resolve key 32 (s1.setFull key 8 true) else s1

/-- A STOP has suspended the LAUNCH of an account (R108). -/
def State.launchHeld (s : State) (m p : Nat) (a : Account) : Bool :=
  s.stopPending m p ((((s.func m a.fn).accepted.get a.slot).getD {}).order)

/-- The monitor of partition `p` may complete the launch of an account: the partition runs, no STOP has suspended the command (R108), and
the head core's die does not relock. -/
def State.mayComplete (s : State) (m p : Nat) (a : Account) : Bool :=
  (s.part m p).state == .running && !(s.func m a.fn).fwfault && !s.relocking m (dieOf (s.part m p).head) && !s.launchHeld m p a

/-- A launch completes (R115): completion word, result, status word, MSI-X. -/
def State.completeLaunch (s : State) (m p : Nat) (a : Account) : State :=
  let code := if a.grainFaults = 0 && a.copyFaults = 0 then 0 else 13
  let wants := bit a.control 16
  let s1 := s.modPart m p (fun q => { q with accounts := q.accounts.filter (fun b => b.launch != a.launch) })
  let (s2, final) :=
    if !wants then (s1, code)
    else match s.wordKey m p a.word with
      | some key => (s1.putCompletion key (completionWord a.launch code), code)
      | none => (s1, 9)
  let result : Word := BitVec.ofNat 64 (a.launch % 2 ^ 32 + min a.copyFaults 0xFFFF * 2 ^ 32 + min a.grainFaults 0xFFFF * 2 ^ 48)
  (s2.endCommand m a.fn a.slot { result := some result, code := final }).writeBack m a.fn a.slot

/-- LAUNCH (R111, R112): the account is created; an empty domain completes at once. One that a STOP has suspended waits (R108). -/
def execLaunch (s : State) : Outcome :=
  s.partCommand 0x0020 (fun d => !d.started && !d.suspended && !s.stopPending s.args.m (d.partNo s.args.fn) d.order) [.running] (fun k =>
    let d := k.cmd
    let at' := (d.arg 0).toNat
    if at' % 128 ≠ 0 then s.answer k 9
    else match s.spaceRead k.m k.p at' 128 false with
      | .error _ => s.answer k 9
      | .ok l =>
        let r := Rec.ofWords (wordsOf l)
        let code := s.launchStatus k r
        if code ≠ 0 then s.answer k code
        else
          let id := (s.part k.m k.p).nextLaunch
          let empty := d.ranges.any (fun w => domLo w == domHi w)
          let a : Account :=
            { launch := id, fn := k.fn, slot := k.slot, control := d.arg 1, word := d.arg 5, record := launchRecord r d id, seeded := empty }
          let s1 := (s.modPart k.m k.p (fun q => { q with nextLaunch := id + 1, accounts := q.accounts ++ [a] })).modCommand
            k.m k.fn k.slot (fun d => { d with started := true })
          if empty && s1.mayComplete k.m k.p a then s1.completeLaunch k.m k.p a else s1)

/-- One level of halving (R113): it stops the moment the count of records equals `n`. -/
def halveLevel (n : Nat) : List Rec → Nat → List Rec
  | [], _ => []
  | r :: rest, count =>
    if count = n then r :: rest
    else match r.halves with
      | none => r :: halveLevel n rest count
      | some (lo, hi) => lo :: hi :: halveLevel n rest (count + 1)

/-- The records of a launch: levels until there are `n`, or until no record can be halved. -/
def seedRecords (n : Nat) : Nat → List Rec → List Rec
  | 0, l => l
  | fuel + 1, l => if l.length = n then l else seedRecords n fuel (halveLevel n l l.length)

/-- The account of a command of the event. -/
def State.accountOf (s : State) (m fn slot : Nat) : Option (Nat × Account) :=
  (List.range 16).findSome? (fun p =>
    ((s.part m p).accounts.find? (fun a => a.fn == fn && a.slot == slot)).map (fun a => (p, a)))

/-- The seeded records depart from the head core to the root cores of the partition's districts, in record order (R113, R114). -/
def State.sendSeeds (s : State) (m p : Nat) (a : Account) (records : List Rec) : State :=
  let q := s.part m p
  let n := q.districts.length
  (List.range records.length).foldl (fun s i =>
    s.send { src := q.head, dst := rootCore m (q.districts.getD (i * n / records.length) 0), vc := 2, tag := launchTag a.control,
             part := p, load := .seeded (records.getD i {}) }) s

/-- LAUNCH_SEED (R113): the records depart, the roll-call count is their number, and the slot reaches state 2 with the id in its
result. -/
def execLaunchSeed (s : State) : Outcome :=
  let m := s.args.m
  let fn := s.args.fn
  let slot := s.args.slot
  .next (match s.accountOf m fn slot with
    | none => s
    | some (p, a) =>
      if a.seeded || (s.part m p).state != .running || s.relocking m (dieOf (s.part m p).head) || s.launchHeld m p a then s
      else
        let records := seedRecords (2 ^ bits a.control 10 8) 128 [a.record]
        let s1 := (s.modAccount m p a.launch (fun a => { a with seeded := true, count := records.length })).sendSeeds m p a records
        if 64 ≤ slot then s1
        else
          s1.modFunc m fn (fun f =>
            let w := f.words.set (slot * 16 + 13) (BitVec.ofNat 64 (a.launch % 2 ^ 32))
            { f with words := w.set (slot * 16 + 14) (setBits (f.word slot 14) 7 0 2) }))

/-- LAUNCH_COMPLETE (R115): the roll-call count and the open copies are 0. A task counts until its commit log has been carried out. -/
def execLaunchComplete (s : State) : Outcome :=
  let m := s.args.m
  .next (match s.accountOf m s.args.fn s.args.slot with
    | none => s
    | some (p, a) => if a.seeded && a.count = 0 && a.copies = 0 && s.mayComplete m p a then s.completeLaunch m p a else s)

/-! ## HOST_COPY (R50, R108, R109)

A piece is asked for by the head core: of the home of its bytes, which sends them to the PCIe endpoint, or of the endpoint, which reads
them in host memory and sends them to their home. Its travellers are of VC1 (DEDUCED, log 114). -/

/-- The bytes that one event moves: to the end of the page, of the window's private portion, and of the copy. -/
def State.copyStep (s : State) (va left want : Nat) : Nat :=
  let room := if 2 ^ 40 ≤ va && va < 2 ^ 41 then s.privSize (va / 2 ^ 16 % 2 ^ 24) - va % 2 ^ 16 else 2 ^ 16 - va % 2 ^ 16
  min (min left (max want 1)) (max room 1)

/-- The arguments of a HOST_COPY are good. -/
def HostCmd.goodCopy (d : HostCmd) : Bool := (d.arg 0).toNat ≤ 1 && 1 ≤ (d.arg 3).toNat && (d.arg 3).toNat ≤ 2 ^ 30

/-- No way over links leads from core `a` to core `b`, over at most `n` of them: one is down (R60, R105). -/
def State.wayDown (s : State) (b : Nat) : Nat → Nat → Bool
  | 0, _ => true
  | n + 1, a =>
    let m := moduleOf a
    if m = moduleOf b then false
    else match (s.module m).routes.get (moduleOf b) with
      | none => true
      | some l => (s.link m l).tx.down || (match (s.module m).cables.get l with
        | none => true
        | some (m2, l2) => State.wayDown s b n (edgeCore m2 l2))

/-- A link in the way of a piece is down. -/
def State.moveDown (s : State) (x : HostMove) : Bool :=
  let host := pcieCore x.m
  let home := homeTarget x.home
  s.wayDown home.1 257 host || (x.toHost && s.wayDown host 257 home.1) ||
    home.2.any (fun p =>
      let k := s.link (moduleOf home.1) (16 + p)
      k.tx.down || (x.toHost && k.rx.down))

/-- A piece on its way to the home of its bytes, or to the PCIe endpoint. -/
def State.moveHome (s : State) (src p : Nat) (x : HostMove) : State :=
  s.send { src, dst := (homeTarget x.home).1, vc := 1, part := p, load := .hostMove x, port := (homeTarget x.home).2 }
def State.moveToHost (s : State) (src p : Nat) (port : Option Nat) (x : HostMove) : State :=
  s.send { src, dst := pcieCore x.m, vc := 1, part := p, load := .hostMove x, port, fromBuffer := port.isSome }

/-- The next piece of a HOST_COPY: a run of bytes within one page. The command ends when all have performed, or when a piece failed. -/
def State.hostCopyStep (s : State) (k : Call) : State :=
  let d := k.cmd
  let total := (d.arg 3).toNat
  let va := (d.arg 2).toNat + d.done
  let stop := fun (code : Nat) => s.finish k { result := some (BitVec.ofNat 64 d.done), code }
  match d.failed, d.moving with
  | some code, _ => stop code
  | none, some x => if s.moveDown x then stop 12 else s
  | none, none =>
    if total ≤ d.done then stop 0
    else match s.spaceKey k.m k.p va (d.arg 0 == 0) true with
      | .error e => stop e
      | .ok home =>
        let x : HostMove :=
          { m := k.m, key := s.stamp, home, host := (d.arg 1).toNat + d.done, n := s.copyStep va (total - d.done) s.args.len, toHost := d.arg 0 != 0 }
        if s.moveDown x then stop 12
        else
          let s1 := (s.modCommand k.m k.fn k.slot (fun d => { d with started := true, moving := some x })).stampUp
          let head := (s.part k.m k.p).head
          if x.toHost then s1.moveHome head k.p x else s1.moveToHost head k.p none x

/-- A piece arrives: at the endpoint, where host memory is read or written, or at the home of its bytes; the command learns what has
become of it. A command that is over has no use for it. -/
def State.hostMoveIn (s : State) (t : Traveller) (x : HostMove) : State :=
  match (s.allCommands x.m).find? (fun e => e.2.2.outcome.isNone && (e.2.2.moving.map (·.key)) == some x.key) with
  | none => s
  | some (fn, slot, _) =>
    let failed := fun (code : Nat) => s.modCommand x.m fn slot (fun d => { d with moving := none, failed := some code })
    let landed := fun (s : State) => s.modCommand x.m fn slot (fun d => { d with moving := none, done := d.done + x.n })
    let gone := (homeCore x.home).any (fun h => (s.core h).lost || s.partTag h != t.part)
    match x.toHost, x.data with
    | false, none => if !s.args.ok then failed 8 else s.moveHome t.dst t.part { x with data := some (s.hostBytes x.host x.n) }
    | false, some l => if gone then failed 12 else landed (s.storeHome x.home l)
    | true, none =>
      if gone || s.hasBad x.home x.n || s.hasUntagged x.home x.n then failed 12
      else s.moveToHost t.dst t.part t.port { x with data := some (s.bytes x.home x.n) }
    | true, some l => if !s.args.ok then failed 8 else landed (s.putHost x.host l)

/-- HOST_COPY: the arrival of a piece, or the next step of a command. One that a STOP has suspended does nothing more until RESUME (R108),
nor does one that has begun and whose partition has halted. -/
def execHostCopy (s : State) : Outcome :=
  let a := s.args
  let go := fun (d : HostCmd) =>
    let p := d.partNo a.fn
    !d.suspended && !s.stopPending a.m p d.order && !(d.started && (s.part a.m p).state == .halted) && !s.relocking a.m (dieOf (s.part a.m p).head)
  if a.k ≠ 0 then
    s.onArrival (fun s t => match t.load with
      | .hostMove x => some (s.hostMoveIn t x)
      | _ => none)
  else
    s.partCommand 0x0030 go [.loaded, .running, .stopped] (fun k => if !k.cmd.goodCopy then s.answer k 2 else s.hostCopyStep k)

/-! ## ATTEST (R101) -/

/-- The first 376 bytes of a quote. -/
def State.quoteBody (s : State) (m : Nat) (p : Option Nat) (nonce : List Byte) : List Byte :=
  let q := match p with
    | none => ({} : Part)
    | some p => s.part m p
  toBytes 0x51544F51 4 ++ toBytes 1 2 ++ [BitVec.ofNat 8 Config.romLetter, 0] ++
  [BitVec.ofNat 8 m, BitVec.ofNat 8 (p.getD 255)] ++ List.replicate 6 0 ++
  nonce ++ fitBytes (s.module m).m0 64 ++ fitBytes (s.measureMonitor m) 64 ++ fitBytes q.m2 64 ++ fitBytes q.m3 64 ++
  toBytes (s.refNs m) 8 ++ toBytes q.floor 8 ++ List.replicate 56 0

/-- A quote: 512 bytes, the body and the identity key's signature of its digest, r and s. -/
def State.quote (s : State) (m : Nat) (p : Option Nat) (nonce : List Byte) : List Byte :=
  let body := s.quoteBody m p nonce
  body ++ fitBytes (Config.identitySign m (sha512 body)) 132 ++ List.replicate 4 0

/-- An ATTEST ends: at most a2 bytes are written to host memory. -/
def State.attest (s : State) (k : Call) (l : List Byte) : State :=
  let out := l.take (k.cmd.arg 2).toNat
  if !s.args.ok then s.answer k 8
  else (s.putHost (k.cmd.arg 1).toNat out).finish k { result := some (BitVec.ofNat 64 out.length) }

/-- The partition that an ATTEST names: none for the module alone, or a status. -/
def State.attestOf (s : State) (k : Call) : Except Nat (Option Nat) :=
  if k.p = 255 then .ok none
  else if 16 ≤ k.p then .error 2
  else if (s.part k.m k.p).state == .absent then .error 5
  else .ok (some k.p)

/-- ATTEST_QUOTE. -/
def execAttestQuote (s : State) : Outcome :=
  s.runCommand 0x0040 (fun d => d.arg 0 == 0) (fun k =>
    match s.attestOf k with
    | .error e => s.answer k e
    | .ok p => s.attest k (s.quote k.m p (bytesOf [k.cmd.arg 3, k.cmd.arg 4, k.cmd.arg 5, k.cmd.arg 6])))

/-- ATTEST_CHAIN; a flag above 1 is a bad argument. -/
def execAttestChain (s : State) : Outcome :=
  s.runCommand 0x0040 (fun d => d.arg 0 != 0) (fun k =>
    if k.cmd.arg 0 != 1 then s.answer k 2
    else match s.attestOf k with
      | .error e => s.answer k e
      | .ok _ => s.attest k (Config.certChain k.m))

/-! ## DUMP, STOP, RESUME (R96, R238 to R242) -/

/-- The virtual address of an entry of a partition's dump area. -/
def dumpEntry (dumpa : Word) (n : Nat) : Nat := bits dumpa 47 18 * 2 ^ 18 + n % 16 * 2 ^ 14

/-- DUMP: a3 counts from the oldest entry present. -/
def execDump (s : State) : Outcome :=
  s.partCommand 0x0050 (fun _ => true) [.stopped, .halted] (fun k =>
    let q := s.part k.m k.p
    let i := (k.cmd.arg 3).toNat
    if q.dumpCount ≤ i then s.answer k 2
    else
      let va := dumpEntry (s.core q.supervisor).dumpa (q.dumpNext + 16 - q.dumpCount + i)
      match s.spaceRead k.m k.p va (2 ^ 14) false with
      | .error e => s.answer k e
      | .ok l =>
        if !s.args.ok then s.answer k 8
        else
          let out := l.take (k.cmd.arg 2).toNat
          (s.putHost (k.cmd.arg 1).toNat out).finish k { result := some (BitVec.ofNat 64 out.length) })

/-- The LAUNCH and HOST_COPY commands of a partition that are open, and were accepted before a moment, suspended, or let go on (R108). -/
def State.suspendCopies (s : State) (m p before : Nat) (b : Bool) : State :=
  (s.allCommands m).foldl (fun s e =>
    if (e.2.2.code = 0x0020 || e.2.2.code = 0x0030) && e.2.2.partNo e.1 == p && e.2.2.outcome.isNone && decide (e.2.2.order < before) then
      s.modCommand m e.1 e.2.1 (fun d => { d with suspended := b })
    else s) s

/-- The bell rings: travellers of VC3 carry the stop edge from the partition's head core to every die (R42, R238). -/
def State.ring (s : State) (m p edge : Nat) : State :=
  (List.range 8).foldl (fun s d => s.send { src := (s.part m p).head, dst := headId m d 0, vc := 3, part := p, load := .bell p edge }) s

/-- STOP (R238): the ring carries the stop edge, 400 ns after it. -/
def execStop (s : State) : Outcome :=
  s.partCommand 0x0051 (fun _ => true) [.running] (fun k =>
    if (s.part k.m k.p).edge.isSome then s
    else
      let t := s.refNs k.m + 400
      ((s.modPart k.m k.p (fun q => { q with edge := some t, stopFn := some (k.fn, k.slot) })).suspendCopies k.m k.p k.cmd.order true).ring
        k.m k.p t)

/-- The router record of a quad at the stop edge (R239), latched at its core 0: a traveller on its way through a mesh is shown at the
router beside which that way began, until it arrives or leaves on a link (DESIGN CHOICE, log 15). -/
def State.routerRecord (s : State) (c : Nat) : List Nat :=
  let p := s.partTag c
  let q := s.quad (quadOf c)
  let here := fun vc => (s.net.filter (fun t => t.vc == vc && t.link.isNone && !t.atBuffer && !t.fromBuffer && routerQuad t.stands == quadOf c && t.part == p)).length
  if isHead c || c % 4 ≠ 0 then []
  else [here 0, here 1, here 2, (q.linkOut.get p).getD 0, (q.linkIn.get p).getD 0]

/-- A core at the stop edge: its record is latched, and it issues no more (R238, R239). -/
def State.latchStop (s : State) (c edge : Nat) : State :=
  s.modCore c (fun o =>
    { o with
      stopped := true
      stop := some { cyc := s.cyc c, edge := BitVec.ofNat 64 edge, departed := o.departed, arrived := o.arrived,
                     router := s.routerRecord c } })

/-- The stop edge of a partition has come: every core of the partition latches its record; the STOP ends with T as its result (R238). -/
def State.stopAtEdge (s : State) (m p : Nat) : State :=
  let q := s.part m p
  match q.edge with
    | none => s
    | some t =>
      if s.refNs m < t then s
      else
        let s1 := (partCores m q.districts q.head).foldl (fun s c => s.latchStop c t) s
        let s2 := s1.modPart m p (fun q =>
          { q with state := if q.state == .running then .stopped else q.state, edge := none, stopFn := none })
        match q.stopFn with
        | none => s2.suspendCopies m p s2.stamp true
        | some (fn, slot) => s2.endCommand m fn slot { result := some (BitVec.ofNat 64 t) }

/-- STOP_EDGE (R238): the arrival of the bell at a die, or the stop edge. A core acts on the edge that the bell carries from T on,
whether or not the bell is still on its way: the spec bounds the ring by the 400 ns before T (DEDUCED, log 122). -/
def execStopEdge (s : State) : Outcome :=
  if s.args.k ≠ 0 then
    s.onArrival (fun s t => match t.load with
      | .bell _ _ => some s
      | _ => none)
  else .next (s.stopAtEdge s.args.m s.args.part)

/-- RESUME (R238): every core issues again from the next reference edge. -/
def execResume (s : State) : Outcome :=
  s.partCommand 0x0052 (fun _ => true) [.stopped] (fun k =>
    let q := s.part k.m k.p
    let s1 := (partCores k.m q.districts q.head).foldl (fun s c => s.modCore c (fun o => { o with stopped := false })) s
    ((s1.modPart k.m k.p (fun q => { q with state := .running, issueFrom := s.refNs k.m + 10 })).suspendCopies k.m k.p s.stamp false).answer k 0)

/-! ## CENSUS_CFG and POWER_SET (R60, R110, R253) -/

/-- CENSUS_CFG_OFF. -/
def execCensusCfgOff (s : State) : Outcome :=
  s.runCommand 0x0060 (fun d => d.arg 0 == 0) (fun k => (s.modModule k.m (fun o => { o with census := false })).answer k 0)

/-- CENSUS_CFG_ON. -/
def execCensusCfgOn (s : State) : Outcome :=
  s.partCommand 0x0060 (fun d => d.arg 0 == 1) present (fun k =>
    (s.modModule k.m (fun o =>
      { o with census := true, censusPart := k.p, censusBase := k.cmd.arg 2, censusLen := (k.cmd.arg 3).toNat })).answer k 0)

/-- A link whose packet counts are 0. -/
def Link.cleared (k : Link) : Link :=
  { k with tx := { k.tx with sent := [0, 0, 0, 0], replayed := [0, 0, 0, 0] } }

/-- CENSUS_CFG_CLEAR: the counts begin again. -/
def execCensusCfgClear (s : State) : Outcome :=
  s.runCommand 0x0060 (fun d => d.arg 0 == 2) (fun k =>
    (s.modModule k.m (fun o => { o with flits := [], links := o.links.map (fun l => (l.1, l.2.cleared)) })).answer k 0)

/-- CENSUS_CFG_RETRAIN (R60); an op above 3 is a bad argument. -/
def execCensusCfgRetrain (s : State) : Outcome :=
  s.runCommand 0x0060 (fun d => d.arg 0 != 0 && d.arg 0 != 1 && d.arg 0 != 2) (fun k =>
    if k.cmd.arg 0 != 3 || !goodMask (k.cmd.arg 4) then s.answer k 2
    else (s.retrainLinks k.m (k.cmd.arg 4) s.args.ok).answer k 0)

/-- A die state of a POWER_SET is not one of R106. -/
def badDieStates (w : Word) : Bool := 2 ^ 24 ≤ w.toNat || (List.range 8).any (fun d => [4, 5, 6].contains (bits w (3 * d + 2) (3 * d)))

/-- The state that the arbiter asks of a die when POWER_SET names one: a die above 95 °C, or one that R76 has stepped down and not yet up
again, is not clocked up (R76, R110). -/
def Die.goal (o : Die) (state : Nat) : Nat := if o.hotSince.isSome || o.wanted < o.target then max o.target state else state

/-- The die states asked of a module. -/
def State.askStates (s : State) (m : Nat) (w : Word) : State :=
  (List.range 8).foldl (fun s d =>
    let st := bits w (3 * d + 2) (3 * d)
    if st = 7 then s else (s.modDie m d (fun o => { o with wanted := st })).askClock m d ((s.die m d).goal st)) s

/-- POWER_SET (R110): it completes after the last relock. -/
def execPowerSet (s : State) : Outcome :=
  s.runCommand 0x0070 (fun d => !d.started) (fun k =>
    let limit := (k.cmd.arg 0).toNat
    if limit < 500 || 4500 < limit || badDieStates (k.cmd.arg 1) then s.answer k 2
    else
      let s1 := (s.modModule k.m (fun o => { o with limit })).askStates k.m (k.cmd.arg 1)
      ((s1.modCommand k.m k.fn k.slot (fun d => { d with started := true })).modModule k.m (fun o =>
        { o with powerWait := o.powerWait ++ [(k.fn, k.slot)] })).endPowerSet k.m)

end Sys2Proof.Machine
end

