-- ==== Sys2Proof/Machine/Reliability.lean ====
section
/-! DEFINITION. Dumps, the in-field test and its spares, the census, sampling, and words that no check of R306 passes (R77 to R81,
R240 to R243, R251 to R254, R306). -/
namespace Sys2Proof.Machine

/-! ## Dumps (R242, R243) -/

/-- A fault record: 256 bytes. -/
def FaultRec.bytes (f : FaultRec) : List Byte :=
  let t := some f.thread
  bytesOf [f.ecause, BitVec.ofNat 64 f.kind, f.eip, f.eaddr, f.ref, f.cyc, BitVec.ofNat 64 f.core, f.thread.tid.zeroExtend 64,
    taskField t (·.task), taskField t (·.launch)] ++ List.replicate 48 0 ++ bytesOf f.thread.ctx.words

/-- The first 64 bytes of a dump entry, with its flags. -/
def DumpJob.header (j : DumpJob) (flags : Nat) : List Byte :=
  toBytes 0x504D5544 4 ++ toBytes 1 2 ++ toBytes flags 2 ++ toBytes j.seq 8 ++ toBytes j.fault.tag.toNat 8 ++
  toBytes j.secondary.length 4 ++ toBytes j.more 4 ++ toBytes j.lostBefore 8 ++ toBytes j.fault.ref.toNat 8 ++ List.replicate 16 0

/-- A complete dump entry: 16 KiB. -/
def DumpJob.bytes (j : DumpJob) : List Byte :=
  j.header (1 + (if 4 ≤ j.fault.kind then 4 else 0)) ++ j.fault.bytes ++
  fitBytes (j.secondary.flatMap FaultRec.bytes) 1024 ++ List.replicate 704 0 ++
  fitBytes (j.fault.image.take 3072) 4096 ++ fitBytes (j.fault.image.drop 3072) 10240

/-- An entry that the supervisor core left incomplete: what follows its header is free (DESIGN CHOICE, log 3). -/
def DumpJob.brokenBytes (j : DumpJob) (free : Nat) : List Byte :=
  j.header (2 + (if 4 ≤ j.fault.kind then 4 else 0)) ++ freeBytes free (2 ^ 14 - 64)

/-- The partition's dump has been written, or dropped; the next of its queue begins. -/
def Part.nextDump (q : Part) (written : Bool) : Part :=
  let q1 := if written then { q with dumpNext := (q.dumpNext + 1) % 16, dumpCount := min 16 (q.dumpCount + 1) } else q
  match q1.dumpQueue with
  | [] => { q1 with dumping := none }
  | f :: rest =>
    { q1 with
      dumping := some { seq := f.seq, fault := f, lostBefore := q1.dumpLost }, dumpQueue := rest, dumpLost := 0 }

/-- DUMP_WRITE (R242): through the supervisor core's space; a dump area that does not translate leaves the dump incomplete, and the
partition halts (R96). -/
def execDumpWrite (s : State) : Outcome :=
  let m := s.args.m
  let p := s.args.part
  let q := s.part m p
  let dumpa := (s.core q.supervisor).dumpa
  .next (match q.dumping with
    | none => s
    | some j =>
      if !bit dumpa 0 then s.modPart m p (fun q => q.nextDump false)
      else match s.netKey q.supervisor (dumpEntry dumpa q.dumpNext) 1 true with
        | (s1, none) => (s1.modPart m p (fun q => q.nextDump false)).haltPartition q.supervisor
        | (s1, some key) =>
          let out := if j.broken then j.brokenBytes s1.free else j.bytes
          ({ s1.storeHome key out with free := s1.free + 2 ^ 14 }).modPart m p (fun q => q.nextDump true))

/-! ## Retired sites (R77 to R80) -/

/-- The left half of a physical row (R78). -/
def leftHalf (col : Nat) : Bool := col ≤ 32

/-- Column, within a die's eight, of the district of a site: the district of the logical quad that stands there before any retirement. -/
def siteX (col : Nat) : Nat := (min 64 (max 1 col) - 1) / 8

/-- The districts whose quads move when a site is retired: those between it and the spare column of its row half (R78, R79). -/
def movingDistricts (site : Nat × Nat × Nat) : List Nat :=
  let (die, col, row) := site
  let base := die * 16 + row / 16 * 8
  ((List.range 8).filter (fun x => if leftHalf col then x ≤ siteX col else siteX col ≤ x)).map (fun x => base + x)

/-- The sites of a module that are being retired: their column copies run. -/
def State.retiring (s : State) (m : Nat) : List (Nat × Nat × Nat) := (List.range 128).filterMap (fun d => (s.district m d).moving)

/-- A site of a district can be retired (R78): with those that are retired, or are being retired, one in a row half and four in a
district. -/
def State.spareSite (s : State) (m d : Nat) (site : Nat × Nat × Nat) : Bool :=
  let (die, col, row) := site
  let taken := (s.module m).sites ++ s.retiring m
  die == d / 16 && col ≤ 65 && row < 32 && row / 16 == d % 16 / 8 && siteX col == d % 8 &&
  !taken.any (fun t => t.1 == die && t.2.2 == row && leftHalf t.2.1 == leftHalf col) &&
  (taken.filter (fun t => t.1 == die && t.2.2 / 16 == row / 16 && siteX t.2.1 == siteX col)).length < 4

/-- A retirement begins: every district whose quads move is fenced, and the column copies run (R79). -/
def State.beginRetire (s : State) (m d : Nat) (site : Nat × Nat × Nat) : State :=
  (movingDistricts site).foldl (fun s e => s.modDistrict m e (fun o => { o with fenced := true }))
    (s.modDistrict m d (fun o => { o with moving := some site }))

/-- The quad that stood on a retired site; a spare column held none. -/
def siteQuad (m : Nat) (site : Nat × Nat × Nat) : Option Nat :=
  let (die, col, row) := site
  if 1 ≤ col && col ≤ 64 then some (m * 2 ^ 14 + die * 2 ^ 11 + row * 64 + (col - 1)) else none

/-- The quads of a row half that move when a site is retired, each with the quad on whose column it comes to stand, none on the spare
column. -/
def shiftedQuads (m : Nat) (site : Nat × Nat × Nat) : List (Nat × Option Nat) :=
  let (die, col, row) := site
  let quad := fun (x : Nat) => m * 2 ^ 14 + die * 2 ^ 11 + row * 64 + x
  if leftHalf col then (List.range col).map (fun x => (quad x, if x = 0 then none else some (quad (x - 1))))
  else (List.range (65 - col)).map (fun i => (quad (63 - i), if i = 0 then none else some (quad (64 - i))))

/-- What a quad knows of its DRAM column, its spares in use and its corrected reads, is that of the column on which it stands (R78, R81). -/
def Quad.onColumnOf (q c : Quad) : Quad := { q with remaps := c.remaps, remapping := c.remapping, corrected := c.corrected }

/-- The quads of a row half stand on their new sites. -/
def State.shiftQuads (s : State) (m : Nat) (site : Nat × Nat × Nat) : State :=
  (shiftedQuads m site).foldl (fun t x => t.modQuad x.1 (fun q => q.onColumnOf ((x.2.map s.quad).getD {}))) s

/-- The sites of a district that can still be retired, and on which a quad stands. -/
def State.sitesLeft (s : State) (m d : Nat) : List (Nat × Nat × Nat) :=
  (List.range 16).flatMap (fun r => (List.range 8).filterMap (fun x =>
    let site := (d / 16, d % 8 * 8 + x + 1, d % 16 / 8 * 16 + r)
    if s.spareSite m d site then some site else none))

/-- A district no longer fenced, unless a retirement whose copies still run moves its quads. -/
def State.unfence (s : State) (m e : Nat) : State :=
  let held := (s.retiring m).any (fun x => (movingDistricts x).contains e)
  s.modDistrict m e (fun o => { o with fenced := held })

/-- A quad's cores, engines or DRAM column fail (R78): a core of it is lost (R246), or its column's reads need correction (R244). -/
def State.quadFails (s : State) (q : Nat) : Bool :=
  (List.range 4).any (fun i => (s.core (coreOfQuad q i)).lost) || (s.quad q).corrected != 0

/-- The firmware retires the site of a quad that fails, where a spare is left and the districts are not under test (R78, R79; DESIGN
CHOICE, log 101). -/
def State.retireFailing (s : State) (m d : Nat) (site : Nat × Nat × Nat) : State :=
  let o := s.district m d
  match siteQuad m site with
  | none => s
  | some q => if s.spareSite m d site && s.quadFails q && o.slice.isNone && o.moving.isNone then s.beginRetire m d site else s

/-- DRAM_ROW_REMAP (R81): the copy of a row, or of a bank, to a spare begins; where the event names a site, the firmware retires that
site instead (R78; DESIGN CHOICE, log 101). A column has four layers of four banks (R40). -/
def execDramRowRemap (s : State) : Outcome :=
  let a := s.args
  let q := s.quad a.quad
  .next (match a.site with
    | some x => s.retireFailing a.m a.district (a.district / 16, x.1, x.2)
    | none =>
      if q.remapping.isSome || 4 ≤ a.layer || 4 ≤ a.bank || !q.spareFor a.layer a.row then s
      else s.modQuad a.quad (fun q => { q with remapping := some (a.layer, a.bank, a.row) }))

/-- COLUMN_COPY_COMPLETE (R79, R80, R252): the quads stand on their new sites, the districts are unfenced, and the cores of the retired
site are lost no more. No physical address, core id or stored byte changes. -/
def execColumnCopyComplete (s : State) : Outcome :=
  let m := s.args.m
  let d := s.args.district
  .next (match (s.district m d).moving with
    | none => s
    | some site =>
      let s1 := (s.modModule m (fun o => { o with sites := o.sites ++ [site] })).modDistrict m d (fun o => { o with moving := none })
      let s2 := (movingDistricts site).foldl (fun s e => s.unfence m e) (s1.shiftQuads m site)
      match siteQuad m site with
      | none => s2
      | some q => (List.range 4).foldl (fun s i => s.modCore (coreOfQuad q i) (fun o => { o with lost := false })) s2)

/-! ## In-field test (R251, R252) -/

/-- Ticks of 20 µs and of 100 ms. -/
def ticksSlice : Nat := 144000
def ticksForced : Nat := 720000000

/-- A district is in a gap: its partition is stopped, or every core of it has `ctxid` 0. -/
def State.inGap (s : State) (m d : Nat) : Bool :=
  (match s.partRec (rootCore m d) with
    | some q => q.state == .stopped || q.state == .halted
    | none => false) ||
  (districtCores m d).all (fun c => (s.core c).ctxid == 0)

/-- A district on which a slice may begin. -/
def District.testable (o : District) : Bool := o.slice.isNone && !o.fenced && o.moving.isNone

/-- TEST_SLICE (R251). -/
def execTestSlice (s : State) : Outcome :=
  let m := s.args.m
  let d := s.args.district
  .next (if (s.district m d).testable && s.inGap m d then s.modDistrict m d (fun o => { o with slice := some (s.now, false) }) else s)

/-- FORCED_TEST_GAP (R251): the cores of the district stand still while the slice runs. -/
def execForcedTestGap (s : State) : Outcome :=
  let m := s.args.m
  let d := s.args.district
  let o := s.district m d
  .next (if o.testable && ticksForced ≤ s.now - max o.lastSlice (s.module m).resetAt then
      s.modDistrict m d (fun o => { o with slice := some (s.now, !s.inGap m d) })
    else s)

/-- A slice that passes: the next pattern; the end of the set sends a kind-11 notice with status 0. -/
def State.slicePassed (s : State) (m d : Nat) : State :=
  let o := s.district m d
  let last := o.pattern = Config.patternsLessOne
  let s1 := s.modDistrict m d (fun o =>
    { o with
      slice := none, lastSlice := s.now, passed := o.passed.set o.pattern (s.refNs m)
      pattern := if last then 0 else o.pattern + 1 })
  if last then s1.tellSupervisor (rootCore m d) (noticeWord 11 0 (d + o.pattern * 2 ^ 8)) none else s1

/-- A suspect record: 128 bytes. -/
def suspectBytes (d passed failed : Nat) (lost : Bool) : List Byte :=
  toBytes d 8 ++ toBytes passed 8 ++ toBytes failed 8 ++ toBytes lost.toNat 8 ++ List.replicate 96 0

/-- The suspect record in ring 4 of the supervisor core, and its kind-14 notice (R252); a ring that cannot be written is the fault of
R127. -/
def State.reportSuspect (s : State) (m d passed : Nat) (lost : Bool) : State :=
  match s.supervisorOf (rootCore m d) with
  | none => s
  | some sup =>
    let n := (s.core sup).ring4Next
    match s.writeRing sup 4 n (suspectBytes d passed (s.refNs m) lost) with
    | (s1, false) => s1.fatalPartition sup 4
    | (s1, true) =>
      (s1.modCore sup (fun o => { o with ring4Next := (n + 1) % 512 })).tellSupervisor (rootCore m d)
        (noticeWord 14 d ((s.core sup).ringAddr 4 n)) none

/-- A slice that fails (R252): the district is fenced; notice, suspect record, interval and interrupts; then the site that the event
names, or the first that can be, is retired; if no spare site is left, each core of the district is lost (DEDUCED, log 83). -/
def State.sliceFailed (s : State) (m d : Nat) (site : Option (Nat × Nat)) : State :=
  let o := s.district m d
  let root := rootCore m d
  let passed := (o.passed.get o.pattern).getD 0
  let named := (site.map (fun x => (d / 16, x.1, x.2))).filter (s.spareSite m d)
  let place := named <|> (s.sitesLeft m d).head?
  let spare := place.isSome
  let s1 := s.modDistrict m d (fun o => { o with fenced := true, slice := none, lastSlice := s.now })
  let s2 := s1.tellSupervisor root (noticeWord 11 1 (d + o.pattern * 2 ^ 8)) none
  let s3 := s2.reportSuspect m d passed (!spare)
  let told := (s3.modModule m (fun o => { o with suspects := o.suspects ++ [(d, passed, s.refNs m)] })).sendVector m 0 63
  let s4 := match s.partOf root with
    | none => told
    | some p => told.sendVector m (p + 1) 63
  match place with
  | some x => s4.beginRetire m d x
  | none => (districtCores m d).foldl (fun s c => s.loseCore c) s4

/-- TEST_SLICE_COMPLETE (R251, R252). -/
def execTestSliceComplete (s : State) : Outcome :=
  let m := s.args.m
  let d := s.args.district
  .next (match (s.district m d).slice with
    | none => s
    | some (t, _) =>
      if s.now - t < ticksSlice then s
      else if s.args.ok then s.slicePassed m d
      else s.sliceFailed m d s.args.site)

/-! ## Census (R253) -/

/-- A count of 32 bits, which saturates. -/
def count32 (n : Nat) : List Byte := toBytes (min n (2 ^ 32 - 1)) 4

/-- One link entry of a census record: 64 bytes. -/
def censusLink (l : Nat) (k : Link) : List Byte :=
  fitBytes (toBytes l 4 ++ toBytes k.tx.width 4 ++
    (List.range 4).flatMap (fun c => count32 (k.tx.sent.getD c 0) ++ count32 (k.tx.replayed.getD c 0))) 64

/-- The links at the edge of a die (R50). -/
def dieLinks (d : Nat) : List Nat := if d < 4 then [3 * d, 3 * d + 1, 3 * d + 2] else (List.range 4).map (fun i => 16 + 4 * (d - 4) + i)

/-- The router counts of a die: quad, port and channel, each the flits sent and the cycles stalled; the latter are free (DESIGN CHOICE,
log 21). -/
def State.censusRouters (s : State) (m d : Nat) : List Byte :=
  let flits := (s.module m).flits
  (List.range 32768).flatMap (fun i => count32 ((flits.get (d * 32768 + i)).getD 0) ++ freeBytes (s.free + 4 * i) 4)

/-- A census record: 266,240 bytes. -/
def State.censusRecord (s : State) (m d : Nat) : List Byte :=
  let o := s.die m d
  let links := (dieLinks d).flatMap (fun l => censusLink l (s.link m l))
  let unused := (List.range (8 - (dieLinks d).length)).flatMap (fun _ => fitBytes (toBytes 255 4) 64)
  fitBytes (toBytes 0x534E4543 8 ++ toBytes d 8 ++ toBytes o.censusSeq 8 ++ toBytes (s.refNs m) 8 ++
    toBytes (s.cycOf m d - o.censusCyc) 8) 64 ++
  s.censusRouters m d ++ links ++ unused ++ List.replicate 3520 0

/-- Bytes for a partition's space leave a core on VC3, page by page; a page that cannot be written is skipped. -/
def State.sendPages (s : State) (src m p : Nat) : Nat → Nat → List Byte → State
  | 0, _, _ => s
  | fuel + 1, va, l =>
    if l.isEmpty then s
    else
      let n := 2 ^ 16 - va % 2 ^ 16
      let s1 := match s.spaceKey m p va true true with
        | .ok home =>
          s.send { src, dst := (homeTarget home).1, vc := 3, part := p, load := .census home (l.take n), port := (homeTarget home).2 }
        | .error _ => s
      State.sendPages s1 src m p fuel (va + n) (l.drop n)

/-- A piece of a record comes to its home; one that is lost, or of another partition, takes none. -/
def State.censusIn (s : State) (t : Traveller) (home : Nat) (l : List Byte) : State :=
  if (homeCore home).any (fun h => (s.core h).lost || s.partTag h != t.part) then s else s.storeHome home l

/-- Head core 0 of a die closes an interval of 2^16 reference edges. -/
def State.closeCensus (s : State) (m d : Nat) : State :=
  let o := s.module m
  let close := s.refNs m / 655360
  if !o.census || o.censusLen = 0 || 8 ≤ d || close ≤ (s.die m d).censusLast || s.relocking m d then s
    else
      let at' := o.censusBase.toNat + (d * o.censusLen + (s.die m d).censusSeq % o.censusLen) * 266240
      let s0 := { s.sendPages (headId m d 0) m o.censusPart 6 at' (s.censusRecord m d) with free := s.free + 131072 }
      let s1 := s0.modModule m (fun o => { o with flits := o.flits.filter (fun e => e.1 / 32768 != d) })
      let s2 := s1.modDie m d (fun e => { e with censusSeq := e.censusSeq + 1, censusLast := close, censusCyc := s.cycOf m d })
      (dieLinks d).foldl (fun s l => s.modLink m l Link.cleared) s2

/-- CENSUS_RECORD_WRITE (R253): the arrival of a piece of a record, or the close of an interval. -/
def execCensusRecordWrite (s : State) : Outcome :=
  if s.args.k ≠ 0 then
    s.onArrival (fun s t => match t.load with
      | .census home l => some (s.censusIn t home l)
      | _ => none)
  else .next (s.closeCensus s.args.m s.args.die)

/-! ## Sampling and trace (R254) -/

/-- The two words of a record. -/
def State.sampleWords (s : State) (c : Nat) (r : Word × Nat × Nat) : List Word :=
  [BitVec.ofNat 64 (bits r.1 47 0 + r.2.1 % 8 * 2 ^ 48 + r.2.2 % 2 ^ 8 * 2 ^ 56),
   BitVec.ofNat 64 (c % 2 ^ 24 + (s.cyc c).toNat % 2 ^ 40 * 2 ^ 24)]

/-- One record written to the ring of a core, in its private memory; a ring with no room for a record takes none. -/
def State.writeSample (s : State) (c : Nat) (r : Word × Nat × Nat) : State :=
  let o := s.core c
  let base := bits o.smpc 15 4 * 16
  let limit := bits o.smpc 31 16
  let at' := base + 16 * o.smpNext
  let here := if at' + 16 ≤ limit then at' else base
  if limit < here + 16 || s.privSize c < here + 16 then s
  else
    (s.putBytes (localKey c here) (bytesOf (s.sampleWords c r))).modCore c (fun o => { o with smpNext := (here - base) / 16 + 1 })

/-- The records of a core that are due. -/
def State.writeSamples (s : State) (c : Nat) : State :=
  (s.core c).samples.foldl (fun s r => s.writeSample c r) (s.modCore c (fun o => { o with samples := [] }))

/-- SAMPLE_RECORD (R254). -/
def execSampleRecord (s : State) : Outcome := .next (s.writeSamples s.args.c)

/-- The sampling period: 2^`per` instructions. -/
def samplePeriod (smpc : Word) : Nat :=
  let per := bits smpc 55 48
  2 ^ (if 8 ≤ per && per ≤ 30 then per else 30)

/-! ## Illegal encodings (R306) -/

/-- ILLEGAL_ENCODING: the word in issue fails a check and traps before any effect, with cause 12 at check 5 and cause 1 at any other. -/
def execIllegalEncoding (s : State) : Outcome :=
  s.gate [] [] (fun _ => match decodeWord s.ir with
    | .error .reservedRegister => s.trapWord 12
    | .error _ => s.trapWord 1
    | .ok _ => s)

end Sys2Proof.Machine
end

