-- ==== Sys2Proof/Machine/Dispatch.lean ====
section
/-! DEFINITION. The meaning of every instruction and event: one arm per constructor of `Instr`, each one call of its meaning. -/
namespace Sys2Proof.Machine

def exec (i : Instr) (s : State) : Host.Outcome State Fault Refusal :=
  match i with
  | .add d a b => Sys2Proof.Machine.execAdd d a b s
  | .sub d a b => Sys2Proof.Machine.execSub d a b s
  | .and d a b => Sys2Proof.Machine.execAnd d a b s
  | .or d a b => Sys2Proof.Machine.execOr d a b s
  | .xor d a b => Sys2Proof.Machine.execXor d a b s
  | .andn d a b => Sys2Proof.Machine.execAndn d a b s
  | .orn d a b => Sys2Proof.Machine.execOrn d a b s
  | .shl d a b => Sys2Proof.Machine.execShl d a b s
  | .shr d a b => Sys2Proof.Machine.execShr d a b s
  | .sar d a b => Sys2Proof.Machine.execSar d a b s
  | .rol d a b => Sys2Proof.Machine.execRol d a b s
  | .ror d a b => Sys2Proof.Machine.execRor d a b s
  | .min d a b => Sys2Proof.Machine.execMin d a b s
  | .max d a b => Sys2Proof.Machine.execMax d a b s
  | .minu d a b => Sys2Proof.Machine.execMinu d a b s
  | .maxu d a b => Sys2Proof.Machine.execMaxu d a b s
  | .lsa d a b k => Sys2Proof.Machine.execLsa d a b k s
  | .addw d a b => Sys2Proof.Machine.execAddw d a b s
  | .subw d a b => Sys2Proof.Machine.execSubw d a b s
  | .shlw d a b => Sys2Proof.Machine.execShlw d a b s
  | .shrw d a b => Sys2Proof.Machine.execShrw d a b s
  | .sarw d a b => Sys2Proof.Machine.execSarw d a b s
  | .mul d a b => Sys2Proof.Machine.execMul d a b s
  | .mulh d a b => Sys2Proof.Machine.execMulh d a b s
  | .mulhu d a b => Sys2Proof.Machine.execMulhu d a b s
  | .mulw d a b => Sys2Proof.Machine.execMulw d a b s
  | .div d a b => Sys2Proof.Machine.execDiv d a b s
  | .divu d a b => Sys2Proof.Machine.execDivu d a b s
  | .rem d a b => Sys2Proof.Machine.execRem d a b s
  | .remu d a b => Sys2Proof.Machine.execRemu d a b s
  | .divw d a b => Sys2Proof.Machine.execDivw d a b s
  | .remw d a b => Sys2Proof.Machine.execRemw d a b s
  | .clz d a => Sys2Proof.Machine.execClz d a s
  | .ctz d a => Sys2Proof.Machine.execCtz d a s
  | .popc d a => Sys2Proof.Machine.execPopc d a s
  | .brev d a => Sys2Proof.Machine.execBrev d a s
  | .bswap d a => Sys2Proof.Machine.execBswap d a s
  | .sxb d a => Sys2Proof.Machine.execSxb d a s
  | .sxh d a => Sys2Proof.Machine.execSxh d a s
  | .sxw d a => Sys2Proof.Machine.execSxw d a s
  | .zxb d a => Sys2Proof.Machine.execZxb d a s
  | .zxh d a => Sys2Proof.Machine.execZxh d a s
  | .zxw d a => Sys2Proof.Machine.execZxw d a s
  | .bfx d a b => Sys2Proof.Machine.execBfx d a b s
  | .bfxs d a b => Sys2Proof.Machine.execBfxs d a b s
  | .bfi d a b => Sys2Proof.Machine.execBfi d a b s
  | .addi d a v => Sys2Proof.Machine.execAddi d a v s
  | .andi d a v => Sys2Proof.Machine.execAndi d a v s
  | .ori d a v => Sys2Proof.Machine.execOri d a v s
  | .xori d a v => Sys2Proof.Machine.execXori d a v s
  | .shli d a k => Sys2Proof.Machine.execShli d a k s
  | .shri d a k => Sys2Proof.Machine.execShri d a k s
  | .sari d a k => Sys2Proof.Machine.execSari d a k s
  | .roli d a k => Sys2Proof.Machine.execRoli d a k s
  | .shliw d a k => Sys2Proof.Machine.execShliw d a k s
  | .shriw d a k => Sys2Proof.Machine.execShriw d a k s
  | .sariw d a k => Sys2Proof.Machine.execSariw d a k s
  | .lui d v => Sys2Proof.Machine.execLui d v s
  | .ipa d v => Sys2Proof.Machine.execIpa d v s
  | .gaddr d a b => Sys2Proof.Machine.execGaddr d a b s
  | .homeof d a => Sys2Proof.Machine.execHomeof d a s
  | .hops d a b => Sys2Proof.Machine.execHops d a b s
  | .cmp p a b c => Sys2Proof.Machine.execCmp p a b c s
  | .cmpw p a b c => Sys2Proof.Machine.execCmpw p a b c s
  | .cmpi p a c v => Sys2Proof.Machine.execCmpi p a c v s
  | .pand p q e => Sys2Proof.Machine.execPand p q e s
  | .por p q e => Sys2Proof.Machine.execPor p q e s
  | .pxor p q e => Sys2Proof.Machine.execPxor p q e s
  | .pandn p q e => Sys2Proof.Machine.execPandn p q e s
  | .pnot p q => Sys2Proof.Machine.execPnot p q s
  | .p2x d => Sys2Proof.Machine.execP2x d s
  | .x2p a => Sys2Proof.Machine.execX2p a s
  | .sel d a b k => Sys2Proof.Machine.execSel d a b k s
  | .faddS d a b r => Sys2Proof.Machine.execFaddS d a b r s
  | .fsubS d a b r => Sys2Proof.Machine.execFsubS d a b r s
  | .fmulS d a b r => Sys2Proof.Machine.execFmulS d a b r s
  | .ffmaS d a b r => Sys2Proof.Machine.execFfmaS d a b r s
  | .fminS d a b r => Sys2Proof.Machine.execFminS d a b r s
  | .fmaxS d a b r => Sys2Proof.Machine.execFmaxS d a b r s
  | .fabsS d a r => Sys2Proof.Machine.execFabsS d a r s
  | .fnegS d a r => Sys2Proof.Machine.execFnegS d a r s
  | .fdivS d a b r => Sys2Proof.Machine.execFdivS d a b r s
  | .fsqrtS d a r => Sys2Proof.Machine.execFsqrtS d a r s
  | .frsqsS d a r => Sys2Proof.Machine.execFrsqsS d a r s
  | .frcpsS d a r => Sys2Proof.Machine.execFrcpsS d a r s
  | .faddD d a b r => Sys2Proof.Machine.execFaddD d a b r s
  | .fsubD d a b r => Sys2Proof.Machine.execFsubD d a b r s
  | .fmulD d a b r => Sys2Proof.Machine.execFmulD d a b r s
  | .ffmaD d a b r => Sys2Proof.Machine.execFfmaD d a b r s
  | .fminD d a b r => Sys2Proof.Machine.execFminD d a b r s
  | .fmaxD d a b r => Sys2Proof.Machine.execFmaxD d a b r s
  | .fabsD d a r => Sys2Proof.Machine.execFabsD d a r s
  | .fnegD d a r => Sys2Proof.Machine.execFnegD d a r s
  | .fdivD d a b r => Sys2Proof.Machine.execFdivD d a b r s
  | .fsqrtD d a r => Sys2Proof.Machine.execFsqrtD d a r s
  | .frsqsD d a r => Sys2Proof.Machine.execFrsqsD d a r s
  | .frcpsD d a r => Sys2Proof.Machine.execFrcpsD d a r s
  | .fcvtSD d a r => Sys2Proof.Machine.execFcvtSD d a r s
  | .fcvtDS d a r => Sys2Proof.Machine.execFcvtDS d a r s
  | .fcvtSL d a r => Sys2Proof.Machine.execFcvtSL d a r s
  | .fcvtDL d a r => Sys2Proof.Machine.execFcvtDL d a r s
  | .fcvtLS d a r => Sys2Proof.Machine.execFcvtLS d a r s
  | .fcvtLD d a r => Sys2Proof.Machine.execFcvtLD d a r s
  | .fcvtHS d a r => Sys2Proof.Machine.execFcvtHS d a r s
  | .fcvtSH d a r => Sys2Proof.Machine.execFcvtSH d a r s
  | .fcvtBS d a r => Sys2Proof.Machine.execFcvtBS d a r s
  | .fcvtSB d a r => Sys2Proof.Machine.execFcvtSB d a r s
  | .fclassS d a r => Sys2Proof.Machine.execFclassS d a r s
  | .fclassD d a r => Sys2Proof.Machine.execFclassD d a r s
  | .fcmpS p a b c => Sys2Proof.Machine.execFcmpS p a b c s
  | .fcmpD p a b c => Sys2Proof.Machine.execFcmpD p a b c s
  | .ldBz d a v => Sys2Proof.Machine.execLdBz d a v s
  | .ldBs d a v => Sys2Proof.Machine.execLdBs d a v s
  | .ldHz d a v => Sys2Proof.Machine.execLdHz d a v s
  | .ldHs d a v => Sys2Proof.Machine.execLdHs d a v s
  | .ldWz d a v => Sys2Proof.Machine.execLdWz d a v s
  | .ldWs d a v => Sys2Proof.Machine.execLdWs d a v s
  | .ldD d a v => Sys2Proof.Machine.execLdD d a v s
  | .stB d a v => Sys2Proof.Machine.execStB d a v s
  | .stH d a v => Sys2Proof.Machine.execStH d a v s
  | .stW d a v => Sys2Proof.Machine.execStW d a v s
  | .stD d a v => Sys2Proof.Machine.execStD d a v s
  | .ldq d a v => Sys2Proof.Machine.execLdq d a v s
  | .stq d a v => Sys2Proof.Machine.execStq d a v s
  | .ldfW d a v => Sys2Proof.Machine.execLdfW d a v s
  | .ldfD d a v => Sys2Proof.Machine.execLdfD d a v s
  | .ldfeW d a v => Sys2Proof.Machine.execLdfeW d a v s
  | .ldfeD d a v => Sys2Proof.Machine.execLdfeD d a v s
  | .stfW d a v => Sys2Proof.Machine.execStfW d a v s
  | .stfD d a v => Sys2Proof.Machine.execStfD d a v s
  | .stfeW d a v => Sys2Proof.Machine.execStfeW d a v s
  | .stfeD d a v => Sys2Proof.Machine.execStfeD d a v s
  | .fck d a v => Sys2Proof.Machine.execFck d a v s
  | .amoAdd d a b e => Sys2Proof.Machine.execAmoAdd d a b e s
  | .amoAnd d a b e => Sys2Proof.Machine.execAmoAnd d a b e s
  | .amoOr d a b e => Sys2Proof.Machine.execAmoOr d a b e s
  | .amoXor d a b e => Sys2Proof.Machine.execAmoXor d a b e s
  | .amoMin d a b e => Sys2Proof.Machine.execAmoMin d a b e s
  | .amoMax d a b e => Sys2Proof.Machine.execAmoMax d a b e s
  | .amoMinu d a b e => Sys2Proof.Machine.execAmoMinu d a b e s
  | .amoMaxu d a b e => Sys2Proof.Machine.execAmoMaxu d a b e s
  | .amoSwap d a b e => Sys2Proof.Machine.execAmoSwap d a b e s
  | .amoCas d a b e => Sys2Proof.Machine.execAmoCas d a b e s
  | .amoFadd d a b e => Sys2Proof.Machine.execAmoFadd d a b e s
  | .stcW d a v => Sys2Proof.Machine.execStcW d a v s
  | .stcD d a v => Sys2Proof.Machine.execStcD d a v s
  | .redAdd a b e => Sys2Proof.Machine.execRedAdd a b e s
  | .redFadd a b e => Sys2Proof.Machine.execRedFadd a b e s
  | .redMin a b e => Sys2Proof.Machine.execRedMin a b e s
  | .redMax a b e => Sys2Proof.Machine.execRedMax a b e s
  | .redOr a b e => Sys2Proof.Machine.execRedOr a b e s
  | .pf a v => Sys2Proof.Machine.execPf a v s
  | .cwb a v => Sys2Proof.Machine.execCwb a v s
  | .cdis a v => Sys2Proof.Machine.execCdis a v s
  | .cinvI a v => Sys2Proof.Machine.execCinvI a v s
  | .br p e d => Sys2Proof.Machine.execBr p e d s
  | .jmp d => Sys2Proof.Machine.execJmp d s
  | .call d => Sys2Proof.Machine.execCall d s
  | .jr a => Sys2Proof.Machine.execJr a s
  | .callr a => Sys2Proof.Machine.execCallr a s
  | .loop a v => Sys2Proof.Machine.execLoop a v s
  | .go a => Sys2Proof.Machine.execGo a s
  | .gocore a => Sys2Proof.Machine.execGocore a s
  | .meet d a b => Sys2Proof.Machine.execMeet d a b s
  | .xget d n => Sys2Proof.Machine.execXget d n s
  | .partgo a => Sys2Proof.Machine.execPartgo a s
  | .spawn d a b => Sys2Proof.Machine.execSpawn d a b s
  | .alloc d a => Sys2Proof.Machine.execAlloc d a s
  | .fork d a b => Sys2Proof.Machine.execFork d a b s
  | .join a => Sys2Proof.Machine.execJoin a s
  | .wakePark a => Sys2Proof.Machine.execWakePark a s
  | .tsk a b => Sys2Proof.Machine.execTsk a b s
  | .qpush a b => Sys2Proof.Machine.execQpush a b s
  | .qpop d => Sys2Proof.Machine.execQpop d s
  | .qlen d b => Sys2Proof.Machine.execQlen d b s
  | .recv d a => Sys2Proof.Machine.execRecv d a s
  | .mpoll d a => Sys2Proof.Machine.execMpoll d a s
  | .mbind a b => Sys2Proof.Machine.execMbind a b s
  | .bar e n => Sys2Proof.Machine.execBar e n s
  | .barn e n => Sys2Proof.Machine.execBarn e n s
  | .barw a e n => Sys2Proof.Machine.execBarw a e n s
  | .barg a e n => Sys2Proof.Machine.execBarg a e n s
  | .barset a e n => Sys2Proof.Machine.execBarset a e n s
  | .srd f a => Sys2Proof.Machine.execSrd f a s
  | .swr f a => Sys2Proof.Machine.execSwr f a s
  | .trap k => Sys2Proof.Machine.execTrap k s
  | .blk h => Sys2Proof.Machine.execBlk h s
  | .ctxsv a => Sys2Proof.Machine.execCtxsv a s
  | .ctxrs a => Sys2Proof.Machine.execCtxrs a s
  | .cp a b w => Sys2Proof.Machine.execCp a b w s
  | .cpn a b w => Sys2Proof.Machine.execCpn a b w s
  | .cpm a b w => Sys2Proof.Machine.execCpm a b w s
  | .cps a b w => Sys2Proof.Machine.execCps a b w s
  | .cprFp32 a b w => Sys2Proof.Machine.execCprFp32 a b w s
  | .cpsi a b q => Sys2Proof.Machine.execCpsi a b q s
  | .cpso a b q => Sys2Proof.Machine.execCpso a b q s
  | .cpf a b w e => Sys2Proof.Machine.execCpf a b w e s
  | .cpz a w => Sys2Proof.Machine.execCpz a w s
  | .cpc a w => Sys2Proof.Machine.execCpc a w s
  | .cpset b r => Sys2Proof.Machine.execCpset b r s
  | .cpget b r => Sys2Proof.Machine.execCpget b r s
  | .vadd a b w m k => Sys2Proof.Machine.execVadd a b w m k s
  | .vsub a b w m k => Sys2Proof.Machine.execVsub a b w m k s
  | .vmul a b w m k => Sys2Proof.Machine.execVmul a b w m k s
  | .vfma a b w m k => Sys2Proof.Machine.execVfma a b w m k s
  | .vmin a b w m k => Sys2Proof.Machine.execVmin a b w m k s
  | .vmax a b w m k => Sys2Proof.Machine.execVmax a b w m k s
  | .vabs a b w m => Sys2Proof.Machine.execVabs a b w m s
  | .vneg a b w m => Sys2Proof.Machine.execVneg a b w m s
  | .vsqrt a b w m => Sys2Proof.Machine.execVsqrt a b w m s
  | .vexp2 a b w m => Sys2Proof.Machine.execVexp2 a b w m s
  | .vcmp a b w c k => Sys2Proof.Machine.execVcmp a b w c k s
  | .vsel a b w m k => Sys2Proof.Machine.execVsel a b w m k s
  | .vcvt a b w f m => Sys2Proof.Machine.execVcvt a b w f m s
  | .vred a b w => Sys2Proof.Machine.execVred a b w s
  | .vdot a b w k => Sys2Proof.Machine.execVdot a b w k s
  | .vgat a b w m => Sys2Proof.Machine.execVgat a b w m s
  | .vsca a b w m => Sys2Proof.Machine.execVsca a b w m s
  | .vscadd a b w m => Sys2Proof.Machine.execVscadd a b w m s
  | .vrot a b w r => Sys2Proof.Machine.execVrot a b w r s
  | .vquant a b w => Sys2Proof.Machine.execVquant a b w s
  | .vdeq a b w => Sys2Proof.Machine.execVdeq a b w s
  | .vtab b w t => Sys2Proof.Machine.execVtab b w t s
  | .vfix a b w m => Sys2Proof.Machine.execVfix a b w m s
  | .vflt a b w m => Sys2Proof.Machine.execVflt a b w m s
  | .vset b r => Sys2Proof.Machine.execVset b r s
  | .vget b r => Sys2Proof.Machine.execVget b r s
  | .mldb a b w => Sys2Proof.Machine.execMldb a b w s
  | .mmac a b w => Sys2Proof.Machine.execMmac a b w s
  | .mpass w => Sys2Proof.Machine.execMpass w s
  | .mzero a w => Sys2Proof.Machine.execMzero a w s
  | .mdrain a b w c f => Sys2Proof.Machine.execMdrain a b w c f s
  | .mdrainx a w c => Sys2Proof.Machine.execMdrainx a w c s
  | .maddx a w => Sys2Proof.Machine.execMaddx a w s
  | .mset b r => Sys2Proof.Machine.execMset b r s
  | .mget b r => Sys2Proof.Machine.execMget b r s
  | .pool a b w => Sys2Proof.Machine.execPool a b w s
  | .poset b r => Sys2Proof.Machine.execPoset b r s
  | .poget b r => Sys2Proof.Machine.execPoget b r s
  | .binapp a b w => Sys2Proof.Machine.execBinapp a b w s
  | .binplayFp32 a b w => Sys2Proof.Machine.execBinplayFp32 a b w s
  | .binflush w => Sys2Proof.Machine.execBinflush w s
  | .bnset b r => Sys2Proof.Machine.execBnset b r s
  | .bnget b r => Sys2Proof.Machine.execBnget b r s
  | .fenceQ => Sys2Proof.Machine.execFenceQ s
  | .fenceE => Sys2Proof.Machine.execFenceE s
  | .fenceA => Sys2Proof.Machine.execFenceA s
  | .back => Sys2Proof.Machine.execBack s
  | .part => Sys2Proof.Machine.execPart s
  | .quit => Sys2Proof.Machine.execQuit s
  | .yield => Sys2Proof.Machine.execYield s
  | .done => Sys2Proof.Machine.execDone s
  | .abort => Sys2Proof.Machine.execAbort s
  | .rte => Sys2Proof.Machine.execRte s
  | .brk => Sys2Proof.Machine.execBrk s
  | .isync => Sys2Proof.Machine.execIsync s
  | .wakeNotice => Sys2Proof.Machine.execWakeNotice s
  | .wakeCopyResume => Sys2Proof.Machine.execWakeCopyResume s
  | .wakeCopyAbandon => Sys2Proof.Machine.execWakeCopyAbandon s
  | .cprFp64 => Sys2Proof.Machine.execCprFp64 s
  | .cprRaw => Sys2Proof.Machine.execCprRaw s
  | .cprInt64 => Sys2Proof.Machine.execCprInt64 s
  | .binplayAnchored => Sys2Proof.Machine.execBinplayAnchored s
  | .moduleReset => Sys2Proof.Machine.execModuleReset s
  | .laneFailure => Sys2Proof.Machine.execLaneFailure s
  | .linkRetrainingComplete => Sys2Proof.Machine.execLinkRetrainingComplete s
  | .linkTrainingRetry => Sys2Proof.Machine.execLinkTrainingRetry s
  | .lanifyPacketSend => Sys2Proof.Machine.execLanifyPacketSend s
  | .lanifyFlitReceive => Sys2Proof.Machine.execLanifyFlitReceive s
  | .ackTimeout => Sys2Proof.Machine.execAckTimeout s
  | .lanifyAcknowledgement => Sys2Proof.Machine.execLanifyAcknowledgement s
  | .replayRequest => Sys2Proof.Machine.execReplayRequest s
  | .dieTemperatureChange => Sys2Proof.Machine.execDieTemperatureChange s
  | .thermalStepDown => Sys2Proof.Machine.execThermalStepDown s
  | .thermalStepUp => Sys2Proof.Machine.execThermalStepUp s
  | .relockRestart => Sys2Proof.Machine.execRelockRestart s
  | .powerGrant => Sys2Proof.Machine.execPowerGrant s
  | .powerGrantArrival => Sys2Proof.Machine.execPowerGrantArrival s
  | .allowanceExceeded => Sys2Proof.Machine.execAllowanceExceeded s
  | .dramRowRemap => Sys2Proof.Machine.execDramRowRemap s
  | .spareRankBringIn => Sys2Proof.Machine.execSpareRankBringIn s
  | .spareRankCopyDone => Sys2Proof.Machine.execSpareRankCopyDone s
  | .commandPost => Sys2Proof.Machine.execCommandPost s
  | .commandAccept => Sys2Proof.Machine.execCommandAccept s
  | .commandComplete => Sys2Proof.Machine.execCommandComplete s
  | .functionLevelReset => Sys2Proof.Machine.execFunctionLevelReset s
  | .fnstWrite => Sys2Proof.Machine.execFnstWrite s
  | .queryModule => Sys2Proof.Machine.execQueryModule s
  | .queryPartition => Sys2Proof.Machine.execQueryPartition s
  | .partCreate => Sys2Proof.Machine.execPartCreate s
  | .partDestroy => Sys2Proof.Machine.execPartDestroy s
  | .keySet => Sys2Proof.Machine.execKeySet s
  | .imageLoad => Sys2Proof.Machine.execImageLoad s
  | .boot => Sys2Proof.Machine.execBoot s
  | .launch => Sys2Proof.Machine.execLaunch s
  | .launchSeed => Sys2Proof.Machine.execLaunchSeed s
  | .launchComplete => Sys2Proof.Machine.execLaunchComplete s
  | .hostCopy => Sys2Proof.Machine.execHostCopy s
  | .attestQuote => Sys2Proof.Machine.execAttestQuote s
  | .attestChain => Sys2Proof.Machine.execAttestChain s
  | .dump => Sys2Proof.Machine.execDump s
  | .stop => Sys2Proof.Machine.execStop s
  | .stopEdge => Sys2Proof.Machine.execStopEdge s
  | .resume => Sys2Proof.Machine.execResume s
  | .censusCfgOff => Sys2Proof.Machine.execCensusCfgOff s
  | .censusCfgOn => Sys2Proof.Machine.execCensusCfgOn s
  | .censusCfgClear => Sys2Proof.Machine.execCensusCfgClear s
  | .censusCfgRetrain => Sys2Proof.Machine.execCensusCfgRetrain s
  | .powerSet => Sys2Proof.Machine.execPowerSet s
  | .healthReport => Sys2Proof.Machine.execHealthReport s
  | .healthRetrain => Sys2Proof.Machine.execHealthRetrain s
  | .dispatch => Sys2Proof.Machine.execDispatch s
  | .overflowRefill => Sys2Proof.Machine.execOverflowRefill s
  | .stealIdle => Sys2Proof.Machine.execStealIdle s
  | .stealWaitEnd => Sys2Proof.Machine.execStealWaitEnd s
  | .stealProbeArrival => Sys2Proof.Machine.execStealProbeArrival s
  | .stolenTaskRecordArrival => Sys2Proof.Machine.execStolenTaskRecordArrival s
  | .emptyReplyArrival => Sys2Proof.Machine.execEmptyReplyArrival s
  | .periodExpiry => Sys2Proof.Machine.execPeriodExpiry s
  | .accountIncrementArrival => Sys2Proof.Machine.execAccountIncrementArrival s
  | .accountAckArrival => Sys2Proof.Machine.execAccountAckArrival s
  | .accountDecrementArrival => Sys2Proof.Machine.execAccountDecrementArrival s
  | .quitNoticeArrival => Sys2Proof.Machine.execQuitNoticeArrival s
  | .retirementDecrementSend => Sys2Proof.Machine.execRetirementDecrementSend s
  | .commitLogHandoff => Sys2Proof.Machine.execCommitLogHandoff s
  | .commitEntry => Sys2Proof.Machine.execCommitEntry s
  | .commitEnd => Sys2Proof.Machine.execCommitEnd s
  | .seededRecordArrival => Sys2Proof.Machine.execSeededRecordArrival s
  | .forkChildArrival => Sys2Proof.Machine.execForkChildArrival s
  | .taskTokenArrival => Sys2Proof.Machine.execTaskTokenArrival s
  | .spawnTokenArrival => Sys2Proof.Machine.execSpawnTokenArrival s
  | .spawnDeadline => Sys2Proof.Machine.execSpawnDeadline s
  | .spawnReplyArrival => Sys2Proof.Machine.execSpawnReplyArrival s
  | .wakeTokenArrival => Sys2Proof.Machine.execWakeTokenArrival s
  | .storeBufferDrain => Sys2Proof.Machine.execStoreBufferDrain s
  | .loopbackPerform => Sys2Proof.Machine.execLoopbackPerform s
  | .tableWalkComplete => Sys2Proof.Machine.execTableWalkComplete s
  | .tlbinvComplete => Sys2Proof.Machine.execTlbinvComplete s
  | .lmsplitTakeEffect => Sys2Proof.Machine.execLmsplitTakeEffect s
  | .engineCommandStart => Sys2Proof.Machine.execEngineCommandStart s
  | .engineRead => Sys2Proof.Machine.execEngineRead s
  | .engineWritePerform => Sys2Proof.Machine.execEngineWritePerform s
  | .engineCommandComplete => Sys2Proof.Machine.execEngineCommandComplete s
  | .latchTileArrival => Sys2Proof.Machine.execLatchTileArrival s
  | .ringStall => Sys2Proof.Machine.execRingStall s
  | .timerExpiry => Sys2Proof.Machine.execTimerExpiry s
  | .interruptEntry => Sys2Proof.Machine.execInterruptEntry s
  | .noticeArrival => Sys2Proof.Machine.execNoticeArrival s
  | .mailboxRingRefill => Sys2Proof.Machine.execMailboxRingRefill s
  | .contextArrival => Sys2Proof.Machine.execContextArrival s
  | .arrivalQueueRefill => Sys2Proof.Machine.execArrivalQueueRefill s
  | .contextTake => Sys2Proof.Machine.execContextTake s
  | .partyArrival => Sys2Proof.Machine.execPartyArrival s
  | .pairPlacement => Sys2Proof.Machine.execPairPlacement s
  | .meetingDeadline => Sys2Proof.Machine.execMeetingDeadline s
  | .partyReturnArrival => Sys2Proof.Machine.execPartyReturnArrival s
  | .luggageWriteArrival => Sys2Proof.Machine.execLuggageWriteArrival s
  | .dumpWrite => Sys2Proof.Machine.execDumpWrite s
  | .testSlice => Sys2Proof.Machine.execTestSlice s
  | .forcedTestGap => Sys2Proof.Machine.execForcedTestGap s
  | .testSliceComplete => Sys2Proof.Machine.execTestSliceComplete s
  | .censusRecordWrite => Sys2Proof.Machine.execCensusRecordWrite s
  | .sampleRecord => Sys2Proof.Machine.execSampleRecord s
  | .barrierArrivalAtRoot => Sys2Proof.Machine.execBarrierArrivalAtRoot s
  | .barrierReleaseArrival => Sys2Proof.Machine.execBarrierReleaseArrival s
  | .podRelayForward => Sys2Proof.Machine.execPodRelayForward s
  | .barsetRootTake => Sys2Proof.Machine.execBarsetRootTake s
  | .registerWrite => Sys2Proof.Machine.execRegisterWrite s
  | .lmsplitWrite => Sys2Proof.Machine.execLmsplitWrite s
  | .tlbinvPage => Sys2Proof.Machine.execTlbinvPage s
  | .tlbinvAsid => Sys2Proof.Machine.execTlbinvAsid s
  | .tlbinvPartition => Sys2Proof.Machine.execTlbinvPartition s
  | .ptbaseWrite => Sys2Proof.Machine.execPtbaseWrite s
  | .fcsrWrite => Sys2Proof.Machine.execFcsrWrite s
  | .mbstWrite => Sys2Proof.Machine.execMbstWrite s
  | .engineStatusWrite => Sys2Proof.Machine.execEngineStatusWrite s
  | .illegalEncoding => Sys2Proof.Machine.execIllegalEncoding s
  | .luggageWriteAcknowledgement => Sys2Proof.Machine.execLuggageWriteAcknowledgement s
  | .monitorSlotStop => Sys2Proof.Machine.execMonitorSlotStop s
  | .columnCopyComplete => Sys2Proof.Machine.execColumnCopyComplete s
  | .rowCopyComplete => Sys2Proof.Machine.execRowCopyComplete s

end Sys2Proof.Machine
end

