-- ==== Sys2Proof/Machine/Turn.lean ====
section
/-! DEFINITION. The turns of the schedule: a slot's turn with its fetch, signature check and records, the events, the passing of time,
and the order that is followed when no turn is given (R198 to R204, R209, R249, R250, R254, R293, R306, R344; DESIGN CHOICE, log 2). -/
namespace Sys2Proof.Machine

/-! ## Fetch (R203, R204, R293, R344) -/

/-- What the fetch of a word gives. -/
inductive Fetched where
  | word (w : BitVec 32)
  | trap (sub : Nat)
  | fault (cls : Nat)
  | refused (addr : Nat)
  /-- an uncorrectable word, and a sector that fails its tag (R244), with its key -/
  | media (key : Nat)
  | integrity
  /-- a miss that finds the miss queue full (R170, R199 code 9) -/
  | busy
  deriving DecidableEq, Repr

/-- The word at a key. -/
def State.code (s : State) (key : Nat) : BitVec 32 := BitVec.ofNat 32 (s.num key 4)

/-- A word that a read meets sound, or not. -/
def State.codeAt (s : State) (key : Nat) : Fetched :=
  match s.health key 4 with
  | .sound => .word (s.code key)
  | .media => .media key
  | .integrity => .integrity

/-- A line enters an instruction cache of 64 lines; a full one loses a line that the spec does not name (DESIGN CHOICE, log 5). -/
def State.addLine (s : State) (c line : Nat) : State :=
  let o := s.core c
  let ws := (List.range 16).map (fun i => s.code (line * 64 + 4 * i))
  if o.icache.length < 64 then s.modCore c (fun o => { o with icache := o.icache.set line ws })
  else (s.modCore c (fun o => { o with icache := Tbl.set (o.icache.eraseIdx (Config.freeNat s.free % 64)) line ws })).tick

/-- A word of bulk memory through the instruction cache. -/
def State.bulkCode (s : State) (c key : Nat) : State × Fetched :=
  match (s.core c).icache.get (key / 64) with
  | some ws => (s, .word (ws.getD (key % 64 / 4) 0))
  | none =>
    match s.health (key / 64 * 64) 64 with
    | .sound => ((s.countRead (key / 64 * 64) 64).addLine c (key / 64), s.codeAt key)
    | _ => (s, s.codeAt key)

/-- The word at a virtual address, for a thread that stands on a core: code never makes a thread travel. -/
def State.readCode (s : State) (c : Nat) (t : Thread) (meet : Option Meet) (va : Word) : State × Fetched :=
  match s.place c t meet va.toNat 4 .fetch with
  | (s1, .priv k) => (s1, s1.codeAt k)
  | (s1, .quad k) => s1.bulkCode c k
  | (s1, .away _ k) => s1.bulkCode c k
  | (s1, .trap sub) => (s1, .trap sub)
  | (s1, .fault cls) => (s1, .fault cls)
  | (s1, .refused a) => (s1, .refused a)
  | (s1, .busy) => (s1, .busy)
  | (s1, _) => (s1, .trap 1)

/-- A word of a fetch buffer. -/
def bufferWord (l : List (Word × BitVec 32)) (va : Word) : Option (BitVec 32) := (l.find? (fun e => e.1 == va)).map (·.2)

/-- The memory that fetches see. -/
def State.withMem (s from' : State) : State := { s with mem := from'.mem, bad := from'.bad, untagged := from'.untagged }

/-- One word for the buffer: kept when the buffer holds it, read otherwise from memory as it stood; a word that cannot be read is left. -/
def State.bufferOne (s before : State) (c k : Nat) (t : Thread) (old : List (Word × BitVec 32)) (va : Word) :
    State × List (Word × BitVec 32) :=
  match bufferWord old va with
  | some w => (s, [(va, w)])
  | none =>
    match (s.withMem before).readCode c t (s.slot c k).meet va with
    | (s1, .word w) => (s1.withMem s, [(va, w)])
    | (s1, _) => (s1.withMem s, [])

/-- The buffer of a slot made to hold the words at `va` and `va + 4` (R203). -/
def State.refillBuffer (s before : State) (c k : Nat) (t : Thread) (va : Word) : State :=
  let old := (s.slot c k).fetch
  let (s1, a) := s.bufferOne before c k t old va
  let (s2, b) := s1.bufferOne before c k t old (va + 4)
  s2.modSlot c k (fun l => { l with fetch := a ++ b })

/-! ## Signatures (R249, R250) -/

/-- The immediate bits of a word, by its major (R249, R301). -/
def maskBits (major : Nat) : Nat :=
  if [0x05, 0x06, 0x07, 0x08, 0x21].contains major then 18
  else if major = 0x09 then 12
  else if major = 0x0A || major = 0x0B then 22
  else if [0x0E, 0x14, 0x15, 0x16, 0x17, 0x19, 0x1B].contains major then 14
  else if major = 0x1D then 21
  else if major = 0x1E || major = 0x1F then 26
  else if [0x1C, 0x27, 0x28, 0x29, 0x2A].contains major then 8
  else 0

/-- The masked word of an instruction. -/
def maskWord (w : BitVec 32) : Nat :=
  let n := maskBits (w.toNat / 2 ^ 26)
  w.toNat / 2 ^ n * 2 ^ n

/-- The hash of a block after one more masked word. -/
def sigStep (h masked : Nat) : Nat := ((h * 32 + h / 2 ^ 11) % 2 ^ 16) ^^^ (masked / 2 ^ 16) ^^^ (masked % 2 ^ 16)

/-- The instructions at which an open block is compared. -/
def State.closesBlock (s : State) (t : Thread) (i : Instr) : Bool :=
  match i with
  | .quit => true
  | .done => true
  | .abort => true
  | .rte => true
  | .go _ => true
  | .gocore _ => true
  | .back => true
  | .meet _ _ _ => true
  | .part => true
  | .partgo _ => true
  | .yield => (s.yieldFrame t).isSome
  | _ => false

/-- A word that fails check 7 of R306 for a thread, or names no special register: it traps before it counts for a block. -/
def denied (t : Thread) (i : Instr) : Bool :=
  let user := !t.ctx.status.sup
  match i with
  | .rte => user
  | .ctxsv _ => user
  | .ctxrs _ => user
  | .barset _ sc _ => user && decide (2 ≤ scopeOf sc)
  | .srd f _ => match sregAccess f.toNat with
    | none => true
    | some (r, _) => user && r.needsSup
  | .swr f _ => match sregAccess f.toNat with
    | none => true
    | some (_, w) => user && w.needsSup
  | _ => false

/-- The checker's state with which an instruction issues, and whether the block it closes matches. -/
def State.sigFor (s : State) (t : Thread) (sig : Word) (i : Instr) (w : BitVec 32) : Word × Bool :=
  match i with
  | .blk _ => (sig, true)
  | _ =>
    if !sigVal sig || denied t i then (sig, true)
    else
      let acc := sigStep (sigAcc sig) (maskWord w)
      if s.closesBlock t i then (clearVal (sigWord true (sigExp sig) acc), acc == sigExp sig)
      else (sigWord true (sigExp sig) acc, true)

/-! ## Issuing a word -/

/-- The instruction that issues in state `p` takes a control transfer, whatever its target (R254, R339 to R342). -/
def State.transfers (p : State) (t : Thread) (i : Instr) : Bool :=
  let ready := fun (a : Reg) => operandsReady (p.core p.cur.1) t.tid [a] [] == .yes
  match i with
  | .jmp _ => true
  | .call _ => true
  | .jr a => ready a && (p.X a).toNat % 4 == 0
  | .callr a => ready a && (p.X a).toNat % 4 == 0
  | .br q r _ => p.P q != (r == 1)
  | .loop a _ => !isStream a && p.X a - 1 != 0
  | _ => false

/-- The state in which a word issues: the slot in its turn, the word in issue, the checker's state, and the word in the buffer. -/
def State.prepared (s : State) (c k : Nat) (ip : Word) (w : BitVec 32) (sig : Word) : State :=
  { s.modSlot c k (fun l =>
      { l with
        sigst := sig
        fetch := match bufferWord l.fetch ip with
          | some _ => l.fetch
          | none => l.fetch ++ [(ip, w)] }) with
    cur := (c, k), ir := w }

/-- The instruction has been issued: counted, and sampled or traced (R254). -/
def State.countIssue (s : State) (c k : Nat) (ip : Word) (jumps : Bool) : State :=
  let s1 := s.modCore c (fun o =>
    let n := o.issued + 1
    let mode := bits o.smpc 57 56
    let due := if mode = 1 then n % samplePeriod o.smpc == 0
      else if mode = 2 then jumps
      else false
    { o with issued := n, samples := if due then o.samples ++ [(ip, k, mode - 1)] else o.samples })
  if (s1.core c).samples.isEmpty then s1 else s1.writeSamples c

/-- An instruction left in a park from which it issues again has taken no step; one of which a piece has performed, or whose thread has
still to quit, has. -/
def Slot.issuesAgain (l : Slot) (t : Thread) : Bool :=
  match l.thread, l.park with
  | some t2, some (.step _) => t2.tid == t.tid && t2.ctx.ip == t.ctx.ip && l.carried.isNone
  | _, _ => false

/-- After the meaning of a word: an instruction that issues again keeps its checker's state and its buffer; otherwise the buffer is made
to hold the two words that the slot issues next. -/
def State.afterIssue (s before : State) (c k : Nat) (t : Thread) (sig : Word) (i : Option Instr) : State :=
  let l := s.slot c k
  if l.issuesAgain t then s.modSlot c k (fun l => { l with sigst := sig })
  else
    let jumps := (i.map (before.transfers t)).getD false
    match l.thread with
    | none => s.countIssue c k t.ctx.ip jumps
    | some t2 =>
      let waits := (l.park.isSome || l.carried.isSome) && t2.ctx.ip == t.ctx.ip
      let next := if waits then t2.ctx.ip + 4 else t2.ctx.ip
      (s.refillBuffer before c k t2 next).countIssue c k t.ctx.ip jumps

/-- The same for an outcome. -/
def Outcome.after (o : Outcome) (f : State → State) : Outcome :=
  match o with
  | .next s => .next (f s)
  | .fault r => .fault r
  | .refused r => .refused r

/-- A word issues in slot `k` of core `c`: a word that fails a check of R306 is ILLEGAL_ENCODING, a block that does not match its
signature traps with cause 9 before any effect, and any other word is run. -/
def State.issueWord (s : State) (c k : Nat) (t : Thread) (w : BitVec 32) : Outcome :=
  let sig := (s.slot c k).sigst
  match decodeWord w with
  | .error _ =>
    let p := s.prepared c k t.ctx.ip w sig
    Outcome.after (exec .illegalEncoding p) (fun s1 => s1.afterIssue p c k t sig none)
  | .ok i =>
    let (sig1, good) := s.sigFor t sig i w
    let p := s.prepared c k t.ctx.ip w sig1
    if !good then
      .next ((p.trap 9 0 (sigAddr (sigExp sig) (sigAcc sig1))).afterIssue p c k t sig none)
    else Outcome.after (exec i p) (fun s1 => s1.afterIssue p c k t sig (some i))

/-- The word at a thread's ip: from the slot's buffer, or read in this turn. -/
def State.fetchFor (s : State) (c k : Nat) (t : Thread) : State × Fetched :=
  match bufferWord (s.slot c k).fetch t.ctx.ip with
  | some w => (s, .word w)
  | none => s.readCode c t (s.slot c k).meet t.ctx.ip

/-- The thread of a slot issues. -/
def State.issueThread (s : State) (c k : Nat) (t : Thread) : Outcome :=
  let ip := t.ctx.ip
  match s.fetchFor c k t with
  | (s1, .word w) => s1.issueWord c k t w
  | (s1, .trap sub) => .next ({ s1 with cur := (c, k) }.trap 4 sub ip)
  | (s1, .fault cls) => .next ({ s1 with cur := (c, k) }.pageFault ip cls AccKind.fetch.code)
  | (s1, .refused a) => .next ({ s1 with cur := (c, k) }.refuse (BitVec.ofNat 64 a))
  | (s1, .media key) => .next (s1.loseCore (coreOfKey key))
  | (s1, .integrity) => .next (s1.integrityError c k)
  | (s1, .busy) => .next ({ s1 with cur := (c, k) }.again 9)

/-! ## A slot's turn (R198, R199, R209) -/

/-- What an arrived context carries, or what a slot has still to do, goes on; `none` when there is nothing. -/
def State.goOn (s : State) (c k : Nat) (t : Thread) : Carried → State
  | .access a => s.resumeAccess c k a
  | .fork d n va took => s.forkAt c k t d n.toNat va [] took
  | .quit => s.quitWhen c k
  | .luggage _ _ => s
  | .moved _ _ => s
  | .yield _ =>
    match s.yieldFrame t with
    | some (i, st) => s.yieldAt c k t i st
    | none => (s.modSlot c k (fun l => { l with carried := none })).advanceAt c k

/-- An empty slot takes work (R209 row 4): the reserved party, then a context, then dispatch. -/
def State.takeWork (s : State) (c k : Nat) : State :=
  if (s.slot c k).reserved.isSome || !(s.core c).arrivals.isEmpty then s.contextTake c k else s.dispatchTurn c k

/-- A thread's turn in a slot that is not parked, or whose instruction issues again. -/
def State.threadTurn (s : State) (c k : Nat) (t : Thread) : Outcome :=
  match (s.slot c k).carried with
  | some x => .next ({ s with cur := (c, k) }.goOn c k t x)
  | none => s.issueThread c k t

/-- The slot with its park ended, so that its instruction issues again. -/
def State.unpark (s : State) (c k : Nat) : State := s.modSlot c k (fun l => { l with park := none })

/-- The turn of a slot that takes no interrupt. A wait for a barrier that a `ctxrs` has restored is evaluated afresh (R236, R377). -/
def State.plainTurn (s : State) (c k : Nat) : Outcome :=
  let l := s.slot c k
  match l.thread with
  | none => .next (s.takeWork c k)
  | some t =>
    if l.busy ≠ 0 then .next (s.modSlot c k (fun l => { l with busy := l.busy - 1 }))
    else
      match l.park with
      | none => s.threadTurn c k t
      | some (.step _) => (s.unpark c k).threadTurn c k t
      | some (.ctxsv va) => .next (s.finishSave c k va.toNat)
      | some (.fault va cls kind) => .next (s.parkThread c k va cls kind)
      | some (.barrier scope n g srcs) => .next (if s.barGen c scope n = g then s else (s.takeAt c k srcs).advanceAt c k)
      | some _ => .next s

/-- The rest of an access of which a piece has performed follows before anything else that the slot does (R173). -/
def State.mend (s : State) (c k : Nat) : State :=
  if !(s.slot c k).torn then s
  else
    let s1 := { s.modSlot c k (fun l => { l with torn := false }) with cur := (c, k) }
    match (s.slot c k).thread, (s.slot c k).carried with
    | some t, some x => s1.goOn c k t x
    | _, _ => s1

/-- The turn of a slot while `ctxsv` runs in another: an instruction that has begun finishes, and nothing issues (R234). -/
def State.finishTurn (s : State) (c k : Nat) : State :=
  (s.mend c k).modSlot c k (fun l => { l with busy := l.busy - 1 })

/-- A core that its partition's stop holds still ends the `ctxsv` that runs in one of its slots (R257). -/
def State.savesOn (s : State) (c : Nat) : Bool :=
  (s.core c).switching.isSome && !(s.core c).lost && !s.relocking (moduleOf c) (dieOf c)

/-- The turn of a slot of a core that is held: where `ctxsv` runs, it goes on, and an instruction that has begun in another slot
finishes. -/
def State.heldTurn (s : State) (c k : Nat) : State :=
  if !s.savesOn c then s
  else if (s.core c).switching == some k then
    match (s.slot c k).park with
    | some (.ctxsv va) => s.finishSave c k va.toNat
    | _ => s
  else s.finishTurn c k

/-- A met party that has been rolled back and has had to wait leaves when the conditions of step 8 hold (R179, R219). -/
def State.rolledTurn (s : State) (c k : Nat) : Option State :=
  match (s.slot c k).meet with
  | some m => if m.rolled then some (s.rollBack m.quad m.entry) else none
  | none => none

/-- Slot `k` of core `c` has its turn, after what comes first in the core's cycle (R209). -/
def State.slotTurn (s : State) (c k : Nat) : Outcome :=
  if s.coreHalted c then .next (s.heldTurn c k)
  else if !s.turnOf c k then .next s
  else
    let s1 := (s.cycleStart c).tookTurn c
    if !s.hasTurn c k then .next (s1.finishTurn c k)
    else
      let s2 := s1.mend c k
      match s2.rolledTurn c k with
      | some s3 => .next s3
      | none =>
      if (s2.mayInterrupt c k).isSome then .next ({ s2 with cur := (c, k) }.enterInterrupt c k)
      else s2.plainTurn c k

/-! ## Time (R70, R72, R138, R147, R238) -/

/-- The tick at which `ref` of a module reaches a number of nanoseconds. -/
def State.tickOf (s : State) (m ns : Nat) : Nat := (s.module m).resetAt + (ns + 9) / 10 * 72

/-- The ticks of the stop edges that wait to be latched. -/
def State.edgeTicks (s : State) : List Nat :=
  s.modules.flatMap (fun m => m.2.parts.filterMap (fun p => p.2.edge.map (s.tickOf m.1)))

/-- The ticks at which relocks end. -/
def State.relockTicks (s : State) : List Nat := s.modules.flatMap (fun m => m.2.dies.filterMap (fun d => d.2.relock.map (·.2)))

/-- A party that has not been placed. -/
def CloakEntry.unplaced (e : CloakEntry) : Bool := match e.state with
  | .placed _ _ _ _ => false
  | _ => true

/-- A quad's cloakroom lets deadlines act: its partition is not stopped, and its die does not relock (R71, R238). -/
def State.deadlinesRun (s : State) (q : Nat) : Bool := !s.frozen (coreOfQuad q 0) && !s.relocking (q / 2 ^ 14) (dieOf (coreOfQuad q 0))

/-- The ticks of the deadlines of parties that have not been placed. -/
def State.deadlineTicks (s : State) : List Nat :=
  s.quads.flatMap (fun q => q.2.cloak.filterMap (fun e =>
    if e.2.unplaced && s.deadlinesRun q.1 then some (s.tickOf (q.1 / 2 ^ 14) e.2.party.deadline) else none))

/-- The next tick beyond which no time passes before an event that is due then: a stop edge (R238), the end of a relock (R70), a meeting's
deadline (R71, R215). -/
def State.timeLimit (s : State) : Option Nat :=
  (s.edgeTicks ++ s.relockTicks ++ s.deadlineTicks).foldl (fun b t => match b with
    | none => some t
    | some x => some (min x t)) none

/-- A seat's period counter after some cycles. -/
def Seat.count (st : Seat) (n : Nat) : Seat :=
  if st.finishing || !st.image.isSplit || st.prdl = BitVec.allOnes 64 then st else { st with prdl := BitVec.ofNat 64 (st.prdl.toNat - n) }

/-- A core after some of its cycles: the idle count goes on while its queue is empty and a slot is free, in a running partition, and begins
again when that fails; a thief's wait goes on beside it (R147). -/
def Core.pass (o : Core) (n : Nat) (runs : Bool) : Core :=
  let installed := o.ctxid != 0
  let o1 :=
    { o with
      cycle := o.cycle + n
      seats := if installed then o.seats.map (fun (i, (st : Seat)) => (i, if st.state = 1 then st.count n else st)) else o.seats
      yielded := if installed then o.yielded.map (fun (i, (st : Seat)) => (i, st.count n)) else o.yielded }
  if !runs then o1
  else
    { o1 with
      idleFor := if o.queueEmpty && o.freeSlot false then o.idleFor + n else 0
      waited := if o.steal == .waiting then o.waited + n else o.waited }

/-- `n` ticks pass, or as many as `timeLimit` leaves. -/
def State.passTime (s : State) (n : Nat) : State :=
  let later := match s.timeLimit with
    | none => s.now + n
    | some t => max s.now (min t (s.now + n))
  let s1 := { s with now := later }
  { s1 with cores := s.cores.map (fun e =>
      let m := moduleOf e.1
      let d := dieOf e.1
      if s.coreHalted e.1 then e else (e.1, e.2.pass (s1.cycOf m d - s.cycOf m d) (!isHead e.1 && s.runs e.1))) }

/-! ## Turns -/

/-- A row of the opcode table that is an event, not a word. -/
def isEventRow (i : Instr) : Bool :=
  (encode i).isNone &&
    !([.wakeNotice, .wakeCopyResume, .wakeCopyAbandon, .cprFp64, .cprRaw, .cprInt64, .binplayAnchored] : List Instr).contains i

/-- One turn. -/
def State.turn (s : State) : Turn → Outcome
  | .issue c k => s.slotTurn c k
  | .event i a => if isEventRow i then exec i { s with args := a } else .next s
  | .clock n => .next (s.passTime n)
  | .hostWrite m fn off v =>
    .next (if off < 2 ^ 16 then s.windowWrite m fn off v else s.vectorWrite m fn ((off - 2 ^ 16) / 8) v)

/-! ## The order that is followed when no turn is given (DESIGN CHOICE, log 2) -/

/-- The event of a traveller's arrival. -/
def Payload.row (s : State) (t : Traveller) : Instr :=
  match t.load with
  | .context _ _ _ => .contextArrival
  | .faulted _ _ _ _ => .contextArrival
  | .party _ => .partyArrival
  | .partyReturn _ _ _ => .partyReturnArrival
  | .luggageWrite _ _ _ _ => .luggageWriteArrival
  | .luggageAck _ => .luggageWriteAcknowledgement
  | .notice _ _ _ => .noticeArrival
  | .increment _ _ _ _ => .accountIncrementArrival
  | .incAck _ => .accountAckArrival
  | .decrement _ => .accountDecrementArrival
  | .quit _ _ => .quitNoticeArrival
  | .wake _ _ => .wakeTokenArrival
  | .wakeCopy _ _ => .wakeTokenArrival
  | .spawn _ _ _ _ _ _ _ _ => .spawnTokenArrival
  | .spawnReply _ _ _ _ => .spawnReplyArrival
  | .probe => .stealProbeArrival
  | .stolen _ => .stolenTaskRecordArrival
  | .emptyReply => .emptyReplyArrival
  | .seeded _ => .seededRecordArrival
  | .forkChild _ => .forkChildArrival
  | .task _ _ _ _ _ => .taskTokenArrival
  | .push _ _ => .taskTokenArrival
  | .barArrive scope _ p _ =>
    if scope = 4 && s.podRoot (moduleOf t.dst) p ≠ moduleOf t.dst then .podRelayForward else .barrierArrivalAtRoot
  | .barRelease _ _ _ _ => if moduleOf t.src ≠ moduleOf t.dst then .podRelayForward else .barrierReleaseArrival
  | .barSet scope _ p _ _ =>
    if scope = 4 && s.podRoot (moduleOf t.dst) p ≠ moduleOf t.dst then .podRelayForward else .barsetRootTake
  | .copyData _ _ => .engineWritePerform
  | .copyRead _ => .engineRead
  | .commitItem _ _ _ => .engineWritePerform
  | .poolAsk _ _ => .engineRead
  | .poolShare _ _ => .engineRead
  | .poolPart _ _ => .engineRead
  | .poolSum _ _ _ _ _ _ => .engineRead
  | .binAsk _ _ _ _ => .engineRead
  | .binTaken _ _ _ _ _ => .engineRead
  | .hostMove _ => .hostCopy
  | .bell _ _ => .stopEdge
  | .census _ _ => .censusRecordWrite
  | .latch _ => .latchTileArrival
  | .grant _ _ => .powerGrantArrival

/-- An event that is due, and before which no time passes: a stop edge, the end of a relock, a deadline. -/
def State.dueTurn (s : State) : Option Turn :=
  let edge := s.modules.findSome? (fun m => m.2.parts.findSome? (fun p =>
    p.2.edge.bind (fun t => if t ≤ s.refNs m.1 then some (.event .stopEdge { m := m.1, part := p.1 }) else none)))
  let relock := s.modules.findSome? (fun m => m.2.dies.findSome? (fun d =>
    d.2.relock.bind (fun r => if r.2 ≤ s.now then some (.event .relockRestart { m := m.1, die := d.1 }) else none)))
  let deadline := s.quads.findSome? (fun q => q.2.cloak.findSome? (fun e =>
    if e.2.unplaced && s.expired q.1 e.2.party.deadline then some (.event .meetingDeadline { quad := q.1, entry := e.1 }) else none))
  edge <|> relock <|> deadline

/-- The first traveller that may arrive. -/
def State.arrivalTurn (s : State) : Option Turn :=
  (List.range s.net.length).findSome? (fun i => (s.arriving i).map (fun t =>
    .event (Payload.row s t) { n := i, k := 1, c := t.dst, m := moduleOf t.dst }))

/-- A packet for the first traveller that waits at the edge of a link that takes packets, a copy's descriptor before its data. -/
def State.packetTurn (s : State) : Option Turn :=
  s.net.findSome? (fun t =>
    if t.link.isSome then none
    else (s.nextLink t).bind (fun l =>
      let m := moduleOf t.stands
      let opens := (t.copyId.map (fun id => ((s.link m l).tx.streamOf id).isNone)).getD false
      if s.linkHeld m l then none else some (.event .lanifyPacketSend { m, link := l, cls := if opens then 2 else t.vc })))

/-- The first direction of a link, at the end that a side names, that a test accepts. -/
def State.linkWith (s : State) (side : LinkSide) (f : LinkDir → Bool) : Option (Nat × Nat) :=
  s.modules.findSome? (fun m => m.2.links.findSome? (fun l => if f (l.2.side side) then some (m.1, l.1) else none))

/-- An event at the far end of the first such direction. -/
def State.farTurn (s : State) (side : LinkSide) (f : LinkDir → Bool) (i : Instr) : Option Turn :=
  (s.linkWith side f).bind (fun x => (s.farEnd x.1 x.2).map (fun y => .event i { m := y.1, link := y.2 }))

/-- What the links do next. -/
def State.linkTurn (s : State) (r : Nat) : Option Turn :=
  if r = 0 then s.packetTurn
  else if r = 1 then s.farTurn .tx (fun d => !d.wire.isEmpty) .lanifyFlitReceive
  else if r = 2 then s.farTurn .rx (fun d => !d.acks.isEmpty) .lanifyAcknowledgement
  else if r = 3 then s.farTurn .rx (fun d => !d.requests.isEmpty) .replayRequest
  else (s.linkWith .rx (fun d => d.ackDue s.now || d.requestDue s.now)).map (fun x => .event .ackTimeout { m := x.1, link := x.2 })

/-- What core `c` does next beside its slots: its buffers, its engines, its queues and its tasks. -/
def State.coreTurn (s : State) (c r : Nat) : Option Turn :=
  let o := s.core c
  let cmd := o.cmds.find? (fun d => d.started && d.fault.isNone)
  let id := (cmd.map (·.id)).getD 0
  let seat := ((o.seats.find? (fun e => e.2.state == 2 || e.2.retiring)).map (·.1)).getD 0
  let st := o.seat seat
  let idx := (((st.memLog.map (·.1)).filter (fun i => !st.away.contains i) ++ (st.cmdLog.map (·.1))).foldl (fun (b : Option Nat) i => match b with
    | none => some i
    | some j => some (min i j)) none).getD 0
  let miss := if isHead c then none else (s.quad (quadOf c)).misses.head?
  match r with
  | 0 => some (.event .storeBufferDrain { c })
  | 1 => some (.event .loopbackPerform { c })
  | 2 => some (.event .engineCommandStart { c, engine := ((o.cmds.find? (fun d => !d.started)).map (·.engine)).getD .copy })
  | 3 => some (.event .engineRead { c, id, pos := (cmd.map Cmd.readTotal).getD 0, len := 64 })
  | 4 => some (.event .engineWritePerform { c, id })
  | 5 => some (.event .engineCommandComplete { c, id })
  | 6 => some (.event .overflowRefill { c })
  | 7 => some (.event .retirementDecrementSend { c, seat })
  | 8 => some (.event .commitLogHandoff { c, seat })
  | 9 => some (.event .commitEntry { c, seat, idx })
  | 10 => some (.event .commitEnd { c, seat })
  | 11 => some (.event .arrivalQueueRefill { c })
  | _ => miss.map (fun x => .event .tableWalkComplete { c := x.1, va := BitVec.ofNat 64 (x.2.1 * 2 ^ 16), fetch := x.2.2 })

/-- The turn that is taken when none is given: what is due comes first; then every core has one cycle, an arrival, one of the links' acts and
one act of each core beside its slots follow, and a cycle of time passes. -/
def State.autoTurn (s : State) : Turn :=
  match s.dueTurn with
  | some t => t
  | none =>
    let n := s.cores.length
    let period := 2 * n + 3
    let round := s.rotor / period
    let r := s.rotor % period
    let core := fun (i : Nat) => ((s.cores[i]?).map (·.1)).getD 0
    let slot := fun (c : Nat) => if s.coreHalted c then (((s.core c).switching).getD 0 + round) % 8 else (s.core c).cycle % 8
    if r < n then .issue (core r) (slot (core r))
    else if r < 2 * n then (s.coreTurn (core (r - n)) (round % 13)).getD (.clock 0)
    else if r = 2 * n then s.arrivalTurn.getD (.clock 0)
    else if r = 2 * n + 1 then (s.linkTurn (round % 5)).getD (.clock 0)
    else .clock 3

/-- One step: the next turn of the schedule, or the one that the rotation gives. -/
def State.advance (s : State) : Outcome :=
  match s.sched with
  | t :: rest => { s with sched := rest }.turn t
  | [] => { s with rotor := s.rotor + 1 }.turn s.autoTurn

/-! ## Placing an instruction (DESIGN CHOICE, log 7) -/

/-- The thread for which an instruction is placed: at supervisor level, at *here* offset 0 of core 0. -/
def placedThread : Thread := { ctx := { status := { sup := true } } }

/-- A core in the cycle in which slot 0 has its turn, and in which nothing keeps it from issuing. -/
def Core.atTurn (o : Core) : Core := { o with cycle := (o.cycle + 7) / 8 * 8, lastTurn := none, switching := none }

/-- The state with a four-byte instruction placed at the ip of slot 0 of core 0, whose turn comes next. -/
def State.placeWord (s : State) (w : Nat) : State :=
  let s1 := { s with mem := Memory.writeList s.mem (localKey 0 0) (toBytes w 4), sched := [.issue 0 0] }
  (s1.modCore 0 Core.atTurn).modSlot 0 0 (fun _ => { thread := some placedThread })

end Sys2Proof.Machine
end

