-- ==== Sys2Proof/Safety.lean ====
section
/-! DEFINITION. The terms in which claims are stated: a running thread, operands that are general registers, and the state in which an
instruction has completed. -/
namespace Sys2Proof.Machine

/-- Thread `t` stands in the slot that has its turn. -/
def State.Runs (s : State) (t : Thread) : Prop := s.running.thread = some t

/-- No field of the list names a stream register (R296). -/
def plain (l : List Reg) : Bool := l.all (fun f => !isStream f)

/-- A context past its instruction. -/
def Ctx.past (x : Ctx) : Ctx := { x with ip := x.ip + 4 }

/-- `s` with context `x` for its running thread `t`, in a slot that is not parked; everything else is as in `s`. -/
def State.went (s : State) (t : Thread) (x : Ctx) : State :=
  s.modRunning (fun l => { l with park := none, thread := some { t with ctx := x } })

/-! ## The ten formats (R294) -/

/-- A word of format FA, from its fields. -/
def wordFA (major fn : Nat) (d a b : Reg) (m : Nat) : Nat :=
  major * 2 ^ 26 + fn * 2 ^ 6 + d.toNat * 2 ^ 22 + a.toNat * 2 ^ 18 + b.toNat * 2 ^ 14 + m * 2 ^ 0

/-- A word of format FI. -/
def wordFI (major : Nat) (d a : Reg) (i : BitVec 18) : Nat :=
  major * 2 ^ 26 + d.toNat * 2 ^ 22 + a.toNat * 2 ^ 18 + i.toNat * 2 ^ 0

/-- A word of major 0x09 (R302). -/
def wordShift (fn : Nat) (d a : Reg) (k : Nat) : Nat :=
  0x09 * 2 ^ 26 + fn * 2 ^ 12 + d.toNat * 2 ^ 22 + a.toNat * 2 ^ 18 + k * 2 ^ 0

/-- A word of format FU. -/
def wordFU (major : Nat) (d : Reg) (i : BitVec 22) : Nat := major * 2 ^ 26 + d.toNat * 2 ^ 22 + i.toNat * 2 ^ 0

/-- A word of format FM. -/
def wordFM (major fn : Nat) (d a : Reg) (i : BitVec 14) : Nat :=
  major * 2 ^ 26 + fn * 2 ^ 14 + d.toNat * 2 ^ 22 + a.toNat * 2 ^ 18 + i.toNat * 2 ^ 0

/-- A word of format FP. -/
def wordFP (major fn : Nat) (p a b c : BitVec 4) : Nat :=
  major * 2 ^ 26 + fn * 2 ^ 0 + p.toNat * 2 ^ 22 + a.toNat * 2 ^ 18 + b.toNat * 2 ^ 14 + c.toNat * 2 ^ 10

/-- A word of format FQ. -/
def wordFQ (major : Nat) (p a c : BitVec 4) (i : BitVec 14) : Nat :=
  major * 2 ^ 26 + p.toNat * 2 ^ 22 + a.toNat * 2 ^ 18 + c.toNat * 2 ^ 14 + i.toNat * 2 ^ 0

/-- A word of format FB. -/
def wordFB (major : Nat) (p : BitVec 4) (s : BitVec 1) (d : BitVec 21) : Nat :=
  major * 2 ^ 26 + p.toNat * 2 ^ 22 + s.toNat * 2 ^ 21 + d.toNat * 2 ^ 0

/-- A word of format FJ. -/
def wordFJ (major : Nat) (d : BitVec 26) : Nat := major * 2 ^ 26 + d.toNat * 2 ^ 0

/-- A word of format FS, with the fields a, b and imm8. -/
def wordFS (major fn a b i : Nat) : Nat := major * 2 ^ 26 + fn * 2 ^ 16 + a * 2 ^ 12 + b * 2 ^ 8 + i * 2 ^ 0

/-- A word of format FC, with the wait bit and the rest of the engine field. -/
def wordFC (major e : Nat) (a b : Reg) (w : Nat) (ef : Nat) : Nat :=
  major * 2 ^ 26 + e * 2 ^ 12 + a.toNat * 2 ^ 22 + b.toNat * 2 ^ 18 + w * 2 ^ 11 + ef * 2 ^ 0

/-! ## Tables of the spec, with its own formulas -/

/-- A row of a table of instructions with the register fields d, a and b: the function code, the instruction, and its result from u = X(a)
and v = X(b). -/
structure Op2 where
  fn : Nat
  instr : Reg → Reg → Reg → Instr
  result : Word → Word → Word

/-- A row of a table of instructions with the register fields d and a. -/
structure Op1 where
  fn : Nat
  instr : Reg → Reg → Instr
  result : Word → Word

/-- Bits [31:0] of a word, and a 32-bit value sign-extended. -/
def lower (u : Word) : BitVec 32 := u.extractLsb' 0 32
def widen (u : BitVec 32) : Word := u.signExtend 64

/-- The table of R317, but for `lsa`. -/
def table01 : List Op2 :=
  [ ⟨0, .add, fun u v => u + v⟩,
    ⟨1, .sub, fun u v => u - v⟩,
    ⟨2, .and, fun u v => u &&& v⟩,
    ⟨3, .or, fun u v => u ||| v⟩,
    ⟨4, .xor, fun u v => u ^^^ v⟩,
    ⟨5, .andn, fun u v => u &&& ~~~v⟩,
    ⟨6, .orn, fun u v => u ||| ~~~v⟩,
    ⟨7, .shl, fun u v => u <<< (v.toNat % 64)⟩,
    ⟨8, .shr, fun u v => u >>> (v.toNat % 64)⟩,
    ⟨9, .sar, fun u v => u.sshiftRight (v.toNat % 64)⟩,
    ⟨10, .rol, fun u v => u <<< (v.toNat % 64) ||| u >>> (64 - v.toNat % 64)⟩,
    ⟨11, .ror, fun u v => u >>> (v.toNat % 64) ||| u <<< (64 - v.toNat % 64)⟩,
    ⟨12, .min, fun u v => if u.toInt ≤ v.toInt then u else v⟩,
    ⟨13, .max, fun u v => if u.toInt ≤ v.toInt then v else u⟩,
    ⟨14, .minu, fun u v => if u.toNat ≤ v.toNat then u else v⟩,
    ⟨15, .maxu, fun u v => if u.toNat ≤ v.toNat then v else u⟩ ]

/-- The table of R318. -/
def table02 : List Op2 :=
  [ ⟨0, .addw, fun u v => widen (lower u + lower v)⟩,
    ⟨1, .subw, fun u v => widen (lower u - lower v)⟩,
    ⟨2, .shlw, fun u v => widen (lower u <<< (v.toNat % 32))⟩,
    ⟨3, .shrw, fun u v => widen (lower u >>> (v.toNat % 32))⟩,
    ⟨4, .sarw, fun u v => widen ((lower u).sshiftRight (v.toNat % 32))⟩ ]

/-- The one-turn functions of R319. -/
def table03 : List Op2 :=
  [ ⟨0, .mul, fun u v => BitVec.ofNat 64 (u.toNat * v.toNat)⟩,
    ⟨1, .mulh, fun u v => BitVec.ofInt 64 (u.toInt * v.toInt / 2 ^ 64)⟩,
    ⟨2, .mulhu, fun u v => BitVec.ofNat 64 (u.toNat * v.toNat / 2 ^ 64)⟩,
    ⟨3, .mulw, fun u v => widen (BitVec.ofNat 32 ((lower u).toNat * (lower v).toNat))⟩ ]

/-- `quo` and `rem` of R319 for signed operands of a width, in the pseudocode's order. -/
def quoS {w : Nat} (n q : BitVec w) : BitVec w :=
  if q = 0 then BitVec.allOnes w
  else if n = BitVec.intMin w ∧ q = BitVec.allOnes w then n
  else BitVec.ofInt w (n.toInt.tdiv q.toInt)
def remainderS {w : Nat} (n q : BitVec w) : BitVec w :=
  if q = 0 then n
  else if n = BitVec.intMin w ∧ q = BitVec.allOnes w then 0
  else BitVec.ofInt w (n.toInt - q.toInt * n.toInt.tdiv q.toInt)

/-- The eight-turn functions of R319. -/
def tableDivide : List Op2 :=
  [ ⟨4, .div, quoS⟩,
    ⟨5, .divu, fun u v => if v = 0 then BitVec.allOnes 64 else BitVec.ofNat 64 (u.toNat / v.toNat)⟩,
    ⟨6, .rem, remainderS⟩,
    ⟨7, .remu, fun u v => if v = 0 then u else BitVec.ofNat 64 (u.toNat - v.toNat * (u.toNat / v.toNat))⟩,
    ⟨8, .divw, fun u v => widen (quoS (lower u) (lower v))⟩,
    ⟨9, .remw, fun u v => widen (remainderS (lower u) (lower v))⟩ ]

/-! ### Bit operations (R320) -/

/-- Position and length of a field. -/
def positionOf (v : Word) : Nat := (v.extractLsb' 0 6).toNat
def lengthOf (v : Word) : Nat := (v.extractLsb' 8 6).toNat

/-- A row of R320 whose result is given bit by bit: bit i of the result, from X(d), X(a) and X(b). -/
structure OpBits where
  fn : Nat
  instr : Reg → Reg → Reg → Instr
  bit : Word → Word → Word → Nat → Bool

/-- The extensions of R320. -/
def table04 : List Op1 :=
  [ ⟨5, .sxb, fun u => (u.extractLsb' 0 8).signExtend 64⟩,
    ⟨6, .sxh, fun u => (u.extractLsb' 0 16).signExtend 64⟩,
    ⟨7, .sxw, fun u => (u.extractLsb' 0 32).signExtend 64⟩,
    ⟨8, .zxb, fun u => (u.extractLsb' 0 8).zeroExtend 64⟩,
    ⟨9, .zxh, fun u => (u.extractLsb' 0 16).zeroExtend 64⟩,
    ⟨10, .zxw, fun u => (u.extractLsb' 0 32).zeroExtend 64⟩ ]

/-- The functions of R320 that move bits, without a field b: `brev` moves bit i to bit 63 − i and `bswap` byte i to byte 7 − i. -/
def tableMoves : List OpBits :=
  [ ⟨3, fun d a _ => .brev d a, fun _ u _ i => u.getLsbD (63 - i)⟩,
    ⟨4, fun d a _ => .bswap d a, fun _ u _ i => u.getLsbD ((7 - i / 8) * 8 + i % 8)⟩ ]

/-- The field functions of R320: `bfx` and `bfxs` read bits above bit 63 as 0, and `bfi` drops them. -/
def tableFields : List OpBits :=
  [ ⟨11, .bfx, fun _ u v i => decide (i < lengthOf v) && u.getLsbD (positionOf v + i)⟩,
    ⟨12, .bfxs, fun _ u v i => decide (lengthOf v ≠ 0) && u.getLsbD (positionOf v + min i (lengthOf v - 1))⟩,
    ⟨13, .bfi, fun w u v i =>
      if positionOf v ≤ i ∧ i < positionOf v + lengthOf v then u.getLsbD (i - positionOf v) else w.getLsbD i⟩ ]

/-- A row of R320 whose result is a count. -/
structure OpCount where
  fn : Nat
  instr : Reg → Reg → Instr
  counts : Word → Nat → Prop

/-- `clz`, `ctz` and `popc`: leading zeros, trailing zeros, and ones. -/
def tableCount : List OpCount :=
  [ ⟨0, .clz, fun u n => n ≤ 64 ∧ (∀ i < n, u.getLsbD (63 - i) = false) ∧ (n < 64 → u.getLsbD (63 - n) = true)⟩,
    ⟨1, .ctz, fun u n => n ≤ 64 ∧ (∀ i < n, u.getLsbD i = false) ∧ (n < 64 → u.getLsbD n = true)⟩,
    ⟨2, .popc, fun u n => n = ((List.range 64).filter (fun i => u.getLsbD i)).length⟩ ]

/-! ### Immediate forms (R321, R322) -/

/-- A row of a table of instructions with an immediate. -/
structure OpI where
  major : Nat
  instr : Reg → Reg → BitVec 18 → Instr
  result : Word → Word → Word

/-- R321: X(a) op sext(imm18). -/
def tableImm : List OpI :=
  [ ⟨0x05, .addi, fun u v => u + v⟩, ⟨0x06, .andi, fun u v => u &&& v⟩, ⟨0x07, .ori, fun u v => u ||| v⟩,
    ⟨0x08, .xori, fun u v => u ^^^ v⟩ ]

/-- A row of the table of R322, with a shift amount of n bits. -/
structure OpS (n : Nat) where
  fn : Nat
  instr : Reg → Reg → BitVec n → Instr
  result : Word → Nat → Word

def tableShift : List (OpS 6) :=
  [ ⟨0, .shli, fun u k => u <<< k⟩, ⟨1, .shri, fun u k => u >>> k⟩, ⟨2, .sari, fun u k => u.sshiftRight k⟩,
    ⟨3, .roli, fun u k => u <<< k ||| u >>> (64 - k)⟩ ]
def tableShiftW : List (OpS 5) :=
  [ ⟨4, .shliw, fun u k => widen (lower u <<< k)⟩, ⟨5, .shriw, fun u k => widen (lower u >>> k)⟩,
    ⟨6, .sariw, fun u k => widen ((lower u).sshiftRight k)⟩ ]

/-! ### Conditions (R299) -/

/-- The integer conditions, by cc, on operands of any width. -/
def tableCond {n : Nat} : List (BitVec 4 × (BitVec n → BitVec n → Bool)) :=
  [ (0, fun a b => a == b), (1, fun a b => a != b),
    (2, fun a b => decide (a.toInt < b.toInt)), (3, fun a b => decide (b.toInt ≤ a.toInt)),
    (4, fun a b => decide (a.toNat < b.toNat)), (5, fun a b => decide (b.toNat ≤ a.toNat)),
    (6, fun a b => decide (a.toInt ≤ b.toInt)), (7, fun a b => decide (b.toInt < a.toInt)),
    (8, fun a b => decide (a.toNat ≤ b.toNat)), (9, fun a b => decide (b.toNat < a.toNat)),
    (10, fun a b => (a &&& b) != 0), (11, fun a b => (a &&& b) == 0) ]

/-! ### Predicate operations (R326) -/

/-- A row of R326 with the predicate fields pd, pa and pb. -/
structure OpP where
  fn : Nat
  instr : Pred → Pred → Pred → Instr
  result : Bool → Bool → Bool

def tablePred : List OpP :=
  [ ⟨0, .pand, fun u v => u && v⟩, ⟨1, .por, fun u v => u || v⟩, ⟨2, .pxor, fun u v => xor u v⟩, ⟨3, .pandn, fun u v => u && !v⟩ ]

/-! ### Floating point (R327, R328) -/

/-- The bits of a register that hold a datum of 32, or of 64, bits (R297). -/
def singleOf (w : Word) : Nat := w.toNat % 2 ^ 32
def doubleOf (w : Word) : Nat := w.toNat

/-- A context with a floating result in d, past its instruction, and with the flags of the operation in `fcsr` (R270). -/
def Ctx.float (x : Ctx) (d : Reg) (r : Nat × Nat) : Ctx := ((x.put d (BitVec.ofNat 64 r.1)).past).raise r.2

/-- A row of R327 with fields d, a, b: the function code, the two forms, the operation, and whether it takes 3 and 6 turns. -/
structure OpF2 where
  fn : Nat
  single : Reg → Reg → Reg → BitVec 3 → Instr
  double : Reg → Reg → Reg → BitVec 3 → Instr
  op : Fmt → Rnd → Nat → Nat → Nat × Nat

def tableF2 : List OpF2 :=
  [ ⟨0, .faddS, .faddD, fun f => f.fadd⟩, ⟨1, .fsubS, .fsubD, fun f => f.fsub⟩, ⟨2, .fmulS, .fmulD, fun f => f.fmul⟩,
    ⟨4, .fminS, .fminD, fun f _ => f.fmin⟩, ⟨5, .fmaxS, .fmaxD, fun f _ => f.fmax⟩ ]

/-- A row of R327 with fields d and a. -/
structure OpF1 where
  fn : Nat
  single : Reg → Reg → BitVec 3 → Instr
  double : Reg → Reg → BitVec 3 → Instr
  op : Fmt → Rnd → Nat → Nat × Nat

def tableF1 : List OpF1 :=
  [ ⟨6, .fabsS, .fabsD, fun f _ => f.fabs⟩, ⟨7, .fnegS, .fnegD, fun f _ => f.fneg⟩, ⟨10, .frsqsS, .frsqsD, fun f _ => f.frsqs⟩,
    ⟨11, .frcpsS, .frcpsD, fun f _ => f.frcps⟩ ]

/-- A row of R328: the function code, the instruction, the bits that it reads, and the bits that it writes with its flags. -/
structure OpConv where
  fn : Nat
  instr : Reg → Reg → BitVec 3 → Instr
  op : Rnd → Word → Word × Nat

/-- A floating result as a register holds it. -/
def floatWord (r : Nat × Nat) : Word × Nat := (BitVec.ofNat 64 r.1, r.2)

def tableConv : List OpConv :=
  [ ⟨0, .fcvtSD, fun m u => floatWord (fcvt fp64 fp32 m (doubleOf u))⟩,
    ⟨1, .fcvtDS, fun m u => floatWord (fcvt fp32 fp64 m (singleOf u))⟩,
    ⟨2, .fcvtSL, fun m u => floatWord (fp32.ofInt m u.toInt)⟩,
    ⟨3, .fcvtDL, fun m u => floatWord (fp64.ofInt m u.toInt)⟩,
    ⟨4, .fcvtLS, fun m u => (BitVec.ofInt 64 (fp32.toInt64 m (singleOf u)).1, (fp32.toInt64 m (singleOf u)).2)⟩,
    ⟨5, .fcvtLD, fun m u => (BitVec.ofInt 64 (fp64.toInt64 m (doubleOf u)).1, (fp64.toInt64 m (doubleOf u)).2)⟩,
    ⟨6, .fcvtHS, fun m u => floatWord (fcvt fp32 fp16 m (singleOf u))⟩,
    ⟨7, .fcvtSH, fun m u => floatWord (fcvt fp16 fp32 m (u.toNat % 2 ^ 16))⟩,
    ⟨8, .fcvtBS, fun m u => floatWord (fcvt fp32 bf16 m (singleOf u))⟩,
    ⟨9, .fcvtSB, fun m u => floatWord (fcvt bf16 fp32 m (u.toNat % 2 ^ 16))⟩,
    ⟨10, .fclassS, fun _ u => (BitVec.ofNat 64 (fp32.fclass (singleOf u)), 0)⟩,
    ⟨11, .fclassD, fun _ u => (BitVec.ofNat 64 (fp64.fclass (doubleOf u)), 0)⟩ ]

/-- The floating conditions of R299, by cc: the condition, and whether it raises `nv`. -/
def tableFCond (f : Fmt) (a b : Nat) : List (BitVec 4 × Bool × Bool) :=
  let x := f.decode a
  let y := f.decode b
  let any := x.isNan || y.isNan
  let signalling := x.isSnan || y.isSnan
  [ (0, x.eq y, signalling), (1, !x.eq y, signalling), (2, x.lt y, any), (3, x.lt y || x.eq y, any), (4, y.lt x, any),
    (5, y.lt x || x.eq y, any), (6, any, signalling), (7, !any, signalling) ]

/-! ## Accesses to private local memory (R157, R159 step 1, R315) -/

/-- Thread `t` runs on the core where it was born, or at supervisor level, outside split tasks and meetings; its slot carries no access,
and no rest of one. -/
structure State.Resides (s : State) (t : Thread) : Prop where
  runs : s.Runs t
  fresh : s.running.carried = none
  whole : s.running.torn = false
  core : activeCore s.here = true
  resident : t.bounded s.here = false
  plainTask : t.ctx.status.spl = false
  unmet : t.ctx.status.met = false

/-- [va, va + n) lies in the private portion of the running core, and its home shows no media error. -/
structure State.Private (s : State) (va : Word) (n : Nat) : Prop where
  inside : va.toNat + n ≤ s.privSize s.here
  sound : s.hasBad (localKey s.here va.toNat) n = false

/-- The bytes of an access at `va` below the aligned 32-byte boundary that follows `va` (R173). -/
def roomAt (va : Word) : Nat := 32 - va.toNat % 32

/-- The home of a private byte of the running core. -/
def State.homeKey (s : State) (va : Word) : Nat := localKey s.here va.toNat

/-- The effective address of a memory instruction (R315). -/
def Ctx.address (x : Ctx) (a : Reg) (i : BitVec 14) : Word := x.get a + i.signExtend 64

/-- A row of R330. -/
structure LoadRow where
  fn : Nat
  instr : Reg → Reg → BitVec 14 → Instr
  size : Nat
  signed : Bool

def tableLoad : List LoadRow :=
  [ ⟨0, .ldBz, 1, false⟩, ⟨1, .ldBs, 1, true⟩, ⟨2, .ldHz, 2, false⟩, ⟨3, .ldHs, 2, true⟩, ⟨4, .ldWz, 4, false⟩,
    ⟨5, .ldWs, 4, true⟩, ⟨6, .ldD, 8, false⟩ ]

/-- The extension of an n-byte number. -/
def extended (n : Nat) (signed : Bool) (v : Nat) : Word :=
  if signed then (BitVec.ofNat (8 * n) v).signExtend 64 else BitVec.ofNat 64 v

/-- A row of a table of stores: the function code, the instruction, and the bytes that it stores. -/
structure StoreRow where
  major : Nat
  fn : Nat
  instr : Reg → Reg → BitVec 14 → Instr
  size : Nat
  align : Nat

/-- The stores of R331, and the committed stores of R335, which outside a split task are stores of their size, naturally aligned. -/
def tableStore : List StoreRow :=
  [ ⟨0x15, 0, .stB, 1, 1⟩, ⟨0x15, 1, .stH, 2, 1⟩, ⟨0x15, 2, .stW, 4, 1⟩, ⟨0x15, 3, .stD, 8, 1⟩,
    ⟨0x19, 0, .stcW, 4, 4⟩, ⟨0x19, 1, .stcD, 8, 8⟩ ]

/-- A row of R333 that reads a word or doubleword, and whether it empties it. -/
structure FullRow where
  fn : Nat
  instr : Reg → Reg → BitVec 14 → Instr
  size : Nat
  act : Bool

def tableFullLoad : List FullRow :=
  [ ⟨0, .ldfW, 4, false⟩, ⟨1, .ldfD, 8, false⟩, ⟨2, .ldfeW, 4, true⟩, ⟨3, .ldfeD, 8, true⟩ ]

/-- The stores of R333, and whether they wait until their words are empty. -/
def tableFullStore : List FullRow :=
  [ ⟨4, .stfW, 4, false⟩, ⟨5, .stfD, 8, false⟩, ⟨6, .stfeW, 4, true⟩, ⟨7, .stfeD, 8, true⟩ ]

/-- A row of R334 or R336: the new value of an n-byte datum from the old value and the operand, and whether an old word is
zero-extended into d. -/
structure AmoRow where
  fn : Nat
  instr : Reg → Reg → Reg → BitVec 1 → Instr
  new : Nat → Nat → Nat → Nat
  zero : Bool

/-- The signed value of an n-byte number. -/
def signedOf (n v : Nat) : Int := if v < 2 ^ (8 * n - 1) then v else v - 2 ^ (8 * n)

/-- The sum of R334 in fp32 or fp64. -/
def floatSum (n old v : Nat) : Nat := (if n = 4 then fp32.fadd .rne old v else fp64.fadd .rne old v).1

def tableAmo : List AmoRow :=
  [ ⟨0, .amoAdd, fun n old v => (old + v) % 2 ^ (8 * n), false⟩,
    ⟨1, .amoAnd, fun _ old v => old &&& v, false⟩,
    ⟨2, .amoOr, fun _ old v => old ||| v, false⟩,
    ⟨3, .amoXor, fun _ old v => old ^^^ v, false⟩,
    ⟨4, .amoMin, fun n old v => if signedOf n old ≤ signedOf n v then old else v, false⟩,
    ⟨5, .amoMax, fun n old v => if signedOf n v ≤ signedOf n old then old else v, false⟩,
    ⟨6, .amoMinu, fun _ old v => min old v, true⟩,
    ⟨7, .amoMaxu, fun _ old v => max old v, true⟩,
    ⟨8, .amoSwap, fun _ _ v => v, false⟩,
    ⟨10, .amoFadd, floatSum, true⟩ ]

/-- R336: the field d is 0. -/
def tableRed : List AmoRow :=
  [ ⟨0, fun _ => .redAdd, fun n old v => (old + v) % 2 ^ (8 * n), false⟩,
    ⟨1, fun _ => .redFadd, floatSum, false⟩,
    ⟨2, fun _ => .redMin, fun n old v => if signedOf n old ≤ signedOf n v then old else v, false⟩,
    ⟨3, fun _ => .redMax, fun n old v => if signedOf n v ≤ signedOf n old then old else v, false⟩,
    ⟨4, fun _ => .redOr, fun _ old v => old ||| v, false⟩ ]

/-- The size of an atomic by its m field: 4 or 8. -/
def amoSize (m : BitVec 1) : Nat := if m = 0 then 4 else 8

/-- The old value as d receives it (R334). -/
def oldWord (zero : Bool) (n old : Nat) : Word :=
  if n = 8 ∨ zero then BitVec.ofNat 64 old else (BitVec.ofNat 32 old).signExtend 64

/-! ## Full/empty accesses (R175, R176, R333) -/

/-- No access waits on a word near a key. -/
def State.Unwatched (s : State) (key : Nat) : Prop := s.waiters key = []

/-! ## Control, travel and the ends of threads -/

/-- A context at an address. -/
def Ctx.goTo (x : Ctx) (ip : Word) : Ctx := { x with ip }

/-- The running thread `t` past its instruction, on its way to core `dst`, which operand `va` named, on VC0 (R211); its slot is empty. -/
def State.onWay (s : State) (t : Thread) (dst : Nat) (va : Word) : State :=
  (s.emptySlot s.here s.slotNo).send
    { src := s.here, dst, vc := 0, tag := s.tagOf s.here, part := s.partTag s.here,
      load := .context { t with ctx := t.ctx.past, origin := s.here } (some (.moved va [])) none }

/-- No stream of any core is bound to a thread id. -/
def State.Unbound (s : State) (tid : BitVec 32) : Prop := ∀ e ∈ s.cores, ∀ b ∈ e.2.streams, b.tid ≠ tid

/-- The running slot parked in an event (R199); everything else is as in `s`. -/
def State.waitsIn (s : State) (p : Park) : State := s.modRunning (fun l => { l with park := some p })

/-- A user-level thread that is not met runs where traps are taken in place: the core has a handler (R226, R227). -/
structure State.Traps (s : State) (t : Thread) : Prop where
  runs : s.Runs t
  user : t.ctx.status.sup = false
  unmet : s.running.meet = none
  handler : (s.core s.here).ivec ≠ 0

/-- TAKING A TRAP, register by register (R210, R225, R226): cause and sub-code, address, the address to which `rte` returns; ip takes
`ivec` without its low two bits (DESIGN CHOICE, log 104). -/
def State.trapped (s : State) (t : Thread) (cause sub : Nat) (addr eip : Word) : State :=
  s.modRunning (fun l =>
    { l with
      eip := eip
      ecause := BitVec.ofNat 64 (sub % 256 * 256 + cause % 16)
      eaddr := addr
      estat := BitVec.ofNat 64 (t.ctx.p.toNat * 2 ^ 48 + t.ctx.status.toWord.toNat % 2 ^ 16)
      park := none
      carried := none
      sigst := l.sigst &&& ~~~((1 : Word) <<< 32)
      thread := some { t with ctx :=
        { t.ctx with ip := ipOf (s.core s.here).ivec, status := { t.ctx.status with sup := true } } } })

/-- A thread of no split task that is not met may do what the table of fates (R349) bars both from. -/
structure State.Free (s : State) (t : Thread) : Prop where
  runs : s.Runs t
  plainTask : t.ctx.status.spl = false
  unmet : t.ctx.status.met = false

/-- Where the running thread goes when its operand `va` names core `c` (R211, R350): on at once when it stands there; away when step 8 allows;
otherwise it waits in event 15. -/
def State.travels (s : State) (t : Thread) (c : Nat) (va : Word) : State :=
  if c = s.here then s.went t t.ctx.past else if s.mayDepart then s.onWay t c va else s.waitsIn (.step 15)

/-- The end of the running thread (R132, R355): its slot empties, and a quit notice goes to its seat. -/
def State.quits (s : State) (t : Thread) : State :=
  match t.task with
  | none => s.emptySlot s.here s.slotNo
  | some i =>
    (s.emptySlot s.here s.slotNo).send
      { src := s.here, dst := i.seatCore, vc := 2, tag := s.tagOf s.here, part := s.partTag s.here, load := .quit i.seat t.tid }

/-- A priority of the running core's queue takes an entry at its tail without a spill (R125). -/
def State.Roomy (s : State) (p : Nat) : Prop := ((s.core s.here).ring p).records = 0 ∧ (s.core s.here).queueCount < 64

/-- No notice of the running core stands in a ring. -/
def State.RinglessMail (s : State) : Prop := ∀ n < 16, ((s.core s.here).mailbox n).ringCount = 0

/-! ## Special registers (R309) -/

/-- A field of the task of a thread; 0 outside every task. -/
def Thread.ofTask (t : Thread) (f : TaskInfo → Word) : Word := (t.task.map f).getD 0

/-- Rows of R309: the register's index, whether only the supervisor reads it, and the value that `srd` gives a thread on its core. -/
def tableSreg : List (BitVec 10 × Bool × (State → Thread → Word)) :=
  [ (0x000, false, fun s _ => s.cyc s.here), (0x002, false, fun s _ => s.ref s.here),
    (0x003, false, fun s _ => BitVec.ofNat 64 s.here), (0x004, false, fun _ t => BitVec.ofNat 64 t.birth),
    (0x005, false, fun _ t => t.tid.zeroExtend 64), (0x006, false, fun s _ => BitVec.ofNat 64 s.slotNo),
    (0x010, false, fun _ t => t.ofTask (·.task)), (0x011, false, fun _ t => t.ofTask (·.dom0)),
    (0x012, false, fun _ t => t.ofTask (·.dom1)), (0x013, false, fun _ t => t.ofTask (·.dom2)),
    (0x014, false, fun _ t => t.ofTask (·.budget)),
    (0x015, false, fun s t => (t.task.map (fun i => (s.seatOf i).prdl)).getD (BitVec.allOnes 64)),
    (0x016, false, fun _ t => t.ofTask (·.launch)), (0x018, false, fun _ t => t.ctx.fmta), (0x019, false, fun _ t => t.ctx.fmtb),
    (0x020, false, fun s _ => s.running.mdl), (0x023, false, fun _ _ => 1024), (0x024, false, fun _ _ => 0x40402020),
    (0x031, false, fun s _ => if isHead s.here then 0 else (s.core s.here).qgroup), (0x032, false, fun s _ => (s.core s.here).win0),
    (0x033, false, fun s _ => (s.core s.here).win1), (0x034, false, fun s _ => (s.core s.here).spool),
    (0x035, false, fun s _ => (s.core s.here).qovf), (0x036, false, fun s _ => (s.core s.here).mbovf),
    (0x037, false, fun s _ => (s.core s.here).mbie), (0x038, false, fun s _ => (s.core s.here).tcmp),
    (0x040, true, fun s _ => s.running.eip), (0x041, true, fun s _ => s.running.ecause), (0x042, true, fun s _ => s.running.eaddr),
    (0x043, true, fun s _ => s.running.estat), (0x044, true, fun s _ => s.running.es0), (0x045, true, fun s _ => s.running.es1),
    (0x046, false, fun s _ => (s.core s.here).ivec), (0x047, false, fun s _ => (s.core s.here).ivslot),
    (0x048, false, fun s _ => (s.core s.here).upv), (0x050, false, fun _ t => t.ctx.status.fcs.zeroExtend 64),
    (0x058, false, fun s _ => s.running.sigst), (0x060, true, fun s _ => (s.core s.here).asid),
    (0x061, true, fun s _ => (s.core s.here).ptbase), (0x062, true, fun _ _ => 0), (0x063, false, fun s _ => (s.core s.here).dumpa),
    (0x064, false, fun s _ => (s.core s.here).smpc), (0x066, false, fun s _ => (s.core s.here).dbgh),
    (0x070, false, fun s _ => (s.core s.here).ctxid.zeroExtend 64) ]

/-- Rows of R309 of which `swr` stores the writable bits in the core: the register's index, whether only the supervisor writes it, its
writable bits, and the core with the register stored. -/
def tableSwr : List (BitVec 10 × Bool × Word × (Core → Word → Core)) :=
  [ (0x032, false, 0x1FFFFFFFF, fun o v => { o with win0 := v }), (0x033, false, 0x1FFFFFFFF, fun o v => { o with win1 := v }),
    (0x034, true, 0xFFFFFFFF, fun o v => { o with spool := v }), (0x035, true, 0xFFFFFFFF0001, fun o v => { o with qovf := v }),
    (0x036, true, 0xFFFFFFFF8001, fun o v => { o with mbovf := v }), (0x037, false, 0xFFFF, fun o v => { o with mbie := v }),
    (0x038, true, 0xFFFFFFFFFFFFFFFF, fun o v => { o with tcmp := v }),
    (0x046, true, 0xFFFFFFFFFFFFFFFF, fun o v => { o with ivec := v }), (0x047, true, 0x1FF, fun o v => { o with ivslot := v }),
    (0x048, true, 0xF001, fun o v => { o with upv := v }), (0x060, true, 0xFFF, fun o v => { o with asid := v }),
    (0x063, true, 0xFFFFFFFC0001, fun o v => { o with dumpa := v }), (0x066, true, 0xFF, fun o v => { o with dbgh := v }) ]

/-- The same for the registers of a slot. -/
def tableSwrSlot : List (BitVec 10 × Bool × Word × (Slot → Word → Slot)) :=
  [ (0x020, false, 0xFFFFFFFFFFFFFFFF, fun l v => { l with mdl := v }), (0x040, true, 0xFFFFFFFFFFFFFFFF, fun l v => { l with eip := v }),
    (0x043, true, 0xFFFF00000001FFFF, fun l v => { l with estat := v }), (0x044, true, 0xFFFFFFFFFFFFFFFF, fun l v => { l with es0 := v }),
    (0x045, true, 0xFFFFFFFFFFFFFFFF, fun l v => { l with es1 := v }), (0x058, true, 0x1FFFFFFFF, fun l v => { l with sigst := v }) ]

/-- Registers that no `swr` writes (R309): a supervisor's write is ignored. -/
def readOnlySregs : List (BitVec 10) :=
  [0x000, 0x002, 0x003, 0x004, 0x005, 0x006, 0x010, 0x011, 0x012, 0x013, 0x014, 0x015, 0x016, 0x018, 0x019, 0x021, 0x022, 0x023, 0x024,
   0x041, 0x042, 0x070]

/-! ## Engine registers and commands -/

/-- The two configuration words of a register file (R303). -/
structure FileRow where
  file : EngineFile
  set : Reg → BitVec 6 → Instr
  get : Reg → BitVec 6 → Instr

def tableFile : List FileRow :=
  [ ⟨.copy, .cpset, .cpget⟩, ⟨.vector, .vset, .vget⟩, ⟨.matrix, .mset, .mget⟩, ⟨.pool, .poset, .poget⟩, ⟨.bin, .bnset, .bnget⟩ ]

/-- A command word with the fields a, b and w: its function, its engine field ef[10:0], and whether it reads X(a) and X(b). -/
structure CmdRow where
  instr : Reg → Reg → BitVec 1 → Instr
  op : CmdOp
  ef : Nat := 0
  readsA : Bool := true
  readsB : Bool := true

/-- The commands of the copy engine, but for `cpc` and the streams. -/
def tableCopy : List CmdRow :=
  [ ⟨.cp, .cp, 0, true, true⟩, ⟨.cpn, .cpn, 0, true, true⟩, ⟨.cpm, .cpm, 0, true, true⟩, ⟨.cps, .cps, 0, true, true⟩,
    ⟨.cprFp32, .cpr, 0, true, true⟩, ⟨fun a b w => .cpf a b w 0, .cpf, 0, true, true⟩, ⟨fun a b w => .cpf a b w 1, .cpf, 1, true, true⟩,
    ⟨fun a _ w => .cpz a w, .cpz, 0, true, false⟩ ]

/-- The commands of the vector engine, with `vm` m and scalar flag k where they have them. -/
def tableVector (m k : BitVec 1) (c f : BitVec 4) (r : BitVec 2) : List CmdRow :=
  let mk := m.toNat * 2 + k.toNat
  [ ⟨fun a b w => .vadd a b w m k, .vadd, mk, true, true⟩, ⟨fun a b w => .vsub a b w m k, .vsub, mk, true, true⟩,
    ⟨fun a b w => .vmul a b w m k, .vmul, mk, true, true⟩, ⟨fun a b w => .vfma a b w m k, .vfma, mk, true, true⟩,
    ⟨fun a b w => .vmin a b w m k, .vmin, mk, true, true⟩, ⟨fun a b w => .vmax a b w m k, .vmax, mk, true, true⟩,
    ⟨fun a b w => .vabs a b w m, .vabs, m.toNat * 2, true, true⟩, ⟨fun a b w => .vneg a b w m, .vneg, m.toNat * 2, true, true⟩,
    ⟨fun a b w => .vsqrt a b w m, .vsqrt, m.toNat * 2, true, true⟩, ⟨fun a b w => .vexp2 a b w m, .vexp2, m.toNat * 2, true, true⟩,
    ⟨fun a b w => .vcmp a b w c k, .vcmp, c.toNat * 16 + k.toNat, true, true⟩, ⟨fun a b w => .vsel a b w m k, .vsel, mk, true, true⟩,
    ⟨fun a b w => .vcvt a b w f m, .vcvt, f.toNat * 16 + m.toNat * 2, true, true⟩, ⟨.vred, .vred, 0, true, true⟩,
    ⟨fun a b w => .vdot a b w k, .vdot, k.toNat, true, true⟩, ⟨fun a b w => .vgat a b w m, .vgat, m.toNat * 2, true, true⟩,
    ⟨fun a b w => .vsca a b w m, .vsca, m.toNat * 2, true, true⟩, ⟨fun a b w => .vscadd a b w m, .vscadd, m.toNat * 2, true, true⟩,
    ⟨fun a b w => .vrot a b w r, .vrot, r.toNat * 16, true, true⟩, ⟨.vquant, .vquant, 0, true, true⟩, ⟨.vdeq, .vdeq, 0, true, true⟩,
    ⟨fun _ b w => .vtab b w m, .vtab, m.toNat * 16, false, true⟩, ⟨fun a b w => .vfix a b w m, .vfix, m.toNat * 2, true, true⟩,
    ⟨fun a b w => .vflt a b w m, .vflt, m.toNat * 2, true, true⟩ ]

/-- The commands of the matrix engine, with clear bit c and format f of the drains. -/
def tableMatrix (c : BitVec 1) (f : BitVec 2) : List CmdRow :=
  [ ⟨.mldb, .mldb, 0, true, true⟩, ⟨.mmac, .mmac, 0, true, true⟩, ⟨fun _ _ w => .mpass w, .mpass, 0, false, false⟩,
    ⟨fun a _ w => .mzero a w, .mzero, 0, true, false⟩,
    ⟨fun a b w => .mdrain a b w c f, .mdrain, c.toNat * 64 + f.toNat * 16, true, true⟩,
    ⟨fun a _ w => .mdrainx a w c, .mdrainx, c.toNat * 64, true, false⟩, ⟨fun a _ w => .maddx a w, .maddx, 0, true, false⟩ ]

/-- Pooling and binning. -/
def tablePoolBin : List CmdRow :=
  [ ⟨.pool, .pool, 0, true, true⟩, ⟨.binapp, .binapp, 0, true, true⟩, ⟨.binplayFp32, .binplay, 0, true, true⟩,
    ⟨fun _ _ w => .binflush w, .binflush, 0, false, false⟩ ]

/-- The command that a word submits: its operands, and the registers of its file as they stand in the issuing turn. -/
def State.asked (s : State) (t : Thread) (op : CmdOp) (ef : Nat) (xa xb : Word) (w : BitVec 1) (regs : List Word) : Cmd :=
  { id := 0, engine := op.engineOf, op, ef, xa, xb, regs, wait := w == 1, slot := s.slotNo, tid := t.tid, ip := t.ctx.ip,
    tag := s.tagOf s.here, user := !t.ctx.status.sup }

/-- The running thread may submit the command that it asks for as `d0`: with the header that it names it is `d`, in state `s1`, which
differs from `s` by what the header's translation installs; and every check of R379 passes. -/
structure State.Accepts (s s1 : State) (t : Thread) (d0 d : Cmd) : Prop where
  free : s.Free t
  drained : s.drained = true
  room : (s.core s.here).queued d0.engine < 2
  header : s.withHeader t d0 = (s1, d, true)
  turn : s1.cur = s.cur
  runs : s1.Runs t
  awake : s1.coreHalted s.here = false
  good : s1.acceptError s.here t d true = 0
  clean : (s1.core s.here).err d.op.file = 0
  resident : t.bounded s.here = false

/-- The state after the acceptance of a command: it stands last in the core's commands under the next id; a copy of a launch's thread is
counted by an increment that the slot waits for (R142); the thread goes on, or waits in event 5. -/
def State.accepted (s : State) (t : Thread) (d : Cmd) : State :=
  let launch := if d.op.counted then (t.task.map (·.launch)).getD 0 else 0
  let s1 := s.modCore s.here (fun o =>
    { o with cmdCount := o.cmdCount + 1, cmds := o.cmds ++ [{ d with id := s.nextId s.here, launch }] })
  let s2 := if launch.toNat % 2 ^ 32 = 0 then s1 else s1.increment s.here (launch.toNat % 2 ^ 32) 1 true (some d.tid) [.copy]
  if d.wait then s2.waitsIn (.engine (s.nextId s.here)) else s2.went t t.ctx.past

/-! ## Page faults (R228, R229) -/

/-- The state after the page fault of the running thread: record `n` of the park area at `base` holds its context, its id, the address, the
class and kind of the access, and its task's id; its slot is empty, its task counts it as parked, and the kind-7 notice to mb15 of its own
core is on its way. -/
def State.parks (s : State) (t : Thread) (va : Word) (cls kind base n : Nat) : State :=
  let record := bytesOf (t.ctx.words ++ [t.tid.zeroExtend 64, va, BitVec.ofNat 64 (cls + kind * 16), (t.task.map (·.task)).getD 0] ++
    List.replicate 12 0)
  let u := ((s.putBytes (localKey s.here (base + 256 * n)) record).emptySlot s.here s.slotNo).modCore s.here (fun o =>
    { o with parkUsed := o.parkUsed ++ [n], parked := o.parked.set n t })
  let v := match t.task with
    | none => u
    | some i => u.modSeat i.seatCore i.seat (fun st => { st with parked := st.parked + 1 })
  v.send { src := s.here, dst := s.here, vc := 2, part := s.partTag s.here,
           load := .notice 15 (noticeWord 7 (n * 128 + kind * 16 + cls) t.tid.toNat) none }

/-! ## Meetings, tasks and queues -/

/-- The state after `spawn` has sent its token (R132, R354): the seat counts the new thread, the token is on its way to core `c` on VC2,
and the slot waits in event 8. -/
def State.spawning (s : State) (t : Thread) (d : Reg) (c : Nat) (entry : Word) : State :=
  ((match t.task with
    | none => s
    | some i => s.modSeat i.seatCore i.seat (fun st => { st with live := st.live + 1 })).send
      { src := s.here, dst := c, vc := 2, tag := s.tagOf s.here, part := s.partTag s.here,
        load := .spawn t.ctx.x0 t.ctx.x1 t.ctx.x2 t.ctx.x3 entry s.spawnDeadline t s.slotNo }).waitsIn (.spawn d)

/-- A destination that `gocore` and `spawn` accept (R350, R354): a core of the group, a head core only at supervisor level. -/
structure State.Reaches (s : State) (t : Thread) (v : Word) : Prop where
  small : v.toNat < 2 ^ 25
  head : isHead v.toNat = true → t.ctx.status.sup = true
  group : s.inGroup s.here v.toNat = true

/-- A message of the running core on VC2. -/
def State.tells (s : State) (dst : Nat) (tag : BitVec 16) (load : Payload) : State :=
  s.send { src := s.here, dst, vc := 2, tag, part := s.partTag s.here, load }

/-- The record at a private address of the running core, as its running slot sees it (R179 step 4). -/
def State.recordHere (s : State) (va : Word) : Rec := Rec.ofWords (wordsOf (s.seenBytes s.here s.slotNo (s.homeKey va) 128))

/-! ## Events -/

/-- Traveller `x` is the one that the event in its turn names, and it is admitted: it heads its FIFO, its way is not stalled, its
destination is not lost, and it carries the partition of its destination, and tag 0 or the tag of its destination (R44, R95, R233,
R235). -/
structure State.Arrives (s : State) (x : Traveller) : Prop where
  next : s.arriving s.args.n = some x
  sound : (s.core x.dst).lost = false
  admitted : s.partTag x.dst = x.part ∧ (x.tag = 0 ∨ x.tag = s.tagOf x.dst)

/-- A priority of a core's queue takes an entry at its tail without a spill (R125). -/
def State.RoomAt (s : State) (c p : Nat) : Prop := ((s.core c).ring p).records = 0 ∧ (s.core c).queueCount < 64

/-- An entry at the tail of a priority of a core's queue: the core has received work. -/
def State.queues (s : State) (c p : Nat) (e : QEntry) : State :=
  s.modCore c (fun o => (o.putQueue p (o.queue p ++ [e])).gotWork)

/-- The arrival queue of a core takes a context without a spill (R212). -/
def State.RoomForContext (s : State) (c : Nat) : Prop :=
  (s.core c).arrivals.length < 8 ∧ ∀ i ∈ ((s.core c).ring 0).items, i.context = none

/-- A traveller last in the arrival queue of a core. -/
def State.queuesContext (s : State) (c : Nat) (x : Traveller) : State :=
  s.modCore c (fun o => { o with arrivals := o.arrivals ++ [x] })

/-- What slot `k` of core `c` acts on when it takes its turn now: the state after what comes first in the core's cycle (R198, R209). -/
def State.turned (s : State) (c : Nat) : State := (s.cycleStart c).tookTurn c

/-- The turn of slot `k` of core `c` has come, and no interrupt comes before the work that it may take (R209). -/
structure State.TakesTurn (s : State) (c k : Nat) : Prop where
  turn : s.hasTurn c k = true
  work : (s.cycleStart c).takesWork c k = true

/-- An answer to a traveller, on VC2. -/
def State.answers (s : State) (x : Traveller) (tag : BitVec 16) (load : Payload) : State :=
  s.send { src := x.dst, dst := x.src, vc := 2, tag, part := x.part, load }

/-! ## Firmware commands -/

/-- Command `k` has code `code`, is the accepted one of the function and slot that the event in its turn names, has not run, and need not
wait for an earlier command of its partition, nor for the die of the head core that runs it (R70, R104, R108). -/
structure State.Calls (s : State) (code : Nat) (k : Call) : Prop where
  module : k.m = s.args.m
  fn : k.fn = s.args.fn
  slot : k.slot = s.args.slot
  accepted : (s.func k.m k.fn).accepted.get k.slot = some k.cmd
  code : k.cmd.code = code
  waiting : k.cmd.outcome = none
  sound : (s.func k.m k.fn).fwfault = false
  still : s.monitorStill k.m k.fn = false
  turn : s.mustWait k.m k.fn k.cmd = false
  part : k.p = k.cmd.partNo k.fn

/-- Nothing keeps a LAUNCH or a HOST_COPY from its turn: no STOP has suspended it, and the die of its partition's head core does not relock
(R70, R108). -/
structure State.GoesOn (s : State) (k : Call) : Prop where
  fresh : k.cmd.suspended = false
  alone : s.stopPending k.m k.p k.cmd.order = false
  clock : s.relocking k.m (dieOf (s.part k.m k.p).head) = false

/-- The commands that name a present partition, with their codes and the states in which a partition accepts them (R96). -/
def tablePartCommand : List (Instr × Nat × List PState) :=
  [ (.partDestroy, 0x0003, [.created, .loaded, .running, .stopped, .halted]), (.keySet, 0x0004, [.created, .loaded, .stopped]),
    (.imageLoad, 0x0010, [.created, .loaded]), (.boot, 0x0011, [.loaded]), (.launch, 0x0020, [.running]),
    (.hostCopy, 0x0030, [.loaded, .running, .stopped]), (.dump, 0x0050, [.stopped, .halted]), (.stop, 0x0051, [.running]),
    (.resume, 0x0052, [.stopped]) ]

/-- The outcome that stands for an accepted command. -/
def State.outcomeAt (s : State) (m fn slot : Nat) : Option HostResult := ((s.func m fn).accepted.get slot).bind (·.outcome)

end Sys2Proof.Machine
end

