-- ==== Sys2Proof/Certificates/Slice0/Obligations.lean ====
section
/-! DEFINITION. The statements for the provers. -/
open Sys2Proof Sys2Proof.Machine

/-! ## Integer arithmetic -/

/-- R317: every function of major 0x01 with general-register operands writes its result to d, moves ip past it, and changes nothing
else; its word is the one of the strip.
R318: the 32-bit forms read bits [31:0] and write their result sign-extended.
R319: products, quotients and remainders, with the results for a divisor of 0 and for the minimum divided by −1; a division holds its
slot for seven more turns. -/
def Obligations.IntegerArithmeticWritesItsResult : Prop :=
  (∀ e ∈ table01, ∀ (d a b : Reg) (s : State) (t : Thread), s.Runs t → plain [d, a, b] = true →
    encodeNat (e.instr d a b) = some (wordFA 0x01 e.fn d a b 0) ∧
    exec (e.instr d a b) s = .next (s.went t (t.ctx.put d (e.result (t.ctx.get a) (t.ctx.get b))).past)) ∧
  (∀ (d a b : Reg) (k : BitVec 3) (s : State) (t : Thread), s.Runs t → plain [d, a, b] = true →
    encodeNat (.lsa d a b k) = some (wordFA 0x01 16 d a b k.toNat) ∧
    exec (.lsa d a b k) s = .next (s.went t (t.ctx.put d (t.ctx.get a + t.ctx.get b <<< k.toNat)).past)) ∧
  (∀ e ∈ table02, ∀ (d a b : Reg) (s : State) (t : Thread), s.Runs t → plain [d, a, b] = true →
    encodeNat (e.instr d a b) = some (wordFA 0x02 e.fn d a b 0) ∧
    exec (e.instr d a b) s = .next (s.went t (t.ctx.put d (e.result (t.ctx.get a) (t.ctx.get b))).past)) ∧
  (∀ e ∈ table03, ∀ (d a b : Reg) (s : State) (t : Thread), s.Runs t → plain [d, a, b] = true →
    encodeNat (e.instr d a b) = some (wordFA 0x03 e.fn d a b 0) ∧
    exec (e.instr d a b) s = .next (s.went t (t.ctx.put d (e.result (t.ctx.get a) (t.ctx.get b))).past)) ∧
  (∀ e ∈ tableDivide, ∀ (d a b : Reg) (s : State) (t : Thread), s.Runs t → plain [d, a, b] = true →
    encodeNat (e.instr d a b) = some (wordFA 0x03 e.fn d a b 0) ∧
    exec (e.instr d a b) s =
      .next ((s.went t (t.ctx.put d (e.result (t.ctx.get a) (t.ctx.get b))).past).modRunning (fun l => { l with busy := 7 })))

/-- R320: extensions, counts, moved bits and bit fields; `bfi` reads X(d) before it writes it. -/
def Obligations.Major04BitOperations : Prop :=
  (∀ e ∈ table04, ∀ (d a : Reg) (s : State) (t : Thread), s.Runs t → plain [d, a] = true →
    encodeNat (e.instr d a) = some (wordFA 0x04 e.fn d a 0 0) ∧
    exec (e.instr d a) s = .next (s.went t (t.ctx.put d (e.result (t.ctx.get a))).past)) ∧
  (∀ e ∈ tableCount, ∀ (d a : Reg) (s : State) (t : Thread), s.Runs t → plain [d, a] = true →
    encodeNat (e.instr d a) = some (wordFA 0x04 e.fn d a 0 0) ∧
    ∃ n, e.counts (t.ctx.get a) n ∧ exec (e.instr d a) s = .next (s.went t (t.ctx.put d (BitVec.ofNat 64 n)).past)) ∧
  (∀ e ∈ tableMoves, ∀ (d a : Reg) (s : State) (t : Thread), s.Runs t → plain [d, a] = true →
    encodeNat (e.instr d a 0) = some (wordFA 0x04 e.fn d a 0 0) ∧
    ∃ r : Word, (∀ i < 64, r.getLsbD i = e.bit 0 (t.ctx.get a) 0 i) ∧
      exec (e.instr d a 0) s = .next (s.went t (t.ctx.put d r).past)) ∧
  (∀ e ∈ tableFields, ∀ (d a b : Reg) (s : State) (t : Thread), s.Runs t → plain [d, a, b] = true →
    encodeNat (e.instr d a b) = some (wordFA 0x04 e.fn d a b 0) ∧
    ∃ r : Word, (∀ i < 64, r.getLsbD i = e.bit (t.ctx.get d) (t.ctx.get a) (t.ctx.get b) i) ∧
      exec (e.instr d a b) s = .next (s.went t (t.ctx.put d r).past))

/-- R321 to R323: the immediate forms, the immediate shifts, `lui` and `ipa`. -/
def Obligations.ImmediateFormsWriteTheirResult : Prop :=
  (∀ e ∈ tableImm, ∀ (d a : Reg) (i : BitVec 18) (s : State) (t : Thread), s.Runs t → plain [d, a] = true →
    encodeNat (e.instr d a i) = some (wordFI e.major d a i) ∧
    exec (e.instr d a i) s = .next (s.went t (t.ctx.put d (e.result (t.ctx.get a) (i.signExtend 64))).past)) ∧
  (∀ e ∈ tableShift, ∀ (d a : Reg) (k : BitVec 6) (s : State) (t : Thread), s.Runs t → plain [d, a] = true →
    encodeNat (e.instr d a k) = some (wordShift e.fn d a k.toNat) ∧
    exec (e.instr d a k) s = .next (s.went t (t.ctx.put d (e.result (t.ctx.get a) k.toNat)).past)) ∧
  (∀ e ∈ tableShiftW, ∀ (d a : Reg) (k : BitVec 5) (s : State) (t : Thread), s.Runs t → plain [d, a] = true →
    encodeNat (e.instr d a k) = some (wordShift e.fn d a k.toNat) ∧
    exec (e.instr d a k) s = .next (s.went t (t.ctx.put d (e.result (t.ctx.get a) k.toNat)).past)) ∧
  (∀ (d : Reg) (i : BitVec 22) (s : State) (t : Thread), s.Runs t → plain [d] = true →
    encodeNat (.lui d i) = some (wordFU 0x0A d i) ∧
    exec (.lui d i) s = .next (s.went t (t.ctx.put d (i.signExtend 64 <<< 18)).past)) ∧
  (∀ (d : Reg) (i : BitVec 22) (s : State) (t : Thread), s.Runs t → plain [d] = true →
    encodeNat (.ipa d i) = some (wordFU 0x0B d i) ∧
    exec (.ipa d i) s = .next (s.went t (t.ctx.put d (t.ctx.ip + i.signExtend 64 * 4)).past))

/-! ## Predicates -/

/-- R325 with the integer column of R299: `cmp`, `cmpw` and `cmpi` write P(pd) and nothing else; a pd of p0 is discarded.
R326: the predicate operations, `p2x`, `x2p` and `sel`. -/
def Obligations.PredicatesAreComparedAndCombined : Prop :=
  (∀ e ∈ tableCond (n := 64), ∀ (p : Pred) (a b : Reg) (s : State) (t : Thread), s.Runs t → plain [a, b] = true →
    encodeNat (.cmp p a b e.1) = some (wordFP 0x0D 0 p a b e.1) ∧
    exec (.cmp p a b e.1) s = .next (s.went t (t.ctx.setPred p (e.2 (t.ctx.get a) (t.ctx.get b))).past)) ∧
  (∀ e ∈ tableCond (n := 32), ∀ (p : Pred) (a b : Reg) (s : State) (t : Thread), s.Runs t → plain [a, b] = true →
    encodeNat (.cmpw p a b e.1) = some (wordFP 0x0D 1 p a b e.1) ∧
    exec (.cmpw p a b e.1) s = .next (s.went t (t.ctx.setPred p (e.2 (lower (t.ctx.get a)) (lower (t.ctx.get b)))).past)) ∧
  (∀ e ∈ tableCond (n := 64), ∀ (p : Pred) (a : Reg) (i : BitVec 14) (s : State) (t : Thread), s.Runs t → plain [a] = true →
    encodeNat (.cmpi p a e.1 i) = some (wordFQ 0x0E p a e.1 i) ∧
    exec (.cmpi p a e.1 i) s = .next (s.went t (t.ctx.setPred p (e.2 (t.ctx.get a) (i.signExtend 64))).past)) ∧
  (∀ e ∈ tablePred, ∀ (p q r : Pred) (s : State) (t : Thread), s.Runs t →
    encodeNat (e.instr p q r) = some (wordFP 0x0F e.fn p q r 0) ∧
    exec (e.instr p q r) s = .next (s.went t (t.ctx.setPred p (e.result (t.ctx.pred q) (t.ctx.pred r))).past)) ∧
  (∀ (p q : Pred) (s : State) (t : Thread), s.Runs t →
    encodeNat (.pnot p q) = some (wordFP 0x0F 4 p q 0 0) ∧
    exec (.pnot p q) s = .next (s.went t (t.ctx.setPred p (!t.ctx.pred q)).past)) ∧
  (∀ (d : Reg) (s : State) (t : Thread), s.Runs t → plain [d] = true →
    encodeNat (.p2x d) = some (wordFP 0x0F 5 d 0 0 0) ∧
    exec (.p2x d) s = .next (s.went t (t.ctx.put d ((t.ctx.p ||| 1).zeroExtend 64)).past)) ∧
  (∀ (a : Reg) (s : State) (t : Thread), s.Runs t → plain [a] = true →
    encodeNat (.x2p a) = some (wordFP 0x0F 6 0 a 0 0) ∧
    ∃ w : BitVec 16, (∀ k < 16, w.getLsbD k = (k == 0 || (t.ctx.get a).getLsbD k)) ∧
      exec (.x2p a) s = .next (s.went t (Ctx.past { t.ctx with p := w }))) ∧
  (∀ (d a b : Reg) (k : Pred) (s : State) (t : Thread), s.Runs t → plain [d, a, b] = true →
    encodeNat (.sel d a b k) = some (wordFP 0x0F 7 d a b k) ∧
    exec (.sel d a b k) s = .next (s.went t (t.ctx.put d (if t.ctx.pred k then t.ctx.get a else t.ctx.get b)).past))

/-- R298 and R296: what a context reads after a predicate, or a register, has been written. -/
def Obligations.RegistersAndPredicatesReadBack : Prop :=
  (∀ (x : Ctx) (k j : Pred) (v : Bool), (x.setPred k v).pred j = if j = 0 then true else if j = k then v else x.pred j) ∧
  (∀ (x : Ctx) (d f : Reg) (v : Word),
    (x.put d v).get f = if f = d ∧ d.toNat ≤ 10 then v else x.get f) ∧
  (∀ (x : Ctx) (v : Word), x.get 13 = 0 ∧ x.put 13 v = x) ∧
  (∀ (x : Ctx) (d : Reg) (v : Word) (k : Pred), (x.put d v).pred k = x.pred k ∧ (x.put d v).ip = x.ip ∧
    (x.put d v).status = x.status ∧ (x.put d v).fmta = x.fmta ∧ (x.put d v).fmtb = x.fmtb) ∧
  (∀ (x : Ctx) (k : Pred) (v : Bool) (f : Reg), (x.setPred k v).get f = x.get f ∧ (x.setPred k v).ip = x.ip ∧
    (x.setPred k v).status = x.status ∧ (x.setPred k v).fmta = x.fmta ∧ (x.setPred k v).fmtb = x.fmtb)

/-! ## Scalar floating point -/

/-- Majors 0x10 and 0x11 (R327): d receives the result of the operation on the operands' bits in the word's rounding mode, `fcsr` gathers
its flags, and nothing else changes but ip; `fdiv` and `fsqrt` hold their slot for two (`.s`) or five (`.d`) more turns; `ffma` reads X(d)
before it writes it. The operations themselves are those of the model. -/
def Obligations.FloatArithmeticWritesResultAndFlags : Prop :=
  (∀ e ∈ tableF2, ∀ (d a b : Reg) (m : BitVec 3) (s : State) (t : Thread), s.Runs t → plain [d, a, b] = true →
    exec (e.single d a b m) s =
      .next (s.went t (t.ctx.float d (e.op fp32 (t.ctx.mode m) (singleOf (t.ctx.get a)) (singleOf (t.ctx.get b))))) ∧
    exec (e.double d a b m) s =
      .next (s.went t (t.ctx.float d (e.op fp64 (t.ctx.mode m) (doubleOf (t.ctx.get a)) (doubleOf (t.ctx.get b)))))) ∧
  (∀ e ∈ tableF1, ∀ (d a : Reg) (m : BitVec 3) (s : State) (t : Thread), s.Runs t → plain [d, a] = true →
    exec (e.single d a m) s = .next (s.went t (t.ctx.float d (e.op fp32 (t.ctx.mode m) (singleOf (t.ctx.get a))))) ∧
    exec (e.double d a m) s = .next (s.went t (t.ctx.float d (e.op fp64 (t.ctx.mode m) (doubleOf (t.ctx.get a)))))) ∧
  (∀ (d a b : Reg) (m : BitVec 3) (s : State) (t : Thread), s.Runs t → plain [d, a, b] = true →
    exec (.ffmaS d a b m) s = .next (s.went t (t.ctx.float d
      (fp32.ffma (t.ctx.mode m) (singleOf (t.ctx.get a)) (singleOf (t.ctx.get b)) (singleOf (t.ctx.get d))))) ∧
    exec (.ffmaD d a b m) s = .next (s.went t (t.ctx.float d
      (fp64.ffma (t.ctx.mode m) (doubleOf (t.ctx.get a)) (doubleOf (t.ctx.get b)) (doubleOf (t.ctx.get d)))))) ∧
  (∀ (d a b : Reg) (m : BitVec 3) (s : State) (t : Thread), s.Runs t → plain [d, a, b] = true →
    exec (.fdivS d a b m) s = .next ((s.went t (t.ctx.float d
      (fp32.fdiv (t.ctx.mode m) (singleOf (t.ctx.get a)) (singleOf (t.ctx.get b))))).modRunning (fun l => { l with busy := 2 })) ∧
    exec (.fdivD d a b m) s = .next ((s.went t (t.ctx.float d
      (fp64.fdiv (t.ctx.mode m) (doubleOf (t.ctx.get a)) (doubleOf (t.ctx.get b))))).modRunning (fun l => { l with busy := 5 }))) ∧
  (∀ (d a : Reg) (m : BitVec 3) (s : State) (t : Thread), s.Runs t → plain [d, a] = true →
    exec (.fsqrtS d a m) s = .next ((s.went t (t.ctx.float d
      (fp32.fsqrt (t.ctx.mode m) (singleOf (t.ctx.get a))))).modRunning (fun l => { l with busy := 2 })) ∧
    exec (.fsqrtD d a m) s = .next ((s.went t (t.ctx.float d
      (fp64.fsqrt (t.ctx.mode m) (doubleOf (t.ctx.get a))))).modRunning (fun l => { l with busy := 5 })))

/-- Majors 0x12 and 0x13 (R328, R329): conversions and classes write d and gather flags; `fcmp` writes P(pd) by the floating column of
R299, and raises `nv` as that column says. -/
def Obligations.FloatConversionsAndCompares : Prop :=
  (∀ e ∈ tableConv, ∀ (d a : Reg) (m : BitVec 3) (s : State) (t : Thread), s.Runs t → plain [d, a] = true →
    encodeNat (e.instr d a m) = some (wordFA 0x12 e.fn d a 0 m.toNat) ∧
    exec (e.instr d a m) s = .next (s.went t
      (((t.ctx.put d (e.op (t.ctx.mode m) (t.ctx.get a)).1).past).raise (e.op (t.ctx.mode m) (t.ctx.get a)).2))) ∧
  (∀ (p : Pred) (a b : Reg) (s : State) (t : Thread), s.Runs t → plain [a, b] = true →
    (∀ e ∈ tableFCond fp32 (singleOf (t.ctx.get a)) (singleOf (t.ctx.get b)),
      encodeNat (.fcmpS p a b e.1) = some (wordFP 0x13 0 p a b e.1) ∧
      exec (.fcmpS p a b e.1) s = .next (s.went t (((t.ctx.setPred p e.2.1).past).raise (if e.2.2 then 16 else 0)))) ∧
    (∀ e ∈ tableFCond fp64 (doubleOf (t.ctx.get a)) (doubleOf (t.ctx.get b)),
      encodeNat (.fcmpD p a b e.1) = some (wordFP 0x13 1 p a b e.1) ∧
      exec (.fcmpD p a b e.1) s = .next (s.went t (((t.ctx.setPred p e.2.1).past).raise (if e.2.2 then 16 else 0)))))

/-- R267 and R327: with a NaN operand the arithmetic of a format gives its canonical NaN, and raises `nv` exactly when an operand is a
signalling NaN. -/
def Obligations.NanOperandsGiveTheCanonicalNan : Prop :=
  ∀ (f : Fmt) (r : Rnd) (a b : Nat),
    ((f.decode a).isNan || (f.decode b).isNan) = true →
    let g := if (f.decode a).isSnan || (f.decode b).isSnan then flagNv else 0
    f.fadd r a b = (f.nan, g) ∧ f.fsub r a b = (f.nan, g) ∧ f.fmul r a b = (f.nan, g) ∧ f.fdiv r a b = (f.nan, g)

/-- R268: a value that a format holds is rounded to itself in every mode, without a flag. -/
def Obligations.RepresentableValuesRoundToThemselves : Prop :=
  ∀ f ∈ [fp64, fp32, fp16, bf16], ∀ (r : Rnd) (v : Nat), v < 2 ^ (1 + f.ebits + f.mbits) → (f.decode v).isNan = false →
    f.ofFl r (f.decode v) = (v, 0)

/-! ## Places (R324) -/

/-- R324: `gaddr` and `hops` compute from their operands alone; `homeof` of a private byte of the core is that core. -/
def Obligations.PlacesOfAddressesAndCores : Prop :=
  (∀ (d a b : Reg) (s : State) (t : Thread), s.Runs t → plain [d, a, b] = true →
    exec (.gaddr d a b) s = .next (s.went t (t.ctx.put d (BitVec.ofNat 64
      (0x0000010000000000 + (t.ctx.get a).toNat % 2 ^ 24 * 0x10000 + (t.ctx.get b).toNat % 2 ^ 16))).past)) ∧
  (∀ (d a b : Reg) (s : State) (t : Thread), s.Runs t → plain [d, a, b] = true →
    let p := (t.ctx.get a).toNat % 2 ^ 25
    let q := (t.ctx.get b).toNat % 2 ^ 25
    exec (.hops d a b) s = .next (s.went t (t.ctx.put d
      (if moduleOf p = moduleOf q then
        BitVec.ofNat 64 (((packageX p : Int) - packageX q).natAbs + ((packageY p : Int) - packageY q).natAbs)
      else BitVec.allOnes 64)).past)) ∧
  (∀ (d a : Reg) (s : State) (t : Thread), s.Runs t → plain [d, a] = true → (t.ctx.get a).toNat < s.privSize s.here →
    t.bounded s.here = false →
    exec (.homeof d a) s = .next (s.went t (t.ctx.put d (BitVec.ofNat 64 s.here)).past))

/-! ## Memory: accesses to the private portion -/

/-- R330 (with R8, R173, R174 and R315): a load from private memory, at any alignment, writes the bytes at its address, lowest first and
extended, to d, and changes nothing else but ip; one that crosses an aligned 32-byte boundary performs as two; that each has a turn of its
own, and the second follows before its slot does anything else, is log 54 (DEDUCED).
R332: `ldq` and `stq` move 32 aligned bytes between memory and four registers, the lowest 8 bytes in d. -/
def Obligations.LoadsReadPrivateMemory : Prop :=
  (∀ e ∈ tableLoad, ∀ (d a : Reg) (i : BitVec 14) (s : State) (t : Thread), s.Resides t → plain [d, a] = true →
    let va := t.ctx.address a i
    s.Private va e.size →
    let u := s.went t (t.ctx.put d (extended e.size e.signed (ofBytes (s.bytes (s.homeKey va) e.size)))).past
    encodeNat (e.instr d a i) = some (wordFM 0x14 e.fn d a i) ∧
    (e.size ≤ roomAt va → exec (e.instr d a i) s = .next u) ∧
    (roomAt va < e.size → ∃ x, let v := s.modRunning (fun l => l.holding x)
      exec (e.instr d a i) s = .next v ∧ v.mend s.here s.slotNo = u)) ∧
  (∀ (d a : Reg) (i : BitVec 14) (s : State) (t : Thread), s.Resides t → plain [a] = true → d.toNat ≤ 6 →
    s.Private (t.ctx.address a i) 32 → (t.ctx.address a i).toNat % 32 = 0 →
    let w := fun n => BitVec.ofNat 64 (ofBytes (s.bytes (s.homeKey (t.ctx.address a i) + 8 * n) 8))
    exec (.ldq d a i) s =
      .next (s.went t ((((t.ctx.put d (w 0)).put (d + 1) (w 1)).put (d + 2) (w 2)).put (d + 3) (w 3)).past)) ∧
  (∀ (d a : Reg) (i : BitVec 14) (s : State) (t : Thread), s.Resides t → plain [a] = true → d.toNat ≤ 6 →
    (t.ctx.address a i).toNat + 32 ≤ s.privSize s.here → (t.ctx.address a i).toNat % 32 = 0 →
    exec (.stq d a i) s = .next ((s.putBytes (s.homeKey (t.ctx.address a i))
      (bytesOf [t.ctx.get d, t.ctx.get (d + 1), t.ctx.get (d + 2), t.ctx.get (d + 3)])).went t t.ctx.past))

/-- R331 and R335 (with R173): a store to private memory puts the low bytes of X(d) at its address, lowest first; every other byte, every
register, flag and special register stays, and ip moves on; one that crosses an aligned 32-byte boundary performs as two; that each has a
turn of its own, and the second follows before its slot does anything else, is log 54 (DEDUCED). -/
def Obligations.StoresWritePrivateMemory : Prop :=
  ∀ e ∈ tableStore, ∀ (d a : Reg) (i : BitVec 14) (s : State) (t : Thread), s.Resides t → plain [d, a] = true →
    (t.ctx.address a i).toNat + e.size ≤ s.privSize s.here → (t.ctx.address a i).toNat % e.align = 0 →
    encodeNat (e.instr d a i) = some (wordFM e.major e.fn d a i) ∧
    let va := t.ctx.address a i
    let key := s.homeKey va
    let data := toBytes (t.ctx.get d).toNat e.size
    ∃ u v : State, (e.size ≤ roomAt va → exec (e.instr d a i) s = .next u) ∧
      (roomAt va < e.size → ∃ x, let v1 := v.modRunning (fun l => l.holding x)
        exec (e.instr d a i) s = .next v1 ∧ v1.mend s.here s.slotNo = u) ∧
      (Memory.wf s.mem = true → u.bytes key e.size = data) ∧
      (∀ k, k < key ∨ key + e.size ≤ k → u.byte k = s.byte k) ∧
      u = { s.went t t.ctx.past with mem := u.mem, bad := u.bad, untagged := u.untagged, soft := u.soft } ∧
      v = s.putBytes key (data.take (roomAt va))

/-- R334: an atomic on private memory stores the new value and writes the old one to d; `amo.cas` stores only when the old value is the
expected one in X(d).
R336: outside a split task a reduction on private memory stores the new value, and changes no register but ip. -/
def Obligations.AtomicsAndReductionsUpdateMemory : Prop :=
  (∀ e ∈ tableAmo, ∀ (d a b : Reg) (m : BitVec 1) (s : State) (t : Thread), s.Resides t → plain [d, a, b] = true →
    s.Private (t.ctx.get a) (amoSize m) → (t.ctx.get a).toNat % amoSize m = 0 →
    let n := amoSize m
    let old := ofBytes (s.bytes (s.homeKey (t.ctx.get a)) n)
    encodeNat (e.instr d a b m) = some (wordFA 0x18 e.fn d a b m.toNat) ∧
    exec (e.instr d a b m) s = .next ((s.putBytes (s.homeKey (t.ctx.get a))
      (toBytes (e.new n old ((t.ctx.get b).toNat % 2 ^ (8 * n))) n)).went t (t.ctx.put d (oldWord e.zero n old)).past)) ∧
  (∀ (d a b : Reg) (m : BitVec 1) (s : State) (t : Thread), s.Resides t → plain [d, a, b] = true →
    s.Private (t.ctx.get a) (amoSize m) → (t.ctx.get a).toNat % amoSize m = 0 →
    let n := amoSize m
    let old := ofBytes (s.bytes (s.homeKey (t.ctx.get a)) n)
    encodeNat (.amoCas d a b m) = some (wordFA 0x18 9 d a b m.toNat) ∧
    exec (.amoCas d a b m) s = .next (State.went
      (if old = (t.ctx.get d).toNat % 2 ^ (8 * n) then
        s.putBytes (s.homeKey (t.ctx.get a)) (toBytes ((t.ctx.get b).toNat % 2 ^ (8 * n)) n) else s)
      t (t.ctx.put d (oldWord false n old)).past)) ∧
  (∀ e ∈ tableRed, ∀ (a b : Reg) (m : BitVec 1) (s : State) (t : Thread), s.Resides t → plain [a, b] = true →
    s.Private (t.ctx.get a) (amoSize m) → (t.ctx.get a).toNat % amoSize m = 0 →
    let n := amoSize m
    encodeNat (e.instr 0 a b m) = some (wordFA 0x1A e.fn 0 a b m.toNat) ∧
    exec (e.instr 0 a b m) s = .next ((s.putBytes (s.homeKey (t.ctx.get a))
      (toBytes (e.new n (ofBytes (s.bytes (s.homeKey (t.ctx.get a)) n)) ((t.ctx.get b).toNat % 2 ^ (8 * n))) n)).went t t.ctx.past))

/-- R333 (with R175): a full/empty access whose condition holds and on whose word nothing waits takes its step: `ldf` reads, `ldfe` reads
and empties, `stf` and `stfe` write and fill, `fck` reads the bit.
R176 and R333: a full/empty access whose condition does not hold waits in event 2: no register, no byte and no full bit changes. -/
def Obligations.FullEmptyAccessesStepOrWait : Prop :=
  (∀ e ∈ tableFullLoad, ∀ (d a : Reg) (i : BitVec 14) (s : State) (t : Thread), s.Resides t → plain [d, a] = true →
    s.Private (t.ctx.address a i) e.size → (t.ctx.address a i).toNat % e.size = 0 →
    let key := s.homeKey (t.ctx.address a i)
    s.Unwatched key → s.allBits key e.size true = true →
    encodeNat (e.instr d a i) = some (wordFM 0x17 e.fn d a i) ∧
    exec (e.instr d a i) s = .next ((if e.act then s.setFull key e.size false else s).went t
      (t.ctx.put d (BitVec.ofNat 64 (ofBytes (s.bytes key e.size)))).past)) ∧
  (∀ e ∈ tableFullStore, ∀ (d a : Reg) (i : BitVec 14) (s : State) (t : Thread), s.Resides t → plain [d, a] = true →
    (t.ctx.address a i).toNat + e.size ≤ s.privSize s.here → (t.ctx.address a i).toNat % e.size = 0 →
    let key := s.homeKey (t.ctx.address a i)
    s.Unwatched key → (e.act = true → s.allBits key e.size false = true) →
    encodeNat (e.instr d a i) = some (wordFM 0x17 e.fn d a i) ∧
    exec (e.instr d a i) s = .next (((s.putBytes key (toBytes (t.ctx.get d).toNat e.size)).setFull key e.size true).went t t.ctx.past)) ∧
  (∀ (d a : Reg) (i : BitVec 14) (s : State) (t : Thread), s.Resides t → plain [d, a] = true →
    (t.ctx.address a i).toNat + 4 ≤ s.privSize s.here → (t.ctx.address a i).toNat % 4 = 0 →
    encodeNat (.fck d a i) = some (wordFM 0x17 8 d a i) ∧
    exec (.fck d a i) s = .next (s.went t (t.ctx.put d (if s.isFull (s.homeKey (t.ctx.address a i) / 4) then 1 else 0)).past)) ∧
  (∀ e ∈ tableFullLoad, ∀ (d a : Reg) (i : BitVec 14) (s : State) (t : Thread), s.Resides t → plain [d, a] = true →
    (t.ctx.address a i).toNat + e.size ≤ s.privSize s.here → (t.ctx.address a i).toNat % e.size = 0 →
    s.allBits (s.homeKey (t.ctx.address a i)) e.size true = false →
    ∃ acc, acc.va = t.ctx.address a i ∧ exec (e.instr d a i) s = .next ((s.waitsIn (.full acc s.stamp)).stampUp)) ∧
  (∀ e ∈ tableFullStore, e.act = true → ∀ (d a : Reg) (i : BitVec 14) (s : State) (t : Thread), s.Resides t →
    plain [d, a] = true → (t.ctx.address a i).toNat + e.size ≤ s.privSize s.here → (t.ctx.address a i).toNat % e.size = 0 →
    s.allBits (s.homeKey (t.ctx.address a i)) e.size false = false →
    ∃ acc, acc.va = t.ctx.address a i ∧ exec (e.instr d a i) s = .next ((s.waitsIn (.full acc s.stamp)).stampUp))

/-- R315, R173 and R225: an access that must be aligned and is not — of 32 bytes, full/empty, atomic, committed, or a reduction — traps with
cause 3 and the address, before anything is translated. -/
def Obligations.MisalignedAccessesTrap : Prop :=
  ∀ (d a b : Reg) (m : BitVec 1) (i : BitVec 14) (s : State) (t : Thread), s.Traps t → plain [d, a, b] = true → t.ctx.status.spl = false →
    let va := t.ctx.address a i
    let u := s.trapped t 3 0 va t.ctx.ip
    (va.toNat % 32 ≠ 0 → exec (.ldq d a i) s = .next u ∧ exec (.stq d a i) s = .next u) ∧
    (∀ e ∈ tableFullLoad, va.toNat % e.size ≠ 0 → exec (e.instr d a i) s = .next u) ∧
    (∀ e ∈ tableFullStore, va.toNat % e.size ≠ 0 → exec (e.instr d a i) s = .next u) ∧
    (∀ e ∈ tableStore, va.toNat % e.align ≠ 0 → exec (e.instr d a i) s = .next u) ∧
    (va.toNat % 4 ≠ 0 → exec (.fck d a i) s = .next u) ∧
    ((t.ctx.get a).toNat % amoSize m ≠ 0 → let w := s.trapped t 3 0 (t.ctx.get a) t.ctx.ip
      (∀ e ∈ tableAmo, exec (e.instr d a b m) s = .next w) ∧ exec (.amoCas d a b m) s = .next w ∧
      (∀ e ∈ tableRed, exec (e.instr 0 a b m) s = .next w))

/-- R337 and R338: `pf` changes nothing but ip; `cwb` writes a dirty line of the own column to the DRAM, `cinv.i` drops a line of the
instruction cache, and both do nothing at an address that is not bulk memory or does not translate, and wait in event 9 for a walk that
finds the miss queue full; a fence whose conditions hold completes, and one whose conditions do not waits in event 11.
R316 and R337: `cdis` of a line of the own quad's column leaves the bytes that the DRAM holds where the line was dirty and is dropped,
and nothing of it dirty; at a local address it traps with cause 4, `sub` 1. That a line may have been written back before is the model's
free choice (log 6). -/
def Obligations.CacheOperationsFencesAndDiscards : Prop :=
  (∀ (a : Reg) (i : BitVec 14) (s : State) (t : Thread), s.Runs t → plain [a] = true →
    exec (.pf a i) s = .next (s.went t t.ctx.past) ∧
    (bulkVa s.here (t.ctx.address a i).toNat = false →
      exec (.cwb a i) s = .next (s.went t t.ctx.past) ∧ exec (.cinvI a i) s = .next (s.went t t.ctx.past)) ∧
    (∀ s1 e, bulkVa s.here (t.ctx.address a i).toNat = true → s.lookup s.here (t.ctx.address a i).toNat false = (s1, .page e) →
      let k := e.phys (t.ctx.address a i).toNat
      exec (.cinvI a i) s = .next ((s1.modCore s.here (fun o => { o with icache := o.icache.del (k / 64) })).went t t.ctx.past) ∧
      exec (.cwb a i) s = .next (if isBulkKey k ∧ s1.pathOf s.here k = .quad
        then State.went { s1 with dirty := s1.dirty.del (k / 64) } t t.ctx.past else s1.went t t.ctx.past)) ∧
    (∀ s1 n, bulkVa s.here (t.ctx.address a i).toNat = true → s.lookup s.here (t.ctx.address a i).toNat false = (s1, .fault n) →
      exec (.cwb a i) s = .next (s1.went t t.ctx.past) ∧ exec (.cinvI a i) s = .next (s1.went t t.ctx.past)) ∧
    (∀ s1, bulkVa s.here (t.ctx.address a i).toNat = true → s.lookup s.here (t.ctx.address a i).toNat false = (s1, .full) →
      exec (.cwb a i) s = .next (s1.waitsIn (.step 9)) ∧ exec (.cinvI a i) s = .next (s1.waitsIn (.step 9)))) ∧
  (∀ (s : State) (t : Thread), s.Runs t →
    (s.drained = true → exec .fenceQ s = .next (s.went t t.ctx.past)) ∧
    (s.drained = false → exec .fenceQ s = .next (s.waitsIn (.step 11))) ∧
    ((s.drained && s.enginesDone) = true → exec .fenceE s = .next (s.went t t.ctx.past)) ∧
    ((s.drained && s.enginesDone) = false → exec .fenceE s = .next (s.waitsIn (.step 11))) ∧
    ((s.mayDepart && s.enginesDone) = true → exec .fenceA s = .next (s.went t t.ctx.past)) ∧
    ((s.mayDepart && s.enginesDone) = false → exec .fenceA s = .next (s.waitsIn (.step 11)))) ∧
  (∀ (a : Reg) (i : BitVec 14) (s : State) (t : Thread), s.Runs t → plain [a] = true →
    (∀ s1 k, isLocalKey k = false → t.ctx.status.spl = false → s1.drained = true →
      s.place s.here t s.running.meet (t.ctx.address a i).toNat 1 .store = (s1, .quad k) →
      (s1.dirty.get (k / 64) = none → exec (.cdis a i) s = .next (s1.went t t.ctx.past)) ∧
      (∀ l, s1.dirty.get (k / 64) = some l → ∃ u, exec (.cdis a i) s = .next u ∧ u.dirty = s1.dirty.del (k / 64) ∧
        (u.mem = s1.mem ∨ u.mem = Memory.writeList s1.mem (k / 64 * 64) l) ∧
        u = { s1.went t t.ctx.past with mem := u.mem, dirty := u.dirty, free := s1.free + 1 })) ∧
    (t.bounded s.here = false → s.Traps t → (t.ctx.address a i).toNat < s.privSize s.here →
      exec (.cdis a i) s = .next (s.trapped t 4 1 (t.ctx.address a i) t.ctx.ip)))

/-! ## Control -/

/-- R339 and R340: `br` branches when P(p) differs from s, and `jmp` and `call` always; `call` writes the next address to x9.
R341: `jr` and `callr` go to X(a), read before x9 is written; a target that is not a word address traps with cause 3, x9 unchanged.
R342: `loop` writes X(a) − 1 to a, and branches when that is not 0; with a = `zr` nothing is written and it branches. -/
def Obligations.BranchesAndJumps : Prop :=
  (∀ (p : Pred) (r : BitVec 1) (i : BitVec 21) (s : State) (t : Thread), s.Runs t →
    encodeNat (.br p r i) = some (wordFB 0x1D p r i) ∧
    exec (.br p r i) s = .next (s.went t (t.ctx.goTo
      (if xor (t.ctx.pred p) (r == 1) then t.ctx.ip + 4 + i.signExtend 64 * 4 else t.ctx.ip + 4)))) ∧
  (∀ (i : BitVec 26) (s : State) (t : Thread), s.Runs t →
    encodeNat (.jmp i) = some (wordFJ 0x1E i) ∧
    exec (.jmp i) s = .next (s.went t (t.ctx.goTo (t.ctx.ip + 4 + i.signExtend 64 * 4)))) ∧
  (∀ (i : BitVec 26) (s : State) (t : Thread), s.Runs t →
    encodeNat (.call i) = some (wordFJ 0x1F i) ∧
    exec (.call i) s = .next (s.went t ((t.ctx.put 9 (t.ctx.ip + 4)).goTo (t.ctx.ip + 4 + i.signExtend 64 * 4)))) ∧
  (∀ (a : Reg) (s : State) (t : Thread), s.Runs t → plain [a] = true → (t.ctx.get a).toNat % 4 = 0 →
    encodeNat (.jr a) = some (wordFA 0x20 0 0 a 0 0) ∧ encodeNat (.callr a) = some (wordFA 0x20 1 0 a 0 0) ∧
    exec (.jr a) s = .next (s.went t (t.ctx.goTo (t.ctx.get a))) ∧
    exec (.callr a) s = .next (s.went t ((t.ctx.put 9 (t.ctx.ip + 4)).goTo (t.ctx.get a)))) ∧
  (∀ (a : Reg) (s : State) (t : Thread), s.Traps t → plain [a] = true → (t.ctx.get a).toNat % 4 ≠ 0 →
    exec (.jr a) s = .next (s.trapped t 3 0 (t.ctx.get a) t.ctx.ip) ∧
    exec (.callr a) s = .next (s.trapped t 3 0 (t.ctx.get a) t.ctx.ip)) ∧
  (∀ (a : Reg) (i : BitVec 18) (s : State) (t : Thread), s.Runs t → plain [a] = true →
    let c := t.ctx.get a - 1
    encodeNat (.loop a i) = some (wordFI 0x21 0 a i) ∧
    exec (.loop a i) s = .next (s.went t ((t.ctx.put a c).goTo
      (if c ≠ 0 then t.ctx.ip + 4 + i.signExtend 64 * 4 else t.ctx.ip + 4))))

/-! ## Travel and meetings -/

/-- R350 (with R211): `go` resolves its address as a load of one byte would, `gocore` takes a core id, `back` the birth core. The thread
goes on at once when it stands there, leaves on VC0 with its context past the instruction when step 8 allows, and otherwise waits in
event 15. -/
def Obligations.TravelMovesTheThread : Prop :=
  (∀ (a : Reg) (s s1 : State) (t : Thread) (p : Place) (c : Nat), s.Free t → plain [a] = true →
    s.place s.here t s.running.meet (t.ctx.get a).toNat 1 .load = (s1, p) →
    (p.core s.here = some c ∨ c = s.here ∧ ∃ x, p = .refused x) →
    encodeNat (.go a) = some (wordFA 0x22 0 0 a 0 0) ∧ exec (.go a) s = .next (s1.travels t c (t.ctx.get a))) ∧
  (∀ (a : Reg) (s : State) (t : Thread), s.Free t → plain [a] = true → s.Reaches t (t.ctx.get a) →
    encodeNat (.gocore a) = some (wordFA 0x22 1 0 a 0 0) ∧ exec (.gocore a) s = .next (s.travels t (t.ctx.get a).toNat (t.ctx.get a))) ∧
  (∀ (s : State) (t : Thread), s.Free t →
    encodeNat .back = some (wordFA 0x22 2 0 0 0 0) ∧ exec .back s = .next (s.travels t t.birth (BitVec.ofNat 64 t.birth)))

/-- R349: what a thread of a split task may not do traps with cause 7, or cause 4 for a queue instruction and `mbind`, and what a user-level
visitor may not do with cause 4, `sub` 6; `rte`, `ctxsv` and `ctxrs` trap with cause 2 at user level.
R349 (with R219): what a met thread may not do traps with cause 4, `sub` 3, at its origin: its entry in the cloakroom is freed, its slot
empties, its context leaves with `met` 0 and the trap, and its partner is rolled back; before step 8 allows that it waits in event 15. -/
def Obligations.BarredInstructionsTrap : Prop :=
  (∀ (d a b : Reg) (s : State) (t : Thread), s.Traps t → plain [d, a, b] = true → t.ctx.status.spl = true →
    exec (.go a) s = .next (s.trapped t 7 0 (t.ctx.get a) t.ctx.ip) ∧
    exec (.gocore a) s = .next (s.trapped t 7 0 (t.ctx.get a) t.ctx.ip) ∧
    exec .back s = .next (s.trapped t 7 0 (BitVec.ofNat 64 t.birth) t.ctx.ip) ∧
    exec (.meet d a b) s = .next (s.trapped t 7 0 0 t.ctx.ip) ∧
    exec (.partgo a) s = .next (s.trapped t 7 0 (t.ctx.get a) t.ctx.ip) ∧
    exec (.fork d a b) s = .next (s.trapped t 7 0 (t.ctx.get b) t.ctx.ip) ∧
    exec (.qpush a b) s = .next (s.trapped t 4 1 (t.ctx.get a) t.ctx.ip) ∧
    exec (.qpop d) s = .next (s.trapped t 4 1 0 t.ctx.ip) ∧
    exec (.mbind a b) s = .next (s.trapped t 4 1 (t.ctx.get b) t.ctx.ip)) ∧
  (∀ (d a b : Reg) (s : State) (t : Thread), s.Traps t → plain [d, a, b] = true → t.ctx.status.spl = false → t.ctx.status.met = false →
    t.birth ≠ s.here →
    exec (.qpush a b) s = .next (s.trapped t 4 6 (t.ctx.get a) t.ctx.ip) ∧
    exec (.qpop d) s = .next (s.trapped t 4 6 0 t.ctx.ip) ∧
    exec (.mbind a b) s = .next (s.trapped t 4 6 (t.ctx.get b) t.ctx.ip)) ∧
  (∀ (a : Reg) (s : State) (t : Thread), s.Traps t → ∀ i ∈ [Instr.rte, .ctxsv a, .ctxrs a],
    exec i s = .next (s.trapped t 2 0 (s.ir.zeroExtend 64) t.ctx.ip)) ∧
  (∀ (d a b : Reg) (sc : BitVec 3) (n : BitVec 4) (s : State) (t : Thread) (m : Meet) (e : CloakEntry), s.Runs t → plain [d, a, b] = true →
    t.ctx.status.spl = false → t.ctx.status.met = true → s.running.meet = some m → (s.quad m.quad).cloak.get m.entry = some e →
    let ends := fun (i : Instr) (addr : Word) =>
      (s.mayDepart = true → exec i s = .next ((((s.modQuad m.quad (fun o => { o with cloak := o.cloak.del m.entry })).emptySlot s.here s.slotNo).send
        { src := coreOfQuad m.quad 0, dst := e.party.origin, vc := 0, tag := e.party.tag, part := s.partTag s.here,
          load := .context { t with ctx := { t.ctx with status := { t.ctx.status with met := false } } } none
            (some { cause := 4, sub := 3, addr }) }).rollBack m.quad m.partnerEntry)) ∧
      (s.mayDepart = false → exec i s = .next (s.modRunning (fun l => { l with park := some (.step 15), carried := none })))
    (∀ i ∈ [Instr.meet d a b, .quit, .yield, .done, .abort, .alloc d a, .qpop d, .recv d a, .mpoll d a, .bar sc n, .barn sc n, .barw a sc n],
      ends i 0) ∧
    (∀ i ∈ [Instr.go a, .gocore a, .join a, .tsk a b, .qpush a b], ends i (t.ctx.get a)) ∧
    (∀ i ∈ [Instr.fork d a b, .mbind a b], ends i (t.ctx.get b)) ∧ ends .back (BitVec.ofNat 64 t.birth) ∧
    (t.ctx.status.sup = true → ends (.barset a sc n) 0 ∧ ends .rte 0 ∧ ends (.ctxsv a) (t.ctx.get a) ∧ ends (.ctxrs a) (t.ctx.get a)))

/-- R351 (with R215): a `meet` that passes its checks sends the party — the context past the instruction, the pennant, the luggage bytes
as they stand and the deadline — to the cloakroom of the pennant's quad, and empties the slot; before step 8 allows that it waits in event
15.
R352 and R353 (with R218): `xget` reads word n of the partner's context, in its slot or, before it has entered it, in the cloakroom; `part` and `partgo` wait in event 13 until the partner has
executed one of them, and then both parties leave, the first to execute it first; outside a meeting they trap. -/
def Obligations.MeetingsSendReadAndPart : Prop :=
  (∀ (d a b : Reg) (s : State) (t : Thread) (q : Nat), s.Free t → plain [d, a, b] = true →
    s.pennantQuad s.here (t.ctx.get a) = some q →
    let len := (t.ctx.get b).toNat / 2 ^ 48
    let la := (t.ctx.get b).toNat % 2 ^ 48
    len ≤ 1024 → len % 8 = 0 → la % 8 = 0 → la + len ≤ s.privSize s.here → s.refusal s.here t la len = none →
    encodeNat (.meet d a b) = some (wordFA 0x23 0 d a b 0) ∧
    (s.mayDepart = true → exec (.meet d a b) s = .next ((s.emptySlot s.here s.slotNo).send
      { src := s.here, dst := coreOfQuad q 0, vc := 0, tag := s.tagOf s.here, part := s.partTag s.here,
        load := .party
          { thread := { t with ctx := t.ctx.past, origin := s.here }, came := { t with ctx := t.ctx.past, origin := s.here }
            d, pennant := t.ctx.get a, la, len,
            luggage := s.bytes (localKey s.here la) len,
            deadline := if s.running.mdl = 0 then s.refNs (moduleOf s.here) + 1000000 else s.running.mdl.toNat,
            origin := s.here, tag := s.tagOf s.here } })) ∧
    (s.mayDepart = false → exec (.meet d a b) s = .next (s.waitsIn (.step 15)))) ∧
  (∀ (d : Reg) (n : BitVec 4) (s : State) (t u : Thread) (m : Meet), s.Runs t → plain [d] = true → s.running.meet = some m →
    (s.slot s.here m.partnerSlot).thread = some u →
    encodeNat (.xget d n) = some (wordFA 0x23 1 d 0 0 n.toNat) ∧
    exec (.xget d n) s = .next (s.went t (t.ctx.put d (u.ctx.words.getD n.toNat 0)).past)) ∧
  (∀ (d : Reg) (n : BitVec 4) (s : State) (t : Thread) (m : Meet) (e : CloakEntry), s.Runs t → plain [d] = true →
    s.running.meet = some m → (s.slot s.here m.partnerSlot).thread = none → (s.quad m.quad).cloak.get m.partnerEntry = some e →
    exec (.xget d n) s = .next (s.went t (t.ctx.put d ((e.met.getD e.party.thread).ctx.words.getD n.toNat 0)).past)) ∧
  (∀ (a : Reg) (s s1 : State) (t : Thread) (m : Meet) (p : Place) (c : Nat), s.Runs t → plain [a] = true → s.running.meet = some m →
    t.ctx.status.spl = false → s.place s.here t s.running.meet (t.ctx.get a).toNat 1 .load = (s1, p) → p.core s.here = some c →
    s.mayDepart = true → s1.mayDepart = true →
    encodeNat .part = some (wordFA 0x23 2 0 0 0 0) ∧ encodeNat (.partgo a) = some (wordFA 0x23 3 0 a 0 0) ∧
    ((s.slot s.here m.partnerSlot).parting = none →
      exec .part s = .next (s.waitsIn (.part none)) ∧
      exec (.partgo a) s = .next (s1.waitsIn (.part (some { core := c, va := t.ctx.get a })))) ∧
    (∀ dest pm, (s.slot s.here m.partnerSlot).parting = some dest → (s.slot s.here m.partnerSlot).meet = some pm →
      exec .part s = .next ((s.departPart s.here m.partnerSlot pm dest).departPart s.here s.slotNo m none) ∧
      exec (.partgo a) s = .next ((s1.departPart s.here m.partnerSlot pm dest).departPart s.here s.slotNo m
        (some { core := c, va := t.ctx.get a })))) ∧
  (∀ (d a : Reg) (n : BitVec 4) (s : State) (t : Thread), s.Traps t → plain [d, a] = true → t.ctx.status.spl = false →
    exec (.xget d n) s = .next (s.trapped t 4 1 0 t.ctx.ip) ∧ exec .part s = .next (s.trapped t 4 1 0 t.ctx.ip) ∧
    exec (.partgo a) s = .next (s.trapped t 4 1 0 t.ctx.ip))

/-! ## The ends of threads and tasks -/

/-- R132, R133, R355 and R356: a thread of no split task that executes `quit`, or `done` as a founder or outside every task, empties its
slot and tells its seat, once step 8 allows; `done` of another thread is an illegal instruction; `yield` without a frame goes on, and with
a frame F, here in the seat's own private memory, it stores the context past the instruction at F + 128, the entry and the `saved` bit in the
record at F, frees the seat, empties the slot, and puts the task's entry at the tail of its priority; before step 8 allows that it waits in
event 15.
R139, R145 and R356: the founder of a split task that executes `done` or `quit` enters step 1 of the commit, with no budget from now on,
and waits in event 10; one that executes `abort` ends its task, whose record, as it stands at the scratch base, is halved and pushed, or
takes the grain-fault path with cause 3 when it cannot be halved. -/
def Obligations.ThreadsEnd : Prop :=
  (∀ (s : State) (t : Thread), s.Free t → s.Unbound t.tid →
    encodeNat .quit = some (wordFA 0x24 1 0 0 0 0) ∧ encodeNat .done = some (wordFA 0x24 3 0 0 0 0) ∧
    (s.mayDepart = true → exec .quit s = .next (s.quits t) ∧
      (t.task = none ∨ t.ctx.status.fnd = true → exec .done s = .next (s.quits t))) ∧
    (s.mayDepart = false → exec .quit s = .next (s.waitsIn (.step 15)) ∧
      (t.task = none ∨ t.ctx.status.fnd = true → exec .done s = .next (s.waitsIn (.step 15))))) ∧
  (∀ (s : State) (t : Thread) (i : TaskInfo), s.Traps t → t.ctx.status.spl = false → t.ctx.status.met = false →
    (t.task = some i → t.ctx.status.fnd = false → exec .done s = .next (s.trapped t 1 0 (s.ir.zeroExtend 64) t.ctx.ip)) ∧
    exec .abort s = .next (s.trapped t 1 0 (s.ir.zeroExtend 64) t.ctx.ip)) ∧
  (∀ (s : State) (t : Thread), s.Free t → s.yieldFrame t = none →
    encodeNat .yield = some (wordFA 0x24 2 0 0 0 0) ∧ exec .yield s = .next (s.went t t.ctx.past)) ∧
  (∀ (s : State) (t : Thread) (i : TaskInfo), s.Resides t → t.task = some i → t.ctx.status.fnd = true → i.seatCore = s.here →
    s.Unbound t.tid →
    let st := s.seatOf i
    let f := st.frame
    st.image.isSplit = false → st.live = 1 → st.scratchUnits = 0 → f ≠ 0 → f.toNat + 256 ≤ s.privSize s.here → s.Roomy st.image.prio →
    (s.mayDepart = false → exec .yield s = .next (s.waitsIn (.step 15))) ∧
    (s.mayDepart = true →
      let ip := t.ctx.ip + 4
      let u1 := s.putBytes (s.homeKey f + 128) (bytesOf t.ctx.past.words)
      let saved := ofBytes (u1.bytes (s.homeKey f + 8) 8) ||| 128
      let u2 := (u1.putBytes (s.homeKey f) (toBytes ip.toNat 8)).putBytes (s.homeKey f + 8) (toBytes saved 8)
      let u3 := (u2.modCore s.here (fun o =>
        { o with
          cmds := o.cmds.map (fun d => if d.seat = some i.seat then { d with seat := some (yieldedSeat (2 ^ 48 + f.toNat)) } else d)
          seats := o.seats.set i.seat {} })).emptySlot s.here s.slotNo
      let flags := st.image.flags ||| 128
      exec .yield s = .next (u3.queues s.here st.image.prio
        { image := { st.image with entry := ip, flags }, frame := f }))) ∧
  (∀ (s : State) (t : Thread) (i : TaskInfo), s.Runs t → t.ctx.status.met = false → t.ctx.status.spl = true → t.ctx.status.fnd = true →
    t.task = some i →
    let r := Rec.ofWords (wordsOf (s.bytes (localKey i.seatCore (s.seatOf i).scratchBase) 128))
    let u := s.endTask i.seatCore i.seat
    (s.incsDone s.here s.slotNo = true →
      let v := (s.modSeat i.seatCore i.seat (fun st => { st with state := 2, step := 1, finishing := true })).waitsIn .commit
      exec .done s = .next v ∧ exec .quit s = .next v) ∧
    encodeNat .abort = some (wordFA 0x24 4 0 0 0 0) ∧
    (r.halves = none → exec .abort s = .next (u.grainFault i.seatCore r 3 0)) ∧
    (∀ lo hi, r.halves = some (lo, hi) → exec .abort s = .next (u.increment i.seatCore r.launchNo 1 false none
      [.pushHead r.prio { image := lo.child }, .pushTail r.prio { image := hi.child }])))

/-- R140: a record that can be halved is cut in the dimension with most grain units, the lowest on a tie, after half of them, rounded
down; the halves share nothing, cover the domain, and differ from the record nowhere else. -/
def Obligations.HalvesCoverTheDomain : Prop :=
  ∀ (r lo hi : Rec), r.halves = some (lo, hi) →
    ∃ i < r.dims, 2 ≤ r.units i ∧ (∀ j < r.dims, r.units j ≤ r.units i) ∧ (∀ j < i, r.units j < r.units i) ∧
      domLo (lo.dom i) = domLo (r.dom i) ∧ domHi (lo.dom i) = domLo (hi.dom i) ∧ domHi (hi.dom i) = domHi (r.dom i) ∧
      domLo (hi.dom i) = domLo (r.dom i) + r.grain i * (r.units i / 2) ∧
      (∀ j < 3, j ≠ i → lo.dom j = r.dom j ∧ hi.dom j = r.dom j) ∧
      lo = r.setDom i (lo.dom i) ∧ hi = r.setDom i (hi.dom i)

/-- R354 and R357: `spawn` to a core sends its token and waits for the reply; `alloc` takes n bytes, rounded up to a multiple of 8, from the
low end of the task's scratch, and gives 0 where there are none.
R151 and R359: `join` takes 1 from the count of a roll-call cell; the joiner that reaches 0 goes on at the cell's continuation, without its
low two bits (DESIGN CHOICE, log 104), and any other quits.
R150 and R358: `fork` gives in d the count k, the smaller of the grains of n and of the cores that it counts, 0 for n = 0; for k > 0 it
stores k in the roll-call cell, when the template names one, claims the cores, and releases the k children, its own at the tail of its queue
and every other on VC2, here for a thread of no launch, whose increments need no acknowledgement. -/
def Obligations.TasksSpawnAllocJoinAndFork : Prop :=
  (∀ (d a b : Reg) (s : State) (t : Thread), s.Free t → plain [d, a, b] = true → (t.ctx.get b).toNat % 4 = 0 →
    s.Reaches t (t.ctx.get a) →
    encodeNat (.spawn d a b) = some (wordFA 0x24 0 d a b 0) ∧
    (s.mayDepart = true → exec (.spawn d a b) s = .next (s.spawning t d (t.ctx.get a).toNat (t.ctx.get b))) ∧
    (s.mayDepart = false → exec (.spawn d a b) s = .next (s.waitsIn (.step 15)))) ∧
  (∀ (d a : Reg) (s : State) (t : Thread), s.Runs t → t.ctx.status.met = false → plain [d, a] = true →
    let n := ((t.ctx.get a).toNat + 7) / 8 * 8
    encodeNat (.alloc d a) = some (wordFA 0x24 5 d a 0 0) ∧
    (t.task = none → exec (.alloc d a) s = .next (s.went t (t.ctx.put d 0).past)) ∧
    (∀ i, t.task = some i →
      let st := s.seatOf i
      let floor := if st.image.isSplit then st.logEnd else 0
      (st.scratchUnits = 0 → exec (.alloc d a) s = .next (s.went t (t.ctx.put d 0).past)) ∧
      (st.scratchUnits ≠ 0 → floor + n ≤ st.lowRes → exec (.alloc d a) s = .next
        ((s.modSeat i.seatCore i.seat (fun st => { st with lowRes := st.lowRes - n })).went t
          (t.ctx.put d (BitVec.ofNat 64 (st.scratchBase + (st.lowRes - n)))).past)) ∧
      (st.scratchUnits ≠ 0 → st.lowRes < floor + n → st.image.isSplit = false →
        exec (.alloc d a) s = .next (s.went t (t.ctx.put d 0).past)))) ∧
  (∀ (a : Reg) (s : State) (t : Thread), s.Resides t → plain [a] = true → s.Private (t.ctx.get a) 16 → (t.ctx.get a).toNat % 16 = 0 →
    let key := s.homeKey (t.ctx.get a)
    let left := (ofBytes (s.bytes key 8) + 2 ^ 64 - 1) % 2 ^ 64
    let u := s.putBytes key (toBytes left 8)
    encodeNat (.join a) = some (wordFA 0x24 7 0 a 0 0) ∧
    (left = 0 → exec (.join a) s = .next (u.went t (t.ctx.goTo (ipOf (BitVec.ofNat 64 (ofBytes (s.bytes (key + 8) 8))))))) ∧
    (left ≠ 0 → s.mayDepart = true → s.Unbound t.tid → exec (.join a) s = .next (u.quits t))) ∧
  (∀ (d a b : Reg) (s : State) (t : Thread), s.Resides t → plain [d, a, b] = true → t.task = none →
    s.Private (t.ctx.get b) 128 → (t.ctx.get b).toNat % 128 = 0 → (t.ctx.get a).toNat < 2 ^ 32 → s.mayDepart = true →
    let r := s.recordHere (t.ctx.get b)
    let n := (t.ctx.get a).toNat
    let cores := s.forkCores s.here
    let k := min ((n + r.grain 0 - 1) / r.grain 0) cores.length
    (r.isSplit = true → r.dims ≠ 0) → r.grain 0 ≠ 0 →
    encodeNat (.fork d a b) = some (wordFA 0x24 6 d a b 0) ∧
    (n = 0 → exec (.fork d a b) s = .next (s.went t (t.ctx.put d 0).past)) ∧
    (0 < k → (r.cell ≠ 0 → r.cell.toNat + 8 ≤ s.privSize s.here) →
      let kids := ((List.range k).map (fun i =>
        { r with dom0 := domWord (i * n / k) ((i + 1) * n / k), launch := 0, fmta := t.ctx.fmta, fmtb := t.ctx.fmtb, parent := 0 })).zip cores
      let u1 := if r.cell = 0 then s else s.putBytes (s.homeKey r.cell) (toBytes k 8)
      let u2 := kids.foldl (fun u x => if x.2 = s.here then u else u.modCore x.2 (fun o => { o with claimed := true })) u1
      let u3 := kids.foldl (fun u x => if x.2 = s.here then u.pushTail s.here x.1.prio { image := x.1 }
        else u.send { src := s.here, dst := x.2, vc := 2, tag := s.tagOf s.here, part := s.partTag s.here, load := .forkChild x.1 }) u2
      exec (.fork d a b) s = .next (u3.went t (t.ctx.put d (BitVec.ofNat 64 k)).past)))

/-! ## `wake`, queues, mailboxes, barriers -/

/-- R360 (with R230 and R232): the park form is dropped below supervisor level and where no record of the core holds the thread, and
otherwise frees the record and puts its context, as the record's bytes now stand, into the arrival queue; the notice form sends a kind-5
notice; the copy forms send the command id to its core. The rows that share the word do the same. -/
def Obligations.WakeForms : Prop :=
  (∀ (a : Reg) (s : State) (t : Thread), s.Runs t → plain [a] = true →
    let v := t.ctx.get a
    encodeNat (.wakePark a) = some (wordFA 0x24 8 0 a 0 0) ∧
    (v.toNat % 2 ^ 32 ≠ 0 → v.toNat / 2 ^ 32 = 0 →
      (t.ctx.status.sup = false ∨ (s.core s.here).parkOf (v.truncate 32) = none → exec (.wakePark a) s = .next (s.went t t.ctx.past)) ∧
      (∀ n h, t.ctx.status.sup = true → (s.core s.here).parkOf (v.truncate 32) = some (n, h) → h.task = none →
        s.running.park = none → (s.core s.here).arrivals.length < 8 → (∀ i ∈ ((s.core s.here).ring 0).items, i.context = none) →
        (∀ k < 8, ∀ va cls kind, (s.slot s.here k).park ≠ some (.fault va cls kind)) →
        let base := (s.core s.here).upv.toNat / 2 ^ 12 % 2 ^ 4 * 4096
        let x := Ctx.ofWords (wordsOf (s.bytes (localKey s.here (base + 256 * n)) 128))
        let back : Traveller :=
          { src := s.here, dst := s.here, vc := 0, tag := s.tagOf s.here, part := s.partTag s.here,
            load := .context { h with ctx := x } none none }
        exec (.wakePark a) s = .next ((s.modCore s.here (fun o =>
          { o with parkUsed := eraseNat o.parkUsed n, parked := o.parked.del n, arrivals := o.arrivals ++ [back] })).went t t.ctx.past)))) ∧
  (∀ (a : Reg) (s : State) (t : Thread), s.Runs t → plain [a] = true →
    let v := t.ctx.get a
    let far := v.toNat / 2 ^ 8 % 2 ^ 24
    (v.getLsbD 63 = false → v.getLsbD 32 = true → v.toNat % 2 ^ 32 ≠ 0 → v.toNat / 2 ^ 37 = 0 → t.ctx.status.spl = false →
      s.inGroup s.here far = true → s.mayDepart = true →
      exec (.wakePark a) s = .next
        ((s.tells far (s.tagOf s.here) (.wake (v.toNat / 2 ^ 33 % 2 ^ 4) (noticeWord 5 0 t.tid.toNat))).went t t.ctx.past)) ∧
    (v.getLsbD 63 = true → t.ctx.status.sup = true → s.mayDepart = true →
      exec (.wakePark a) s = .next ((s.tells (v.toNat / 2 ^ 24 % 2 ^ 24) (s.tagOf s.here)
        (.wakeCopy (v.toNat % 2 ^ 48) (v.getLsbD 62))).went t t.ctx.past))) ∧
  (∀ (s : State) (t : Thread), s.Runs t → plain [s.irA] = true → t.ctx.status.spl = false → s.mayDepart = true →
    let v := t.ctx.get s.irA
    let far := v.toNat / 2 ^ 8 % 2 ^ 24
    v.toNat % 2 ^ 32 ≠ 0 → v.toNat / 2 ^ 37 = 0 → s.inGroup s.here far = true →
    exec .wakeNotice s = .next
      ((s.tells far (s.tagOf s.here) (.wake (v.toNat / 2 ^ 33 % 2 ^ 4) (noticeWord 5 0 t.tid.toNat))).went t t.ctx.past)) ∧
  (∀ (s : State) (t : Thread), s.Runs t → plain [s.irA] = true → t.ctx.status.sup = true → s.mayDepart = true →
    let v := t.ctx.get s.irA
    let wakes := fun abandon => (s.tells (v.toNat / 2 ^ 24 % 2 ^ 24) (s.tagOf s.here)
      (.wakeCopy (v.toNat % 2 ^ 48) abandon)).went t t.ctx.past
    exec .wakeCopyResume s = .next (wakes false) ∧ exec .wakeCopyAbandon s = .next (wakes true))

/-- R361 and R362: `tsk` of a record in private memory sends its token to the record's home, after the acknowledgement of the increment
where the task has a launch; `qpush` puts a plain record with its address at the tail of a priority; `qpop` takes the oldest entry of the
highest priority that has one, in its queue part or else in its overflow part, and gives its address, or 0; `qlen` counts.
R363, R364 and R206: `recv` and `mpoll` take the oldest notice of the lowest-numbered mailbox of the set that has one; when there is
none, `mpoll` gives 0 and `recv` waits in event 6; a mask of 0, or with a bit above bit 15, traps. `mbind` binds a mailbox to a copy of the
record at X(b), with the issuer's launch, or unbinds it. -/
def Obligations.QueueAndMailboxInstructions : Prop :=
  (∀ (a b : Reg) (s : State) (t : Thread), s.Resides t → plain [a, b] = true → (t.ctx.get a).toNat + 32 ≤ s.privSize s.here →
    (t.ctx.get a).toNat % 128 = 0 → (t.ctx.get b).toNat ≤ 3 →
    let home := s.homeKey (t.ctx.get a)
    let launch := t.ofTask (·.launch)
    encodeNat (.tsk a b) = some (wordFA 0x24 9 0 a b 0) ∧
    (s.mayDepart = true → exec (.tsk a b) s = .next ((s.increment s.here (launch.toNat % 2 ^ 32) 1 false (some t.tid)
      [.send { src := s.here, dst := coreOfKey home, vc := 2, tag := s.tagOf s.here, part := s.partTag s.here,
               load := .task home (t.ctx.get a) (t.ctx.get b).toNat launch (t.ofTask (·.task)) }]).went t t.ctx.past)) ∧
    (s.mayDepart = false → exec (.tsk a b) s = .next (s.waitsIn (.step 15)))) ∧
  (∀ (a b : Reg) (s : State) (t : Thread), s.Resides t → plain [a, b] = true → (t.ctx.get a).toNat + 32 ≤ s.privSize s.here →
    (t.ctx.get a).toNat % 128 = 0 → (s.core s.here).isRing5 (t.ctx.get a).toNat = false → (s.recordHere (t.ctx.get a)).isSplit = false →
    let p := (t.ctx.get b).toNat
    p ≤ 3 → s.Roomy p →
    encodeNat (.qpush a b) = some (wordFA 0x25 0 0 a b 0) ∧
    exec (.qpush a b) s = .next ((s.modCore s.here (fun o =>
      (o.putQueue p (o.queue p ++ [{ image := s.recordHere (t.ctx.get a), frame := t.ctx.get a }])).gotWork)).went t t.ctx.past)) ∧
  (∀ (d : Reg) (s : State) (t : Thread), s.Free t → t.bounded s.here = false → plain [d] = true →
    encodeNat (.qpop d) = some (wordFA 0x25 1 d 0 0 0) ∧
    ((s.core s.here).topPrio = none → exec (.qpop d) s = .next (s.went t (t.ctx.put d 0).past)) ∧
    (∀ p e l, (s.core s.here).topPrio = some p → s.ringsRead s.here = true → (s.core s.here).queue p = e :: l →
      e.image.isSplit = false → e.frame ≠ 0 →
      exec (.qpop d) s = .next ((s.modCore s.here (fun o => o.putQueue p l)).went t (t.ctx.put d e.frame).past)) ∧
    (∀ p x e l, (s.core s.here).topPrio = some p → s.ringsRead s.here = true → (s.core s.here).queue p = [] →
      s.spilled s.here p = (x, e) :: l → e.image.isSplit = false → e.frame ≠ 0 →
      exec (.qpop d) s = .next ((s.modCore s.here (fun o =>
        { o with rings := o.rings.set p { o.ring p with items := (o.ring p).items.erase x } })).went t (t.ctx.put d e.frame).past))) ∧
  (∀ (d b : Reg) (s : State) (t : Thread), s.Runs t → plain [d, b] = true → (t.ctx.get b).toNat ≤ 4 →
    let o := s.core s.here
    let n := (t.ctx.get b).toNat
    encodeNat (.qlen d b) = some (wordFA 0x25 2 d 0 b 0) ∧
    exec (.qlen d b) s = .next (s.went t (t.ctx.put d (BitVec.ofNat 64
      (if n ≤ 3 then o.countAt n else o.countAt 0 + o.countAt 1 + o.countAt 2 + o.countAt 3))).past)) ∧
  (∀ (d a : Reg) (s : State) (t : Thread), s.Free t → plain [d, a] = true → s.RinglessMail →
    let mask : BitVec 16 := (t.ctx.get a).truncate 16
    t.ctx.get a ≠ 0 → (t.ctx.get a).toNat < 2 ^ 16 →
    encodeNat (.recv d a) = some (wordFA 0x26 0 d a 0 0) ∧ encodeNat (.mpoll d a) = some (wordFA 0x26 1 d a 0 0) ∧
    (∀ n w l, n < 16 → mask.getLsbD n = true → (∀ j < n, mask.getLsbD j = true → ((s.core s.here).mailbox j).fifo = []) →
      ((s.core s.here).mailbox n).fifo = w :: l →
      let u := (s.modCore s.here (fun o => { o with mailboxes := o.mailboxes.set n { o.mailbox n with fifo := l } })).went t
        (t.ctx.put d w).past
      exec (.recv d a) s = .next u ∧ exec (.mpoll d a) s = .next u) ∧
    ((∀ j < 16, mask.getLsbD j = true → ((s.core s.here).mailbox j).fifo = []) →
      exec (.recv d a) s = .next ((s.waitsIn (.recv d a mask s.stamp)).stampUp) ∧
      exec (.mpoll d a) s = .next (s.went t (t.ctx.put d 0).past))) ∧
  (∀ (d a : Reg) (s : State) (t : Thread), s.Traps t → t.ctx.status.met = false → plain [d, a] = true →
    (t.ctx.get a = 0 ∨ 2 ^ 16 ≤ (t.ctx.get a).toNat) →
    exec (.recv d a) s = .next (s.trapped t 4 1 0 t.ctx.ip) ∧ exec (.mpoll d a) s = .next (s.trapped t 4 1 0 t.ctx.ip)) ∧
  (∀ (a b : Reg) (s : State) (t : Thread), s.Resides t → plain [a, b] = true → (t.ctx.get a).toNat ≤ 15 →
    let n := (t.ctx.get a).toNat
    let va := t.ctx.get b
    let bound := fun (e : Option QEntry) =>
      (s.modCore s.here (fun o => { o with mailboxes := o.mailboxes.set n { o.mailbox n with bound := e } })).went t t.ctx.past
    encodeNat (.mbind a b) = some (wordFA 0x26 2 0 a b 0) ∧
    (va = 0 → exec (.mbind a b) s = .next (bound none)) ∧
    (va ≠ 0 → va.toNat % 128 = 0 → va.toNat + 32 ≤ s.privSize s.here → (s.core s.here).isRing5 va.toNat = false →
      exec (.mbind a b) s = .next (bound (some
        { image := { s.recordHere va with launch := t.ofTask (·.launch) },
          frame := if (s.recordHere va).isSplit then 0 else va }))))

/-- R365 to R369: `barn` arrives and goes on, `bar` arrives and waits in event 7 for the generation to change, once its slot's stores are
out; `barg` gives the generation; `barw` waits only while the generation is the one in X(a); `barset` sets the participant count, of the
wider scopes by a signal to the root, for which it waits in event 12. An arrival at a wider scope is a signal to the root. That `core` and
`quad` arrivals and participant counts act in the issuing turn is log 60 (DEDUCED). -/
def Obligations.BarrierInstructions : Prop :=
  (∀ (sc : BitVec 3) (n : BitVec 4) (s : State) (t : Thread), s.Runs t → t.ctx.status.met = false →
    s.barCount s.here sc.toNat n.toNat ≠ 0 →
    (s.drained = true →
      exec (.barn sc n) s = .next ((s.went t t.ctx.past).arriveBar s.here sc.toNat n.toNat) ∧
      exec (.bar sc n) s = .next ((s.waitsIn (.barrier sc.toNat n.toNat (s.barGen s.here sc.toNat n.toNat) [])).arriveBar s.here sc.toNat n.toNat)) ∧
    (s.drained = false →
      exec (.barn sc n) s = .next (s.waitsIn (.step 15)) ∧ exec (.bar sc n) s = .next (s.waitsIn (.step 15)))) ∧
  (∀ (sc : BitVec 3) (n : BitVec 4) (s : State) (t : Thread), s.Traps t → t.ctx.status.met = false →
    s.barCount s.here sc.toNat n.toNat = 0 →
    exec (.barn sc n) s = .next (s.trapped t 4 1 0 t.ctx.ip) ∧ exec (.bar sc n) s = .next (s.trapped t 4 1 0 t.ctx.ip)) ∧
  (∀ (a : Reg) (sc : BitVec 3) (n : BitVec 4) (s : State) (t : Thread), s.Runs t → plain [a] = true →
    let g := s.barGen s.here sc.toNat n.toNat
    exec (.barg a sc n) s = .next (s.went t (t.ctx.put a (g.zeroExtend 64)).past) ∧
    (t.ctx.status.met = false → exec (.barw a sc n) s = .next
      (if g = (t.ctx.get a).truncate 16 then s.waitsIn (.barrier sc.toNat n.toNat g [a]) else s.went t t.ctx.past))) ∧
  (∀ (a : Reg) (sc : BitVec 3) (n : BitVec 4) (s : State) (t : Thread), s.Runs t → t.ctx.status.met = false → plain [a] = true →
    let count := (t.ctx.get a).toNat
    1 ≤ count →
    (sc = 0 → count ≤ 8 → exec (.barset a sc n) s = .next ((s.went t t.ctx.past).coreBar s.here n.toNat (·.take count))) ∧
    (sc = 1 → count ≤ 32 → exec (.barset a sc n) s = .next ((s.went t t.ctx.past).quadBar s.here n.toNat (·.take count))) ∧
    (∀ p, s.partOf s.here = some p → t.ctx.status.sup = true → 2 ≤ sc.toNat → sc.toNat ≤ 4 →
      count ≤ (if sc = 2 then 65536 else if sc = 3 then 524288 else 134217728) →
      exec (.barset a sc n) s = .next ((s.waitsIn .barset).send
        { src := s.here, dst := barRoot (moduleOf s.here) (dieOf s.here) sc.toNat, vc := 3, part := p,
          load := .barSet sc.toNat n.toNat p count s.slotNo }))) ∧
  (∀ (s : State) (c n : Nat),
    s.arriveBar c 0 n = s.coreBar c n (·.arrive 1) ∧ s.arriveBar c 1 n = s.quadBar c n (·.arrive 1) ∧
    (∀ scope p, 2 ≤ scope → s.partOf c = some p → s.arriveBar c scope n =
      s.send { src := c, dst := barRoot (moduleOf c) (dieOf c) scope, vc := 3, part := p, load := .barArrive scope n p 1 }))

/-- R193, R367, R369 and R422: an arrival counts, and the last of a round adds 1 to the generation and starts the count again; a new
participant count that the arrivals have reached completes the round; a `core` barrier whose generation leaves a waiting slot's lets that
slot go on past its instruction, and changes no other slot; a changed generation at a root is released to its die, or to every die, whose
copies take it, in one event for a die (DEDUCED, log 59); combined arrivals count one after another, each with its release; the relays of a
pod group pass arrivals, counts and releases on. -/
def Obligations.BarrierRounds : Prop :=
  (∀ (b : Barrier), b.arrived < b.count → b.arrive 1 =
    if b.arrived + 1 = b.count then { b with arrived := 0, gen := b.gen + 1 } else { b with arrived := b.arrived + 1 }) ∧
  (∀ (b : Barrier) (k : Nat), b.take k =
    if k ≠ b.count ∧ k ≤ b.arrived then { count := k, arrived := 0, gen := b.gen + 1 } else { b with count := k }) ∧
  (∀ (s : State) (c n k : Nat) (f : Barrier → Barrier), k < 8 →
    let b := f (((s.core c).barriers.get n).getD {})
    ((s.slot c k).waitsBar 0 n = none → (s.coreBar c n f).slot c k = s.slot c k) ∧
    (∀ g srcs, (s.slot c k).waitsBar 0 n = some (g, srcs) → plain srcs = true → (s.coreBar c n f).slot c k =
      if g = b.gen then s.slot c k else
        { s.slot c k with park := none, thread := (s.slot c k).thread.map (fun t => { t with ctx := t.ctx.past }) })) ∧
  (∀ (s : State) (m p scope n die : Nat) (f : Barrier → Barrier),
    let key := (scope * 16 + n) * 8 + if scope = 2 then die else 0
    let old := ((s.part m p).bars.get key).getD {}
    let u := s.modPart m p (fun q => { q with bars := q.bars.set key (f old) })
    let release := fun (u : State) d => u.send { src := barRoot m die scope, dst := coreId m d 0 0, vc := 3, part := p,
                                                 load := .barRelease scope n p (f old).gen }
    ((f old).gen = old.gen → s.rootChange m p scope n die f = u) ∧
    ((f old).gen ≠ old.gen → scope = 2 → s.rootChange m p scope n die f = release u die) ∧
    ((f old).gen ≠ old.gen → scope = 3 → s.rootChange m p scope n die f = (List.range 8).foldl release u)) ∧
  (∀ (s : State) (x : Traveller) (scope n p : Nat), s.arriving s.args.n = some x →
    let u := s.landed s.args.n x
    let m := moduleOf x.dst
    let atRoot := scope ≠ 4 ∨ u.podRoot m p = m
    let pass := fun (u : State) (load : Payload) =>
      u.send { src := x.dst, dst := barRoot (u.podRoot m p) 0 4, vc := 3, part := p, load }
    (∀ k, x.load = .barArrive scope n p k →
      (atRoot → exec .barrierArrivalAtRoot s =
        .next ((List.range k).foldl (fun u _ => u.rootChange m p scope n (dieOf x.dst) (·.arrive 1)) u)) ∧
      (¬ atRoot → s.args.ok = false → exec .podRelayForward s = .next (pass u (.barArrive 4 n p k))) ∧
      (¬ atRoot → s.args.ok = true → ∃ more v, exec .podRelayForward s = .next (pass v (.barArrive 4 n p (k + more))) ∧
        (∀ y ∈ v.net, y ∈ u.net) ∧ v = { u with net := v.net, modules := v.modules })) ∧
    (∀ gen, x.load = .barRelease scope n p gen →
      (moduleOf x.src = m → exec .barrierReleaseArrival s = .next ((u.modPart m p (fun q =>
        { q with copies := q.copies.set ((scope * 16 + n) * 8 + dieOf x.dst) gen })).freeDie m (dieOf x.dst) p scope n gen)) ∧
      (moduleOf x.src ≠ m → scope = 4 → exec .podRelayForward s = .next (u.releaseDies x.dst m p 4 n 0 gen))) ∧
    (∀ count slot, x.load = .barSet scope n p count slot →
      let r := u.rootChange m p scope n (dieOf x.dst) (·.take count)
      (atRoot → (r.slot x.src slot).park = some .barset → exec .barsetRootTake s = .next (r.advanceAt x.src slot)) ∧
      (atRoot → (r.slot x.src slot).park ≠ some .barset → exec .barsetRootTake s = .next r) ∧
      (¬ atRoot → exec .podRelayForward s = .next (u.send { x with dst := barRoot (u.podRoot m p) 0 4 }))))

/-! ## Special registers and the system group -/

/-- R309 and R371: `srd` gives the register's value, `lmsplit`, `mbst` and the luggage aliases among them; a register that only the
supervisor reads traps with cause 2 at user level, and an index that names no register with cause 1.
R309 and R371: `swr` stores a register's writable bits and nothing else; `fcsr` takes its 8 bits, `ptbase` an aligned address of space 0,
`mbst` loses the bits written as 1, `lmsplit` and `tlbinv` wait in event 9; a register without a write is left, at user level with a trap
of cause 2. -/
def Obligations.SpecialRegisterReadsAndWrites : Prop :=
  (∀ e ∈ tableSreg, ∀ (a : Reg) (s : State) (t : Thread), s.Runs t → plain [a] = true → (e.2.1 = true → t.ctx.status.sup = true) →
    encodeNat (.srd e.1 a) = some (wordFS 0x28 e.1.toNat a.toNat 0 0) ∧
    exec (.srd e.1 a) s = .next (s.went t (t.ctx.put a (e.2.2 s t)).past)) ∧
  (∀ (a : Reg) (s : State) (t : Thread), s.Runs t → plain [a] = true → isHead s.here = false →
    exec (.srd 0x030 a) s = .next (s.went t (t.ctx.put a (BitVec.ofNat 64 ((s.core s.here).lmsplitCache * 256 +
      (s.core s.here).lmsplitCom * 16 + (12 - (s.core s.here).lmsplitCom - (s.core s.here).lmsplitCache)))).past) ∧
    exec (.srd 0x039 a) s = .next (s.went t (t.ctx.put a (s.core s.here).mbst).past) ∧
    exec (.srd 0x021 a) s = .next (s.went t (t.ctx.put a (match s.running.meet with
      | none => 0
      | some m => if m.first then 0x20000 else 0x21000)).past) ∧
    exec (.srd 0x022 a) s = .next (s.went t (t.ctx.put a (match s.running.meet with
      | none => 0
      | some m => if m.first then 0x21000 else 0x20000)).past)) ∧
  (∀ (i : BitVec 10) (a : Reg) (s : State) (t : Thread), s.Traps t → plain [a] = true →
    ((∃ e ∈ tableSreg, e.1 = i ∧ e.2.1 = true) → exec (.srd i a) s = .next (s.trapped t 2 0 (s.ir.zeroExtend 64) t.ctx.ip)) ∧
    ((∀ e ∈ tableSreg, e.1 ≠ i) → i ∉ [0x021, 0x022, 0x030, 0x039] →
      exec (.srd i a) s = .next (s.trapped t 1 0 (s.ir.zeroExtend 64) t.ctx.ip))) ∧
  (∀ e ∈ tableSwr, ∀ (a : Reg) (s : State) (t : Thread), s.Runs t → plain [a] = true → (e.2.1 = true → t.ctx.status.sup = true) →
    t.bounded s.here = false →
    encodeNat (.swr e.1 a) = some (wordFS 0x29 e.1.toNat a.toNat 0 0) ∧
    exec (.swr e.1 a) s = .next ((s.modCore s.here (fun o => e.2.2.2 o (t.ctx.get a &&& e.2.2.1))).went t t.ctx.past)) ∧
  (∀ e ∈ tableSwrSlot, ∀ (a : Reg) (s : State) (t : Thread), s.Runs t → plain [a] = true → (e.2.1 = true → t.ctx.status.sup = true) →
    exec (.swr e.1 a) s = .next ((s.modRunning (fun l => e.2.2.2 l (t.ctx.get a &&& e.2.2.1))).went t t.ctx.past)) ∧
  (∀ (a : Reg) (s : State) (t : Thread), s.Runs t → plain [a] = true →
    let v := t.ctx.get a
    (v.toNat % 2 ^ 8 < 128 → exec (.swr 0x050 a) s =
      .next (s.went t (Ctx.past { t.ctx with status := { t.ctx.status with fcs := v.truncate 8 } }))) ∧
    (t.bounded s.here = false → exec (.swr 0x039 a) s = .next ((s.modCore s.here (fun o =>
      { o with mbLost := o.mbLost &&& ~~~(v.extractLsb' 48 16), mbOvf := o.mbOvf &&& ~~~(v.extractLsb' 32 16) })).went t t.ctx.past)) ∧
    (t.ctx.status.sup = true →
      (v.toNat % 2 ^ 14 = 0 → v.toNat < 2 ^ 52 → spaceOf v.toNat = 0 →
        exec (.swr 0x061 a) s = .next ((s.modCore s.here (fun o => { o with ptbase := v })).went t t.ctx.past)) ∧
      (isHead s.here = false → v.toNat / 16 % 16 ≤ 4 → v.toNat / 16 % 16 + v.toNat / 256 % 16 ≤ 12 →
        exec (.swr 0x030 a) s = .next (s.waitsIn (.lmsplit v))) ∧
      (v.toNat / 2 ^ 61 % 4 ≠ 3 → s.drained = true → exec (.swr 0x062 a) s = .next (s.waitsIn (.tlbinv v))) ∧
      (isHead s.here = false → exec (.swr 0x031 a) s = .next ((s.modCore s.here (fun o => { o with qgroup := v &&& 1 })).went t t.ctx.past)) ∧
      exec (.swr 0x064 a) s = .next ((s.modCore s.here (fun o =>
        { o with smpc := v &&& 0x03FF0000FFFFFFFF, smpNext := 0 })).went t t.ctx.past) ∧
      (∀ i ∈ readOnlySregs, exec (.swr i a) s = .next (s.went t t.ctx.past)))) ∧
  (∀ (i : BitVec 10) (a : Reg) (s : State) (t : Thread), s.Traps t → plain [a] = true →
    (i ∈ readOnlySregs ∨ i ∈ [0x030, 0x031, 0x061, 0x062, 0x064] ∨ (∃ e ∈ tableSwr, e.1 = i ∧ e.2.1 = true) ∨
        (∃ e ∈ tableSwrSlot, e.1 = i ∧ e.2.1 = true) →
      exec (.swr i a) s = .next (s.trapped t 2 0 (s.ir.zeroExtend 64) t.ctx.ip)) ∧
    (t.birth ≠ s.here → i ∈ [0x032, 0x033, 0x037, 0x039] → exec (.swr i a) s = .next (s.trapped t 4 6 0 t.ctx.ip)))

/-- R372 to R375 (with R226 and R250): `trap` and `brk` enter the handler with cause 13, its code and the next address, or cause 10; `isync`
empties the fetch buffer; `blk` starts a block, or traps with cause 9 when the block before it does not match; `rte` restores ip, which holds
a word address (log 104), predicates and status from `eip` and `estat`; below supervisor level it traps with cause 2. -/
def Obligations.SystemInstructions : Prop :=
  (∀ (k : BitVec 8) (s : State) (t : Thread), s.Traps t →
    encodeNat (.trap k) = some (wordFS 0x2A 0 0 0 k.toNat) ∧ encodeNat .brk = some (wordFS 0x2A 2 0 0 0) ∧
    exec (.trap k) s = .next (s.trapped t 13 0 (k.zeroExtend 64) (t.ctx.ip + 4)) ∧
    exec .brk s = .next (s.trapped t 10 0 0 t.ctx.ip) ∧
    exec .rte s = .next (s.trapped t 2 0 (s.ir.zeroExtend 64) t.ctx.ip) ∧
    (∀ h : BitVec 16, s.running.sigst.getLsbD 32 = true →
      s.running.sigst.extractLsb' 0 16 ≠ s.running.sigst.extractLsb' 16 16 →
      exec (.blk h) s = .next (s.trapped t 9 0 ((s.running.sigst.extractLsb' 0 32).zeroExtend 64) t.ctx.ip))) ∧
  (∀ (s : State) (t : Thread), s.Runs t →
    exec .isync s = .next ((s.modRunning (fun l => { l with fetch := [] })).went t t.ctx.past) ∧
    (∀ h : BitVec 16, s.running.sigst.getLsbD 32 = false ∨ s.running.sigst.extractLsb' 0 16 = s.running.sigst.extractLsb' 16 16 →
      exec (.blk h) s = .next ((s.modRunning (fun l =>
        { l with sigst := BitVec.ofNat 64 (2 ^ 32 + h.toNat * 2 ^ 16) })).went t t.ctx.past))) ∧
  (∀ (s : State) (t : Thread), s.Runs t → t.ctx.status.sup = true → t.ctx.status.met = false → s.running.estat.getLsbD 16 = false →
    encodeNat .rte = some (wordFS 0x2A 1 0 0 0) ∧
    exec .rte s = .next (s.modRunning (fun l =>
      { l with thread := some { t with ctx :=
        { t.ctx with
          ip := ipOf s.running.eip
          p := s.running.estat.extractLsb' 48 16 ||| 1
          status := Status.ofWord (s.running.estat &&& 0xFFFF) } } })))

/-- R226, R261 and R373: a thread that takes the trap of a `trap` instruction, and whose handler executes `rte` at once, is again what it
was, past the instruction; its ip was a word address, as R293 has it. -/
def Obligations.TrapThenReturnRestoresTheThread : Prop :=
  ∀ (k : BitVec 8) (s : State) (t : Thread), s.Traps t → t.ctx.status.met = false → t.ctx.p.getLsbD 0 = true →
    t.ctx.ip.toNat % 4 = 0 → ∃ u v, exec (.trap k) s = .next u ∧ exec .rte u = .next v ∧ v.Runs { t with ctx := t.ctx.past } ∧
      (∀ c, (v.core c).ivec = (s.core c).ivec) ∧ v.mem = s.mem

/-- R234, R236 and R376: `ctxsv` begins its sequence: `ctxid` becomes 0, the core's tag gets a held buffer behind the record, and only its
own slot stays active, waiting in event 14; `ctxrs` writes the record's registers back, sets `ctxid` to the record's tag and the fairness
counters to 0, drops the tag's held buffer, and goes on. -/
def Obligations.ContextSwitch : Prop :=
  (∀ (a : Reg) (s s1 : State) (t : Thread) (p : Place) (n : Nat), s.Runs t → plain [a] = true → t.ctx.status.sup = true →
    t.ctx.status.met = false →
    let va := t.ctx.get a
    s.recordAt t va .store = (s1, .places [(p, n)]) →
    let size := (s1.word (p.key + 8)).toNat
    size % 4096 = 0 → 4096 ≤ size → size ≤ 2 ^ 24 → (s1.core s.here).held.length < 8 →
    encodeNat (.ctxsv a) = some (wordFS 0x2A 5 a.toNat 0 0) ∧
    exec (.ctxsv a) s = .next ((s1.modCore s.here (fun o =>
      { o with
        switching := some s.slotNo
        held := o.held ++ [{ tag := o.ctxid, buffer := va + 32768, home := p.key + 32768, length := size }]
        ctxid := 0
        streams := o.streams.map Stream.ended })).waitsIn (.ctxsv va))) ∧
  (∀ (a : Reg) (s s1 : State) (t : Thread) (p : Place) (n : Nat), s.Runs t → plain [a] = true → t.ctx.status.sup = true →
    t.ctx.status.met = false →
    let va := t.ctx.get a
    s.recordAt t va .load = (s1, .places [(p, n)]) →
    let w := wordsOf (s1.bytes p.key 32768)
    s.slotNo < 8 → (w.getD 0 0).toNat % 2 ^ 32 = 0x56535843 → (∀ k < 8, slotMet w k = false) → slotUsed w s.slotNo = false →
    let tag : BitVec 16 := (w.getD 2 0).truncate 16
    (∀ h ∈ (s1.core s.here).held, h.tag = tag → h.arrivals = []) →
    encodeNat (.ctxrs a) = some (wordFS 0x2A 6 a.toNat 0 0) ∧
    ∃ u, exec (.ctxrs a) s = .next u ∧ u.Runs { t with ctx := t.ctx.past } ∧
      (u.core s.here).ctxid = tag ∧ (u.core s.here).fair = [0, 0, 0, 0] ∧ (∀ h ∈ (u.core s.here).held, h.tag ≠ tag) ∧
      (u.core s.here).win0 = w.getD 328 0 ∧ (u.core s.here).win1 = w.getD 329 0 ∧ (u.core s.here).tcmp = w.getD 330 0 ∧
      (u.core s.here).ivslot = w.getD 331 0 ∧ (u.core s.here).ivec = w.getD 332 0 ∧ (u.core s.here).mbie = w.getD 333 0 ∧
      (u.core s.here).qovf = w.getD 336 0 ∧ (u.core s.here).spool = w.getD 337 0 ∧ (u.core s.here).upv = w.getD 340 0 ∧
      (u.core s.here).asid = w.getD 341 0 ∧ (u.core s.here).ptbase = w.getD 342 0)

/-! ## Engines -/

/-- R303 and R384: a `*set` writes the low bits of its register's width, which a signed one shows sign-extended (DEDUCED, log 48); a status register loses the bits
written as 1 among those that clear so; a `*get` gives the register as the engine shows it. -/
def Obligations.EngineRegisters : Prop :=
  (∀ e ∈ tableFile, ∀ (b : Reg) (r : BitVec 6) (s : State) (t : Thread), s.Runs t → plain [b] = true →
    exec (e.set b r) s = .next ((s.modCore s.here (fun o =>
      o.putFile e.file (setReg e.file (o.file e.file) r.toNat (t.ctx.get b)))).went t t.ctx.past) ∧
    exec (e.get b r) s = .next (s.went t (t.ctx.put b (s.engineReg s.here e.file r.toNat)).past)) ∧
  (∀ (f : EngineFile) (o : Core) (l : List Word) (v : Word) (i : Nat),
    (o.putFile f l).file f = l ∧
    (∀ n g, (fileWidths f)[i]? = some (n, g) → i + 1 ≠ f.size → i < l.length → (f, i) ≠ (.vector, 11) →
      (setReg f l i v)[i]? = some (if g then (v.truncate n).signExtend 64 else (v.truncate n).zeroExtend 64)) ∧
    (∀ j, j ≠ i → (setReg f l i v)[j]? = l[j]?) ∧
    (i + 1 = f.size → i < l.length → (setReg f l i v)[i]? = some (l.getD i 0 &&& ~~~(v &&& w1cMask f))))

/-- R221, R222, R379 and R384: a command that passes every check is accepted in its issuing turn with its operands and a copy of its
register file: it takes the core's next id and the last place among the commands, and the thread goes on, or waits in event 5 in the `.w`
form. Stated for every command but `cpc` and the streams, with every field of the engine field; the rows that share a word take the mode
that they name. Which commands count as copies of a launch, streams not among them, is log 31 (DEDUCED); that the first id has count 1 is
log 97 (DEDUCED).
R392 and R393: `cpsi` and `cpso` are accepted and bind the stream register of the thread; `cpc` takes an id, cancels the commands of the
copy engine with its tag that have not started, and sends its notice, and is itself no command of the queue. -/
def Obligations.EngineCommandsAreAccepted : Prop :=
  (∀ (a b : Reg) (w m k c1 : BitVec 1) (c f : BitVec 4) (r f2 : BitVec 2) (s s1 : State) (t : Thread) (d : Cmd), plain [a, b] = true →
    (∀ e ∈ tableCopy ++ tableVector m k c f r ++ tableMatrix c1 f2 ++ tablePoolBin,
      s.Accepts s1 t (s.asked t e.op e.ef (if e.readsA then t.ctx.get a else 0) (if e.readsB then t.ctx.get b else 0) w
        ((s.core s.here).file e.op.file)) d →
      exec (e.instr a b w) s = .next (s1.accepted t d)) ∧
    (∀ e ∈ [(Instr.cprFp64, CmdOp.cpr, 10, (1 : Word)), (.cprRaw, .cpr, 10, 2), (.cprInt64, .cpr, 10, 3), (.binplayAnchored, .binplay, 3, 1)],
      s.irTop = a → s.irB = b → (s.irW = true ↔ w = 1) →
      s.Accepts s1 t (s.asked t e.2.1 0 (t.ctx.get a) (t.ctx.get b) w (((s.core s.here).file e.2.1.file).set e.2.2.1 e.2.2.2)) d →
      exec e.1 s = .next (s1.accepted t d))) ∧
  (∀ (a b : Reg) (q w : BitVec 1) (s s1 : State) (t : Thread) (d : Cmd), plain [a, b] = true →
    (∀ e ∈ [(Instr.cpsi a b q, CmdOp.cpsi, true), (.cpso a b q, .cpso, false)],
      s.Accepts s1 t (s.asked t e.2.1 q.toNat (t.ctx.get a) (t.ctx.get b) 0 (s.core s.here).copyRegs) d →
      exec e.1 s = .next ((s1.modCore s.here (fun o =>
        { o with
          cmdCount := o.cmdCount + 1
          cmds := o.cmds ++ [{ d with id := s1.nextId s.here, launch := 0 }]
          streams := o.streams.map (fun x => if x.q = q.toNat && x.tid = t.tid then x.ended else x) ++
            [{ q := q.toNat, tid := t.tid, input := e.2.2, cmd := s1.nextId s.here, base := t.ctx.get a,
               count := (t.ctx.get b).toNat }] })).went t t.ctx.past)) ∧
    (s.Accepts s1 t (s.asked t .cpc 0 (t.ctx.get a) 0 w (s.core s.here).copyRegs) d →
      exec (.cpc a w) s = .next ((((s1.modCore s.here (fun o => { o with cmdCount := o.cmdCount + 1 })).went t t.ctx.past).cancelTagged
        s.here ((t.ctx.get a).toNat % 2 ^ 16)).notify s.here { d with id := s1.nextId s.here, launch := 0 })))

/-- R199 and R379: a command waits in event 15 while its slot has stores in the buffer, and in event 4 while the queue of its engine is full;
one that fails a check of its operands traps with cause 8 and the check's code. -/
def Obligations.EngineCommandsWaitOrTrap : Prop :=
  ∀ (a b : Reg) (w m k c1 : BitVec 1) (c f : BitVec 4) (r f2 : BitVec 2) (s : State) (t : Thread), plain [a, b] = true →
    ∀ e ∈ tableCopy ++ tableVector m k c f r ++ tableMatrix c1 f2 ++ tablePoolBin,
      (s.Runs t → s.drained = false → exec (e.instr a b w) s = .next (s.waitsIn (.step 15))) ∧
      (s.Runs t → s.drained = true → 2 ≤ (s.core s.here).queued e.op.engineOf → exec (e.instr a b w) s = .next (s.waitsIn (.step 4))) ∧
      (let d := s.asked t e.op e.ef (if e.readsA then t.ctx.get a else 0) (if e.readsB then t.ctx.get b else 0) w
        ((s.core s.here).file e.op.file)
       s.Traps t → t.ctx.status.spl = false → s.drained = true → (s.core s.here).queued e.op.engineOf < 2 → s.coreHalted s.here = false →
        d.wantsHeader = false → s.acceptError s.here t d true ≠ 0 →
        exec (e.instr a b w) s = .next (s.trapped t 8 (s.acceptError s.here t d true) 0 t.ctx.ip))

/-! ## Stream operands -/

/-- R177 and R296: a stream operand that is not bound traps with cause 12, one that is not ready waits in event 3; a bound input gives its
oldest element, which is taken once however many fields name it, and a bound output takes the result. -/
def Obligations.StreamOperands : Prop :=
  ∀ e ∈ table01 ++ table02 ++ table03, ∀ (d a b : Reg) (s : State) (t : Thread),
    (s.Traps t → operandsReady (s.core s.here) t.tid [a, b] [d] = .unbound →
      exec (e.instr d a b) s = .next (s.trapped t 12 0 (s.ir.zeroExtend 64) t.ctx.ip)) ∧
    (s.Runs t → operandsReady (s.core s.here) t.tid [a, b] [d] = .wait → exec (e.instr d a b) s = .next (s.waitsIn (.step 3))) ∧
    (∀ x v l, s.Runs t → isStream a = true → (s.core s.here).stream t.tid a = some x → x.input = true → x.used < x.count → x.elems = v :: l →
      let u := s.modCore s.here (fun o => o.modStream t.tid a (fun y =>
        if y.input then { y with elems := y.elems.drop 1, used := y.used + 1 } else y))
      (plain [d, b] = true → exec (e.instr d a b) s = .next (u.went t (t.ctx.put d (e.result v (t.ctx.get b))).past)) ∧
      (plain [d] = true → exec (e.instr d a a) s = .next (u.went t (t.ctx.put d (e.result v v)).past))) ∧
    (∀ x, s.Runs t → isStream d = true → plain [a, b] = true → (s.core s.here).stream t.tid d = some x → x.input = false →
      x.used < x.count → x.elems.length < 16 →
      exec (e.instr d a b) s = .next ((s.modCore s.here (fun o => o.modStream t.tid d (fun y =>
        if y.input then y else { y with elems := y.elems ++ [e.result (t.ctx.get a) (t.ctx.get b)], used := y.used + 1 }))).went t
          t.ctx.past))

/-! ## Arrivals and the scheduler -/

/-- R125, R145, R148, R149, R150 and R361: a stolen record, a seeded record, a fork child, a task token and a committed push go to the tail
of their priority at the core that they reach, of the overflow ring where the queue has no room, in a position of log 106 and with x0 kept
beside it by log 49 (DESIGN CHOICES); a core of two records or more gives its
tail entry to a thief, where that may be stolen, and answers any other probe with an empty reply, after which the thief probes the next core
of its sequence, or waits.
R132, R142 to R144 and R354: an increment is added to its launch's account and acknowledged, which frees what waits for it; a decrement
is taken away; a quit notice takes its thread from its seat, and the last one retires a plain task; a spawn token enters the arrival queue,
or is declined when its deadline has passed; its reply gives the spawner the new thread's id, or 0.
R104, R206, R207 and R360: a notice goes to the earliest `recv` that waits for its mailbox, else to the task that is bound to it, else to the
mailbox, else to its ring, else it is lost and `lost` is set; a monitor slot that waits on mb14 takes every notice there; a wake's notice
goes the same way; a ring's notice enters its mailbox when there is room; a copy wake that names a stopped command restarts or drops it. -/
def Obligations.TravellersOfWorkArrive : Prop :=
  (∀ (s : State) (x : Traveller), s.Arrives x →
    let u := s.landed s.args.n x
    let c := x.dst
    let count := (s.core c).countAt 0 + (s.core c).countAt 1 + (s.core c).countAt 2 + (s.core c).countAt 3
    (∀ e, x.load = .stolen e → exec .stolenTaskRecordArrival s = .next (u.pushTail c e.image.prio e)) ∧
    (∀ r, x.load = .seeded r → exec .seededRecordArrival s = .next (u.pushTail c r.prio { image := r })) ∧
    (∀ r, x.load = .forkChild r → exec .forkChildArrival s =
      .next ((u.pushTail c r.prio { image := r }).modCore c (fun o => { o with claimed := false }))) ∧
    (∀ home va prio l p, x.load = .task home va prio l p → exec .taskTokenArrival s =
      let r := Rec.ofWords (wordsOf (u.bytes home 128))
      .next (u.pushTail c prio { image := r.made l p, frame := madeFrame r va.toNat c })) ∧
    (∀ prio e, x.load = .push prio e → exec .taskTokenArrival s = .next (u.pushTail c prio e)) ∧
    (x.load = .probe →
      ((s.core c).topPrio = none → exec .stealProbeArrival s = .next (u.answers x (s.tagOf c) .emptyReply)) ∧
      (∀ p l e, (s.core c).topPrio = some p → (∀ j < 4, ((s.core c).ring j).items = []) → (s.core c).queue p = l ++ [e] →
        exec .stealProbeArrival s = .next (
          if 2 ≤ count ∧ e.image.steal = true ∧ e.image.saved = false then
            (u.modCore c (fun o => o.putQueue p l)).answers x (s.tagOf c) (.stolen e)
          else u.answers x (s.tagOf c) .emptyReply))) ∧
    (∀ n, x.load = .emptyReply → (s.core c).steal = .probing n →
      (∀ v, (u.probeList c)[n + 1]? = some v → exec .emptyReplyArrival s =
        .next ((u.modCore c (fun o => { o with steal := .probing (n + 1) })).send
          { src := c, dst := v, vc := 2, tag := s.tagOf c, part := s.partTag c, load := .probe })) ∧
      ((u.probeList c)[n + 1]? = none → exec .emptyReplyArrival s =
        .next (u.modCore c (fun o => { o with steal := .waiting, waited := 0 }))))) ∧
  (∀ (s : State) (c p : Nat) (e : QEntry),
    (s.RoomAt c p → s.pushTail c p e = s.queues c p e) ∧
    (∀ s1, let r := (s.core c).ring p
      let pos := r.spillPos false
      let ring : Ring := { next := (pos + 1) % 256, items := r.items ++ [{ pos, x0 := e.x0 }] }
      ¬ s.RoomAt c p → r.items.length < 256 → s.writeRing c p pos e.bytes = (s1, true) →
      s.pushTail c p e = (s1.modCore c (fun o => { o with rings := o.rings.set p ring })).modCore c Core.gotWork)) ∧
  (∀ (s : State) (x : Traveller), s.Arrives x →
    let u := s.landed s.args.n x
    let c := x.dst
    (∀ l k copy key, x.load = .increment l k copy key → exec .accountIncrementArrival s =
      .next ((u.modAccount (moduleOf c) x.part l (fun a =>
        if copy then { a with copies := a.copies + k } else { a with count := a.count + k })).answers x 0 (.incAck key))) ∧
    (∀ key h, x.load = .incAck key → (s.core c).holds.find? (fun g => g.key == key) = some h →
      let v := u.modCore c (fun o => { o with holds := o.holds.filter (fun g => g.key != key) })
      exec .accountAckArrival s = .next ((h.releases.foldl (fun s r => s.release c r) v).settleQuits c)) ∧
    (∀ d, x.load = .decrement d → exec .accountDecrementArrival s = .next (u.modAccount (moduleOf c) x.part d.launch (fun a =>
      { a with
        count := if d.copy then a.count else a.count - d.amount
        copies := if d.copy then a.copies - d.amount else a.copies
        copyFaults := a.copyFaults + (if d.copyFault then 1 else 0)
        grainFaults := a.grainFaults + (if d.grain then 1 else 0) }))) ∧
    (∀ n tid, x.load = .quit n tid →
      let st := (s.core c).seat n
      let v := u.modSeat c n (fun st => { st with live := st.live - 1, tids := st.tids.filter (fun y => y != tid) })
      (st.state ≠ 0 → tid ∈ st.tids → exec .quitNoticeArrival s =
        .next (if st.live ≤ 1 ∧ st.image.isSplit = false then v.retireSeat c n else v)) ∧
      (st.state = 0 ∨ tid ∉ st.tids → exec .quitNoticeArrival s = .next u)) ∧
    (∀ x0 x1 x2 x3 entry deadline p slot, x.load = .spawn x0 x1 x2 x3 entry deadline p slot →
      (deadline < s.refNs (moduleOf c) → exec .spawnTokenArrival s = .next (u.answers x (s.tagOf c) (.spawnReply slot 1 0 p.tid))) ∧
      (s.refNs (moduleOf c) ≤ deadline → s.RoomForContext c → exec .spawnTokenArrival s = .next (u.queuesContext c x))) ∧
    (∀ slot status tid who h d, x.load = .spawnReply slot status tid who → (s.slot c slot).thread = some h →
      (s.slot c slot).park = some (.spawn d) → exec .spawnReplyArrival s = .next (if h.tid = who then
        ((if status = 0 then u else u.restoreSeat h).setRegAt c slot d (if status = 0 then tid.zeroExtend 64 else 0)).advanceAt c slot
      else u))) ∧
  (∀ (s : State) (x : Traveller), s.Arrives x →
    let u := s.landed s.args.n x
    let c := x.dst
    (∀ mb w after, x.load = .notice mb w after → exec .noticeArrival s = .next (match after with
      | none => u.deliver c mb w
      | some d => (u.deliver c mb w).decrement x.src d)) ∧
    (∀ mb w, x.load = .wake mb w → exec .wakeTokenArrival s = .next (u.deliver c mb w)) ∧
    (∀ id ab, x.load = .wakeCopy id ab → exec .wakeTokenArrival s = .next (u.wakeCopyIn c id ab))) ∧
  (∀ (s : State) (c n : Nat) (w : Word),
    let o := s.core c
    let m := o.mailbox n
    (n = 14 → s.monitorWaits c = true → s.deliver c n w = s) ∧
    ((n = 14 → s.monitorWaits c = false) →
    (∀ k d a, o.recvWaiter n = some (k, d, a) → s.deliver c n w = ((s.takeAt c k [a]).setRegAt c k d w).advanceAt c k) ∧
    (o.recvWaiter n = none →
      (∀ e, m.bound = some e → s.deliver c n w =
        s.increment c e.image.launchNo 1 false none [.pushTail e.image.prio { e with x0 := w }]) ∧
      (m.bound = none →
        (m.fifo.length < 4 → m.ringCount = 0 → s.deliver c n w =
          s.modCore c (fun o => { o with mailboxes := o.mailboxes.set n { m with fifo := m.fifo ++ [w] } })) ∧
        ((4 ≤ m.fifo.length ∨ m.ringCount ≠ 0) →
          (o.mbovf.getLsbD 0 = false ∨ 256 ≤ m.ringCount → s.deliver c n w =
            s.modCore c (fun o => { o with mbLost := o.mbLost ||| ((1 : BitVec 16) <<< n) })) ∧
          (∀ s1 key, o.mbovf.getLsbD 0 = true → m.ringCount < 256 →
            s.netKey c (o.mbRingAddr n ((m.ringHead + m.ringCount) % 256)) 8 true = (s1, some key) →
            s.deliver c n w = (s1.putBytes key (toBytes w.toNat 8)).modCore c (fun o =>
              { o with mailboxes := o.mailboxes.set n { m with ringCount := m.ringCount + 1 },
                       mbOvf := o.mbOvf ||| ((1 : BitVec 16) <<< n) }))))))) ∧
  (∀ s : State,
    let c := s.args.c
    let n := s.args.mb
    let o := s.core c
    let m := o.mailbox n
    (4 ≤ m.fifo.length ∨ m.ringCount = 0 → exec .mailboxRingRefill s = .next s) ∧
    (∀ s1 key, m.fifo.length < 4 → m.ringCount ≠ 0 → s.netKey c (o.mbRingAddr n m.ringHead) 8 false = (s1, some key) →
      let m1 : Mailbox := { m with fifo := m.fifo ++ [s1.word key], ringHead := (m.ringHead + 1) % 256, ringCount := m.ringCount - 1 }
      exec .mailboxRingRefill s = .next (s1.modCore c (fun o => { o with mailboxes := o.mailboxes.set n m1 })))) ∧
  (∀ (s : State) (c id : Nat) (ab : Bool),
    ((∀ d ∈ (s.core c).cmds, d.id = id → d.fault = none) → s.wakeCopyIn c id ab = s) ∧
    (∀ d, (s.core c).cmds.find? (fun e => e.id == id && e.fault.isSome) = some d →
      (∀ e ∈ (s.core c).cmds, e.id ≠ id → e.fault.isSome = true → e.reported = true) →
      let rest := (s.core c).cmds.filter (fun e => e.id != id)
      ((s.wakeCopyIn c id ab).core c).cmds = if ab then rest else d.restart :: rest))

/-- R89, R209, R212, R213 and R216: a context that its core refuses goes back to where it came from, to trap there, with the `eip` of log 57
(DEDUCED) where R248 gives none, and any other enters
the arrival queue; a slot that may take work takes the oldest one, with what it carries, or the trap with which it was turned back; a
spilled context returns when the queue has room.
R215 to R220 and R248: a party that no core of the quad may take returns with status 3, one that arrives at or after its deadline, or
without room in the cloakroom, with status 1 or 2; the oldest party that waits with its pennant and tag is its match, and a matched pair is
placed, met, where one core of the quad has two open slots; the slots then take the pair; an unplaced party returns at its deadline; a
returned party's luggage is written home, its status goes to its xd, and a luggage write is acknowledged. -/
def Obligations.ContextsAndPartiesArrive : Prop :=
  (∀ (s : State) (x : Traveller), s.Arrives x →
    let u := s.landed s.args.n x
    let c := x.dst
    (∀ h k, x.load = .context h k none →
      (∀ b, u.contextFate c h k = some b → exec .contextArrival s = .next (u.send
        { src := c, dst := h.origin, vc := 0, tag := x.tag, part := x.part,
          load := .context { h with ctx := { h.ctx with ip := departIp h k } } none (some b) })) ∧
      (u.contextFate c h k = none → s.RoomForContext c → exec .contextArrival s = .next (u.queuesContext c x))) ∧
    (∀ h k b, x.load = .context h k (some b) → s.RoomForContext c → exec .contextArrival s = .next (u.queuesContext c x)) ∧
    (∀ h va cls kind, x.load = .faulted h va cls kind → s.RoomForContext c → exec .contextArrival s = .next (u.queuesContext c x)) ∧
    (isHead c = true → ∀ h, x.load = .context h none none → h.ctx.status.sup = false →
      u.contextFate c h none = some { cause := 4, sub := 0, addr := 0 })) ∧
  (∀ (s : State) (x : Traveller) (l : List Traveller),
    let c := s.args.c
    let k := s.args.k
    s.TakesTurn c k → ((s.turned c).slot c k).reserved = none → ((s.turned c).core c).arrivals = x :: l → x.dst = c →
    let u := (s.turned c).modCore c (fun o => { o with arrivals := l })
    (∀ h, x.load = .context h none none → exec .contextTake s = .next (u.enterSlot c k h)) ∧
    (∀ h a, x.load = .context h (some (.access a)) none → exec .contextTake s =
      .next ((u.enterSlot c k h).modSlot c k (fun y => { y with carried := some (.access a) }))) ∧
    (∀ h y b, x.load = .context h y (some b) → exec .contextTake s =
      .next (((u.enterSlot c k h).giveBack c h.tid b.took).trapAt c k b.cause b.sub b.addr h.ctx.ip)) ∧
    (∀ x0 x1 x2 x3 entry deadline p slot, x.load = .spawn x0 x1 x2 x3 entry deadline p slot →
      (deadline < s.refNs (moduleOf c) → exec .contextTake s = .next (u.answers x (s.tagOf c) (.spawnReply slot 1 0 p.tid))) ∧
      (s.refNs (moduleOf c) ≤ deadline → p.task = none →
        let tid := newTid c k (nextGen (u.slot c k).gen)
        let y : Ctx := { x0, x1, x2, x3, ip := entry, fmta := p.ctx.fmta, fmtb := p.ctx.fmtb,
                         status := { sup := p.ctx.status.sup, spl := p.ctx.status.spl } }
        exec .contextTake s = .next (((u.modSlot c k (fun l =>
          { gen := nextGen l.gen, thread := some { ctx := y, tid, origin := c, headBorn := isHead c } })).answers x (s.tagOf c)
            (.spawnReply slot 0 tid p.tid)))))) ∧
  (∀ s : State, s.hasTurn s.args.c s.args.k = false ∨ (s.cycleStart s.args.c).takesWork s.args.c s.args.k = false →
    exec .contextTake s = .next s) ∧
  (∀ s : State, let c := s.args.c
    let o := s.core c
    (8 ≤ o.arrivals.length ∨ s.relocking (moduleOf c) (dieOf c) = true ∨ (∀ i ∈ (o.ring 0).items, i.context = none) →
      exec .arrivalQueueRefill s = .next s) ∧
    (∀ i x s1 key, o.arrivals.length < 8 → s.relocking (moduleOf c) (dieOf c) = false → (o.ring 0).items.find? (fun i => i.context.isSome) = some i → i.context = some x →
      s.netKey c (o.ringAddr 0 i.pos) 1 false = (s1, some key) →
      let back : Traveller := match x.load with
        | .context h y b => { x with load := .context { h with ctx := Ctx.ofWords (wordsOf (s1.bytes key 128)) } y b }
        | _ => x
      exec .arrivalQueueRefill s = .next (s1.modCore c (fun o =>
        { o with
          arrivals := o.arrivals ++ [back]
          rings := o.rings.set 0 { o.ring 0 with items := (o.ring 0).items.erase i } })))) ∧
  (∀ (s : State) (x : Traveller) (x0 x1 x2 x3 entry : Word) (deadline : Nat) (p : Thread) (slot : Nat),
    (s.core s.args.c).waitingArrivals[s.args.idx]? = some x → x.load = .spawn x0 x1 x2 x3 entry deadline p slot →
    s.relocking (moduleOf s.args.c) (dieOf s.args.c) = false →
    exec .spawnDeadline s = .next (if deadline ≤ s.refNs (moduleOf s.args.c) then
      (s.modCore s.args.c (fun o => o.dropWaiting s.args.idx)).decline x slot else s)) ∧
  (∀ (o : Core) (i : Nat), i < o.arrivals.length → o.dropWaiting i = { o with arrivals := o.arrivals.eraseIdx i }) ∧
  (∀ (s : State) (x : Traveller) (p : Party), s.arriving s.args.n = some x → x.load = .party p →
    let u := s.landed s.args.n x
    u.takesParty x = false → exec .partyArrival s = .next ((u.send
      { src := x.dst, dst := p.origin, vc := 0, tag := x.tag, part := x.part, load := .partyReturn p (some 3) false }).report x)) ∧
  (∀ (s : State) (x : Traveller) (p : Party), s.arriving s.args.n = some x → x.load = .party p →
    let u := s.landed s.args.n x
    let q := quadOf x.dst
    let o := u.quad q
    let mate := o.waitingParties.find? (fun e => e.2.party.pennant == p.pennant && e.2.party.tag == p.tag)
    u.takesParty x = true →
    (mate = none → u.expired q p.deadline = true → exec .partyArrival s = .next (u.sendHome q p 1)) ∧
    (mate = none → u.expired q p.deadline = false → o.freeEntries < 2 → exec .partyArrival s = .next (u.sendHome q p 2)) ∧
    (mate = none → u.expired q p.deadline = false → 2 ≤ o.freeEntries →
      exec .partyArrival s = .next (u.storeParty q o.freshEntry { party := p, order := s.stamp })) ∧
    (∀ w e, mate = some (w, e) → exec .partyArrival s = .next
      (((u.storeParty q o.freshEntry { party := p, state := .matched w, order := s.stamp, pair := s.stamp, first := false }).modQuad q
        (fun o' => { o' with cloak := o'.cloak.set w { e with state := .matched o.freshEntry, pair := s.stamp, first := true } })).placePairs q (some w)))) ∧
  (∀ (s : State) (q early late c k1 k2 : Nat) (l : List Nat) (e f : CloakEntry) (fresh : Bool),
    (s.quad q).cloak.get early = some e → (s.quad q).cloak.get late = some f →
    (∃ i < 4, c = coreOfQuad q i ∧ ∀ j < i, ¬ (s.coreHalted (coreOfQuad q j) = false ∧ s.tagOf (coreOfQuad q j) = e.party.tag ∧
      2 ≤ (s.emptySlots (coreOfQuad q j)).length)) →
    s.coreHalted c = false → s.tagOf c = e.party.tag → s.emptySlots c = k1 :: k2 :: l →
    fresh = true ∨ (s.expired q e.party.deadline = false ∧ s.expired q f.party.deadline = false) →
    let standing := fun (x : Ctx) => ({ x with status := { x.status with met := true } } : Ctx)
    let met := fun (p : Party) =>
      ({ p.thread with
        ctx := if isStream p.d then standing p.thread.ctx else (standing p.thread.ctx).put p.d 0 } : Thread)
    let e1 : CloakEntry := { e with state := .placed c k1 late k2, met := some (met e.party) }
    let f1 : CloakEntry := { f with state := .placed c k2 early k1, met := some (met f.party) }
    s.placePair q early late fresh = (((s.modQuad q (fun o => { o with cloak := (o.cloak.set early e1).set late f1 })).modSlot c k1
      (fun y => { y with reserved := some (q, early) })).modSlot c k2 (fun y => { y with reserved := some (q, late) }))) ∧
  (∀ s : State, let q := s.args.quad
    exec .pairPlacement s = .next ((s.quad q).pairs.foldl (fun u p => u.placePair q p.1 p.2 false) s)) ∧
  (∀ (s : State) (q n partner partnerSlot c' k' : Nat) (e : CloakEntry),
    let c := s.args.c
    let k := s.args.k
    let u := s.turned c
    s.TakesTurn c k → (u.slot c k).reserved = some (q, n) → (u.quad q).cloak.get n = some e → isStream e.party.d = false →
    e.state = .placed c' k' partner partnerSlot →
    exec .contextTake s = .next (u.modSlot c k (fun l =>
      { gen := l.gen, thread := some (e.met.getD e.party.thread)
        meet := some { quad := q, entry := n, partnerEntry := partner, partnerSlot, first := e.first } }))) ∧
  (∀ (s : State) (e : CloakEntry), let q := s.args.quad
    let n := s.args.entry
    let gone := (s.modQuad q (fun o => { o with cloak := o.cloak.del n })).sendHome q e.party 1
    (s.quad q).cloak.get n = some e →
    (s.expired q e.party.deadline = false → exec .meetingDeadline s = .next s) ∧
    (s.expired q e.party.deadline = true →
      (e.state = .waiting → exec .meetingDeadline s = .next gone) ∧
      (∀ p f, e.state = .matched p → p ≠ n → (s.quad q).cloak.get p = some f → exec .meetingDeadline s = .next (gone.modQuad q (fun o =>
        { o with cloak := o.cloak.set p { f with state := .waiting, first := true } }))))) ∧
  (∀ (s : State) (x : Traveller), s.Arrives x →
    let u := s.landed s.args.n x
    let c := x.dst
    (∀ p status writes, x.load = .partyReturn p status writes → isStream p.d = false →
      let h := p.thread
      let v := if writes then u.storeHome (localKey c p.la) p.luggage else u
      let h1 : Thread := match status with
        | none => h
        | some n => { h with ctx := h.ctx.put p.d (BitVec.ofNat 64 n) }
      exec .partyReturnArrival s = .next (v.enqueue c { x with load := .context h1 none none })) ∧
    (∀ la l dest tid, x.load = .luggageWrite la l dest tid → exec .luggageWriteArrival s = .next
      ((u.storeHome (localKey c la) l).send { src := c, dst := dest, vc := 2, tag := x.tag, part := x.part, load := .luggageAck tid })) ∧
    (∀ tid, x.load = .luggageAck tid → exec .luggageWriteAcknowledgement s = .next (u.luggageAckIn c tid))) ∧
  (∀ (s : State) (c k : Nat) (tid : BitVec 32) (h : Thread), k < 8 → (s.slot c k).thread = some h →
    (s.luggageAckIn c tid).slot c k =
      if h.tid = tid ∧ Carried.isLuggage (s.slot c k).carried = true then { s.slot c k with carried := none, park := none } else s.slot c k)

/-- R125, R128, R129, R138, R143 and R147: a slot that may take work and for which no context waits takes the chosen entry, and a plain one
without scratch starts at its entry address with its argument, its frame, its formats, and a seat of its own; the head of the highest
priority is chosen while its fairness count is below 15; an overflow entry returns when the queue has room; an idle core, and one whose wait
has ended, probes the first core of its sequence; a split task whose period has ended is aborted with cause 2; a retired task's decrement
frees its seat. An entry address loses its low two bits (DESIGN CHOICE, log 104).
R145: the commit passes to step 4 when the founder alone is left, no command of the task that writes memory stands at an engine (a `cpsi`
does not count, DEDUCED, log 110) and its store buffer is empty; then the entries perform one by one — a store writes its bytes at its home, a reduction combines with what stands there, a `join`
counts down, a record is pushed after its increment, a `binapp` takes the next id (DEDUCED, log 97) — and the task ends when all have
performed.
R231, R245 and R247: an item whose bytes are unsound stops the commit engine by a command of its own (DESIGN CHOICE, log 111), and a log that
cannot be read ends the commit with fatal kind 7, at step 15 of the model's own (log 111). -/
def Obligations.SchedulerEventsAndCommits : Prop :=
  (∀ (s : State) (p : Nat) (e : QEntry) (rest : List QEntry) (seat : Nat),
    let c := s.args.c
    let k := s.args.k
    let u := s.turned c
    let l := u.entries c
    let r := e.image
    s.TakesTurn c k → (u.slot c k).reserved = none → (u.core c).arrivals = [] → u.ringsRead c = true →
    p < 4 → (∀ j < p, l j = []) → l p = e :: rest → (u.core c).fair.getD p 0 ≠ 15 → (u.core c).freeSeat = some seat →
    r.malformed = false → r.isSplit = false → r.saved = false → r.scr = 0 →
    let tid := newTid c k (nextGen (u.slot c k).gen)
    let st : Seat :=
      { image := { r with flags := setBits r.flags 7 7 0 }, frame := e.frame, task := e.frame, scratchCore := c
        logEnd := 256, prdl := BitVec.allOnes 64, state := 1, live := 1, tids := [tid], founder := k, founderTid := tid }
    let info : TaskInfo :=
      { seatCore := c, seat, task := e.frame, dom0 := r.dom0, dom1 := r.dom1, dom2 := r.dom2, budget := r.budget, launch := r.launch }
    let x : Ctx :=
      { x0 := e.x0, fp := e.frame, ip := ipOf r.entry, fmta := r.fmta, fmtb := r.fmtb, status := { fnd := true } }
    let mine := fun (o : Core) => o.cmds.map (fun d => if d.seat = some (yieldedSeat e.yieldKey) then { d with seat := some seat } else d)
    exec .dispatch s = .next (((u.modCore c (fun o => o.takeEntry p 0)).modCore c (fun o =>
      { o with seats := o.seats.set seat st, fair := o.fairAfter l [] p, cmds := mine o })).modSlot c k (fun y =>
        { gen := nextGen y.gen, thread := some { ctx := x, tid, task := some info, origin := c, headBorn := isHead c } }))) ∧
  (∀ (o : Core) (l : Nat → List QEntry) (fuel p seat unit : Nat) (e : QEntry) (rest : List QEntry), p < 4 → (∀ j < p, l j = []) →
    l p = e :: rest → o.fair.getD p 0 ≠ 15 → o.fitEntry e = .run seat unit →
    o.choose l (fuel + 1) [] = some (p, 0, e, .run seat unit, [])) ∧
  (∀ s : State, let c := s.args.c
    let k := s.args.k
    let v := s.cycleStart c
    s.hasTurn c k = false ∨ v.takesWork c k = false ∨ (v.slot c k).reserved ≠ none ∨ (v.core c).arrivals ≠ [] →
      exec .dispatch s = .next s) ∧
  (∀ s : State, let c := s.args.c
    let o := s.core c
    (64 ≤ o.queueCount ∨ s.relocking (moduleOf c) (dieOf c) = true ∨ (∀ p < 4, (o.ring p).records = 0) →
      exec .overflowRefill s = .next s) ∧
    (∀ p i s1 key, o.queueCount < 64 → s.relocking (moduleOf c) (dieOf c) = false → p < 4 → (∀ j < p, (o.ring j).records = 0) → (o.ring p).records ≠ 0 →
      (o.ring p).items.find? (fun i => i.context.isNone) = some i → s.netKey c (o.ringAddr p i.pos) 1 false = (s1, some key) →
      let w := wordsOf (s1.bytes key 136)
      let e : QEntry := { image := Rec.ofWords w, frame := w.getD 16 0, x0 := i.x0 }
      exec .overflowRefill s = .next (s1.modCore c (fun o =>
        Core.putQueue { o with rings := o.rings.set p { o.ring p with items := (o.ring p).items.erase i } } p (o.queue p ++ [e]))))) ∧
  (∀ s : State, let c := s.args.c
    let o := s.core c
    let ready := o.steal = .busy ∧ s.isIdle c = true
    let waited := o.steal = .waiting ∧ 1024 ≤ o.waited
    let again := waited ∧ s.isIdle c = true
    (s.runs c = true → s.relocking (moduleOf c) (dieOf c) = false →
      (∀ v, (s.probeList c)[0]? = some v →
        let u := (s.modCore c (fun o => { o with steal := .probing 0 })).send
          { src := c, dst := v, vc := 2, tag := s.tagOf c, part := s.partTag c, load := .probe }
        (ready → exec .stealIdle s = .next u) ∧ (again → exec .stealWaitEnd s = .next u)) ∧
      (waited → s.isIdle c = false → exec .stealWaitEnd s = .next (s.modCore c (fun o => { o with steal := .busy })))) ∧
    (¬ ready → exec .stealIdle s = .next s) ∧ (¬ waited → exec .stealWaitEnd s = .next s)) ∧
  (∀ s : State, let c := s.args.c
    let n := s.args.seat
    let st := (s.core c).seat n
    st.state = 1 → st.image.isSplit = true → st.prdl = 0 → st.finishing = false →
    let r := Rec.ofWords (wordsOf (s.bytes (localKey c st.scratchBase) 128))
    let u := s.endTask c n
    (r.halves = none → exec .periodExpiry s = .next (u.grainFault c r 2 0)) ∧
    (∀ lo hi, r.halves = some (lo, hi) → exec .periodExpiry s = .next (u.increment c r.launchNo 1 false none
      [.pushHead r.prio { image := lo.child }, .pushTail r.prio { image := hi.child }]))) ∧
  (∀ s : State, let c := s.args.c
    let n := s.args.seat
    let st := (s.core c).seat n
    exec .retirementDecrementSend s = .next (
      if st.retiring = true ∧ ∀ e ∈ s.cores, ∀ l ∈ e.2.leaving, l.2.inSeat c n = false then
        (s.decrement c { launch := st.image.launchNo }).modSeat c n (fun _ => {})
      else s)) ∧
  (∀ s : State, let c := s.args.c
    let n := s.args.seat
    let i := s.args.idx
    let st := (s.core c).seat n
    (∀ d ∈ (s.core c).cmds, d.seat = some n → d.op.writesMemory = false ∧ d.logged = false) → st.state = 2 → i ∉ st.away →
    s.relocking (moduleOf c) (dieOf c) = false →
    (st.step = 4 → st.cmdLog = [] → s.logBad st i = true → (∃ e, (i, e) ∈ st.memLog) →
      exec .commitEntry s = .next ((s.modSeat c n (fun st => { st with step := 15 })).fatalPartition c 7)) ∧
    (st.step = 1 → exec .commitLogHandoff s = .next (
      if st.live = 1 ∧ st.parked = 0 ∧ (s.core c).drainedSlot st.founder = true then s.modSeat c n (fun st => { st with step := 4 }) else s)) ∧
    (st.step = 4 → st.cmdLog = [] →
      let w0 := s.modSeat c n (fun st => { st with away := eraseNat st.away i })
      let u := w0.modSeat c n (fun st => { st with memLog := st.memLog.filter (fun f => f.1 != i), done := st.done + 1 })
      (∀ e l, st.memLog = (i, e) :: l → (∀ f ∈ l, i ≤ f.1) → s.logBad st i = false →
        (e.near c = false → exec .commitEntry s = .next ((s.modSeat c n (fun st => { st with away := st.away ++ [i] })).send
          { src := c, dst := coreOfKey e.home, vc := 1, tag := s.tagOf c, part := s.partTag c, load := .commitItem n i e })) ∧
        (∀ va h k v, e = .store va h k v → nearHome c h = true → exec .commitEntry s = .next (u.storeHome h (toBytes v.toNat k))) ∧
        (∀ f va h k v w, e = .red f va h k v → nearHome c h = true → s.health h k = .sound →
          amoNew f k (ofBytes (s.bytes h k)) (v.toNat % 2 ^ (8 * k)) 0 = some w →
          exec .commitEntry s = .next ((u.countRead h k).storeHome h (toBytes w k))) ∧
        (∀ va h, e = .join va h → nearHome c h = true → s.health h 16 = .sound → ofBytes (s.bytes h 8) ≠ 1 →
          exec .commitEntry s = .next ((u.countRead h 16).storeHome h
            (toBytes ((ofBytes (s.bytes h 8) + 2 ^ 64 - 1) % 2 ^ 64) 8))) ∧
        (∀ f va h k v, e = .red f va h k v → nearHome c h = true → s.health h k = .media →
          exec .commitEntry s = .next (w0.stopItem c n i 5 va)) ∧
        (∀ h p r, e = .tsk h p r → exec .commitEntry s = .next (u.increment c r.image.launchNo 1 false (some st.founderTid)
          [if coreOfKey h = c then .pushTail p r
           else .send { src := c, dst := coreOfKey h, vc := 2, tag := s.tagOf c, part := s.partTag c, load := .push p r }]))) ∧
      (st.memLog = [] → (∀ h, (s.slot c st.founder).thread = some h → h.tid = st.founderTid) → (s.slot c st.founder).thread ≠ none →
        (∀ h ∈ (s.core c).holds, h.who ≠ some st.founderTid) →
        exec .commitEnd s = .next ((((s.emptySlot c st.founder).endBindings st.founderTid).modCore c (fun o =>
          { o with cmds := o.cmds.map (fun d => if d.seat = some n then { d with seat := none } else d) })).retireSeat c n))) ∧
    (∀ d l, st.step = 4 → st.memLog = [] → st.cmdLog = (i, d) :: l → (∀ f ∈ l, i ≤ f.1) → s.logBad st i = false → d.op = .binapp →
      let u := s.modSeat c n (fun st => { st with cmdLog := st.cmdLog.filter (fun f => f.1 != i), done := st.done + 1 })
      exec .commitEntry s = .next (u.modCore c (fun o =>
        { o with
          cmdCount := o.cmdCount + 1
          cmds := o.cmds ++ [{ d with id := c % 2 ^ 24 * 2 ^ 24 + (o.cmdCount + 1) % 2 ^ 24, seat := some n, logged := true }] }))))

/-! ## Memory, translation and registers as events -/

/-- R158, R162, R165, R170, R172, R173 and R179: the oldest store of the buffer, and a store of the loop-back port, piece by piece, writes its
bytes at its home and no other byte, and a load of that port gives its thread the bytes there; a miss in both levels walks the tables,
installs what it finds, and takes a place at the quad's walkers until its walk completes, or finds none (that the walk reads its levels in
one step is log 53); an invalidation takes the entries that it names out of the core's TLBs, and its slot then goes on; a change of the
division of local memory takes effect when no buffer entry names a commons byte, with the dirty lines of the core's cache portion written to
the DRAM, and keeps the private bytes below the smaller size.
R171, R228 and R229: a load, store, atomic or reduction whose translation ends in a page fault, or that may not write its page, parks its
thread in the lowest free record and sends the kind-7 notice, or waits in its slot while every record is in use. -/
def Obligations.MemoryEvents : Prop :=
  (∀ s : State, let c := s.args.c
    (∀ e l, (s.core c).buffer = e :: l → s.relocking (moduleOf c) (dieOf c) = false →
      exec .storeBufferDrain s = .next (((s.modCore c (fun o => { o with buffer := l })).storeHome e.home e.bytes).settleQuits c)) ∧
    ((s.core c).buffer = [] ∨ s.relocking (moduleOf c) (dieOf c) = true → exec .storeBufferDrain s = .next s) ∧
    (s.relocking (moduleOf c) (dieOf c) = true → exec .loopbackPerform s = .next s) ∧
    (∀ k a l, (s.core c).loopq = (k, a) :: l → s.relocking (moduleOf c) (dieOf c) = false →
      let leaves := fun (u : State) (q : List (Nat × Access)) => (u.modCore c (fun o => { o with loopq := q })).settleQuits c
      (∀ n v key, a.op = .store n v → a.parts = [(key, n)] →
        exec .loopbackPerform s = .next (leaves (s.storeHome key (toBytes v.toNat n)) l)) ∧
      (∀ n v key key' m, a.op = .store n v → a.parts = [(key, n - m), (key', m)] → m ≤ n →
        exec .loopbackPerform s = .next
          (leaves (s.storeHome key ((toBytes v.toNat n).take (n - m))) ((k, { a with parts := [(key', m)] }) :: l))) ∧
      (∀ n sg d key, a.op = .load n sg d → a.parts = [(key, n)] → a.got = [] → (s.slot c k).park = some .loopback →
        s.pathOf c key = .direct → isLocalKey key = true → s.health key n = .sound → n ∈ [1, 2, 4, 8] →
        exec .loopbackPerform s = .next (((((s.modCore c (fun o => { o with loopq := l })).setRegAt c k d
          (extended n sg (ofBytes (s.bytes key n)))).modSlot c k (fun y => { y with carried := none })).advanceAt c k).settleQuits c)))) ∧
  (∀ (s : State) (key k : Nat) (bs : List Byte), Memory.wf s.mem = true →
    (s.storeHome key bs).bytes key bs.length = bs ∧ Memory.wf (s.storeHome key bs).mem = true ∧
    (k < key ∨ key + bs.length ≤ k → (s.storeHome key bs).byte k = s.byte k)) ∧
  (∀ s : State, let c := s.args.c
    let f := s.args.fetch
    let miss := (c, s.args.va.toNat / 2 ^ 16, f)
    let q := quadOf c
    s.relocking (moduleOf c) (dieOf c) = false →
    (miss ∉ (s.quad q).misses.take 2 → isHead c = false →
      exec .tableWalkComplete s = .next (s.modQuad q (fun o => o))) ∧
    (miss ∈ (s.quad q).misses.take 2 → isHead c = false →
      exec .tableWalkComplete s = .next (s.modQuad q (fun o => { o with misses := o.misses.erase miss }))) ∧
    (isHead c = true → exec .tableWalkComplete s = .next s)) ∧
  (∀ (s : State) (c va : Nat) (f : Bool),
    let hit := fun (e : TlbEntry) => e.hits (s.partTag c) ((s.core c).asid.toNat % 2 ^ 12) (va / 2 ^ 16)
    let root := (s.core c).ptbase.toNat
    let walk := s.walk root (s.partTag c) ((s.core c).asid.toNat % 2 ^ 12) va
    (∀ e ∈ (if f then (s.core c).itlb else (s.core c).dtlb), hit e = false) → isHead c = false →
    (∀ e ∈ (s.quad (quadOf c)).tlb, hit e = false) →
    (18 ≤ (s.quad (quadOf c)).misses.length → s.lookup c va f = (s, .full)) ∧
    ((s.quad (quadOf c)).misses.length < 18 →
      (∀ e, walk = .page e → s.lookup c va f = (((s.countWalk root va).tlbInstall c f e).addMiss c va f, .page e)) ∧
      (∀ k, walk = .fault k → s.lookup c va f = (s.addMiss c va f, .fault k)))) ∧
  (∀ (s : State) (v : Word), let c := s.args.c
    let k := s.args.k
    let u := (s.invalidate c v).modCore c (fun o => { o with invDone := insertNat o.invDone k })
    let gone := fun (e : TlbEntry) => e.named (s.partTag c) (v.toNat / 2 ^ 61 % 4) (v.toNat / 2 ^ 48 % 2 ^ 12) (v.toNat % 2 ^ 48 / 2 ^ 16)
    (s.slot c k).park = some (.tlbinv v) →
    (v.toNat / 2 ^ 61 % 4 = 0 → exec .tlbinvPage s = .next u) ∧
    (v.toNat / 2 ^ 61 % 4 = 1 → exec .tlbinvAsid s = .next u) ∧
    (v.toNat / 2 ^ 61 % 4 = 2 → exec .tlbinvPartition s = .next u) ∧
    (u.core c).dtlb = (s.core c).dtlb.filter (fun e => !gone e) ∧ (u.core c).itlb = (s.core c).itlb.filter (fun e => !gone e) ∧
    exec .tlbinvComplete s = .next (if (s.core c).invDone.contains k then
      (s.modCore c (fun o => { o with invDone := eraseNat o.invDone k })).advanceAt c k else s)) ∧
  (∀ (s : State) (v : Word), let c := s.args.c
    let k := s.args.k
    (s.slot c k).park = some (.lmsplit v) →
    (s.commonsPending (quadOf c) = true ∨ s.relocking (moduleOf c) (dieOf c) = true → exec .lmsplitTakeEffect s = .next s) ∧
    (s.commonsPending (quadOf c) = false → s.relocking (moduleOf c) (dieOf c) = false → isHead c = false → v.toNat / 16 % 16 + v.toNat / 256 % 16 ≤ 12 →
      s.Unwatched (localKey (coreOfQuad (quadOf c) 0) 0) →
      ∃ u, exec .lmsplitTakeEffect s = .next u ∧ (u.core c).lmsplitCom = v.toNat / 16 % 16 ∧ (u.core c).lmsplitCache = v.toNat / 256 % 16 ∧
        (u.slot c k).park = none ∧ (∀ e ∈ u.dirty, coreOfKey (e.1 * 64) ≠ c) ∧
        (u.slot c k).thread = (s.slot c k).thread.map (fun t => { t with ctx := t.ctx.past }) ∧
        ∀ off < 4096 * (12 - v.toNat / 16 % 16 - v.toNat / 256 % 16), off < s.privSize c →
          u.byte (localKey c off) = s.byte (localKey c off))) ∧
  (∀ (s s1 : State) (c : Nat) (t : Thread) (va n : Nat) (kind : AccKind), 0x30000 ≤ va → va < 2 ^ 40 ∨ 2 ^ 41 ≤ va → va < 2 ^ 48 →
    isHead c = false →
    (∀ cls, s.lookup c va (kind == .fetch) = (s1, .fault cls) → s.place c t none va n kind = (s1, .fault cls)) ∧
    (∀ e, s.lookup c va false = (s1, .page e) → t.ctx.status.sup = true → spaceOf (e.phys va) ≠ 1 → kind = .store → e.w = false →
      s.place c t none va n kind = (s1, .fault 1))) ∧
  (∀ (d a b : Reg) (m : BitVec 1) (i : BitVec 14) (s : State) (t : Thread), s.Runs t → plain [d, a, b] = true → t.ctx.status.spl = false →
    s.running.meet = none →
    let faults := fun (x : Instr) (va : Word) (size : Nat) (kind : AccKind) => ∀ (s1 : State) (cls base n : Nat),
      size ≤ roomAt va → s.place s.here t none va.toNat size kind = (s1, .fault cls) → s1.cur = s.cur → s1.Runs t →
      s1.running.meet = none → s1.parkArea s.here = some base → (∀ j < n, j ∈ (s1.core s.here).parkUsed) →
      (n < 8 → n ∉ (s1.core s.here).parkUsed → exec x s = .next (s1.parks t va cls kind.code base n)) ∧
      (n = 8 → exec x s = .next (s1.waitsIn (.fault va cls kind.code)))
    (∀ e ∈ tableLoad, faults (e.instr d a i) (t.ctx.address a i) e.size .load) ∧
    (∀ e ∈ tableStore, (t.ctx.address a i).toNat % e.align = 0 → faults (e.instr d a i) (t.ctx.address a i) e.size .store) ∧
    ((t.ctx.get a).toNat % amoSize m = 0 →
      (∀ e ∈ tableAmo, faults (e.instr d a b m) (t.ctx.get a) (amoSize m) .atomic) ∧
      (∀ e ∈ tableRed, faults (e.instr 0 a b m) (t.ctx.get a) (amoSize m) .atomic)))

/-- R162, R207, R208, R210, R269, R306, R308, R309 and R384: the writes of special and engine registers as events land in the slot that the
event names and store what `swr` and the `*set` words store; a timer whose `tie` is 0 clears `tcmp` and sends its notice; an interrupt
saves ip, status and predicates, gives its source, and enters the handler, whose address loses its low two bits (DESIGN CHOICE, log 104), at
supervisor level; a word that fails a check of R306 traps with
cause 1, or 12 for a register field of 14 or 15. -/
def Obligations.RegisterEvents : Prop :=
  (∀ (s : State) (t : Thread), let u := s.inSlot
    let v := s.args.v
    u.Runs t →
    (∀ e ∈ tableSwr, s.args.reg = .special e.1.toNat → (e.2.1 = true → t.ctx.status.sup = true) → t.bounded u.here = false →
      exec .registerWrite s = .next (u.modCore u.here (fun o => e.2.2.2 o (v &&& e.2.2.1)))) ∧
    (∀ e ∈ tableSwrSlot, s.args.reg = .special e.1.toNat → (e.2.1 = true → t.ctx.status.sup = true) →
      exec .registerWrite s = .next (u.modRunning (fun l => e.2.2.2 l (v &&& e.2.2.1)))) ∧
    (∀ f i, s.args.reg = .engine f i → exec .registerWrite s =
      .next (u.modCore u.here (fun o => o.putFile f (setReg f (o.file f) i v)))) ∧
    exec .engineStatusWrite s = .next (u.modCore u.here (fun o =>
      o.putFile s.args.file (setReg s.args.file (o.file s.args.file) (s.args.file.size - 1) v))) ∧
    (v.toNat % 2 ^ 8 < 128 → exec .fcsrWrite s =
      .next (u.modCtx (fun x => { x with status := { x.status with fcs := v.truncate 8 } }))) ∧
    (t.bounded u.here = false → exec .mbstWrite s = .next (u.modCore u.here (fun o =>
      { o with mbLost := o.mbLost &&& ~~~(v.extractLsb' 48 16), mbOvf := o.mbOvf &&& ~~~(v.extractLsb' 32 16) }))) ∧
    (t.ctx.status.sup = true →
      (v.toNat % 2 ^ 14 = 0 → v.toNat < 2 ^ 52 → spaceOf v.toNat = 0 →
        exec .ptbaseWrite s = .next (u.modCore u.here (fun o => { o with ptbase := v }))) ∧
      (isHead u.here = false → v.toNat / 16 % 16 ≤ 4 → v.toNat / 16 % 16 + v.toNat / 256 % 16 ≤ 12 →
        exec .lmsplitWrite s = .next (u.waitsIn (.lmsplit v))))) ∧
  (∀ s : State, let c := s.args.c
    let o := s.core c
    let now := s.cycOf (moduleOf c) (dieOf c)
    exec .timerExpiry s = .next (if o.tcmp ≠ 0 ∧ o.tcmp.toNat ≤ now ∧ o.ivslot.getLsbD 4 = false then
      (s.modCore c (fun o => { o with tcmp := 0 })).deliver c (o.ivslot.toNat / 2 ^ 5 % 2 ^ 4) (noticeWord 4 0 now) else s)) ∧
  (∀ (s : State) (src : Nat), let c := s.args.c
    let k := s.args.k
    let v := s.cycleStart c
    let u := s.turned c
    let o := v.core c
    s.hasTurn c k = true → o.ivslot.getLsbD 3 = true → o.ivslot.toNat % 8 = k → o.dbgh.getLsbD k = false → v.coreHalted c = false →
    (isHead c = true → k ≠ 7) → v.level c = some src → u.level c = some src → u.coreHalted c = false →
    (∀ t, (u.slot c k).thread = some t → t.ctx.status.sup = false → (u.slot c k).interruptible (u.walksOpen c) = true →
      exec .interruptEntry s = .next ((u.giveBack t.origin t.tid (Carried.named (u.slot c k).carried).2).modSlot c k (fun l =>
        { l with
          eip := t.ctx.ip
          ecause := BitVec.ofNat 64 (2 ^ 63 + src)
          estat := BitVec.ofNat 64 (t.ctx.p.toNat * 2 ^ 48 + t.ctx.status.toWord.toNat % 2 ^ 16)
          park := none
          carried := none
          sigst := l.sigst &&& ~~~((1 : Word) <<< 32)
          thread := some { t with ctx := { t.ctx with ip := ipOf o.ivec, status := { t.ctx.status with sup := true } } } }))) ∧
    ((u.slot c k).thread = none → (u.slot c k).reserved = none → ∃ w t, exec .interruptEntry s = .next w ∧ (w.slot c k).thread = some t ∧
      t.tid = newTid c k (nextGen (u.slot c k).gen) ∧ t.ctx.ip = ipOf o.ivec ∧ t.ctx.status.sup = true ∧
      (w.slot c k).estat.getLsbD 16 = true ∧ (w.slot c k).ecause = BitVec.ofNat 64 (2 ^ 63 + src))) ∧
  (∀ s : State, let c := s.args.c
    s.hasTurn c s.args.k = false ∨ ((s.cycleStart c).core c).ivslot.getLsbD 3 = false ∨ (isHead c = true ∧ s.args.k = 7) →
      exec .interruptEntry s = .next s) ∧
  (∀ (s : State) (t : Thread) (r : DecodeError), s.Traps t → decodeWord s.ir = .error r →
    exec .illegalEncoding s =
      .next (s.trapped t (match r with | .reservedRegister => 12 | _ => 1) 0 (s.ir.zeroExtend 64) t.ctx.ip))

/-! ## Engines at work -/

/-- R179 steps 11 to 14, R381, R383, R387, R388, R407 and R410: a command that may start starts, and a `cps` takes its subscription then; a
`cp` or `cpz` reads a piece that it has not read into a pending write at its home; a pending write puts its bytes there and leaves the set;
a command whose writes have performed leaves its core, sends its notice, leaves its launch and frees the slot that waits for it; a ring tile
enters the incoming latch; a ring command that waits too long ends with error 8. The size of the piece that one read takes is log 23 (DESIGN
CHOICE). A piece whose home lies beyond the quad is asked for and comes back by travellers of VC1, and a write for such a home leaves as one
(log 114, DEDUCED from R3, R42 and R423). -/
def Obligations.EngineEvents : Prop :=
  (∀ s : State, let c := s.args.c
    let e := s.args.engine
    ((s.core c).nextToStart e = none → exec .engineCommandStart s = .next s) ∧
    (∀ d, (s.core c).nextToStart e = some d → s.engineOff c d = true ∨ (s.core c).mayStart d = false → exec .engineCommandStart s = .next s) ∧
    (∀ d, (s.core c).nextToStart e = some d → s.engineOff c d = false → (s.core c).mayStart d = true →
      let u := s.modCmd c d.id (fun x => { x with started := true })
      (d.op ≠ .cps → d.op ≠ .binplay → exec .engineCommandStart s = .next u) ∧
      let tag := d.xa.toNat % 2 ^ 16
      let length := d.xa.toNat / 2 ^ 16 % 2 ^ 32
      let rest := (s.core c).subs.filter (fun b => b.tag != tag)
      let known := (s.core c).subs.any (fun b => b.tag == tag)
      (d.op = .cps → length ≠ 0 → known = true ∨ (s.core c).subs.length < 16 → exec .engineCommandStart s = .next (u.modCore c (fun o =>
        { o with subs := rest ++ [{ tag, base := d.xb.toNat, length }] }))) ∧
      (d.op = .cps → length ≠ 0 → known = false → 16 ≤ (s.core c).subs.length →
        exec .engineCommandStart s = .next (u.engineError c d 9)) ∧
      (d.op = .cps → length = 0 → ∃ v, exec .engineCommandStart s = .next v ∧ (v.core c).subs = rest))) ∧
  (∀ (s : State) (d : Cmd), let c := s.args.c
    let pos := s.args.pos
    s.args.k = 0 → s.activeCmd c s.args.id = some d → d.fe = false → pos < d.total →
    let dest := d.targetAt (pos / d.cnt0) + BitVec.ofNat 64 (pos % d.cnt0)
    let from' := d.sourceAt (pos / d.cnt0) + BitVec.ofNat 64 (pos % d.cnt0)
    let n := max 1 (min s.args.len (min (min (d.cnt0 - pos % d.cnt0) (4096 - dest.toNat % 4096)) (2048 - pos % 2048)))
    let pieces := unitPieces (n / 4096 + 2) from'.toNat n
    (∀ r ∈ d.reads, rangesMeet (pos, n) r = false) → (∀ a ∈ d.asked, rangesMeet (pos, n) a.2 = false) →
    let u := s.modCmd c d.id (fun _ => d)
    let put := fun (v : State) (key : Nat) (l : List Byte) => v.modCmd c d.id (fun e =>
      { e with
        reads := e.reads ++ [(pos, n)]
        pending := e.pending ++ [{ pos, va := dest, home := key, bytes := l,
                                   sub := if v.windowRun c dest.toNat 1 then some d.copyTag else none }] })
    (∀ s1 s2 s3 todo l key, d.op = .cp → u.engineKeys c d.user pieces [] = (s1, .ok todo) → (∀ x ∈ todo, nearHome c x.2.1 = true) →
      s1.engineBytes c d.user from'.toNat n = (s2, .bytes l) → s2.engineKey c d.user dest.toNat false true = (s3, .ok key) →
      exec .engineRead s = .next (put s3 key l)) ∧
    (∀ s1 va key m rest, d.op = .cp → u.engineKeys c d.user pieces [] = (s1, .ok ((va, key, m) :: rest)) → nearHome c key = false →
      exec .engineRead s = .next (((s1.modCmd c d.id (fun e => { e with asked := e.asked ++ [(s1.stamp, pos, n)] })).stampUp).send
        { src := c, dst := (homeTarget key).1, vc := 1, tag := d.tag, part := s1.partTag c, port := (homeTarget key).2,
          load := .copyRead { core := c, id := d.id, key := s1.stamp, pos, dest, todo := (va, key, m) :: rest } })) ∧
    (∀ s2 key, d.op = .cpz → u.engineKey c d.user dest.toNat false true = (s2, .ok key) →
      exec .engineRead s = .next (put s2 key (List.replicate n 0))) ∧
    (∀ s1 k va, d.op = .cp → u.engineKeys c d.user pieces [] = (s1, .error (k, va)) →
      exec .engineRead s = .next (s1.stopCmd c d.id k 0 (BitVec.ofNat 64 va)))) ∧
  (∀ (s : State) (x : Traveller) (r : FarRead) (va key n : Nat), s.args.k ≠ 0 → s.Arrives x → x.load = .copyRead r → x.atBuffer = false →
    r.todo = [(va, key, n)] → r.err = none → homeCore key = some x.dst → r.core ≠ x.dst →
    let u := s.landed s.args.n x
    let goes := fun (v : State) (r : FarRead) => v.send { src := x.dst, dst := r.core, vc := 1, tag := x.tag, part := x.part, load := .copyRead r }
    (u.health key n = .sound →
      exec .engineRead s = .next (goes (u.countRead key n) { r with todo := [], got := r.got ++ u.bytes key n })) ∧
    (u.health key n = .media → exec .engineRead s = .next (goes u { r with err := some (5, va) }))) ∧
  (∀ (s : State) (x : Traveller) (r : FarRead) (d : Cmd) (a : Nat × Nat × Nat), s.args.k ≠ 0 → s.Arrives x → x.load = .copyRead r →
    x.atBuffer = false → r.core = x.dst → r.todo = [] →
    let u := s.landed s.args.n x
    (u.core x.dst).cmd r.id = some d → d.asked.find? (fun b => b.1 == r.key) = some a →
    (∀ k va, r.err = some (k, va) → exec .engineRead s = .next (u.stopCmd x.dst d.id k 0 (BitVec.ofNat 64 va))) ∧
    (r.err = none → d.op ≠ .cpsi → exec .engineRead s =
      .next ((u.modCmd x.dst d.id (fun e => { e with asked := e.asked.filter (fun b => b.1 != r.key) })).joinPending x.dst d a.2.1 a.2.2 r.got r.dest))) ∧
  (∀ (s : State) (d : Cmd) (w : PWrite), let c := s.args.c
    s.args.k = 0 → s.activeCmd c s.args.id = some d → d.pending[s.args.idx]? = some w → d.op ≠ .cpsi → w.held = false →
    (w.sent = true → exec .engineWritePerform s = .next s) ∧
    (let off := s.args.pos
      let n := s.args.len
      let part := fun (a k : Nat) => { w with pos := w.pos + a, va := w.va + BitVec.ofNat 64 a, home := w.home + a, bytes := (w.bytes.drop a).take k }
      let parts := [part 0 off, part off n, part (off + n) (w.bytes.length - (off + n))].filter (fun p => !p.bytes.isEmpty)
      n ≠ 0 → off + n ≤ w.bytes.length → w.sent = false → w.append = false → w.red = none → w.bits = none → w.full = false → w.sub = none →
      nearHome c (w.home + off) = true →
      exec .engineWritePerform s = .next (((s.modCmd c d.id (fun e =>
        { e with pending := e.pending.flatMap (fun p => if p = w then parts else [p]) })).storeHome (w.home + off) ((w.bytes.drop off).take n)).modCmd c d.id
          (fun e => { e with pending := e.pending.erase (part off n), performed := e.performed + n }))) ∧
    (s.args.len = 0 → w.sent = false → w.append = false →
      (w.near c = true → w.bits = none → w.red = none →
        (w.full = false → exec .engineWritePerform s = .next ((s.storeHome w.home w.bytes).modCmd c d.id (fun e =>
          { e with pending := e.pending.erase w, performed := e.performed + w.bytes.length }))) ∧
        (w.full = true → exec .engineWritePerform s = .next ((s.storeHome w.home w.bytes).modCmd c d.id (fun e =>
          { e with pending := e.pending.map (fun p =>
              if p = w then { w with full := false, bits := some true, sub := none, held := false, sent := false } else p) })))) ∧
      (w.near c = false →
        let v : PWrite := { w with sent := true }
        exec .engineWritePerform s = .next ((s.modCmd c d.id (fun e =>
          { e with pending := e.pending.map (fun p => if p = w then v else p) })).send
            { src := c, dst := (homeTarget w.home).1, vc := 1, tag := d.tag, part := s.partTag c, port := (homeTarget w.home).2,
              load := .copyData d.id v })))) ∧
  (∀ (s : State) (x : Traveller) (d : Cmd) (w : PWrite),
    s.args.k ≠ 0 → s.Arrives x → x.load = .copyData d.id w → x.port = none → w.sub = none →
    let u := s.landed s.args.n x
    (u.core x.src).cmd d.id = some d →
    (w ∉ d.pending → exec .engineWritePerform s = .next u) ∧
    (w ∈ d.pending → w.bits = none → w.append = false → w.red = none → w.full = false →
      exec .engineWritePerform s = .next ((u.storeHome w.home w.bytes).modCmd x.src d.id (fun e =>
        { e with pending := e.pending.erase w, performed := e.performed + w.bytes.length })))) ∧
  (∀ (s : State) (x : Traveller) (id : Nat) (w : PWrite), s.args.k ≠ 0 → s.arriving s.args.n = some x → x.load = .copyData id w →
    x.port = none → let u := s.landed s.args.n x
    (u.core x.dst).lost = true → exec .engineWritePerform s = .next ((u.stopCmd x.src id 7 1 w.va).report x)) ∧
  (∀ (s : State) (d : Cmd), let c := s.args.c
    s.activeCmd c s.args.id = some d → d.op ≠ .cpm →
    (s.cmdDone c d = false → exec .engineCommandComplete s = .next s) ∧
    (s.cmdDone c d = true →
      let u := s.modCore c (fun o =>
        { o with cmds := o.cmds.filter (fun e => e.id != d.id), streams := o.streams.filter (fun b => b.cmd != d.id) })
      let v := match d.noticeOf with
        | none => u
        | some (mb, kind, status) => u.sendNotice c c mb (noticeWord kind status d.id) d.tag none
      let w := if d.launch.toNat % 2 ^ 32 = 0 then v else v.decrement c { launch := d.launch.toNat % 2 ^ 32, copy := true }
      ((s.slot c d.slot).park ≠ some (.engine d.id) → exec .engineCommandComplete s = .next w) ∧
      ((s.slot c d.slot).park = some (.engine d.id) → d.error = 0 → exec .engineCommandComplete s = .next (w.advanceAt c d.slot)))) ∧
  (∀ (s : State) (x : Traveller) (l : Latch), s.arriving s.args.n = some x → x.load = .latch l →
    exec .latchTileArrival s = .next ((s.landed s.args.n x).modCore x.dst (fun o => { o with incoming := some l }))) ∧
  (∀ (s : State) (d : Cmd), let c := s.args.c
    s.activeCmd c s.args.id = some d → d.engine = .matrix →
    exec .ringStall s = .next (if s.ringStalled c d then
      (s.engineError c d 8).modCmd c d.id (fun e => { e with phase := matrixEnd, ringWait := 0 }) else s))

/-- R395, R396, R398 and R404: a group of an elementwise function is read before any of its writes, and element i of the result, of every
element that the mask leaves, is the function of element i of the operands: the sum, difference, product, minimum or maximum, the fused
product and sum, in the format of `v.fmt`, exact and wrapped for an integer format; a NaN that `vsel` selects becomes the canonical one
(DEDUCED, log 39).
R397: `vcmp` writes the conditions as mask bits, and the bits of a byte beyond the group keep their values. R399: `vred` and `vdot` sum their
elements, or rounded products, by the tree of pairs, exactly modulo the width for an integer format. R400: `vgat` moves the elements that its
indices name, `vsca` leaves the value of the highest element of a target, `vscadd` adds a target's terms to it in ascending order; an element
outside local memory, or outside a split task's scratch, is skipped. R282 and R402: `vquant` gives a block with a NaN the scale byte 0x7F, a
block of zeros 0, and any other the smallest that reaches its largest magnitude, or 0x7E, and encodes its quotients. -/
def Obligations.VectorElementsAreComputed : Prop :=
  (∀ (s s1 : State) (d : Cmd) (g : Group), let c := s.args.c
    s.args.k = 0 → s.activeCmd c s.args.id = some d → d.op ∈ [.vadd, .vsub, .vmul, .vfma, .vmin, .vmax, .vabs, .vneg, .vsqrt, .vexp2, .vsel, .vcvt, .vfix, .vflt] →
    d.pending = [] → d.phase < d.groups → s.readGroup c d (d.groupIs d.phase) = (s1, some g) →
    exec .engineRead s = .next (s1.emit c d (d.groupElements g))) ∧
  (∀ (d : Cmd) (g : Group), (d.groupElements g).writes = ((List.range g.is.length).filter (d.writes g)).map (fun p =>
    ((d.elemD (g.is.getD p 0)).1, toBytes (d.element (g.a.getD p 0) (d.valueB g p) (g.e.getD p 0) (g.mbit p)).1 (d.elemD (g.is.getD p 0)).2))) ∧
  (∀ (d : Cmd) (a b e : Nat) (m : Bool) (f : Fmt), fmtOf d.vfmt = some f →
    (d.op = .vadd → d.element a b e m = f.fadd .rne a b) ∧ (d.op = .vsub → d.element a b e m = f.fsub .rne a b) ∧
    (d.op = .vmul → d.element a b e m = f.fmul .rne a b) ∧ (d.op = .vfma → d.element a b e m = f.ffma .rne a b e) ∧
    (d.op = .vmin → d.element a b e m = f.fmin a b) ∧ (d.op = .vmax → d.element a b e m = f.fmax a b) ∧
    (d.op = .vsel → let x := if m then a else b
      ((f.decode x).isNan = false → d.element a b e m = (x, 0)) ∧ ((f.decode x).isNan = true → (d.element a b e m).1 = f.nan))) ∧
  (∀ (d : Cmd) (a b e : Nat) (m : Bool), fmtOf d.vfmt = none →
    let w := intWidth d.vfmt
    let x := (BitVec.ofNat w a).toInt
    let y := (BitVec.ofNat w b).toInt
    let z := (BitVec.ofNat w e).toInt
    w ∈ [8, 16, 32, 64] →
    (d.op = .vadd → d.element a b e m = ((BitVec.ofInt w (x + y)).toNat, 0)) ∧
    (d.op = .vsub → d.element a b e m = ((BitVec.ofInt w (x - y)).toNat, 0)) ∧
    (d.op = .vmul → d.element a b e m = ((BitVec.ofInt w (x * y)).toNat, 0)) ∧
    (d.op = .vfma → d.element a b e m = ((BitVec.ofInt w (x * y + z)).toNat, 0))) ∧
  (∀ (s s1 : State) (d : Cmd) (g : Group), let c := s.args.c
    s.args.k = 0 → s.activeCmd c s.args.id = some d → d.pending = [] → d.phase < d.groups → s.readGroup c d (d.groupIs d.phase) = (s1, some g) →
    d.vfmt ∈ [0, 1, 2, 3, 5, 6, 7] →
    let all := d.gathered.map (fun w => w.toNat) ++ (List.range g.is.length).map (fun p =>
      if d.op = .vdot then (mulElem d.vfmt (g.a.getD p 0) (d.valueB g p)).1 else g.a.getD p 0)
    let sum := match fmtOf d.vfmt with
      | some f => (f.pass (treeSum (addElem d.vfmt) 33 all 0).1).1
      | none => all.foldl (· + ·) 0
    (d.op = .vcmp → exec .engineRead s = .next (s1.emit c d (s1.groupCompare c d g))) ∧
    (d.op = .vgat → exec .engineRead s = .next (s1.emit c d (s1.groupGather c d g))) ∧
    (d.op = .vsca ∨ d.op = .vscadd → exec .engineRead s = .next (s1.emit c d (s1.groupScatter c d g))) ∧
    (d.op = .vquant → exec .engineRead s = .next ((s1.emit c d (s1.groupQuantise c d g)).tick)) ∧
    (d.op = .vred ∨ d.op = .vdot → all.length ≤ 2 ^ 32 →
      (d.phase + 1 < d.groups → ∃ fl, exec .engineRead s = .next ((s1.modCore c (fun o => o.orStatus .vector fl)).modCmd c d.id (fun e =>
        { e with phase := e.phase + 1, gathered := all.map (BitVec.ofNat 64) }))) ∧
      (d.phase + 1 = d.groups → ∃ fl, exec .engineRead s = .next
        (s1.emit c d { writes := [(d.xa.toNat, toBytes sum (elemSize d.vfmt))], flags := fl })))) ∧
  (∀ (add : Nat → Nat → Nat × Nat) (l : List Nat), (treeLevel add l).1.length = (l.length + 1) / 2 ∧
    (∀ j, 2 * j + 1 < l.length → (treeLevel add l).1[j]? = some (add (l.getD (2 * j) 0) (l.getD (2 * j + 1) 0)).1) ∧
    (∀ j, 2 * j + 1 = l.length → (treeLevel add l).1[j]? = l[2 * j]?)) ∧
  (∀ (s : State) (c : Nat) (d : Cmd) (g : Group) (j : Nat), j < (g.is.length + 7) / 8 →
    let va := (d.xa + BitVec.ofNat 64 (g.is.headD 0 / 8 + j)).toNat
    ∃ b : Byte, (s.groupCompare c d g).writes[j]? = some (va, [b]) ∧ ∀ i < 8, b.getLsbD i =
      if 8 * j + i < g.is.length then (d.compare (g.a.getD (8 * j + i) 0) (d.valueB g (8 * j + i))).1
      else (s.byte (s.localAt c va)).getLsbD i) ∧
  (∀ (d : Cmd) (a b : Nat), let cc := BitVec.ofNat 4 d.optField
    (∀ f, fmtOf d.vfmt = some f → (d.compare a b).1 = (fcond f cc a b).1) ∧
    (fmtOf d.vfmt = none → (d.compare a b).1 = cond cc (BitVec.ofNat (intWidth d.vfmt) a) (BitVec.ofNat (intWidth d.vfmt) b))) ∧
  (∀ (s : State) (c : Nat) (d : Cmd) (g : Group), let from' := fun p => d.indexedElem d.xb (g.idx.getD p 0)
    (s.groupGather c d g).writes = ((List.range g.is.length).filter (fun p => d.writes g p && s.localRun c (from' p).1 (from' p).2)).map
      (fun p => ((d.elemD (g.is.getD p 0)).1, toBytes (g.a.getD p 0) (d.elemD (g.is.getD p 0)).2))) ∧
  (∀ (s : State) (c : Nat) (d : Cmd) (g : Group), let n := elemSize d.vfmt
    let dest := fun p => (d.indexedElem d.xa (g.idx.getD p 0)).1
    let ps := (List.range g.is.length).filter (fun p => d.writes g p && s.scatterOk c d (dest p, n))
    let ws := (s.groupScatter c d g).writes
    (ws.map (fun w => w.1)).Nodup ∧ (∀ w ∈ ws, ∃ p ∈ ps, w.1 = dest p) ∧
    (∀ p ∈ ps, d.op = .vsca → (∀ q ∈ ps, p < q → dest q ≠ dest p) → (dest p, toBytes (g.a.getD p 0) n) ∈ ws) ∧
    (∀ p ∈ ps, d.op = .vscadd → let same := ps.filter (fun q => dest q = dest p)
      (dest p, toBytes (same.foldl (fun r q => (addElem d.vfmt r (g.a.getD q 0)).1 % 2 ^ (8 * n)) (g.e.getD (same.headD 0) 0)) n) ∈ ws)) ∧
  (∀ (s : State) (c : Nat) (d : Cmd) (g : Group) (m : Nat) (e : Int) (x : Bool), fp32.decode d.hdrScale = .fin x m e → d.hdrScl = true →
    let t := d.hdrFmt % 2
    let six := isSix d.hdrFmt
    let tab := if t = 0 then (s.core c).tab0 else (s.core c).tab1
    let xs := g.a.map fp32.decode
    let first := g.is.headD 0
    let top := tableMax six tab
    let reaches := fun (am : Nat) (ae : Int) (b : Nat) => ∃ y bm be, scaleValue (BitVec.ofNat 8 b) = .fin y bm be ∧ 0 ≤ top ∧
      prodReaches am ae (bm * m * top.toNat) (be + e - 136) = true
    ∃ (sb : Nat) (codes : List Nat), (s.groupQuantise c d g).writes =
        [(d.xa.toNat + packedSize d.hdrFmt first, packCodes d.hdrFmt codes), (d.scaleRange.1 + first / 2 ^ d.hdrLog, toBytes sb 1)] ∧
      codes.length = g.a.length ∧
      (xs.any Fl.isNan = true → sb = 0x7F) ∧
      (xs.any Fl.isNan = false → ∀ y am ae, xs.foldl Fl.maxMag (.fin false 0 0) = .fin y am ae →
        (am = 0 → sb = 0 ∧ codes = g.a.map (fun v => if fp32.neg v then (if six then 32 else 128) else 0)) ∧
        (am ≠ 0 → sb ≤ 0x7E ∧ (∀ b < sb, ¬ reaches am ae b) ∧ (sb < 0x7E → reaches am ae sb) ∧
          ∀ y' bm be, scaleValue (BitVec.ofNat 8 sb) = .fin y' bm be → codes = g.a.map (fun v =>
            encodeCode six tab (encCtl (d.reg 11) t) (Config.freeNat s.free) (fp32.neg v) ((fp32.decode v).over (m * bm) (e + be))))))

/-- R283, R284 and R291: exact terms added to an accumulator element give the same element in every order in which none saturates it; a raw
element reads back, with its anchor. -/
def Obligations.AccumulatorsAddInAnyOrder : Prop :=
  (∀ (anc : Int) (a : AccElem) (l m : List Fl), l.Perm m →
    (l.foldl (AccElem.term anc) a).sat = false → (m.foldl (AccElem.term anc) a).sat = false →
    l.foldl (AccElem.term anc) a = m.foldl (AccElem.term anc) a) ∧
  (∀ (anc : Int) (a : AccElem) (l : List Fl), Fl.inf false ∈ l → Fl.inf true ∈ l →
    (AccElem.settle (l.foldl (AccElem.term anc) a)).nan = true) ∧
  (∀ (a : AccElem) (anc : BitVec 16), rawOf (a.raw anc) = (a, anc)) ∧
  (∀ (a b : AccElem), a.sat = true ∨ b.sat = true → (a.addRaw b).n = a.n ∧ (a.addRaw b).sat = true)

/-! ## Links, power, spares and tests -/

/-- R52: a flit's header word gives its fields back, and a sealed flit of a kind that is not reserved is not discarded; a discarded one is
counted as a CRC error, and its class asks for a replay.
R53 to R56: a packet takes the next number of its class and a place in the replay buffer, unless that is full or packets are to be sent
again, which go first; it carries the travellers that stand at the edge of its link, and a copy's descriptor, on class 2, comes before the
copy's data; a receiver takes the flits of the packet that it expects, acknowledges after eight packets or 500 ns, and drops every other
packet; what a packet carried leaves the link once, when its last flit is taken; an acknowledgement gives the last number of each class and
frees what it covers, and a replay request sends the rest again.
R57 to R61: a failing lane is covered by the free spare, and otherwise lost; the direction then retrains, to the widest aligned group of
lanes without a failed one, at both ends, and both ends report every event in the word of the table; three failed retrainings, or no clean
lane, bring it down; a down direction is trained again after 1 ms, and its restoration is an event once it succeeds. The model's choices: the
lane state and notices of both ends, what a packet holds and the free stream (log 69), the saturated time and the open fields of a notice
(log 98), and when a lost replay request is repeated (log 117). -/
def Obligations.LinkPacketsAndLanes : Prop :=
  (∀ f : LinkFlit, f.seq < 2 ^ 16 → f.fidx < 2 ^ 5 → f.tc < 4 → f.kind < 16 → f.strm < 16 → LinkFlit.ofWord f.word f.payload = f) ∧
  (∀ f : LinkFlit, f.kind ≤ 4 → f.seal.bad = false) ∧
  (∀ f : LinkFlit, 4 < f.kind → f.bad = true) ∧
  (∀ (d : LinkDir) (k c n : Nat), c < 4 → d.expected.length = 4 → d.expected[c]? = some n → n < 2 ^ 16 → d.valid.getD c false = true →
    (d.answer k).kind = k ∧ (d.answer k).lastOf c = some ((n + 2 ^ 16 - 1) % 2 ^ 16)) ∧
  (∀ s : State, let m := s.args.m
    let l := s.args.link
    let d := (s.link m l).tx
    (d.down = true ∨ d.retraining = true → exec .lanifyPacketSend s = .next s) ∧
    (d.down = false → d.retraining = false → (s.module m).census = true →
      (∀ p r, d.resend = p :: r → exec .lanifyPacketSend s = .next (s.modDir m l .tx (fun d =>
        { d with resend := r, wire := d.wire ++ p.flits, replayed := bump d.replayed p.cls }))) ∧
      (d.resend = [] → 512 ≤ d.replay.length → exec .lanifyPacketSend s = .next s) ∧
      (d.resend = [] → d.replay.length < 512 → s.args.cls < 4 → s.waitingAt m l s.args.cls = [] →
        (∀ t ∈ s.waitingAt m l 1, t.copyId = none) → exec .lanifyPacketSend s = .next s) ∧
      (∀ t r, d.resend = [] → d.replay.length < 512 → s.args.cls < 4 → s.args.cls ≠ 2 → s.args.n = 0 →
        s.waitingAt m l s.args.cls = t :: r → t.copyId = none →
        let sent := fun (u : State) (p : Packet) => u.modDir m l .tx (fun d =>
          { d with
            nextSeq := d.nextSeq.set p.cls ((d.nextSeq.getD p.cls 0 + 1) % 2 ^ 16)
            replay := d.replay ++ [{ p with seq := d.nextSeq.getD p.cls 0 }]
            wire := d.wire ++ ({ p with seq := d.nextSeq.getD p.cls 0 } : Packet).flits
            sent := bump d.sent p.cls })
        (t.rest.length ≤ 2048 → exec .lanifyPacketSend s = .next (sent (s.board m l [t])
          { cls := s.args.cls, seq := 0, travellers := [t.key], payload := t.rest })) ∧
        (2048 < t.rest.length → exec .lanifyPacketSend s = .next (sent (s.cutFrom t)
          { cls := s.args.cls, seq := 0, payload := t.rest.take 2048 }))) ∧
      (∀ t r id k, d.resend = [] → d.replay.length < 512 → s.args.cls = 2 → s.waitingAt m l 1 = t :: r → t.copyId = some id →
        d.streamOf id = none → s.freeStream d = some k →
        let p : Packet := { cls := 2, seq := d.nextSeq.getD 2 0, strm := k, opens := some id, payload := s.descriptor t id k }
        ∃ u, exec .lanifyPacketSend s = .next u ∧ (u.link m l).tx.replay = d.replay ++ [p] ∧
          (u.link m l).tx.wire = d.wire ++ p.flits ∧ (u.link m l).tx.streamOf id = some k ∧ u.net = s.net))) ∧
  (∀ (s : State) (m2 l2 : Nat) (f : LinkFlit) (r : List LinkFlit), let m := s.args.m
    let l := s.args.link
    let d := (s.link m l).rx
    s.farEnd m l = some (m2, l2) → (s.link m2 l2).tx.wire = f :: r → d.down = false → d.retraining = false → s.args.damaged = false →
    let u := (s.modDir m2 l2 .tx (fun e => { e with wire := r })).modDir m l .rx (fun e => (e.receive s.now f).1)
    ((d.receive s.now f).2 = false → exec .lanifyFlitReceive s = .next u) ∧
    (∀ p, (d.receive s.now f).2 = true → (s.link m2 l2).tx.replay.find? (fun p => p.cls == f.tc && p.seq == f.seq) = some p →
      exec .lanifyFlitReceive s = .next (u.deliverPacket m l p))) ∧
  (∀ (d : LinkDir) (now : Nat) (f : LinkFlit), f.bad = false → f.kind = 0 →
    let n := d.expected.getD f.tc 0
    let took : LinkDir :=
      { d with
        expected := d.expected.set f.tc ((n + 1) % 2 ^ 16), valid := d.valid.set f.tc true, got := d.got.set f.tc 0
        discarding := eraseNat d.discarding f.tc }
    (f.seq ≠ n → d.receive now f = (d, false)) ∧
    (f.seq = n → f.fidx = d.got.getD f.tc 0 → f.last = false →
      d.receive now f = ({ d with got := d.got.set f.tc (f.fidx + 1) }, false)) ∧
    (f.seq = n → f.fidx = d.got.getD f.tc 0 → f.last = true →
      (d.unacked < 7 → d.receive now f = ({ took with unacked := d.unacked + 1, oldest := some (d.oldest.getD now) }, true)) ∧
      (7 ≤ d.unacked → d.receive now f =
        ({ took with unacked := 0, oldest := none, acks := d.acks ++ [took.answer 1] }, true)))) ∧
  (∀ (d : LinkDir) (now : Nat) (f : LinkFlit), f.bad = true →
    d.receive now f = ({ d with crcErrors := d.crcErrors + 1, discarding := insertNat d.discarding f.tc, got := d.got.set f.tc 0
                                requests := d.requests ++ [d.answer 2], requested := now }, false)) ∧
  (∀ s : State, let m := s.args.m
    let l := s.args.link
    let d := (s.link m l).rx
    (∀ t, d.oldest = some t → 3600 ≤ s.now - t → exec .ackTimeout s = .next (s.modDir m l .rx (fun d =>
      { d with acks := d.acks ++ [d.answer 1], unacked := 0, oldest := none }))) ∧
    ((∀ t, d.oldest = some t → s.now - t < 3600) →
      exec .ackTimeout s = .next (if d.discarding ≠ [] ∧ d.requests = [] ∧ 3600 ≤ s.now - d.requested then
        s.modDir m l .rx (fun d => { d with requests := [d.answer 2], requested := s.now }) else s))) ∧
  (∀ (s : State) (m2 l2 : Nat) (x : LinkFlit) (r : List LinkFlit), let m := s.args.m
    let l := s.args.link
    (s.link m l).rx.down = false → (s.link m l).rx.retraining = false → s.farEnd m l = some (m2, l2) → s.args.damaged = false →
    let keep := fun (q : List Packet) => q.filter (fun p => match x.lastOf p.cls with
      | none => true
      | some n => !seqBefore p.seq ((n + 1) % 2 ^ 16))
    let a := s.modDir m2 l2 .rx (fun d => { d with acks := d.acks.drop 1 })
    let b := s.modDir m2 l2 .rx (fun d => { d with requests := d.requests.drop 1 })
    ((s.link m2 l2).rx.acks = x :: r →
      (x.bad = false → exec .lanifyAcknowledgement s = .next (a.modDir m l .tx (fun d =>
        { d with replay := keep d.replay, resend := keep d.resend }))) ∧
      (x.bad = true → exec .lanifyAcknowledgement s = .next (a.modDir m l .rx (fun d => (d.receive s.now x).1)))) ∧
    ((s.link m2 l2).rx.requests = x :: r → x.bad = true → exec .replayRequest s = .next (b.modDir m l .rx (fun d => (d.receive s.now x).1))) ∧
    ((s.link m2 l2).rx.requests = x :: r → x.bad = false → exec .replayRequest s = .next (b.modDir m l .tx (fun d =>
      { d with replay := keep d.replay, resend := keep d.replay })))) ∧
  (∀ s : State, let m := s.args.m
    let l := s.args.link
    let x := s.args.lane
    let side := s.args.side
    let u := s.modBoth m l side (fun d => d.fail l s.now x)
    let e := (u.link m l).side side
    ((x < laneCount l ∨ x = 16 ∧ l < 16) →
      (e.down = false ∨ e.retraining = true → exec .laneFailure s = .next u) ∧
      (e.down = true → e.retraining = false → exec .laneFailure s = .next
        ((u.linkEvents m l side 1 e.events).modBoth m l side (fun d => { d with events := [] })))) ∧
    (¬ (x < laneCount l ∨ x = 16 ∧ l < 16) → exec .laneFailure s = .next s)) ∧
  (∀ (d : LinkDir) (l now x : Nat), x < laneCount l → d.failed.contains x = false → d.spare ≠ some x →
    let trains := !d.down || d.retraining
    (l < 16 → d.spare = none → 16 ∉ d.failed → d.fail l now x =
      { d with spare := some x, retraining := trains, since := now, lane := x, events := d.events ++ [(1, x)], wire := [] }) ∧
    (16 ≤ l ∨ d.spare ≠ none ∨ 16 ∈ d.failed → d.fail l now x =
      { d with failed := d.failed ++ [x], retraining := trains, since := now, lane := x, events := d.events ++ [(2, x)], wire := [] })) ∧
  (∀ (n : Nat) (failed : List Nat), n = 16 ∨ n = 8 →
    let clean := fun (w f : Nat) => f % w = 0 ∧ f + w ≤ n ∧ ∀ x ∈ failed, ¬ (f ≤ x ∧ x < f + w)
    (∀ w f, cleanGroup n failed = some (w, f) → w ∈ [16, 8, 4, 2, 1] ∧ clean w f ∧
      (∀ v ∈ [16, 8, 4, 2, 1], w < v → ∀ g, ¬ clean v g) ∧ (∀ g < f, ¬ clean w g)) ∧
    (cleanGroup n failed = none → ∀ f, ¬ clean 1 f)) ∧
  (∀ s : State, let m := s.args.m
    let l := s.args.link
    let side := s.args.side
    let d := (s.link m l).side side
    let told := fun (u : State) (status : Nat) =>
      (u.linkEvents m l side status ((u.link m l).side side).events).modBoth m l side (fun d => { d with events := [] })
    let acks := fun (d : LinkDir) => ({ d with acks := d.acks ++ [d.answer 1], unacked := 0, oldest := none } : LinkDir)
    (d.retraining = false → exec .linkRetrainingComplete s = .next s) ∧
    (d.retraining = true → s.args.ok = false →
      let u := s.modBoth m l side LinkDir.missed
      let e := (u.link m l).side side
      (e.retraining = true → exec .linkRetrainingComplete s = .next (u.linkEvents m l side 2 (e.events.take 1))) ∧
      (e.retraining = false → exec .linkRetrainingComplete s = .next (told u (if d.down then 2 else 1)))) ∧
    (d.retraining = true → s.args.ok = true →
      let u := s.modBoth m l side (fun e => e.trained l)
      let e := (u.link m l).side side
      (e.down = true → exec .linkRetrainingComplete s = .next (told u 1)) ∧
      (e.down = false → side = .rx → exec .linkRetrainingComplete s = .next ((told u 0).modDir m l .rx acks)) ∧
      (∀ m2 l2, e.down = false → side = .tx → (told u 0).farEnd m l = some (m2, l2) →
        exec .linkRetrainingComplete s = .next ((told u 0).modDir m2 l2 .rx acks))) ∧
    exec .linkTrainingRetry s = .next (if d.down = true ∧ d.retraining = false ∧ d.barred = false ∧ 7200000 ≤ s.now - d.since then
      s.modBoth m l side (fun e => { e with retraining := true, restoring := true, since := s.now }) else s)) ∧
  (∀ (s : State) (m l m2 l2 status event lane : Nat) (side : LinkSide), s.farEnd m l = some (m2, l2) →
    s.linkEvents m l side status [(event, lane)] =
      (s.linkNotice m l side status (event, lane)).linkNotice m2 l2 (otherSide side) status (event, lane)) ∧
  (∀ (now l status event lane : Nat) (side : LinkSide) (d : LinkDir),
    status < 3 → l < 32 → event < 8 → lane < 32 → d.first < 16 → d.replayFrom side < 2 ^ 16 → d.down = false → status ≠ 1 →
    let w := linkWord now l side d status (event, lane)
    bits w 63 58 = 10 ∧ bits w 57 48 = status ∧ bits w 47 43 = l ∧ bits w 42 42 = (if side = .tx then 0 else 1) ∧
    bits w 41 39 = event ∧ bits w 38 34 = lane ∧ bits w 33 31 = widthCode d.width ∧ bits w 30 27 = d.first ∧
    bits w 26 11 = d.replayFrom side ∧ bits w 10 0 = min 2047 ((now - d.since) / 72)) ∧
  (∀ (d : LinkDir) (l w f : Nat), (cleanGroup (laneCount l) d.failed = some (w, f) →
      (d.trained l).width = w ∧ (d.trained l).first = f ∧ (d.trained l).down = false ∧ (d.trained l).retraining = false ∧
      (d.trained l).resend = d.replay ∧ (d.trained l).events = d.events ++ (if d.restoring then [(3, d.lane)] else [])) ∧
    (cleanGroup (laneCount l) d.failed = none →
      (d.trained l).down = true ∧ (d.trained l).events = d.events ++ (if d.down then [] else [(4, d.lane)])) ∧
    (d.down = true → d.missed = { d with retraining := false, restoring := false }) ∧
    (d.down = false → 2 ≤ d.tries → d.missed.down = true ∧ d.missed.events = d.events ++ [(4, d.lane)]) ∧ (d.down = false → d.tries < 2 → d.missed.down = false ∧ d.missed.tries = d.tries + 1))

/-- R41, R70, R73, R75 and R76: a temperature sets the refresh and the halved allowance, and starts or ends the times for which a die is too
hot or cool again; after 1 ms, or 10 ms, a die is asked for the next lower, or higher, clock; after 1.5 µs a relocking die runs at its new
clock, with `cyc` rescaled; the arbiter grants every district an allowance at most every 5 µs, whose arrival ends the throttling, and a draw
above the allowance throttles. How a limit is shared is log 100, and that a half is rounded down log 99 (DESIGN CHOICES). -/
def Obligations.ClocksAndPower : Prop :=
  (∀ s : State, let m := s.args.m
    let d := s.args.die
    let t := s.args.temp
    exec .dieTemperatureChange s = .next (s.modDie m d (fun o =>
      { o with
        temp := t, refresh := decide (85 < t), allowHalved := decide (95 < t)
        hotSince := if 95 < t then some (o.hotSince.getD s.now) else none
        coolSince := if t < 90 then some (o.coolSince.getD s.now) else none }))) ∧
  (∀ (s : State) (t : Nat), let m := s.args.m
    let d := s.args.die
    let o := s.die m d
    let next := match o.relock with
      | some r => r.1
      | none => o.clock
    (o.hotSince = some t → exec .thermalStepDown s = .next (if 7200000 ≤ s.now - t ∧ next < 3 then
      (s.modDie m d (fun o => { o with hotSince := some s.now })).askClock m d (next + 1) else s)) ∧
    (o.coolSince = some t → exec .thermalStepUp s = .next (if 72000000 ≤ s.now - t ∧ o.wanted < next then
      (s.modDie m d (fun o => { o with coolSince := some s.now })).askClock m d (next - 1) else s)) ∧
    (o.hotSince = none → exec .thermalStepDown s = .next s) ∧ (o.coolSince = none → exec .thermalStepUp s = .next s)) ∧
  (∀ (o : Die) (now cyc state : Nat),
    (o.relock = none → state ≠ o.clock →
      o.ask now cyc state = { o with relock := some (state, now + 10800), cycBase := cyc, since := now }) ∧
    (o.relock = none → o.ask now cyc o.clock = o) ∧
    (o.relock ≠ none → o.ask now cyc state = { o with heldTarget := some state })) ∧
  (∀ (s : State) (m d state : Nat), (s.askClock m d state).die m d = (s.die m d).ask s.now (s.cycOf m d) state ∧
    (s.relocking m d = true ∨ state = (s.die m d).clock →
      s.askClock m d state = s.modDie m d (fun o => o.ask s.now (s.cycOf m d) state))) ∧
  (∀ (s : State) (state t : Nat), let m := s.args.m
    let d := s.args.die
    (s.die m d).relock = some (state, t) →
    (s.now < t → exec .relockRestart s = .next s) ∧
    (t ≤ s.now → (s.die m d).heldTarget = none → ∃ u, exec .relockRestart s = .next u ∧ (u.die m d).relock = none ∧
      (u.die m d).clock = state ∧ (u.die m d).since = s.now ∧
      (u.die m d).cycBase = (s.die m d).cycBase * freqOf state / freqOf (s.die m d).clock + 10800 / periodOf state)) ∧
  (∀ s : State, let m := s.args.m
    exec .powerGrant s = .next (if s.now - (s.module m).lastGrant < 36000 then s else
      (List.range 128).foldl (fun u d => u.send
        { src := rootCore m 0, dst := rootCore m d, vc := 3, load := .grant d
            (if (s.die m (d / 16)).allowHalved then (allowances (s.module m).limit s.args.allow).getD d 0 / 2
              else (allowances (s.module m).limit s.args.allow).getD d 0) })
        (s.modModule m (fun o => { o with lastGrant := s.now })))) ∧
  (∀ (limit : Nat) (asked : List Nat), let l := allowances limit asked
    l.length = 128 ∧ (∀ a ∈ l, a ≤ 64) ∧ (∀ d < 128, l.getD d 0 ≤ min 64 (asked.getD d 64)) ∧ l.foldl (· + ·) 0 ≤ allowTotal limit) ∧
  (∀ (s : State) (x : Traveller) (d a : Nat), s.arriving s.args.n = some x → x.load = .grant d a →
    exec .powerGrantArrival s = .next ((s.landed s.args.n x).modDistrict (moduleOf x.dst) d (fun o =>
      { o with allow := a, throttled := false }))) ∧
  (∀ s : State, let a := s.args
    exec .allowanceExceeded s = .next (if (s.district a.m a.district).allow < a.draw then
      s.modDistrict a.m a.district (fun o => { o with throttled := true }) else s))

/-- R78, R79, R81, R84, R251 and R252: a row or a bank is copied to its spare and then remapped, and so is a rank of a capacity channel, once
each; a site of a failing column retires where no half-row has one that retires (log 101); a slice runs in a gap, or after 100 ms in a forced one; one that passes takes the next pattern and, after the last, reports the set;
one that fails fences the district and brings in a spare site, or loses the district's cores; when the copies of a column end, its districts
are fenced no more. -/
def Obligations.SparesAndTests : Prop :=
  (∀ s : State, let a := s.args
    let q := s.quad a.quad
    (a.site = none → exec .dramRowRemap s = .next (
      if q.remapping = none ∧ a.layer < 4 ∧ a.bank < 4 ∧ (a.row ≠ none ∨ ∀ r ∈ q.remaps, ¬ (r.1 = a.layer ∧ r.2.2 = none)) then
        s.modQuad a.quad (fun q => { q with remapping := some (a.layer, a.bank, a.row) })
      else s)) ∧
    (∀ x, a.site = some x → exec .dramRowRemap s = .next (s.retireFailing a.m a.district (a.district / 16, x.1, x.2))) ∧
    (q.remapping = none → exec .rowCopyComplete s = .next s) ∧
    (∀ r, q.remapping = some r → exec .rowCopyComplete s = .next ((s.modQuad a.quad (fun q =>
      { q with remapping := none, remaps := q.remaps ++ [r] })).modModule (a.quad / 2 ^ 14) (fun o => { o with remapTotal := o.remapTotal + 1 })))) ∧
  (∀ s : State, let a := s.args
    let h := s.channel a.m a.channel
    exec .spareRankBringIn s = .next (if h.copying = none ∧ h.replaced = none ∧ a.rank < 4 then
      s.modModule a.m (fun o => { o with channels := o.channels.set a.channel { h with copying := some a.rank } }) else s) ∧
    (∀ r, h.copying = some r → exec .spareRankCopyDone s = .next
      (s.modModule a.m (fun o => { o with channels := o.channels.set a.channel { copying := none, replaced := some r } }))) ∧
    (h.copying = none → exec .spareRankCopyDone s = .next s)) ∧
  (∀ s : State, let m := s.args.m
    let d := s.args.district
    let o := s.district m d
    exec .testSlice s = .next (if o.testable ∧ s.inGap m d then s.modDistrict m d (fun o => { o with slice := some (s.now, false) }) else s) ∧
    exec .forcedTestGap s = .next (if o.testable ∧ 720000000 ≤ s.now - max o.lastSlice (s.module m).resetAt then
      s.modDistrict m d (fun o => { o with slice := some (s.now, !s.inGap m d) }) else s) ∧
    (∀ t f, o.slice = some (t, f) →
      (s.now - t < 144000 → exec .testSliceComplete s = .next s) ∧
      (144000 ≤ s.now - t → s.args.ok = true → o.pattern ≠ Config.patternsLessOne → exec .testSliceComplete s = .next
        (s.modDistrict m d (fun o =>
          { o with slice := none, lastSlice := s.now, passed := o.passed.set o.pattern (s.refNs m), pattern := o.pattern + 1 }))) ∧
      (144000 ≤ s.now - t → s.args.ok = true → o.pattern = Config.patternsLessOne → exec .testSliceComplete s = .next
        ((s.modDistrict m d (fun o =>
          { o with slice := none, lastSlice := s.now, passed := o.passed.set o.pattern (s.refNs m), pattern := 0 })).tellSupervisor
            (rootCore m d) (noticeWord 11 0 (d + o.pattern * 2 ^ 8)) none)) ∧
      (144000 ≤ s.now - t → s.args.ok = false → exec .testSliceComplete s = .next (s.sliceFailed m d s.args.site)))) ∧
  (∀ (s : State) (m d : Nat) (site : Nat × Nat × Nat), d < 128 → s.spareSite m d site = true →
    d ∈ movingDistricts site ∧
    (∀ x ∈ (s.module m).sites ++ s.retiring m, x.1 = site.1 → x.2.2 = site.2.2 → leftHalf x.2.1 ≠ leftHalf site.2.1) ∧
    (∀ q, siteQuad m site = some q → (s.district m d).slice = none → (s.district m d).moving = none →
      (s.quadFails q = false → s.retireFailing m d site = s) ∧
      (s.quadFails q = true → ((s.retireFailing m d site).district m d).moving = some site ∧
        ∀ e ∈ movingDistricts site, ((s.retireFailing m d site).district m e).fenced = true))) ∧
  (∀ s : State, (s.district s.args.m s.args.district).moving = none → exec .columnCopyComplete s = .next s) ∧
  (∀ (s : State) (site : Nat × Nat × Nat), let m := s.args.m
    let d := s.args.district
    (s.district m d).moving = some site → d ∈ movingDistricts site →
    (∀ e < 128, e ≠ d → ∀ x, (s.district m e).moving = some x → d ∉ movingDistricts x) →
    ∃ u, exec .columnCopyComplete s = .next u ∧ (u.module m).sites = (s.module m).sites ++ [site] ∧
      (u.district m d).moving = none ∧ (u.district m d).fenced = false ∧ u.mem = s.mem ∧
      ∀ q i, siteQuad m site = some q → i < 4 → (u.core (coreOfQuad q i)).lost = false)

/-! ## The host's side: windows and commands -/

/-- R97, R103 and R104: a module reset ends at step 7 with no partition, clear windows and functions that answer, or stops at the step before
the one that failed; `go` posts a free or done slot and tells mb14 of the owner, and sets `dblerr` elsewhere; slots are accepted in the order
of their posts; the write-back gives the result, then the status word with the host tag, then MSI-X; a function-level reset clears a window,
and what was accepted writes nothing back; a stopped monitor slot takes its functions' answers away. That a LAUNCH stays at state 1 until it is
seeded is log 71 (DEDUCED), a result that no entry lists a free value by log 72 (DESIGN CHOICE), and the one moment of acceptance log 119.
R102: every vector of the MSI-X table, whose layout is log 103, is masked until its words are written; a masked vector that is raised is
pending, and leaves when it is unmasked. -/
def Obligations.CommandWindow : Prop :=
  (∀ s : State, let m := s.args.m
    ∃ u, exec .moduleReset s = .next u ∧ (u.module m).bootstep = (if s.args.ok then 7 else min s.args.n 6) ∧
      (∀ p, (u.part m p).state = .absent) ∧
      (∀ fn ≤ 16, (u.func m fn).words = [] ∧ (u.func m fn).accepted = [] ∧ (u.func m fn).ready = s.args.ok) ∧
      (s.args.ok = true → (u.module m).m0 = measureRom) ∧
      (∀ c, moduleOf c = m → u.core c = {}) ∧ (s.args.equalIds = [] → ∀ c, moduleOf c ≠ m → u.core c = s.core c)) ∧
  (∀ s : State, let m := s.args.m
    let fn := s.args.fn
    let slot := s.args.slot
    let f := s.func m fn
    slot < 64 → fn ≤ 16 →
    (f.slotState slot = 0 ∨ f.slotState slot = 3 → exec .commandPost s = .next ((s.modFunc m fn (fun f =>
      { f with words := f.words.set (slot * 16 + 14) (setBits (f.word slot 14) 7 0 1), posted := f.posted ++ [slot] })).send
        { src := pcieCore m, dst := s.ownerOf m fn, vc := 2, part := s.partTag (s.ownerOf m fn),
          load := .notice 14 (noticeWord 16 0 slot) none })) ∧
    (f.slotState slot ≠ 0 → f.slotState slot ≠ 3 → exec .commandPost s = .next (s.modFunc m fn (fun f => { f with dblerr := true })))) ∧
  (∀ s : State, exec .fnstWrite s = .next (if s.args.v.getLsbD 1 then
    s.modFunc s.args.m s.args.fn (fun f => { f with dblerr := false }) else s)) ∧
  (∀ (s : State) (slot : Nat) (rest : List Nat), let m := s.args.m
    let fn := s.args.fn
    let f := s.func m fn
    let d : HostCmd := { words := (List.range 16).map (f.word slot), order := s.stamp }
    let code := s.acceptStatus m fn d
    f.posted = slot :: rest → f.fwfault = false → s.monitorStill m fn = false →
    (f.ready = false → exec .commandAccept s = .next s) ∧
    (f.ready = true → exec .commandAccept s = .next ((s.modFunc m fn (fun f =>
      { f with
        posted := rest
        words := f.words.set (slot * 16 + 14)
          (statusWord (d.head.toNat / 2 ^ 32) 0 (if d.code = 0x0020 ∧ code = 0 then 1 else 2))
        accepted := f.accepted.set slot (if code = 0 then d else { d with outcome := some { code } }) })).stampUp))) ∧
  (∀ (s : State) (m fn : Nat) (d : HostCmd),
    (fn ≠ 0 → (s.part m (fn - 1)).state = .absent → s.acceptStatus m fn d = 5) ∧
    (fn = 0 ∨ (s.part m (fn - 1)).state ≠ .absent →
      (listedArgs d.code = none → s.acceptStatus m fn d = 1) ∧
      (∀ l, listedArgs d.code = some l →
        (fn ≠ 0 → d.allowed = false → s.acceptStatus m fn d = 3) ∧
        (fn = 0 ∨ d.allowed = true →
          (d.head.toNat / 2 ^ 23 % 2 ^ 9 ≠ 0 ∨ (∃ i < 12, i ∉ l ∧ d.arg i ≠ 0) → s.acceptStatus m fn d = 2) ∧
          (d.head.toNat / 2 ^ 23 % 2 ^ 9 = 0 → (∀ i < 12, i ∉ l → d.arg i = 0) → s.acceptStatus m fn d =
            if d.code = 0x0030 ∧ 16 ≤ s.openHostCopies m (d.partNo fn) then 10 else 0))))) ∧
  (∀ (s : State) (d : HostCmd) (r : HostResult), let m := s.args.m
    let fn := s.args.fn
    let slot := s.args.slot
    (s.func m fn).accepted.get slot = some d → d.outcome = some r → (s.func m fn).fwfault = false → s.monitorStill m fn = false →
    (64 ≤ slot → exec .commandComplete s = .next (s.modFunc m fn (fun f => { f with accepted := f.accepted.del slot }))) ∧
    (slot < 64 → ∃ u, exec .commandComplete s = .next u ∧ (u.func m fn).accepted.get slot = none ∧
      (u.func m fn).word slot 13 = r.result.getD (Config.freeWord s.free) ∧
      (u.func m fn).word slot 14 = statusWord (d.head.toNat / 2 ^ 32) r.code 3 ∧
      (∀ i w, r.args = [(i, w)] → i < 12 → (u.func m fn).word slot (i + 1) = w) ∧
      let v := d.head.toNat / 2 ^ 16 % 64
      (u.module m).msix = (s.module m).msix ++ (if d.raises && !(s.func m fn).masked v then [(fn, v)] else []) ∧
      (d.raises = true → (s.func m fn).masked v = true → v ∈ (u.func m fn).pending))) ∧
  (∀ (s : State) (m fn i : Nat) (v : Word), i < 128 →
    (i / 2 ∉ (s.func m fn).pending → (s.vectorWrite m fn i v).vectorRead m fn i = v) ∧
    (i / 2 ∈ (s.func m fn).pending → i % 2 = 1 → v.getLsbD 32 = false →
      ((s.vectorWrite m fn i v).module m).msix = (s.module m).msix ++ [(fn, i / 2)])) ∧
  (∀ i : Nat, ({} : Func).masked i = true) ∧
  (∀ s : State, let m := s.args.m
    let fn := s.args.fn
    1 ≤ fn → fn ≤ 16 → ∃ u, exec .functionLevelReset s = .next u ∧ (u.func m fn).words = [] ∧ (u.func m fn).posted = [] ∧
      (u.func m fn).dblerr = false ∧ (u.func m fn).vectors = [] ∧ (u.func m fn).pending = [] ∧ (∀ e ∈ (u.func m fn).accepted, 64 ≤ e.1) ∧
      (u.func m fn).accepted.map (·.2) = (s.func m fn).accepted.map (·.2) ∧ ∀ n, n ≠ fn → u.func m n = s.func m n) ∧
  (∀ s : State, let m := s.args.m
    ∃ u, exec .monitorSlotStop s = .next u ∧
      (∀ fn ≤ 16, s.ownerOf m fn = s.ownerOf m s.args.fn → (u.func m fn).fwfault = true ∧ (u.func m fn).ready = false) ∧
      ∀ fn ≤ 16, s.ownerOf m fn ≠ s.ownerOf m s.args.fn → u.func m fn = s.func m fn)

/-- R96 and R108: a command that names an absent partition returns status 5 and one that names a partition in a state that does not accept
it status 4, and neither changes anything else; a command that must wait does nothing; ATTEST and QUERY know no other state than
absent. -/
def Obligations.PartitionStates : Prop :=
  (∀ e ∈ tablePartCommand, ∀ (s : State) (k : Call), s.Calls e.2.1 k → k.cmd.started = false → s.GoesOn k → s.args.k = 0 →
    (16 ≤ k.p → exec e.1 s = .next (s.answer k 2)) ∧
    (k.p < 16 → (s.part k.m k.p).state = .absent → exec e.1 s = .next (s.answer k 5)) ∧
    (k.p < 16 → (s.part k.m k.p).state ≠ .absent → (s.part k.m k.p).state ∉ e.2.2 → exec e.1 s = .next (s.answer k 4))) ∧
  (∀ (s : State) (k : Call), s.Calls 0x0002 k → k.p < 16 → (s.part k.m k.p).state ≠ .absent →
    exec .partCreate s = .next (s.answer k 4)) ∧
  (∀ (s : State) (k : Call), s.Calls 0x0001 k → k.cmd.arg 0 = 1 → k.p < 16 → (s.part k.m k.p).state = .absent →
    exec .queryPartition s = .next (s.answer k 5)) ∧
  (∀ (s : State) (k : Call), s.Calls 0x0040 k → k.p < 16 → (s.part k.m k.p).state = .absent →
    (k.cmd.arg 0 = 0 → exec .attestQuote s = .next (s.answer k 5)) ∧ (k.cmd.arg 0 = 1 → exec .attestChain s = .next (s.answer k 5))) ∧
  (∀ (s : State) (k : Call) (code n : Nat), s.Calls code k →
    (s.answer k n).outcomeAt k.m k.fn k.slot = some { code := n } ∧
    (∀ p, (s.answer k n).part k.m p = s.part k.m p) ∧ (s.answer k n).mem = s.mem ∧ (s.answer k n).cores = s.cores ∧
    (s.answer k n).host = s.host ∧ (s.answer k n).net = s.net) ∧
  (∀ e ∈ tablePartCommand, ∀ s : State, s.args.k = 0 → let f := s.func s.args.m s.args.fn
    (∀ d, f.accepted.get s.args.slot = some d → s.mustWait s.args.m s.args.fn d = true → exec e.1 s = .next s) ∧
    (f.accepted.get s.args.slot = none → exec e.1 s = .next s))

/-- R92, R94 to R96, R99, R100, R107, R108, R238 and R239: what the commands on a partition leave. PART_CREATE clears the memories of the new
partition and no other byte; PART_DESTROY cancels its open commands, ends its threads and frees its number; KEY_SET needs a signature from a
VF; IMAGE_LOAD makes its checks in their order; BOOT raises the floor, sets up every core and starts slot 0 of the head core; STOP sets the
stop edge, at which every core latches its record; RESUME lets the cores issue from the next edge. The counting of the fields of PART_CREATE
that are bad is `State.createBad`. The model's choices: status 10 for an image that does not fit (log 78), where it is placed (log 12), status 2
for a bad inner image (log 102), the encodings of keys (log 113), what released cores and quads hold (log 20). -/
def Obligations.PartitionCommands : Prop :=
  (∀ (s : State) (k : Call), s.Calls 0x0002 k → k.p < 16 → (s.part k.m k.p).state = .absent →
    let districts := maskDistricts (k.cmd.arg 1) (k.cmd.arg 2)
    let head := (k.cmd.arg 3).toNat
    (s.createBad k districts = true → exec .partCreate s = .next (s.answer k 2)) ∧
    (s.createBad k districts = false → s.args.ok = false → exec .partCreate s = .next (s.answer k 8)) ∧
    (s.createBad k districts = false → s.args.ok = true → ∃ u, exec .partCreate s = .next u ∧
      (u.part k.m k.p).state = .created ∧ (u.part k.m k.p).districts = districts ∧ (u.part k.m k.p).head = head ∧
      (u.part k.m k.p).supervisor = (k.cmd.arg 4).toNat ∧ (u.part k.m k.p).floor = (k.cmd.arg 7).toNat ∧
      (u.part k.m k.p).owner = s.hostBytes (k.cmd.arg 6).toNat 133 ∧
      (∀ a, keyIn k.m districts head a = true → u.byte a = 0) ∧ (∀ a, keyIn k.m districts head a = false → u.byte a = s.byte a) ∧
      (∀ w ∈ u.full, keyIn k.m districts head (w * 4) = false) ∧ u.outcomeAt k.m k.fn k.slot = some { code := 0 })) ∧
  (∀ (s : State) (k : Call) (districts : List Nat),
    districts = [] ∨ (∃ d ∈ districts, s.districtTaken k.m d = true) ∨ activeCore (k.cmd.arg 3).toNat = false ∨
      (∃ p < 16, (s.part k.m p).state ≠ .absent ∧ (s.part k.m p).head = (k.cmd.arg 3).toNat) ∨ 14 < (k.cmd.arg 5).toNat →
    s.createBad k districts = true) ∧
  (∀ (s : State) (k : Call), s.Calls 0x0003 k → k.p < 16 → (s.part k.m k.p).state ≠ .absent →
    let q := s.part k.m k.p
    ∃ u, exec .partDestroy s = .next u ∧ u.part k.m k.p = {} ∧ u.mem = s.mem ∧ u.outcomeAt k.m k.fn k.slot = some { code := 0 } ∧
      (∀ c ∈ partCores k.m q.districts q.head, ∀ n, (u.slot c n).thread = none) ∧
      (k.m < 256 → ∀ d ∈ q.districts, d < 128 → ∀ c ∈ districtCores k.m d, (u.quad (quadOf c)).cloak = []) ∧
      (∀ x, x ∈ u.net ↔ x ∈ s.net ∧ ¬ (x.part = k.p ∧ moduleOf x.whose = k.m)) ∧
      (∀ fn ≤ 16, ∀ slot < 64, ∀ d, (fn, slot) ≠ (k.fn, k.slot) → (s.func k.m fn).accepted.get slot = some d → d.outcome = none →
        d.names fn = some k.p → (u.func k.m fn).accepted.get slot = none ∧
          (u.func k.m fn).word slot 14 = statusWord (d.head.toNat / 2 ^ 32) 11 3)) ∧
  (∀ (s : State) (k : Call), s.Calls 0x0004 k → k.p < 16 → (s.part k.m k.p).state ∈ [PState.created, .loaded, .stopped] →
    let key := s.hostBytes (k.cmd.arg 1).toNat 133
    let good := ecdsaVerify (s.part k.m k.p).owner (sha512 key) (s.hostBytes (k.cmd.arg 2).toNat 132)
    (s.args.ok = false → exec .keySet s = .next (s.answer k 8)) ∧
    (s.args.ok = true → k.fn ≠ 0 → good = false → exec .keySet s = .next (s.answer k 6)) ∧
    (s.args.ok = true → k.fn = 0 ∨ good = true →
      exec .keySet s = .next ((s.modPart k.m k.p (fun q => { q with owner := key })).answer k 0))) ∧
  (∀ (s : State) (k : Call), s.Calls 0x0010 k → k.p < 16 → (s.part k.m k.p).state ∈ [PState.created, .loaded] → s.args.ok = true →
    let n := (k.cmd.arg 2).toNat
    let env := s.hostBytes (k.cmd.arg 1).toNat n
    let img := env.drop 256
    let digest := sha512 img = (env.drop 32).take 64
    let signed := ecdsaVerify (s.part k.m k.p).owner (sha512 (env.take 96)) ((env.drop 96).take 132)
    let version := ofBytes ((env.drop 24).take 8)
    (envelopeGood env n = false → exec .imageLoad s = .next (s.answer k 2)) ∧
    (envelopeGood env n = true → ¬ digest → exec .imageLoad s = .next (s.answer k 7)) ∧
    (envelopeGood env n = true → digest → signed = false → exec .imageLoad s = .next (s.answer k 6)) ∧
    (envelopeGood env n = true → digest → signed = true → version < (s.part k.m k.p).floor →
      exec .imageLoad s = .next (s.answer k 14)) ∧
    let quads := partQuads k.m (s.part k.m k.p)
    let low := (tablesFor (quads.getD 0 0) ((imagePages img).map (·.2))).low
    let need := ((imagePages img).length + quads.length - 1) / quads.length * 2 ^ 16
    (envelopeGood env n = true → digest → signed = true → (s.part k.m k.p).floor ≤ version →
      (low < need → exec .imageLoad s = .next (s.answer k 10)) ∧
      (need ≤ low → ∃ u, exec .imageLoad s = .next u ∧
        (u.part k.m k.p).state = .loaded ∧ (u.part k.m k.p).version = version ∧ (u.part k.m k.p).m2 = sha512 (env.take 96) ∧
        (u.part k.m k.p).floor = (s.part k.m k.p).floor ∧ (u.part k.m k.p).entry = BitVec.ofNat 64 (ofBytes ((img.drop 8).take 8)) ∧
        u.outcomeAt k.m k.fn k.slot = some { result := some (BitVec.ofNat 64 (ofBytes ((img.drop 8).take 8))) }))) ∧
  (∀ (s : State) (k : Call), s.Calls 0x0011 k → k.p < 16 → (s.part k.m k.p).state = .loaded →
    let q := s.part k.m k.p
    let com := (q.cdata.length + 2 ^ 14 - 1) / 2 ^ 14
    ∃ u t, exec .boot s = .next u ∧ (u.part k.m k.p).state = .running ∧ (u.part k.m k.p).floor = max q.floor q.version ∧
      (u.part k.m k.p).m3 = sha512 (q.created ++ q.owner) ∧
      (∀ c ∈ q.districts.flatMap (districtCores k.m), (u.core c).asid = 0 ∧ (u.core c).ptbase = BitVec.ofNat 64 q.ptRoot ∧
        (c ≠ q.head → (u.core c).lmsplitCom = com ∧ (u.core c).lmsplitCache = 0)) ∧
      (u.core q.head).asid = 0 ∧ (u.core q.head).ptbase = BitVec.ofNat 64 q.ptRoot ∧ (u.slot q.head 0).thread = some t ∧
      t.ctx = { x0 := BitVec.ofNat 64 k.p, x1 := k.cmd.arg 1, x2 := (districtMask q.districts).1, x3 := (districtMask q.districts).2,
                ip := ipOf q.entry, status := { sup := true } } ∧
      u.outcomeAt k.m k.fn k.slot = some { code := 0 }) ∧
  (∀ (s : State) (k : Call), s.Calls 0x0051 k → k.p < 16 → (s.part k.m k.p).state = .running → (s.part k.m k.p).edge = none →
    exec .stop s = .next (((s.modPart k.m k.p (fun q =>
      { q with edge := some (s.refNs k.m + 400), stopFn := some (k.fn, k.slot) })).suspendCopies k.m k.p k.cmd.order true).ring
        k.m k.p (s.refNs k.m + 400))) ∧
  (∀ (s : State) (m p edge : Nat), s.ring m p edge = (List.range 8).foldl (fun u d => u.send
    { src := (s.part m p).head, dst := headId m d 0, vc := 3, part := p, load := .bell p edge }) s) ∧
  (∀ (s : State) (x : Traveller) (p edge : Nat), s.args.k ≠ 0 → s.arriving s.args.n = some x → x.load = .bell p edge →
    exec .stopEdge s = .next (s.landed s.args.n x)) ∧
  (∀ s : State, s.args.k = 0 → (s.part s.args.m s.args.part).edge = none → exec .stopEdge s = .next s) ∧
  (∀ (s : State) (t : Nat), let m := s.args.m
    let p := s.args.part
    let q := s.part m p
    q.edge = some t → s.args.k = 0 →
    (s.refNs m < t → exec .stopEdge s = .next s) ∧
    (t ≤ s.refNs m → ∃ u, exec .stopEdge s = .next u ∧ (u.part m p).edge = none ∧ (q.state = .running → (u.part m p).state = .stopped) ∧
      (∀ c ∈ partCores m q.districts q.head, (u.core c).stopped = true ∧ (u.core c).stop = some
        { cyc := s.cyc c, edge := BitVec.ofNat 64 t, departed := (s.core c).departed, arrived := (s.core c).arrived,
          router := s.routerRecord c }) ∧
      (∀ fn slot d, q.stopFn = some (fn, slot) → (s.func m fn).accepted.get slot = some d →
        u.outcomeAt m fn slot = some { result := some (BitVec.ofNat 64 t) }))) ∧
  (∀ (s : State) (k : Call), s.Calls 0x0052 k → k.p < 16 → (s.part k.m k.p).state = .stopped →
    ∃ u, exec .resume s = .next u ∧ (u.part k.m k.p).state = .running ∧ (u.part k.m k.p).issueFrom = s.refNs k.m + 10 ∧
      (∀ c ∈ partCores k.m (s.part k.m k.p).districts (s.part k.m k.p).head, (u.core c).stopped = false) ∧
      u.outcomeAt k.m k.fn k.slot = some { code := 0 })

/-- R109, R111 to R113 and R115: the checks of a LAUNCH in their order; its account; the seeded records and state 2; an empty launch and one
whose counts are 0 complete, with the id and the fault counts as the result, status 13 after a fault and 9 when the completion word cannot
be written; a HOST_COPY moves its bytes in pieces within a page, by the PCIe endpoint, and stops with what it has performed: with status 12
where a link in the way is down (R105), 8 where host memory fails, 9 where an address does not translate. That its pieces are travellers of
VC1 is log 114 (DEDUCED). -/
def Obligations.LaunchesAndHostCopies : Prop :=
  (∀ (s : State) (k : Call), s.Calls 0x0020 k → k.cmd.started = false → s.GoesOn k → k.p < 16 → (s.part k.m k.p).state = .running →
    let d := k.cmd
    let at' := (d.arg 0).toNat
    (at' % 128 ≠ 0 → exec .launch s = .next (s.answer k 9)) ∧
    (∀ e, at' % 128 = 0 → s.spaceRead k.m k.p at' 128 false = .error e → exec .launch s = .next (s.answer k 9)) ∧
    (∀ l, at' % 128 = 0 → s.spaceRead k.m k.p at' 128 false = .ok l →
      let r := Rec.ofWords (wordsOf l)
      let id := (s.part k.m k.p).nextLaunch
      let account : Account :=
        { launch := id, fn := k.fn, slot := k.slot, control := d.arg 1, word := d.arg 5, record := launchRecord r d id }
      (s.launchStatus k r ≠ 0 → exec .launch s = .next (s.answer k (s.launchStatus k r))) ∧
      (s.launchStatus k r = 0 → (∀ w ∈ d.ranges, domLo w ≠ domHi w) → exec .launch s = .next ((s.modPart k.m k.p (fun q =>
        { q with nextLaunch := id + 1, accounts := q.accounts ++ [account] })).modCommand k.m k.fn k.slot (fun d =>
          { d with started := true }))) ∧
      (s.launchStatus k r = 0 → (∃ w ∈ d.ranges, domLo w = domHi w) → (d.arg 1).getLsbD 16 = false → k.slot < 64 →
        ∃ u, exec .launch s = .next u ∧ (u.func k.m k.fn).word k.slot 13 = BitVec.ofNat 64 (id % 2 ^ 32) ∧
          (u.func k.m k.fn).word k.slot 14 = statusWord (d.head.toNat / 2 ^ 32) 0 3 ∧ (u.part k.m k.p).nextLaunch = id + 1 ∧
          u.mem = s.mem ∧ u.net = s.net))) ∧
  (∀ (s : State) (k : Call) (r : Rec), let d := k.cmd
    let n := s.launchStatus k r
    (r.entry = 0 ∨ d.dims = 0 ∨ r.dims ≠ d.dims ∨ badControl (d.arg 1) = true → n = 2) ∧
    ((∃ w ∈ d.ranges, domHi w < domLo w) ∨ (s.part k.m k.p).districts.length < d.seeds ∨ (r.isSplit = false ∧ d.seeds ≠ 1) → n = 2) ∧
    ((d.arg 1).getLsbD 16 = true → (d.arg 5).toNat % 8 ≠ 0 → n = 2) ∧
    ((d.arg 1).getLsbD 16 = true → s.wordKey k.m k.p (d.arg 5) = none → n = 2 ∨ n = 9) ∧
    (256 ≤ (s.part k.m k.p).accounts.length → n ∈ [2, 9, 10])) ∧
  (∀ (s : State) (p : Nat) (a : Account), let m := s.args.m
    let fn := s.args.fn
    let slot := s.args.slot
    s.accountOf m fn slot = some (p, a) → a.seeded = false → (s.part m p).state = .running →
    s.relocking m (dieOf (s.part m p).head) = false → s.launchHeld m p a = false →
    let records := seedRecords (2 ^ (a.control.toNat / 2 ^ 8 % 8)) 128 [a.record]
    let u := (s.modAccount m p a.launch (fun a => { a with seeded := true, count := records.length })).sendSeeds m p a records
    (64 ≤ slot → exec .launchSeed s = .next u) ∧
    (slot < 64 → exec .launchSeed s = .next (u.modFunc m fn (fun f =>
      let w := f.words.set (slot * 16 + 13) (BitVec.ofNat 64 (a.launch % 2 ^ 32))
      { f with words := w.set (slot * 16 + 14) (setBits (f.word slot 14) 7 0 2) })))) ∧
  (∀ (s : State) (p : Nat) (a : Account) (d : HostCmd), let m := s.args.m
    let fn := s.args.fn
    let slot := s.args.slot
    s.accountOf m fn slot = some (p, a) → (s.func m fn).fwfault = false → (s.part m p).state = .running → a.seeded = true →
    s.relocking m (dieOf (s.part m p).head) = false → s.stopPending m p d.order = false →
    (a.count ≠ 0 ∨ a.copies ≠ 0 → exec .launchComplete s = .next s) ∧
    (a.count = 0 → a.copies = 0 → a.control.getLsbD 16 = true ∧ s.wordKey m p a.word = none ∨ a.control.getLsbD 16 = false →
      a.fn = fn → a.slot = slot → (s.func m fn).accepted.get slot = some d → slot < 64 → ∃ u, exec .launchComplete s = .next u ∧
      (u.func m fn).word slot 13 =
        BitVec.ofNat 64 (a.launch % 2 ^ 32 + min a.copyFaults 0xFFFF * 2 ^ 32 + min a.grainFaults 0xFFFF * 2 ^ 48) ∧
      (u.func m fn).word slot 14 = statusWord (d.head.toNat / 2 ^ 32)
        (if a.control.getLsbD 16 then 9 else if a.grainFaults = 0 ∧ a.copyFaults = 0 then 0 else 13) 3 ∧
      (u.func m fn).accepted.get slot = none ∧ u.mem = s.mem)) ∧
  (∀ (s : State) (k : Call), s.Calls 0x0030 k → s.GoesOn k → s.args.k = 0 → k.p < 16 →
    (s.part k.m k.p).state ∈ [PState.loaded, .running, .stopped] →
    let d := k.cmd
    let total := (d.arg 3).toNat
    let va := (d.arg 2).toNat + d.done
    let toHost := d.arg 0 != 0
    let ends := fun (code : Nat) => s.finish k { result := some (BitVec.ofNat 64 d.done), code }
    (1 < (d.arg 0).toNat ∨ total = 0 ∨ 2 ^ 30 < total → exec .hostCopy s = .next (s.answer k 2)) ∧
    ((d.arg 0).toNat ≤ 1 → 1 ≤ total → total ≤ 2 ^ 30 →
      (∀ e, d.failed = some e → exec .hostCopy s = .next (ends e)) ∧
      (∀ x, d.failed = none → d.moving = some x → exec .hostCopy s = .next (if s.moveDown x then ends 12 else s)) ∧
      (d.failed = none → d.moving = none → total ≤ d.done → exec .hostCopy s = .next (ends 0)) ∧
      (∀ e, d.failed = none → d.moving = none → d.done < total → s.spaceKey k.m k.p va (!toHost) true = .error e →
        exec .hostCopy s = .next (ends e)) ∧
      (∀ home, d.failed = none → d.moving = none → d.done < total → s.spaceKey k.m k.p va (!toHost) true = .ok home →
        let x : HostMove :=
          { m := k.m, key := s.stamp, home, host := (d.arg 1).toNat + d.done, n := s.copyStep va (total - d.done) s.args.len, toHost }
        let u := (s.modCommand k.m k.fn k.slot (fun d => { d with started := true, moving := some x })).stampUp
        let head := (s.part k.m k.p).head
        exec .hostCopy s = .next (if s.moveDown x then ends 12 else if toHost then u.moveHome head k.p x else u.moveToHost head k.p none x)))) ∧
  (∀ (s : State) (t : Traveller) (x : HostMove), s.args.k ≠ 0 → s.arriving s.args.n = some t → t.load = .hostMove x →
    exec .hostCopy s = .next ((s.landed s.args.n t).hostMoveIn t x)) ∧
  (∀ (s : State) (t : Traveller) (x : HostMove) (fn slot : Nat) (d : HostCmd),
    (s.allCommands x.m).find? (fun e => e.2.2.outcome.isNone && (e.2.2.moving.map (·.key)) == some x.key) = some (fn, slot, d) →
    let failed := fun (code : Nat) => s.modCommand x.m fn slot (fun d => { d with moving := none, failed := some code })
    let landed := fun (u : State) => u.modCommand x.m fn slot (fun d => { d with moving := none, done := d.done + x.n })
    let lost := ∃ h, homeCore x.home = some h ∧ ((s.core h).lost = true ∨ s.partTag h ≠ t.part)
    let bad := s.hasBad x.home x.n = true ∨ s.hasUntagged x.home x.n = true
    (x.data = none → x.toHost = false → s.args.ok = false → s.hostMoveIn t x = failed 8) ∧
    (x.data = none → x.toHost = false → s.args.ok = true →
      s.hostMoveIn t x = s.moveHome t.dst t.part { x with data := some (s.hostBytes x.host x.n) }) ∧
    (∀ l, x.data = some l → x.toHost = false → (lost → s.hostMoveIn t x = failed 12) ∧
      (¬ lost → s.hostMoveIn t x = landed (s.storeHome x.home l))) ∧
    (x.data = none → x.toHost = true → (lost ∨ bad → s.hostMoveIn t x = failed 12) ∧
      (¬ lost → ¬ bad → s.hostMoveIn t x = s.moveToHost t.dst t.part t.port { x with data := some (s.bytes x.home x.n) })) ∧
    (∀ l, x.data = some l → x.toHost = true → (s.args.ok = false → s.hostMoveIn t x = failed 8) ∧
      (s.args.ok = true → s.hostMoveIn t x = landed (s.putHost x.host l)))) ∧
  (∀ (s : State) (va left want : Nat), va < 2 ^ 40 → 1 ≤ left → 1 ≤ want →
    1 ≤ s.copyStep va left want ∧ s.copyStep va left want ≤ left ∧ va % 2 ^ 16 + s.copyStep va left want ≤ 2 ^ 16)

/-- R113: the levels of halving stop when the count of records equals the seed count, and end with fewer only when no record can be
halved. -/
def Obligations.SeedingStopsAtTheCount : Prop :=
  ∀ (n : Nat) (r : Rec), 1 ≤ n → n ≤ 128 →
    1 ≤ (seedRecords n 128 [r]).length ∧ (seedRecords n 128 [r]).length ≤ n ∧
    ((seedRecords n 128 [r]).length < n → ∀ x ∈ seedRecords n 128 [r], x.halves = none)

/-- R60, R101, R106, R110, R242, R253 and R254: what the commands that need no state of a partition return and set, the layout of quotes,
dump entries and census records, and the records that head cores and cores write. The unlisted results of commands are free values of the
model (log 3); the choices among fields that the spec does not place are named at `Config.healthReport` and in log 21; short buffers and a DUMP
index beyond the entries are log 79, a dump area without translation log 81 (DEDUCED). -/
def Obligations.ReportsAndSettings : Prop :=
  (∀ (s : State) (k : Call), s.Calls 0x0001 k →
    let report := fun (districts : List Nat) (head : Word) =>
      ({ args := [(0, s.moduleWord k.m), (1, (districtMask districts).1), (2, (districtMask districts).2), (3, head), (4, capnet),
                  (5, s.spareCounts k.m)] } : HostResult)
    (k.cmd.arg 0 = 0 → ∃ head, exec .queryModule s =
      .next (s.finish k (report ((List.range 128).filter (fun d => !s.districtTaken k.m d)) head)).tick) ∧
    (k.cmd.arg 0 = 1 → k.p < 16 → (s.part k.m k.p).state ≠ .absent → exec .queryPartition s =
      .next (s.finish k (report (s.part k.m k.p).districts (BitVec.ofNat 64 (s.part k.m k.p).head))))) ∧
  (∀ (s : State) (k : Call), s.Calls 0x0080 k →
    (k.cmd.arg 0 = 0 → k.cmd.arg 2 = 0 → exec .healthReport s = .next (s.finish k { args := [(0, s.spareCounts k.m)] })) ∧
    (k.cmd.arg 0 = 0 → k.cmd.arg 2 ≠ 0 → s.args.ok = false →
      exec .healthReport s = .next (s.finish k { args := [(0, s.spareCounts k.m)], code := 8 })) ∧
    (k.cmd.arg 0 = 0 → k.cmd.arg 2 ≠ 0 → s.args.ok = true → ∃ l : List Byte, l.length ≤ (k.cmd.arg 3).toNat ∧ exec .healthReport s =
      .next (((s.putHost (k.cmd.arg 2).toNat l).tick).finish k { args := [(0, s.spareCounts k.m)] })) ∧
    (k.cmd.arg 0 = 1 → (k.cmd.arg 1).toNat < 2 ^ 32 → (k.cmd.arg 1).toNat / 2 ^ 12 % 16 = 0 →
      let u := s.retrainLinks k.m (k.cmd.arg 1) s.args.ok
      exec .healthRetrain s = .next (u.finish k { args := [(0, u.spareCounts k.m)] }))) ∧
  (∀ (s : State) (k : Call), s.Calls 0x0040 k → k.p = 255 ∨ (k.p < 16 ∧ (s.part k.m k.p).state ≠ .absent) →
    let p := if k.p = 255 then none else some k.p
    let wrote := fun (l : List Byte) => if s.args.ok then
        (s.putHost (k.cmd.arg 1).toNat (l.take (k.cmd.arg 2).toNat)).finish k
          { result := some (BitVec.ofNat 64 (min (k.cmd.arg 2).toNat l.length)) }
      else s.answer k 8
    (k.cmd.arg 0 = 0 → exec .attestQuote s =
      .next (wrote (s.quote k.m p (bytesOf [k.cmd.arg 3, k.cmd.arg 4, k.cmd.arg 5, k.cmd.arg 6])))) ∧
    (k.cmd.arg 0 = 1 → exec .attestChain s = .next (wrote (Config.certChain k.m)))) ∧
  (∀ (s : State) (m : Nat) (p : Option Nat) (nonce : List Byte), nonce.length = 32 →
    let l := s.quoteBody m p nonce
    l.length = 376 ∧ ofBytes (l.take 4) = 0x51544F51 ∧ ofBytes ((l.drop 4).take 2) = 1 ∧ (l.drop 16).take 32 = nonce ∧
    ofBytes ((l.drop 304).take 8) = s.refNs m % 2 ^ 64) ∧
  (∀ (s : State) (k : Call), s.Calls 0x0050 k → k.p < 16 → (s.part k.m k.p).state ∈ [PState.stopped, .halted] →
    let q := s.part k.m k.p
    let va := dumpEntry (s.core q.supervisor).dumpa (q.dumpNext + 16 - q.dumpCount + (k.cmd.arg 3).toNat)
    (q.dumpCount ≤ (k.cmd.arg 3).toNat → exec .dump s = .next (s.answer k 2)) ∧
    ((k.cmd.arg 3).toNat < q.dumpCount →
      (∀ e, s.spaceRead k.m k.p va (2 ^ 14) false = .error e → exec .dump s = .next (s.answer k e)) ∧
      (∀ l, s.spaceRead k.m k.p va (2 ^ 14) false = .ok l → s.args.ok = true → exec .dump s =
        .next ((s.putHost (k.cmd.arg 1).toNat (l.take (k.cmd.arg 2).toNat)).finish k
          { result := some (BitVec.ofNat 64 (min (k.cmd.arg 2).toNat l.length)) })))) ∧
  (∀ (s : State) (k : Call), s.Calls 0x0060 k →
    (k.cmd.arg 0 = 0 → exec .censusCfgOff s = .next ((s.modModule k.m (fun o => { o with census := false })).answer k 0)) ∧
    (k.cmd.arg 0 = 1 → k.p < 16 → (s.part k.m k.p).state ≠ .absent → exec .censusCfgOn s = .next ((s.modModule k.m (fun o =>
      { o with census := true, censusPart := k.p, censusBase := k.cmd.arg 2, censusLen := (k.cmd.arg 3).toNat })).answer k 0)) ∧
    (k.cmd.arg 0 = 2 → ∃ u, exec .censusCfgClear s = .next u ∧ u.outcomeAt k.m k.fn k.slot = some { code := 0 } ∧
      (u.module k.m).flits = [] ∧ ∀ l, (u.link k.m l).tx.sent = [0, 0, 0, 0] ∧ (u.link k.m l).tx.replayed = [0, 0, 0, 0]) ∧
    (k.cmd.arg 0 = 3 → (k.cmd.arg 4).toNat < 2 ^ 32 → (k.cmd.arg 4).toNat / 2 ^ 12 % 16 = 0 →
      exec .censusCfgRetrain s = .next ((s.retrainLinks k.m (k.cmd.arg 4) s.args.ok).answer k 0)) ∧
    (3 < (k.cmd.arg 0).toNat → exec .censusCfgRetrain s = .next (s.answer k 2))) ∧
  (∀ (s : State) (k : Call), s.Calls 0x0070 k → k.cmd.started = false →
    let w := k.cmd.arg 1
    let state := fun (d : Nat) => w.toNat / 8 ^ d % 8
    let limit := (k.cmd.arg 0).toNat
    (limit < 500 ∨ 4500 < limit ∨ 2 ^ 24 ≤ w.toNat ∨ (∃ d < 8, state d ∈ [4, 5, 6]) → exec .powerSet s = .next (s.answer k 2)) ∧
    (500 ≤ limit → limit ≤ 4500 → w.toNat < 2 ^ 24 → (∀ d < 8, state d ∉ [4, 5, 6]) →
      ∃ u, exec .powerSet s = .next u ∧ (u.module k.m).limit = limit ∧ (∀ d < 8, state d ≠ 7 → (u.die k.m d).wanted = state d) ∧
        (∀ d < 8, state d = 7 → u.die k.m d = s.die k.m d) ∧
        (∀ d < 8, state d ≠ 7 → (s.die k.m d).relock = none → (u.die k.m d).target = (s.die k.m d).goal (state d)) ∧
        ((∀ d < 8, (u.die k.m d).relock = none) → u.outcomeAt k.m k.fn k.slot = some {}))) ∧
  (∀ (o : Die) (state : Nat),
    (o.hotSince = none → o.target ≤ o.wanted → o.goal state = state) ∧
    (o.hotSince ≠ none ∨ o.wanted < o.target → o.goal state = max o.target state)) ∧
  (∀ s : State, let m := s.args.m
    let p := s.args.part
    let q := s.part m p
    let sup := q.supervisor
    (q.dumping = none → exec .dumpWrite s = .next s) ∧
    (∀ j, q.dumping = some j →
      ((s.core sup).dumpa.getLsbD 0 = false → exec .dumpWrite s = .next (s.modPart m p (fun q => q.nextDump false))) ∧
      (∀ s1 key, (s.core sup).dumpa.getLsbD 0 = true → j.broken = false →
        s.netKey sup (dumpEntry (s.core sup).dumpa q.dumpNext) 1 true = (s1, some key) → exec .dumpWrite s =
          .next (({ s1.storeHome key j.bytes with free := s1.free + 2 ^ 14 } : State).modPart m p (fun q => q.nextDump true))) ∧
      (∀ s1, (s.core sup).dumpa.getLsbD 0 = true → s.netKey sup (dumpEntry (s.core sup).dumpa q.dumpNext) 1 true = (s1, none) →
        exec .dumpWrite s = .next ((s1.modPart m p (fun q => q.nextDump false)).haltPartition sup)))) ∧
  (∀ (q : Part) (b : Bool),
    (q.dumpQueue = [] → (q.nextDump b).dumping = none) ∧
    (∀ f r, q.dumpQueue = f :: r → (q.nextDump b).dumping = some { seq := f.seq, fault := f, lostBefore := q.dumpLost } ∧
      (q.nextDump b).dumpQueue = r ∧ (q.nextDump b).dumpLost = 0) ∧
    (q.nextDump true).dumpNext = (q.dumpNext + 1) % 16 ∧ (q.nextDump true).dumpCount = min 16 (q.dumpCount + 1)) ∧
  (∀ j : DumpJob, j.bytes.length = 2 ^ 14 ∧ ofBytes (j.bytes.take 4) = 0x504D5544 ∧ ofBytes ((j.bytes.drop 8).take 8) = j.seq % 2 ^ 64) ∧
  (∀ s : State, let m := s.args.m
    let d := s.args.die
    let o := s.module m
    let close := s.refNs m / 655360
    (s.args.k = 0 → o.census = false ∨ o.censusLen = 0 ∨ 8 ≤ d ∨ close ≤ (s.die m d).censusLast ∨ s.relocking m d = true →
      exec .censusRecordWrite s = .next s) ∧
    (s.args.k = 0 → s.relocking m d = false → o.census = true → o.censusLen ≠ 0 → d < 8 → (s.die m d).censusLast < close → ∃ u, exec .censusRecordWrite s = .next u ∧
      (u.die m d).censusSeq = (s.die m d).censusSeq + 1 ∧ (u.die m d).censusLast = close ∧
      (∀ x ∈ (u.module m).flits, x.1 / 32768 ≠ d) ∧
      ∀ l ∈ dieLinks d, (u.link m l).tx.sent = [0, 0, 0, 0] ∧ (u.link m l).tx.replayed = [0, 0, 0, 0]) ∧
    (d < 8 → (s.censusRecord m d).length = 266240)) ∧
  (∀ (s : State) (x : Traveller) (home : Nat) (l : List Byte), s.args.k ≠ 0 → s.arriving s.args.n = some x → x.load = .census home l →
    exec .censusRecordWrite s = .next ((s.landed s.args.n x).censusIn x home l)) ∧
  (∀ (s : State) (x : Traveller) (home h : Nat) (l : List Byte), homeCore home = some h → (s.core h).lost = false → s.partTag h = x.part →
    s.censusIn x home l = s.storeHome home l) ∧
  (∀ (s : State) (r : Word × Nat × Nat), let c := s.args.c
    let o := s.core c
    let base := o.smpc.toNat / 16 % 2 ^ 12 * 16
    let limit := o.smpc.toNat / 2 ^ 16 % 2 ^ 16
    (o.samples = [] → ∃ u, exec .sampleRecord s = .next u ∧ u.core c = o ∧ u.mem = s.mem) ∧
    (o.samples = [r] → base + 16 * o.smpNext + 16 ≤ limit → base + 16 * o.smpNext + 16 ≤ s.privSize c → exec .sampleRecord s = .next
      (((s.modCore c (fun o => { o with samples := [] })).putBytes (localKey c (base + 16 * o.smpNext))
        (bytesOf (s.sampleWords c r))).modCore c (fun o => { o with smpNext := o.smpNext + 1 }))))

/-! ## The machine as a whole -/

/-- R309, R97, R233, R162 and R366: what reset leaves: the special registers at the reset values of the table, no thread, no mapping, no
barrier, and the first step is the module reset of module 0, after which no thread, no partition and no traveller exists. Memory lists
nothing; what an unlisted byte reads as is the model's choice (log 1), and so is that every full bit is empty (log 4). -/
def Obligations.ResetState : Prop :=
  (∀ c, let o := State.reset.core c
    o.lmsplitCom = 0 ∧ o.lmsplitCache = 0 ∧ o.qgroup = 0 ∧ o.win0 = 0 ∧ o.win1 = 0 ∧ o.spool = 0 ∧ o.qovf = 0 ∧ o.mbovf = 0 ∧ o.mbie = 0 ∧
    o.tcmp = 0 ∧ o.mbst = 0 ∧ o.ivec = 0 ∧ o.ivslot = 0 ∧ o.upv = 0 ∧ o.asid = 0 ∧ o.ptbase = 0 ∧ o.dumpa = 0 ∧ o.smpc = 0 ∧
    o.dbgh = 0 ∧ o.ctxid = 1 ∧ o.barriers = [] ∧ o.slots = []) ∧
  (∀ c k, let l := State.reset.slot c k
    l.thread = none ∧ l.mdl = 0 ∧ l.eip = 0 ∧ l.ecause = 0 ∧ l.eaddr = 0 ∧ l.estat = 0 ∧ l.es0 = 0 ∧ l.es1 = 0 ∧ l.sigst = 0) ∧
  capnet = 0x40402020 ∧ State.reset.mem = [] ∧ State.reset.full = [] ∧ State.reset.now = 0 ∧
  ∃ u, step State.reset = .next u ∧ (u.module 0).bootstep = 7 ∧ (∀ fn ≤ 16, (u.func 0 fn).ready = true) ∧ (∀ p, (u.part 0 p).state = .absent) ∧
    (∀ c, u.core c = {}) ∧ u.net = [] ∧ u.mem = []

/-- R198, R203, R204, R250 and R306: in a turn of a slot that neither waits nor is interrupted, the word at ip is the next word of the
slot's buffer, or is read, in private memory from the private portion; a word that decodes to i runs i, with the word, the slot and the
checker's state set beside it; a block that closes with another signature traps with cause 9, and a word that decodes to nothing is
ILLEGAL_ENCODING; after it the buffer is refilled and the issue counted. The turn of an event runs the event. -/
def Obligations.StepRunsTheDecodedInstruction : Prop :=
  (∀ (s : State) (t : Thread) (c k : Nat) (rest : List Turn), s.sched = .issue c k :: rest →
    let s0 : State := { s with sched := rest }
    let v := s0.turned c
    s0.coreHalted c = false → s0.hasTurn c k = true →
    (v.slot c k).thread = some t → (v.slot c k).busy = 0 → (v.slot c k).park = none → (v.slot c k).carried = none →
    (v.slot c k).torn = false → v.rolledTurn c k = none → v.mayInterrupt c k = none →
    (∀ (s1 : State) (w : BitVec 32), v.fetchFor c k t = (s1, .word w) →
      let sig := (s1.slot c k).sigst
      (∀ i, decodeWord w = .ok i →
        let x := s1.sigFor t sig i w
        let p := s1.prepared c k t.ctx.ip w x.1
        (x.2 = true → step s = Outcome.after (exec i p) (fun u => u.afterIssue p c k t sig (some i))) ∧
        (x.2 = false → step s = .next ((p.trap 9 0 (sigAddr (sigExp sig) (sigAcc x.1))).afterIssue p c k t sig none))) ∧
      (∀ e, decodeWord w = .error e →
        let p := s1.prepared c k t.ctx.ip w sig
        step s = Outcome.after (exec .illegalEncoding p) (fun u => u.afterIssue p c k t sig none)))) ∧
  (∀ (s : State) (c k : Nat) (rest : List Turn), s.sched = .issue c k :: rest → let s0 : State := { s with sched := rest }
    s0.coreHalted c = false → s0.turnOf c k = false → step s = .next s0) ∧
  (∀ (s : State) (t : Thread) (c k : Nat),
    (∀ w, bufferWord (s.slot c k).fetch t.ctx.ip = some w → s.fetchFor c k t = (s, .word w)) ∧
    (bufferWord (s.slot c k).fetch t.ctx.ip = none → activeCore c = true → t.ctx.ip.toNat % 4 = 0 →
      t.ctx.ip.toNat + 4 ≤ s.privSize c → s.hasBad (localKey c t.ctx.ip.toNat) 4 = false →
      s.fetchFor c k t = (s, .word (BitVec.ofNat 32 (ofBytes (s.bytes (localKey c t.ctx.ip.toNat) 4)))))) ∧
  (∀ (s : State) (c k : Nat) (ip : Word) (w : BitVec 32) (sig : Word), let p := s.prepared c k ip w sig
    p.cur = (c, k) ∧ p.ir = w ∧ (p.slot c k).sigst = sig ∧ (p.slot c k).thread = (s.slot c k).thread ∧ p.mem = s.mem ∧ p.net = s.net ∧
    ∀ d j, d ≠ c → p.slot d j = s.slot d j) ∧
  (∀ (s : State) (t : Thread) (sig : Word) (i : Instr) (w : BitVec 32), sig.getLsbD 32 = false → s.sigFor t sig i w = (sig, true)) ∧
  (∀ (s : State) (i : Instr) (a : Args) (rest : List Turn), s.sched = .event i a :: rest → isEventRow i = true →
    step s = exec i { s with sched := rest, args := a })

/-- Words written out from the encodings of R294, R301 to R305 and R317 to R423, field by field, decode to the instructions for which they
stand. -/
def Obligations.SpecWordsDecode : Prop :=
  decodeNat 0b000001_0001_0010_0011_00000000_000_000 = .ok (.add 1 2 3) ∧
  decodeNat 0b000101_1010_1010_111111111111111000 = .ok (.addi 10 10 0x3FFF8) ∧
  decodeNat 0b001010_0100_0000000000000000000101 = .ok (.lui 4 5) ∧
  decodeNat 0b010100_0001_0010_0110_00000000001000 = .ok (.ldD 1 2 8) ∧
  decodeNat 0b010101_0001_0010_0011_00000000001000 = .ok (.stD 1 2 8) ∧
  decodeNat 0b011110_11111111111111111111111110 = .ok (.jmp 0x3FFFFFE)

/-- R294 and R301 to R306: every well-formed instruction that has a word of its own has one of 32 bits, and that word decodes to it, with
every operand at every value that the encoding admits. -/
def Obligations.EncodedInstructionsDecode : Prop :=
  ∀ (i : Instr) (n : Nat), i.wf = true → encodeNat i = some n → n < 2 ^ 32 ∧ decodeNat n = .ok i

/-- A store to private memory followed by a load of the same bytes gives the value stored, and a load of bytes outside the store gives what it
would have given before (R331, and the reads and writes of one thread in R173 to R176); an access that crosses an aligned 32-byte boundary
is complete when its slot has gone on with its second piece. -/
def Obligations.StoredValuesAreLoaded : Prop :=
  ∀ e ∈ tableStore, ∀ l ∈ tableLoad, ∀ (d a r b : Reg) (i j : BitVec 14) (s : State) (t : Thread), s.Resides t → Memory.wf s.mem = true →
    plain [d, a, r, b] = true → s.Private (t.ctx.address a i) e.size → (t.ctx.address a i).toNat % e.align = 0 →
    s.Private (t.ctx.address b j) l.size →
    ∃ v w, exec (e.instr d a i) s = .next v ∧
      let u := v.mend s.here s.slotNo
      exec (l.instr r b j) u = .next w ∧
      (l.size = e.size → t.ctx.address b j = t.ctx.address a i → w.mend s.here s.slotNo = u.went { t with ctx := t.ctx.past }
        (t.ctx.past.put r (extended l.size l.signed ((t.ctx.get d).toNat % 2 ^ (8 * l.size)))).past) ∧
      ((t.ctx.address b j).toNat + l.size ≤ (t.ctx.address a i).toNat ∨ (t.ctx.address a i).toNat + e.size ≤ (t.ctx.address b j).toNat →
        w.mend s.here s.slotNo = u.went { t with ctx := t.ctx.past }
          (t.ctx.past.put r (extended l.size l.signed (ofBytes (s.bytes (s.homeKey (t.ctx.address b j)) l.size)))).past)

/-- The canonical form of memory is an invariant of the model: every step that goes on keeps it. -/
def Obligations.MemoryStaysCanonical : Prop :=
  ∀ s u : State, Memory.wf s.mem = true → step s = .next u → Memory.wf u.mem = true

/-- Memory has its canonical form at reset. -/
def Obligations.ResetMemoryIsCanonical : Prop :=
  Memory.wf State.reset.mem = true ∧ ∀ a, State.reset.byte a = 0

/-! ## What the other engines compute -/

/-- R409 and R411: `mmac` adds to every element of its tile the 32 exact terms of its row of A and column of B, with their scales, or ends with
error 7 where the anchors differ; `mldb` fills the working latch, `mpass` sends it on, `mzero` zeroes the tiles that its mask names, `mdrain`
and `mdrainx` write a tile converted, or raw, and `maddx` adds a raw tile, or ends with error 7.
R68, R288 and R412 to R415: a pool sends its bags to its hub slice, which gives each buffer the rows of its channel; a buffer adds each bag's
terms, in an order left free (DESIGN CHOICE, log 108), and the hub the sixteen parts; each element is rounded once, and the results and the
vector of bad rows are written full. That these are travellers of VC1 is log 114 (DEDUCED).
R154, R155, R418 and R419: a record of `binapp` is dropped with `bkey`, or goes to the bin of its region, where it is appended while fewer than
8,191 stand there, and counted as overflow otherwise; a `binplay` takes its bin, which then reads as empty (at most 8,191 records, log 120),
and adds its records to the target one by one, as FP32 sums or as integers of the anchor's grid saturated to int64. -/
def Obligations.MatrixPoolAndBinResults : Prop :=
  (∀ (s : State) (d : Cmd) (b : Latch), let c := s.args.c
    let o := s.core c
    let t := o.tile d.tileNo
    let ends := fun (v : State) => v.modCmd c d.id (fun e => { e with phase := matrixEnd, ringWait := 0 })
    s.args.k = 0 → s.activeCmd c s.args.id = some d → o.working = some b →
    (d.op = .mmac → d.phase = 0 → t.anc ≠ d.matAnchor → exec .engineRead s = .next (ends (s.engineError c d 7))) ∧
    (d.op = .mmac → d.phase = 2 → s.latchGoing c = false → d.tileNo < o.acc.length →
      let n := d.lineBytes
      let m := packedSize b.fmt 32
      let a := bytesOf d.gathered
      let av := fun i k => elemValue d.matFmt o.tab0 o.tab1 (rawElem d.matFmt ((a.drop (i * n)).take n) k)
      let bv := fun k j => elemValue b.fmt o.tab0 o.tab1 (rawElem b.fmt ((b.bytes.drop (j * m)).take m) k)
      let sa : Nat → Fl := fun i => if d.matScaled then scaleValue (a.getD (8 * n + i) 0) else .fin false 1 0
      let sb : Nat → Fl := fun j => match b.scales with
        | some l => scaleValue (l.getD j 0)
        | none => .fin false 1 0
      ∃ u, exec .engineRead s = .next u ∧ ((u.core c).tile d.tileNo).anc = t.anc ∧
        (∀ i < 8, ∀ j < 8, ((u.core c).tile d.tileNo).elems[8 * i + j]? = t.elems[8 * i + j]?.map (fun e =>
          ((List.range 32).foldl (fun e k =>
            e.term d.matAnchor.toInt ((((av i k).mul (bv k j)).1.mul (sa i)).1.mul (sb j)).1) e).settle)) ∧
        (∀ k, k ≠ d.tileNo → (u.core c).tile k = o.tile k) ∧ u.mem = s.mem ∧ u.net = s.net ∧
        (u.core c).working = (if d.ringDir = 0 then some b else o.incoming)) ∧
    (∀ n, d.op = .mpass → d.phase = 1 → s.ringPeer c d.ringDir = some n → (s.core n).incoming = none → s.latchComing n = false →
      s.stalledPath c n = false → exec .engineRead s = .next (ends ((s.send
        { src := c, dst := n, vc := 4, tag := s.tagOf c, part := s.partTag c, load := .latch b }).modCore c (fun o => { o with working := none }))))) ∧
  (∀ (s s1 : State) (d : Cmd) (l : List Byte), let c := s.args.c
    let o := s.core c
    let t := o.tile d.tileNo
    let ends := fun (v : State) => v.modCmd c d.id (fun e => { e with phase := matrixEnd, ringWait := 0 })
    s.args.k = 0 → s.activeCmd c s.args.id = some d → d.phase = 0 →
    (d.op = .mldb → s.localRun c d.tileB.1 d.tileB.2 = true → s.localRead c d.tileB.1 d.tileB.2 = (s1, some l) → d.scalesB = [] →
      exec .engineRead s = .next (ends (s1.modCore c (fun o => { o with working := some { fmt := d.matFmt, bytes := l, scales := none } })))) ∧
    (d.op = .mzero → o.acc.length = 4 → ∃ u, exec .engineRead s = .next u ∧ u.mem = s.mem ∧
      ∀ k < 4, (u.core c).tile k = if d.xa.getLsbD k then { anc := d.matAnchor } else o.tile k) ∧
    (d.op = .mdrain ∨ d.op = .mdrainx → d.tileNo < o.acc.length →
      let bytes := t.elems.flatMap (fun e =>
        if d.op = .mdrainx then e.raw t.anc
        else toBytes (e.drain d.drainFmt t.anc.toInt (fp32.decode (d.xb.toNat % 2 ^ 32))).1 d.drainSize)
      bytes ≠ [] → d.xa.toNat % 4096 + bytes.length ≤ 4096 →
      ∃ u e, exec .engineRead s = .next u ∧ (u.core c).cmd d.id = some e ∧ e.phase = matrixEnd ∧
        e.pending = [{ pos := 0, va := d.xa, home := s.localAt c d.xa.toNat, bytes }] ∧
        (u.core c).tile d.tileNo = (if d.drainClear then { anc := t.anc } else t) ∧ u.mem = s.mem) ∧
    (d.op = .maddx → s.localRead c d.xa.toNat 1024 = (s1, some l) → d.tileNo < (s1.core c).acc.length →
      let t1 := (s1.core c).tile d.tileNo
      let raw := fun i => rawOf ((l.drop (16 * i)).take 16)
      ((∃ i < 64, (raw i).2 ≠ t1.anc) → exec .engineRead s = .next (ends (s1.engineError c d 7))) ∧
      ((∀ i < 64, (raw i).2 = t1.anc) → ∃ u, exec .engineRead s = .next u ∧ ((u.core c).tile d.tileNo).anc = t1.anc ∧
        ∀ i < 64, ((u.core c).tile d.tileNo).elems[i]? = t1.elems[i]?.map (fun e => e.addRaw (raw i).1)))) ∧
  (∀ (s s1 s2 : State) (d : Cmd) (head block : List Byte), let c := s.args.c
    let n := ofBytes (head.take 4)
    let m := ofBytes (head.drop 4)
    s.args.k = 0 → s.activeCmd c s.args.id = some d → d.op = .pool → d.phase = 0 → s.engineBytes c d.user d.xa.toNat 8 = (s1, .bytes head) →
    legalBags n m = true → s1.localRun c d.xa.toNat (d.blockBytes n m) = true → s1.localRun c d.xb.toNat (d.poolBytes n) = true →
    s1.engineBytes c d.user d.xa.toNat (d.blockBytes n m) = (s2, .bytes block) →
    (bagsMalformed n m block = true →
      exec .engineRead s = .next ((s2.engineError c d 10).modCmd c d.id (fun e => { e with phase := 1, status := 8 }))) ∧
    (∀ s3 tbl, bagsMalformed n m block = false → s2.poolTable c d = (s3, .ok tbl) →
      exec .engineRead s = .next (((s3.modCmd c d.id (fun e => { e with phase := 1, asked := [(s3.stamp, 0, 0)] })).stampUp).send
        { src := c, dst := edgeCore (moduleOf c) (16 + 4 * (dieOf c % 4)), vc := 1, tag := d.tag, part := s3.partTag c
          load := .poolAsk { core := c, cmd := d, key := s3.stamp, table := tbl } ((List.range n).map (d.bagRows n m block)) }))) ∧
  (∀ (s : State) (x : Traveller) (j : PoolJob), s.args.k ≠ 0 → s.arriving s.args.n = some x →
    let u := s.landed s.args.n x
    let m := moduleOf x.dst
    (∀ bags, x.load = .poolAsk j bags → exec .engineRead s = .next ((List.range 16).foldl (fun v p => v.send
      { src := x.dst, dst := edgeCore m (16 + p), vc := 1, tag := x.tag, part := x.part, port := some p
        load := .poolShare j (bags.map (fun b => b.filter (fun r => r.1 % 16 == p))) })
      (u.modModule m (fun o => { o with hub := o.hub ++ [(j, [])] })))) ∧
    (∀ bags, x.load = .poolShare j bags → exec .engineRead s = .next ({ u with free := u.free + 8192 * bags.length }.send
      { src := x.dst, dst := hubCore j.core, vc := 1, tag := x.tag, part := x.part, port := x.port, fromBuffer := true
        load := .poolPart j (u.sumShare j bags) })) ∧
    (∀ sums parts, x.load = .poolPart j sums → (u.module m).hub.find? (fun y => y.1 == j) = some (j, parts) → parts.length = 15 →
      let total := hubSums (parts ++ [sums])
      exec .engineRead s = .next ((u.modModule m (fun o => { o with hub := o.hub.filter (fun y => y.1 != j) })).send
        { src := x.dst, dst := j.core, vc := 1, tag := x.tag, part := x.part
          load := .poolSum j.cmd.id j.key (j.cmd.poolWords total) (total.any (fun b => b.bad)) (total.any (fun b => b.acc.any (fun a => a.sat)))
            (total.findSome? (fun b => b.error)) })) ∧
    (∀ key words bad sat d, x.load = .poolSum j.cmd.id key words bad sat none → (u.core x.dst).cmd j.cmd.id = some d →
      d.asked.any (fun a => a.1 == key) = true →
      exec .engineRead s = .next ((u.modCore x.dst (fun o => o.orStatus .pool ((if bad then 0x200 else 0) + if sat then 0x100 else 0))).modCmd
        x.dst j.cmd.id (fun e =>
          { e with
            asked := []
            status := (if bad then 1 else 0) + if sat then 2 else 0
            pending := words.zipIdx.map (fun w => { pos := 4 * w.2, va := d.xb + BitVec.ofNat 64 (4 * w.2),
                                                    home := u.localAt x.dst (d.xb.toNat + 4 * w.2), bytes := w.1, full := true }) })))) ∧
  (∀ (s : State) (j : PoolJob) (bags : List (List (Nat × Option Nat))) (k : Nat) (rows : List (Nat × Option Nat)), bags[k]? = some rows →
    let d := j.cmd
    ∃ (b : BagSum) (l : List (Nat × Option Nat)), (s.sumShare j bags)[k]? = some b ∧ l.Perm rows ∧ b.bad = rows.any (fun r => d.rowBad j.table r.1) ∧
      ((∀ r ∈ rows, d.rowBad j.table r.1 = false → s.hasBad (d.rowKey j.table r.1) d.rowBytes = false) → b.error = none ∧
        ∀ e < d.poolLen, b.acc[e]? = some ((l.filter (fun r => !d.rowBad j.table r.1)).foldl (fun a r =>
          let w : Fl := (r.2.map fp32.decode).getD (.fin false 1 0)
          a.term d.poolAnchor ((d.rowTerms w (s.bytes (d.rowKey j.table r.1) d.rowBytes)).getD e (.fin false 0 0))) {}))) ∧
  (∀ (p : List BagSum) (rest : List (List BagSum)) (k e n : Nat), (∀ q ∈ p :: rest, q.length = p.length ∧ ∀ b ∈ q, b.acc.length = n) →
    ((hubSums (p :: rest))[k]?.bind (fun b => b.acc[e]?)) = (p[k]?.bind (fun b => b.acc[e]?)).map (fun a =>
      rest.foldl (fun a q => a.addRaw ((q[k]?.bind (fun b => b.acc[e]?)).getD {})) a)) ∧
  (∀ (d : Cmd) (sums : List BagSum), (∀ b ∈ sums, b.acc.length = d.poolLen) →
    (∀ (k e : Nat) (b : BagSum) (a : AccElem), sums[k]? = some b → b.acc[e]? = some a →
      (d.poolWords sums)[k * d.poolLen + e]? = some (toBytes (a.drain fp32 d.poolAnchor (.fin false 1 0)).1 4)) ∧
    (∀ i < 8, ∃ v, (d.poolWords sums)[sums.length * d.poolLen + i]? = some (toBytes v 4) ∧
      ∀ j < 32, v.testBit j = ((sums[32 * i + j]?).map (fun b => b.bad)).getD false)) ∧
  (∀ (s s1 : State) (d : Cmd) (l : List Byte) (i : Nat), let c := s.args.c
    let region := ofBytes (l.take 4) / 2 ^ d.binShift
    s.args.k = 0 → s.activeCmd c s.args.id = some d → d.op = .binapp → d.logged = false → i < d.xb.toNat → (i, 1) ∉ d.reads → (∀ j < i, (j, 1) ∈ d.reads) →
    s.engineBytes c d.user (d.xa.toNat + 8 * i) 8 = (s1, .bytes l) →
    (d.binRegions ≤ region → exec .engineRead s = .next ((s1.modCore c (fun o => o.orStatus .bin 0x200)).modCmd c d.id (fun e =>
      { e with reads := e.reads ++ [(i, 1)] }))) ∧
    (∀ s2 key, region < d.binRegions → s1.binKey c d region = (s2, .ok key) → exec .engineRead s = .next (s2.modCmd c d.id (fun e =>
      { e with
        reads := e.reads ++ [(i, 1)]
        pending := e.pending ++ [{ pos := i, va := BitVec.ofNat 64 (d.binSet + region * 2 ^ 16), home := key, bytes := l, append := true }] })))) ∧
  (∀ (s : State) (d : Cmd) (w : PWrite), let c := s.args.c
    let n := s.num w.home 4
    let done := fun (v : State) => v.modCmd c d.id (fun e => { e with pending := e.pending.erase w, performed := e.performed + 8 })
    s.args.k = 0 → s.activeCmd c s.args.id = some d → d.op = .binapp → d.pending[s.args.idx]? = some w → w.append = true → w.bits = none →
    w.held = false → w.sent = false → d.pending.find? (fun p => p.home == w.home) = some w → w.near c = true → s.health w.home 8 = .sound →
    (n < 8191 → exec .engineWritePerform s = .next (done
      ((s.storeHome (w.home + 8 + 8 * n) w.bytes).storeHome w.home (toBytes (n + 1) 4)))) ∧
    (8191 ≤ n → exec .engineWritePerform s = .next (done
      ((s.storeHome (w.home + 4) (toBytes (s.num (w.home + 4) 4 + 1) 4)).modCore c (fun o => o.orStatus .bin 0x400))))) ∧
  (∀ (s s1 : State) (d : Cmd) (key : Nat), let c := s.args.c
    (s.core c).nextToStart s.args.engine = some d → s.engineOff c d = false → (s.core c).mayStart d = true → d.op = .binplay → d.phase = 0 →
    (s.modCmd c d.id (fun x => { x with started := true })).binKey c { d with started := true } d.xa.toNat = (s1, .ok key) →
    nearHome c key = true → s1.health key 8 = .sound →
    let n := min (s1.num key 4) 8191
    s1.health (key + 8) (8 * n) = .sound →
    exec .engineCommandStart s = .next ((s1.storeHome key (List.replicate (8 + 8 * n) 0)).modCmd c d.id (fun e =>
      { e with
        gathered := wordsOf (s1.bytes (key + 8) (8 * n))
        phase := 1
        asked := []
        status := if s1.num (key + 4) 4 ≠ 0 then 2 else 0 }))) ∧
  (∀ (s s1 : State) (d : Cmd) (r : Word) (old : List Byte), let c := s.args.c
    let va := d.xb.toNat + d.binElem * (r.toNat % 2 ^ 32 % 2 ^ d.binShift)
    let v := r.toNat / 2 ^ 32
    let puts := fun (w : State) (status : Nat → Nat) (bytes : List Byte) => w.tick.modCmd c d.id (fun e =>
      { e with
        phase := e.phase + 1
        status := status e.status
        pending := [{ pos := 8 * (d.phase - 1), va := BitVec.ofNat 64 va, home := w.localAt c va, bytes }] })
    s.args.k = 0 → s.activeCmd c s.args.id = some d → d.op = .binplay → d.pending = [] → 1 ≤ d.phase → d.gathered[d.phase - 1]? = some r →
    s.engineBytes c d.user va d.binElem = (s1, .bytes old) →
    (d.binMode = false → exec .engineRead s = .next (puts s1 (fun x => x) (toBytes (fp32.fadd .rne (ofBytes old) v).1 4))) ∧
    (∀ sg m e, d.binMode = true → fp32.decode v = .fin sg m e →
      let sum := sextInt 64 (ofBytes old) + (roundInt .rne sg m (e - d.binAnchor)).1
      (-2 ^ 63 ≤ sum → sum ≤ 2 ^ 63 - 1 → exec .engineRead s = .next (puts s1 (fun x => x) (toBytes (BitVec.ofInt 64 sum).toNat 8))) ∧
      (2 ^ 63 - 1 < sum → exec .engineRead s = .next (puts (s1.modCore c (fun o => o.orStatus .bin 0x100)) (fun x => x ||| 1)
        (toBytes (2 ^ 63 - 1) 8))) ∧
      (sum < -2 ^ 63 → exec .engineRead s = .next (puts (s1.modCore c (fun o => o.orStatus .bin 0x100)) (fun x => x ||| 1)
        (toBytes (2 ^ 63) 8)))))
end

