-- ==== Sys2Proof/Laws/Memory.lean ====
section
/-! SUPPORT. The laws of memory: a read after a write, the canonical form that every write keeps, and byte order. -/
namespace Sys2Proof.Machine

/-! ## The canonical form -/

/-- A lower bound below the keys may fall. -/
theorem Memory.wfFrom_mono {m : List Host.Cell} {lo hi : Nat} (h : lo ≤ hi) (hm : Memory.wfFrom hi m = true) :
    Memory.wfFrom lo m = true := by
  cases m with
  | nil => rfl
  | cons e t =>
    obtain ⟨b, w⟩ := e
    simp only [Memory.wfFrom, Bool.and_eq_true, decide_eq_true_eq] at hm ⊢
    exact ⟨⟨by omega, hm.1.2⟩, hm.2⟩

/-- Keys below the bound read 0. -/
theorem Memory.read_below {m : List Host.Cell} {lo a : Nat} (hm : Memory.wfFrom lo m = true) (h : a < lo) :
    Memory.read m a = 0 := by
  induction m generalizing lo with
  | nil => rfl
  | cons e t ih =>
    obtain ⟨b, w⟩ := e
    simp only [Memory.wfFrom, Bool.and_eq_true, decide_eq_true_eq] at hm
    rw [Memory.read, if_neg (by omega)]
    exact ih hm.2 (by omega)

/-- Writing 0 below every key changes nothing. -/
theorem Memory.write_zero_below {m : List Host.Cell} {lo a : Nat} (hm : Memory.wfFrom lo m = true) (h : a < lo) :
    Memory.write m a 0 = m := by
  induction m generalizing lo with
  | nil => rfl
  | cons e t ih =>
    obtain ⟨b, w⟩ := e
    simp only [Memory.wfFrom, Bool.and_eq_true, decide_eq_true_eq] at hm
    rw [Memory.write, if_neg (by omega), if_neg (by simp), ih hm.2 (by omega)]

/-- A write keeps the form, and its lower bound when the key is not below it. -/
theorem Memory.wfFrom_write {m : List Host.Cell} {lo a : Nat} (v : Byte) (hm : Memory.wfFrom lo m = true) (h : lo ≤ a) :
    Memory.wfFrom lo (Memory.write m a v) = true := by
  induction m generalizing lo with
  | nil =>
    by_cases hv : v = 0
    · rw [Memory.write, if_pos hv]; rfl
    · rw [Memory.write, if_neg hv]
      simp only [Memory.wfFrom, Bool.and_eq_true, decide_eq_true_eq]
      exact ⟨⟨h, hv⟩, trivial⟩
  | cons e t ih =>
    obtain ⟨b, w⟩ := e
    have hm' := hm
    simp only [Memory.wfFrom, Bool.and_eq_true, decide_eq_true_eq] at hm
    obtain ⟨⟨hb, hw⟩, ht⟩ := hm
    by_cases hab : b = a
    · subst hab
      by_cases hv : v = 0
      · rw [Memory.write, if_pos rfl, if_pos hv, Memory.write_zero_below ht (by omega)]
        exact Memory.wfFrom_mono (by omega) ht
      · rw [Memory.write, if_pos rfl, if_neg hv]
        simp only [Memory.wfFrom, Bool.and_eq_true, decide_eq_true_eq]
        exact ⟨⟨h, hv⟩, ht⟩
    · by_cases hc : a < b ∧ v ≠ 0
      · rw [Memory.write, if_neg hab, if_pos hc]
        simp only [Memory.wfFrom, Bool.and_eq_true, decide_eq_true_eq]
        exact ⟨⟨h, hc.2⟩, ⟨by omega, hw⟩, ht⟩
      · by_cases hlt : a < b
        · have hv : v = 0 := Decidable.of_not_not (fun hv => hc ⟨hlt, hv⟩)
          subst hv
          rw [Memory.write, if_neg hab, if_neg hc, Memory.write_zero_below ht (by omega)]
          exact hm'
        · rw [Memory.write, if_neg hab, if_neg hc]
          simp only [Memory.wfFrom, Bool.and_eq_true, decide_eq_true_eq]
          exact ⟨⟨hb, hw⟩, ih ht (by omega)⟩

/-- A write keeps the canonical form. -/
theorem Memory.wf_write {m : List Host.Cell} (a : Nat) (v : Byte) (hm : Memory.wf m = true) :
    Memory.wf (Memory.write m a v) = true :=
  Memory.wfFrom_write v hm (Nat.zero_le a)

/-- So does a write of several bytes. -/
theorem Memory.wf_writeList {m : List Host.Cell} (a : Nat) (bs : List Byte) (hm : Memory.wf m = true) :
    Memory.wf (Memory.writeList m a bs) = true := by
  induction bs generalizing m a with
  | nil => exact hm
  | cons b bs ih => exact ih (a + 1) (Memory.wf_write a b hm)

/-- So does dropping cells. -/
theorem Memory.wfFrom_filter {m : List Host.Cell} {lo : Nat} (p : Host.Cell → Bool) (hm : Memory.wfFrom lo m = true) :
    Memory.wfFrom lo (m.filter p) = true := by
  induction m generalizing lo with
  | nil => rfl
  | cons e t ih =>
    obtain ⟨b, w⟩ := e
    have hm' := hm
    simp only [Memory.wfFrom, Bool.and_eq_true, decide_eq_true_eq] at hm
    rw [List.filter_cons]
    split
    · simp only [Memory.wfFrom, Bool.and_eq_true, decide_eq_true_eq]
      exact ⟨hm.1, ih hm.2⟩
    · exact ih (Memory.wfFrom_mono (by omega) hm.2)

/-! ## Reads after writes -/

theorem Memory.read_write_ne {m : List Host.Cell} {a c : Nat} (v : Byte) (h : c ≠ a) :
    Memory.read (Memory.write m a v) c = Memory.read m c := by
  induction m with
  | nil =>
    by_cases hv : v = 0
    · rw [Memory.write, if_pos hv]
    · rw [Memory.write, if_neg hv]
      exact if_neg (Ne.symm h)
  | cons e t ih =>
    obtain ⟨b, w⟩ := e
    by_cases hab : b = a
    · subst hab
      by_cases hv : v = 0
      · subst hv
        rw [Memory.write, if_pos rfl, if_pos rfl, ih, Memory.read, if_neg (Ne.symm h)]
      · rw [Memory.write, if_pos rfl, if_neg hv, Memory.read, if_neg (Ne.symm h), Memory.read, if_neg (Ne.symm h)]
    · by_cases hc : a < b ∧ v ≠ 0
      · rw [Memory.write, if_neg hab, if_pos hc, Memory.read, if_neg (Ne.symm h)]
      · rw [Memory.write, if_neg hab, if_neg hc, Memory.read, Memory.read, ih]

/-- In a memory in canonical form a byte reads as it was written. -/
theorem Memory.read_write {m : List Host.Cell} {lo : Nat} (a : Nat) (v : Byte) (hm : Memory.wfFrom lo m = true) :
    Memory.read (Memory.write m a v) a = v := by
  induction m generalizing lo with
  | nil =>
    by_cases hv : v = 0
    · subst hv; rfl
    · rw [Memory.write, if_neg hv, Memory.read, if_pos rfl]
  | cons e t ih =>
    obtain ⟨b, w⟩ := e
    simp only [Memory.wfFrom, Bool.and_eq_true, decide_eq_true_eq] at hm
    by_cases hab : b = a
    · subst hab
      by_cases hv : v = 0
      · subst hv
        rw [Memory.write, if_pos rfl, if_pos rfl]
        exact ih hm.2
      · rw [Memory.write, if_pos rfl, if_neg hv, Memory.read, if_pos rfl]
    · by_cases hc : a < b ∧ v ≠ 0
      · rw [Memory.write, if_neg hab, if_pos hc, Memory.read, if_pos rfl]
      · rw [Memory.write, if_neg hab, if_neg hc, Memory.read, if_neg hab]
        exact ih hm.2

theorem Memory.read_writeList_ne {m : List Host.Cell} {a c : Nat} (bs : List Byte) (h : c < a ∨ a + bs.length ≤ c) :
    Memory.read (Memory.writeList m a bs) c = Memory.read m c := by
  induction bs generalizing m a with
  | nil => rfl
  | cons b bs ih =>
    rw [List.length_cons] at h
    rw [Memory.writeList, ih (by omega), Memory.read_write_ne b (by omega)]

/-- Bytes that were written together read back. -/
theorem Memory.readList_writeList {m : List Host.Cell} (a : Nat) (bs : List Byte) (hm : Memory.wf m = true) :
    Memory.readList (Memory.writeList m a bs) a bs.length = bs := by
  induction bs generalizing m a with
  | nil => rfl
  | cons b bs ih =>
    rw [List.length_cons, Memory.readList, Memory.writeList, ih (a + 1) (Memory.wf_write a b hm),
      Memory.read_writeList_ne bs (by omega), Memory.read_write a b hm]

theorem Memory.readList_length (m : List Host.Cell) (a n : Nat) : (Memory.readList m a n).length = n := by
  induction n generalizing a with
  | zero => rfl
  | succ n ih => rw [Memory.readList, List.length_cons, ih]

/-! ## Byte order -/

theorem toBytes_length (v n : Nat) : (toBytes v n).length = n := by
  induction n generalizing v with
  | zero => rfl
  | succ n ih => rw [toBytes, List.length_cons, ih]

/-- A number's bytes give the number back, modulo their width. -/
theorem ofBytes_toBytes (v n : Nat) : ofBytes (toBytes v n) = v % 256 ^ n := by
  induction n generalizing v with
  | zero => simp [toBytes, ofBytes, Nat.mod_one]
  | succ n ih =>
    rw [toBytes, ofBytes, ih, BitVec.toNat_ofNat]
    show v % 256 + 256 * (v / 256 % 256 ^ n) = v % 256 ^ (n + 1)
    rw [Nat.pow_succ, Nat.mul_comm (256 ^ n) 256, Nat.mod_mul]

theorem ofBytes_lt (l : List Byte) : ofBytes l < 256 ^ l.length := by
  induction l with
  | nil => simp [ofBytes]
  | cons b bs ih =>
    rw [ofBytes, List.length_cons, Nat.pow_succ]
    have := b.isLt
    omega

/-! ## The state's memory -/

/-- A write of bytes keeps the canonical form. -/
theorem State.wf_putBytes {s : State} (a : Nat) (bs : List Byte) (h : Memory.wf s.mem = true) :
    Memory.wf (s.putBytes a bs).mem = true :=
  Memory.wf_writeList a bs h

theorem State.bytes_putBytes {s : State} (a : Nat) (bs : List Byte) (h : Memory.wf s.mem = true) :
    (s.putBytes a bs).bytes a bs.length = bs :=
  Memory.readList_writeList a bs h

theorem State.byte_putBytes_ne (s : State) {a c : Nat} (bs : List Byte) (h : c < a ∨ a + bs.length ≤ c) :
    (s.putBytes a bs).byte c = s.byte c :=
  Memory.read_writeList_ne bs h

end Sys2Proof.Machine
end

