-- ==== Sys2Proof/Laws/Tbl.lean ====
section
/-! SUPPORT. The laws of finite tables: what a table reads after it has been changed. -/
namespace Sys2Proof.Tbl

variable {α : Type}

theorem get_set (t : Tbl α) (k : Nat) (v : α) : (t.set k v).get k = some v := by
  induction t with
  | nil => simp [set, get]
  | cons e t ih =>
    obtain ⟨j, w⟩ := e
    by_cases h : j = k <;> simp [set, get, h, ih]

theorem get_set_ne (t : Tbl α) {k j : Nat} (v : α) (h : j ≠ k) : (t.set k v).get j = t.get j := by
  induction t with
  | nil => simp [set, get, Ne.symm h]
  | cons e t ih =>
    obtain ⟨i, w⟩ := e
    by_cases hi : i = k
    · subst hi; simp [set, get, Ne.symm h]
    · by_cases hj : i = j
      · subst hj; simp [set, get, hi]
      · simp [set, get, hi, hj, ih]

/-- A second value at a key replaces the first. -/
theorem set_set (t : Tbl α) (k : Nat) (u v : α) : (t.set k u).set k v = t.set k v := by
  induction t with
  | nil => simp [set]
  | cons e t ih =>
    obtain ⟨j, w⟩ := e
    by_cases h : j = k <;> simp [set, h, ih]

/-- Setting a key to the value that it has changes nothing. -/
theorem set_get (t : Tbl α) {k : Nat} {v : α} (h : t.get k = some v) : t.set k v = t := by
  induction t with
  | nil => simp [get] at h
  | cons e t ih =>
    obtain ⟨j, w⟩ := e
    by_cases hj : j = k
    · simp [get, hj] at h; simp [set, hj, h]
    · simp [get, hj] at h; simp [set, hj, ih h]

theorem get_del (t : Tbl α) (k : Nat) : (t.del k).get k = none := by
  induction t with
  | nil => rfl
  | cons e t ih =>
    obtain ⟨j, w⟩ := e
    by_cases h : j = k <;> simp [del, get, h, ih]

theorem get_del_ne (t : Tbl α) {k j : Nat} (h : j ≠ k) : (t.del k).get j = t.get j := by
  induction t with
  | nil => rfl
  | cons e t ih =>
    obtain ⟨i, w⟩ := e
    by_cases hi : i = k
    · subst hi; simp [del, get, ih, Ne.symm h]
    · by_cases hj : i = j
      · subst hj; simp [del, get, hi]
      · simp [del, get, hi, hj, ih]

end Sys2Proof.Tbl
end

