-- ==== Sys2Proof/Laws/State.lean ====
section
/-! SUPPORT. What each update of the state leaves alone, one lemma per field, and what it puts where. -/
namespace Sys2Proof.Machine

/-! ## `State.modCore` -/

@[simp] theorem State.modCore_mem (s : State) (c : Nat) (f : Core → Core) : (s.modCore c f).mem = s.mem := rfl
@[simp] theorem State.modCore_full (s : State) (c : Nat) (f : Core → Core) : (s.modCore c f).full = s.full := rfl
@[simp] theorem State.modCore_bad (s : State) (c : Nat) (f : Core → Core) : (s.modCore c f).bad = s.bad := rfl
@[simp] theorem State.modCore_untagged (s : State) (c : Nat) (f : Core → Core) : (s.modCore c f).untagged = s.untagged := rfl
@[simp] theorem State.modCore_soft (s : State) (c : Nat) (f : Core → Core) : (s.modCore c f).soft = s.soft := rfl
@[simp] theorem State.modCore_dirty (s : State) (c : Nat) (f : Core → Core) : (s.modCore c f).dirty = s.dirty := rfl
@[simp] theorem State.modCore_host (s : State) (c : Nat) (f : Core → Core) : (s.modCore c f).host = s.host := rfl
@[simp] theorem State.modCore_saved (s : State) (c : Nat) (f : Core → Core) : (s.modCore c f).saved = s.saved := rfl
@[simp] theorem State.modCore_quads (s : State) (c : Nat) (f : Core → Core) : (s.modCore c f).quads = s.quads := rfl
@[simp] theorem State.modCore_modules (s : State) (c : Nat) (f : Core → Core) : (s.modCore c f).modules = s.modules := rfl
@[simp] theorem State.modCore_net (s : State) (c : Nat) (f : Core → Core) : (s.modCore c f).net = s.net := rfl
@[simp] theorem State.modCore_now (s : State) (c : Nat) (f : Core → Core) : (s.modCore c f).now = s.now := rfl
@[simp] theorem State.modCore_stamp (s : State) (c : Nat) (f : Core → Core) : (s.modCore c f).stamp = s.stamp := rfl
@[simp] theorem State.modCore_free (s : State) (c : Nat) (f : Core → Core) : (s.modCore c f).free = s.free := rfl
@[simp] theorem State.modCore_cur (s : State) (c : Nat) (f : Core → Core) : (s.modCore c f).cur = s.cur := rfl
@[simp] theorem State.modCore_ir (s : State) (c : Nat) (f : Core → Core) : (s.modCore c f).ir = s.ir := rfl
@[simp] theorem State.modCore_args (s : State) (c : Nat) (f : Core → Core) : (s.modCore c f).args = s.args := rfl
@[simp] theorem State.modCore_sched (s : State) (c : Nat) (f : Core → Core) : (s.modCore c f).sched = s.sched := rfl
@[simp] theorem State.modCore_rotor (s : State) (c : Nat) (f : Core → Core) : (s.modCore c f).rotor = s.rotor := rfl

/-! ## `State.modSlot` -/

@[simp] theorem State.modSlot_mem (s : State) (c k : Nat) (f : Slot → Slot) : (s.modSlot c k f).mem = s.mem := rfl
@[simp] theorem State.modSlot_full (s : State) (c k : Nat) (f : Slot → Slot) : (s.modSlot c k f).full = s.full := rfl
@[simp] theorem State.modSlot_bad (s : State) (c k : Nat) (f : Slot → Slot) : (s.modSlot c k f).bad = s.bad := rfl
@[simp] theorem State.modSlot_untagged (s : State) (c k : Nat) (f : Slot → Slot) : (s.modSlot c k f).untagged = s.untagged := rfl
@[simp] theorem State.modSlot_soft (s : State) (c k : Nat) (f : Slot → Slot) : (s.modSlot c k f).soft = s.soft := rfl
@[simp] theorem State.modSlot_dirty (s : State) (c k : Nat) (f : Slot → Slot) : (s.modSlot c k f).dirty = s.dirty := rfl
@[simp] theorem State.modSlot_host (s : State) (c k : Nat) (f : Slot → Slot) : (s.modSlot c k f).host = s.host := rfl
@[simp] theorem State.modSlot_saved (s : State) (c k : Nat) (f : Slot → Slot) : (s.modSlot c k f).saved = s.saved := rfl
@[simp] theorem State.modSlot_quads (s : State) (c k : Nat) (f : Slot → Slot) : (s.modSlot c k f).quads = s.quads := rfl
@[simp] theorem State.modSlot_modules (s : State) (c k : Nat) (f : Slot → Slot) : (s.modSlot c k f).modules = s.modules := rfl
@[simp] theorem State.modSlot_net (s : State) (c k : Nat) (f : Slot → Slot) : (s.modSlot c k f).net = s.net := rfl
@[simp] theorem State.modSlot_now (s : State) (c k : Nat) (f : Slot → Slot) : (s.modSlot c k f).now = s.now := rfl
@[simp] theorem State.modSlot_stamp (s : State) (c k : Nat) (f : Slot → Slot) : (s.modSlot c k f).stamp = s.stamp := rfl
@[simp] theorem State.modSlot_free (s : State) (c k : Nat) (f : Slot → Slot) : (s.modSlot c k f).free = s.free := rfl
@[simp] theorem State.modSlot_cur (s : State) (c k : Nat) (f : Slot → Slot) : (s.modSlot c k f).cur = s.cur := rfl
@[simp] theorem State.modSlot_ir (s : State) (c k : Nat) (f : Slot → Slot) : (s.modSlot c k f).ir = s.ir := rfl
@[simp] theorem State.modSlot_args (s : State) (c k : Nat) (f : Slot → Slot) : (s.modSlot c k f).args = s.args := rfl
@[simp] theorem State.modSlot_sched (s : State) (c k : Nat) (f : Slot → Slot) : (s.modSlot c k f).sched = s.sched := rfl
@[simp] theorem State.modSlot_rotor (s : State) (c k : Nat) (f : Slot → Slot) : (s.modSlot c k f).rotor = s.rotor := rfl

/-! ## `State.modRunning` -/

@[simp] theorem State.modRunning_mem (s : State) (f : Slot → Slot) : (s.modRunning f).mem = s.mem := rfl
@[simp] theorem State.modRunning_full (s : State) (f : Slot → Slot) : (s.modRunning f).full = s.full := rfl
@[simp] theorem State.modRunning_bad (s : State) (f : Slot → Slot) : (s.modRunning f).bad = s.bad := rfl
@[simp] theorem State.modRunning_untagged (s : State) (f : Slot → Slot) : (s.modRunning f).untagged = s.untagged := rfl
@[simp] theorem State.modRunning_soft (s : State) (f : Slot → Slot) : (s.modRunning f).soft = s.soft := rfl
@[simp] theorem State.modRunning_dirty (s : State) (f : Slot → Slot) : (s.modRunning f).dirty = s.dirty := rfl
@[simp] theorem State.modRunning_host (s : State) (f : Slot → Slot) : (s.modRunning f).host = s.host := rfl
@[simp] theorem State.modRunning_saved (s : State) (f : Slot → Slot) : (s.modRunning f).saved = s.saved := rfl
@[simp] theorem State.modRunning_quads (s : State) (f : Slot → Slot) : (s.modRunning f).quads = s.quads := rfl
@[simp] theorem State.modRunning_modules (s : State) (f : Slot → Slot) : (s.modRunning f).modules = s.modules := rfl
@[simp] theorem State.modRunning_net (s : State) (f : Slot → Slot) : (s.modRunning f).net = s.net := rfl
@[simp] theorem State.modRunning_now (s : State) (f : Slot → Slot) : (s.modRunning f).now = s.now := rfl
@[simp] theorem State.modRunning_stamp (s : State) (f : Slot → Slot) : (s.modRunning f).stamp = s.stamp := rfl
@[simp] theorem State.modRunning_free (s : State) (f : Slot → Slot) : (s.modRunning f).free = s.free := rfl
@[simp] theorem State.modRunning_cur (s : State) (f : Slot → Slot) : (s.modRunning f).cur = s.cur := rfl
@[simp] theorem State.modRunning_ir (s : State) (f : Slot → Slot) : (s.modRunning f).ir = s.ir := rfl
@[simp] theorem State.modRunning_args (s : State) (f : Slot → Slot) : (s.modRunning f).args = s.args := rfl
@[simp] theorem State.modRunning_sched (s : State) (f : Slot → Slot) : (s.modRunning f).sched = s.sched := rfl
@[simp] theorem State.modRunning_rotor (s : State) (f : Slot → Slot) : (s.modRunning f).rotor = s.rotor := rfl

/-! ## `State.modCtx` -/

@[simp] theorem State.modCtx_mem (s : State) (f : Ctx → Ctx) : (s.modCtx f).mem = s.mem := rfl
@[simp] theorem State.modCtx_full (s : State) (f : Ctx → Ctx) : (s.modCtx f).full = s.full := rfl
@[simp] theorem State.modCtx_bad (s : State) (f : Ctx → Ctx) : (s.modCtx f).bad = s.bad := rfl
@[simp] theorem State.modCtx_untagged (s : State) (f : Ctx → Ctx) : (s.modCtx f).untagged = s.untagged := rfl
@[simp] theorem State.modCtx_soft (s : State) (f : Ctx → Ctx) : (s.modCtx f).soft = s.soft := rfl
@[simp] theorem State.modCtx_dirty (s : State) (f : Ctx → Ctx) : (s.modCtx f).dirty = s.dirty := rfl
@[simp] theorem State.modCtx_host (s : State) (f : Ctx → Ctx) : (s.modCtx f).host = s.host := rfl
@[simp] theorem State.modCtx_saved (s : State) (f : Ctx → Ctx) : (s.modCtx f).saved = s.saved := rfl
@[simp] theorem State.modCtx_quads (s : State) (f : Ctx → Ctx) : (s.modCtx f).quads = s.quads := rfl
@[simp] theorem State.modCtx_modules (s : State) (f : Ctx → Ctx) : (s.modCtx f).modules = s.modules := rfl
@[simp] theorem State.modCtx_net (s : State) (f : Ctx → Ctx) : (s.modCtx f).net = s.net := rfl
@[simp] theorem State.modCtx_now (s : State) (f : Ctx → Ctx) : (s.modCtx f).now = s.now := rfl
@[simp] theorem State.modCtx_stamp (s : State) (f : Ctx → Ctx) : (s.modCtx f).stamp = s.stamp := rfl
@[simp] theorem State.modCtx_free (s : State) (f : Ctx → Ctx) : (s.modCtx f).free = s.free := rfl
@[simp] theorem State.modCtx_cur (s : State) (f : Ctx → Ctx) : (s.modCtx f).cur = s.cur := rfl
@[simp] theorem State.modCtx_ir (s : State) (f : Ctx → Ctx) : (s.modCtx f).ir = s.ir := rfl
@[simp] theorem State.modCtx_args (s : State) (f : Ctx → Ctx) : (s.modCtx f).args = s.args := rfl
@[simp] theorem State.modCtx_sched (s : State) (f : Ctx → Ctx) : (s.modCtx f).sched = s.sched := rfl
@[simp] theorem State.modCtx_rotor (s : State) (f : Ctx → Ctx) : (s.modCtx f).rotor = s.rotor := rfl

/-! ## `State.modSeat` -/

@[simp] theorem State.modSeat_mem (s : State) (c n : Nat) (f : Seat → Seat) : (s.modSeat c n f).mem = s.mem := rfl
@[simp] theorem State.modSeat_full (s : State) (c n : Nat) (f : Seat → Seat) : (s.modSeat c n f).full = s.full := rfl
@[simp] theorem State.modSeat_bad (s : State) (c n : Nat) (f : Seat → Seat) : (s.modSeat c n f).bad = s.bad := rfl
@[simp] theorem State.modSeat_untagged (s : State) (c n : Nat) (f : Seat → Seat) : (s.modSeat c n f).untagged = s.untagged := rfl
@[simp] theorem State.modSeat_soft (s : State) (c n : Nat) (f : Seat → Seat) : (s.modSeat c n f).soft = s.soft := rfl
@[simp] theorem State.modSeat_dirty (s : State) (c n : Nat) (f : Seat → Seat) : (s.modSeat c n f).dirty = s.dirty := rfl
@[simp] theorem State.modSeat_host (s : State) (c n : Nat) (f : Seat → Seat) : (s.modSeat c n f).host = s.host := rfl
@[simp] theorem State.modSeat_saved (s : State) (c n : Nat) (f : Seat → Seat) : (s.modSeat c n f).saved = s.saved := rfl
@[simp] theorem State.modSeat_quads (s : State) (c n : Nat) (f : Seat → Seat) : (s.modSeat c n f).quads = s.quads := rfl
@[simp] theorem State.modSeat_modules (s : State) (c n : Nat) (f : Seat → Seat) : (s.modSeat c n f).modules = s.modules := rfl
@[simp] theorem State.modSeat_net (s : State) (c n : Nat) (f : Seat → Seat) : (s.modSeat c n f).net = s.net := rfl
@[simp] theorem State.modSeat_now (s : State) (c n : Nat) (f : Seat → Seat) : (s.modSeat c n f).now = s.now := rfl
@[simp] theorem State.modSeat_stamp (s : State) (c n : Nat) (f : Seat → Seat) : (s.modSeat c n f).stamp = s.stamp := rfl
@[simp] theorem State.modSeat_free (s : State) (c n : Nat) (f : Seat → Seat) : (s.modSeat c n f).free = s.free := rfl
@[simp] theorem State.modSeat_cur (s : State) (c n : Nat) (f : Seat → Seat) : (s.modSeat c n f).cur = s.cur := rfl
@[simp] theorem State.modSeat_ir (s : State) (c n : Nat) (f : Seat → Seat) : (s.modSeat c n f).ir = s.ir := rfl
@[simp] theorem State.modSeat_args (s : State) (c n : Nat) (f : Seat → Seat) : (s.modSeat c n f).args = s.args := rfl
@[simp] theorem State.modSeat_sched (s : State) (c n : Nat) (f : Seat → Seat) : (s.modSeat c n f).sched = s.sched := rfl
@[simp] theorem State.modSeat_rotor (s : State) (c n : Nat) (f : Seat → Seat) : (s.modSeat c n f).rotor = s.rotor := rfl

/-! ## `State.modQuad` -/

@[simp] theorem State.modQuad_mem (s : State) (q : Nat) (f : Quad → Quad) : (s.modQuad q f).mem = s.mem := rfl
@[simp] theorem State.modQuad_full (s : State) (q : Nat) (f : Quad → Quad) : (s.modQuad q f).full = s.full := rfl
@[simp] theorem State.modQuad_bad (s : State) (q : Nat) (f : Quad → Quad) : (s.modQuad q f).bad = s.bad := rfl
@[simp] theorem State.modQuad_untagged (s : State) (q : Nat) (f : Quad → Quad) : (s.modQuad q f).untagged = s.untagged := rfl
@[simp] theorem State.modQuad_soft (s : State) (q : Nat) (f : Quad → Quad) : (s.modQuad q f).soft = s.soft := rfl
@[simp] theorem State.modQuad_dirty (s : State) (q : Nat) (f : Quad → Quad) : (s.modQuad q f).dirty = s.dirty := rfl
@[simp] theorem State.modQuad_host (s : State) (q : Nat) (f : Quad → Quad) : (s.modQuad q f).host = s.host := rfl
@[simp] theorem State.modQuad_cores (s : State) (q : Nat) (f : Quad → Quad) : (s.modQuad q f).cores = s.cores := rfl
@[simp] theorem State.modQuad_saved (s : State) (q : Nat) (f : Quad → Quad) : (s.modQuad q f).saved = s.saved := rfl
@[simp] theorem State.modQuad_modules (s : State) (q : Nat) (f : Quad → Quad) : (s.modQuad q f).modules = s.modules := rfl
@[simp] theorem State.modQuad_net (s : State) (q : Nat) (f : Quad → Quad) : (s.modQuad q f).net = s.net := rfl
@[simp] theorem State.modQuad_now (s : State) (q : Nat) (f : Quad → Quad) : (s.modQuad q f).now = s.now := rfl
@[simp] theorem State.modQuad_stamp (s : State) (q : Nat) (f : Quad → Quad) : (s.modQuad q f).stamp = s.stamp := rfl
@[simp] theorem State.modQuad_free (s : State) (q : Nat) (f : Quad → Quad) : (s.modQuad q f).free = s.free := rfl
@[simp] theorem State.modQuad_cur (s : State) (q : Nat) (f : Quad → Quad) : (s.modQuad q f).cur = s.cur := rfl
@[simp] theorem State.modQuad_ir (s : State) (q : Nat) (f : Quad → Quad) : (s.modQuad q f).ir = s.ir := rfl
@[simp] theorem State.modQuad_args (s : State) (q : Nat) (f : Quad → Quad) : (s.modQuad q f).args = s.args := rfl
@[simp] theorem State.modQuad_sched (s : State) (q : Nat) (f : Quad → Quad) : (s.modQuad q f).sched = s.sched := rfl
@[simp] theorem State.modQuad_rotor (s : State) (q : Nat) (f : Quad → Quad) : (s.modQuad q f).rotor = s.rotor := rfl

/-! ## `State.modModule` -/

@[simp] theorem State.modModule_mem (s : State) (m : Nat) (f : Module → Module) : (s.modModule m f).mem = s.mem := rfl
@[simp] theorem State.modModule_full (s : State) (m : Nat) (f : Module → Module) : (s.modModule m f).full = s.full := rfl
@[simp] theorem State.modModule_bad (s : State) (m : Nat) (f : Module → Module) : (s.modModule m f).bad = s.bad := rfl
@[simp] theorem State.modModule_untagged (s : State) (m : Nat) (f : Module → Module) : (s.modModule m f).untagged = s.untagged := rfl
@[simp] theorem State.modModule_soft (s : State) (m : Nat) (f : Module → Module) : (s.modModule m f).soft = s.soft := rfl
@[simp] theorem State.modModule_dirty (s : State) (m : Nat) (f : Module → Module) : (s.modModule m f).dirty = s.dirty := rfl
@[simp] theorem State.modModule_host (s : State) (m : Nat) (f : Module → Module) : (s.modModule m f).host = s.host := rfl
@[simp] theorem State.modModule_cores (s : State) (m : Nat) (f : Module → Module) : (s.modModule m f).cores = s.cores := rfl
@[simp] theorem State.modModule_saved (s : State) (m : Nat) (f : Module → Module) : (s.modModule m f).saved = s.saved := rfl
@[simp] theorem State.modModule_quads (s : State) (m : Nat) (f : Module → Module) : (s.modModule m f).quads = s.quads := rfl
@[simp] theorem State.modModule_net (s : State) (m : Nat) (f : Module → Module) : (s.modModule m f).net = s.net := rfl
@[simp] theorem State.modModule_now (s : State) (m : Nat) (f : Module → Module) : (s.modModule m f).now = s.now := rfl
@[simp] theorem State.modModule_stamp (s : State) (m : Nat) (f : Module → Module) : (s.modModule m f).stamp = s.stamp := rfl
@[simp] theorem State.modModule_free (s : State) (m : Nat) (f : Module → Module) : (s.modModule m f).free = s.free := rfl
@[simp] theorem State.modModule_cur (s : State) (m : Nat) (f : Module → Module) : (s.modModule m f).cur = s.cur := rfl
@[simp] theorem State.modModule_ir (s : State) (m : Nat) (f : Module → Module) : (s.modModule m f).ir = s.ir := rfl
@[simp] theorem State.modModule_args (s : State) (m : Nat) (f : Module → Module) : (s.modModule m f).args = s.args := rfl
@[simp] theorem State.modModule_sched (s : State) (m : Nat) (f : Module → Module) : (s.modModule m f).sched = s.sched := rfl
@[simp] theorem State.modModule_rotor (s : State) (m : Nat) (f : Module → Module) : (s.modModule m f).rotor = s.rotor := rfl

/-! ## `State.modPart` -/

@[simp] theorem State.modPart_mem (s : State) (m p : Nat) (f : Part → Part) : (s.modPart m p f).mem = s.mem := rfl
@[simp] theorem State.modPart_full (s : State) (m p : Nat) (f : Part → Part) : (s.modPart m p f).full = s.full := rfl
@[simp] theorem State.modPart_bad (s : State) (m p : Nat) (f : Part → Part) : (s.modPart m p f).bad = s.bad := rfl
@[simp] theorem State.modPart_untagged (s : State) (m p : Nat) (f : Part → Part) : (s.modPart m p f).untagged = s.untagged := rfl
@[simp] theorem State.modPart_soft (s : State) (m p : Nat) (f : Part → Part) : (s.modPart m p f).soft = s.soft := rfl
@[simp] theorem State.modPart_dirty (s : State) (m p : Nat) (f : Part → Part) : (s.modPart m p f).dirty = s.dirty := rfl
@[simp] theorem State.modPart_host (s : State) (m p : Nat) (f : Part → Part) : (s.modPart m p f).host = s.host := rfl
@[simp] theorem State.modPart_cores (s : State) (m p : Nat) (f : Part → Part) : (s.modPart m p f).cores = s.cores := rfl
@[simp] theorem State.modPart_saved (s : State) (m p : Nat) (f : Part → Part) : (s.modPart m p f).saved = s.saved := rfl
@[simp] theorem State.modPart_quads (s : State) (m p : Nat) (f : Part → Part) : (s.modPart m p f).quads = s.quads := rfl
@[simp] theorem State.modPart_net (s : State) (m p : Nat) (f : Part → Part) : (s.modPart m p f).net = s.net := rfl
@[simp] theorem State.modPart_now (s : State) (m p : Nat) (f : Part → Part) : (s.modPart m p f).now = s.now := rfl
@[simp] theorem State.modPart_stamp (s : State) (m p : Nat) (f : Part → Part) : (s.modPart m p f).stamp = s.stamp := rfl
@[simp] theorem State.modPart_free (s : State) (m p : Nat) (f : Part → Part) : (s.modPart m p f).free = s.free := rfl
@[simp] theorem State.modPart_cur (s : State) (m p : Nat) (f : Part → Part) : (s.modPart m p f).cur = s.cur := rfl
@[simp] theorem State.modPart_ir (s : State) (m p : Nat) (f : Part → Part) : (s.modPart m p f).ir = s.ir := rfl
@[simp] theorem State.modPart_args (s : State) (m p : Nat) (f : Part → Part) : (s.modPart m p f).args = s.args := rfl
@[simp] theorem State.modPart_sched (s : State) (m p : Nat) (f : Part → Part) : (s.modPart m p f).sched = s.sched := rfl
@[simp] theorem State.modPart_rotor (s : State) (m p : Nat) (f : Part → Part) : (s.modPart m p f).rotor = s.rotor := rfl

/-! ## `State.modDie` -/

@[simp] theorem State.modDie_mem (s : State) (m d : Nat) (f : Die → Die) : (s.modDie m d f).mem = s.mem := rfl
@[simp] theorem State.modDie_full (s : State) (m d : Nat) (f : Die → Die) : (s.modDie m d f).full = s.full := rfl
@[simp] theorem State.modDie_bad (s : State) (m d : Nat) (f : Die → Die) : (s.modDie m d f).bad = s.bad := rfl
@[simp] theorem State.modDie_untagged (s : State) (m d : Nat) (f : Die → Die) : (s.modDie m d f).untagged = s.untagged := rfl
@[simp] theorem State.modDie_soft (s : State) (m d : Nat) (f : Die → Die) : (s.modDie m d f).soft = s.soft := rfl
@[simp] theorem State.modDie_dirty (s : State) (m d : Nat) (f : Die → Die) : (s.modDie m d f).dirty = s.dirty := rfl
@[simp] theorem State.modDie_host (s : State) (m d : Nat) (f : Die → Die) : (s.modDie m d f).host = s.host := rfl
@[simp] theorem State.modDie_cores (s : State) (m d : Nat) (f : Die → Die) : (s.modDie m d f).cores = s.cores := rfl
@[simp] theorem State.modDie_saved (s : State) (m d : Nat) (f : Die → Die) : (s.modDie m d f).saved = s.saved := rfl
@[simp] theorem State.modDie_quads (s : State) (m d : Nat) (f : Die → Die) : (s.modDie m d f).quads = s.quads := rfl
@[simp] theorem State.modDie_net (s : State) (m d : Nat) (f : Die → Die) : (s.modDie m d f).net = s.net := rfl
@[simp] theorem State.modDie_now (s : State) (m d : Nat) (f : Die → Die) : (s.modDie m d f).now = s.now := rfl
@[simp] theorem State.modDie_stamp (s : State) (m d : Nat) (f : Die → Die) : (s.modDie m d f).stamp = s.stamp := rfl
@[simp] theorem State.modDie_free (s : State) (m d : Nat) (f : Die → Die) : (s.modDie m d f).free = s.free := rfl
@[simp] theorem State.modDie_cur (s : State) (m d : Nat) (f : Die → Die) : (s.modDie m d f).cur = s.cur := rfl
@[simp] theorem State.modDie_ir (s : State) (m d : Nat) (f : Die → Die) : (s.modDie m d f).ir = s.ir := rfl
@[simp] theorem State.modDie_args (s : State) (m d : Nat) (f : Die → Die) : (s.modDie m d f).args = s.args := rfl
@[simp] theorem State.modDie_sched (s : State) (m d : Nat) (f : Die → Die) : (s.modDie m d f).sched = s.sched := rfl
@[simp] theorem State.modDie_rotor (s : State) (m d : Nat) (f : Die → Die) : (s.modDie m d f).rotor = s.rotor := rfl

/-! ## `State.modDistrict` -/

@[simp] theorem State.modDistrict_mem (s : State) (m d : Nat) (f : District → District) : (s.modDistrict m d f).mem = s.mem := rfl
@[simp] theorem State.modDistrict_full (s : State) (m d : Nat) (f : District → District) : (s.modDistrict m d f).full = s.full := rfl
@[simp] theorem State.modDistrict_bad (s : State) (m d : Nat) (f : District → District) : (s.modDistrict m d f).bad = s.bad := rfl
@[simp] theorem State.modDistrict_untagged (s : State) (m d : Nat) (f : District → District) : (s.modDistrict m d f).untagged = s.untagged := rfl
@[simp] theorem State.modDistrict_soft (s : State) (m d : Nat) (f : District → District) : (s.modDistrict m d f).soft = s.soft := rfl
@[simp] theorem State.modDistrict_dirty (s : State) (m d : Nat) (f : District → District) : (s.modDistrict m d f).dirty = s.dirty := rfl
@[simp] theorem State.modDistrict_host (s : State) (m d : Nat) (f : District → District) : (s.modDistrict m d f).host = s.host := rfl
@[simp] theorem State.modDistrict_cores (s : State) (m d : Nat) (f : District → District) : (s.modDistrict m d f).cores = s.cores := rfl
@[simp] theorem State.modDistrict_saved (s : State) (m d : Nat) (f : District → District) : (s.modDistrict m d f).saved = s.saved := rfl
@[simp] theorem State.modDistrict_quads (s : State) (m d : Nat) (f : District → District) : (s.modDistrict m d f).quads = s.quads := rfl
@[simp] theorem State.modDistrict_net (s : State) (m d : Nat) (f : District → District) : (s.modDistrict m d f).net = s.net := rfl
@[simp] theorem State.modDistrict_now (s : State) (m d : Nat) (f : District → District) : (s.modDistrict m d f).now = s.now := rfl
@[simp] theorem State.modDistrict_stamp (s : State) (m d : Nat) (f : District → District) : (s.modDistrict m d f).stamp = s.stamp := rfl
@[simp] theorem State.modDistrict_free (s : State) (m d : Nat) (f : District → District) : (s.modDistrict m d f).free = s.free := rfl
@[simp] theorem State.modDistrict_cur (s : State) (m d : Nat) (f : District → District) : (s.modDistrict m d f).cur = s.cur := rfl
@[simp] theorem State.modDistrict_ir (s : State) (m d : Nat) (f : District → District) : (s.modDistrict m d f).ir = s.ir := rfl
@[simp] theorem State.modDistrict_args (s : State) (m d : Nat) (f : District → District) : (s.modDistrict m d f).args = s.args := rfl
@[simp] theorem State.modDistrict_sched (s : State) (m d : Nat) (f : District → District) : (s.modDistrict m d f).sched = s.sched := rfl
@[simp] theorem State.modDistrict_rotor (s : State) (m d : Nat) (f : District → District) : (s.modDistrict m d f).rotor = s.rotor := rfl

/-! ## `State.modFunc` -/

@[simp] theorem State.modFunc_mem (s : State) (m f : Nat) (g : Func → Func) : (s.modFunc m f g).mem = s.mem := rfl
@[simp] theorem State.modFunc_full (s : State) (m f : Nat) (g : Func → Func) : (s.modFunc m f g).full = s.full := rfl
@[simp] theorem State.modFunc_bad (s : State) (m f : Nat) (g : Func → Func) : (s.modFunc m f g).bad = s.bad := rfl
@[simp] theorem State.modFunc_untagged (s : State) (m f : Nat) (g : Func → Func) : (s.modFunc m f g).untagged = s.untagged := rfl
@[simp] theorem State.modFunc_soft (s : State) (m f : Nat) (g : Func → Func) : (s.modFunc m f g).soft = s.soft := rfl
@[simp] theorem State.modFunc_dirty (s : State) (m f : Nat) (g : Func → Func) : (s.modFunc m f g).dirty = s.dirty := rfl
@[simp] theorem State.modFunc_host (s : State) (m f : Nat) (g : Func → Func) : (s.modFunc m f g).host = s.host := rfl
@[simp] theorem State.modFunc_cores (s : State) (m f : Nat) (g : Func → Func) : (s.modFunc m f g).cores = s.cores := rfl
@[simp] theorem State.modFunc_saved (s : State) (m f : Nat) (g : Func → Func) : (s.modFunc m f g).saved = s.saved := rfl
@[simp] theorem State.modFunc_quads (s : State) (m f : Nat) (g : Func → Func) : (s.modFunc m f g).quads = s.quads := rfl
@[simp] theorem State.modFunc_net (s : State) (m f : Nat) (g : Func → Func) : (s.modFunc m f g).net = s.net := rfl
@[simp] theorem State.modFunc_now (s : State) (m f : Nat) (g : Func → Func) : (s.modFunc m f g).now = s.now := rfl
@[simp] theorem State.modFunc_stamp (s : State) (m f : Nat) (g : Func → Func) : (s.modFunc m f g).stamp = s.stamp := rfl
@[simp] theorem State.modFunc_free (s : State) (m f : Nat) (g : Func → Func) : (s.modFunc m f g).free = s.free := rfl
@[simp] theorem State.modFunc_cur (s : State) (m f : Nat) (g : Func → Func) : (s.modFunc m f g).cur = s.cur := rfl
@[simp] theorem State.modFunc_ir (s : State) (m f : Nat) (g : Func → Func) : (s.modFunc m f g).ir = s.ir := rfl
@[simp] theorem State.modFunc_args (s : State) (m f : Nat) (g : Func → Func) : (s.modFunc m f g).args = s.args := rfl
@[simp] theorem State.modFunc_sched (s : State) (m f : Nat) (g : Func → Func) : (s.modFunc m f g).sched = s.sched := rfl
@[simp] theorem State.modFunc_rotor (s : State) (m f : Nat) (g : Func → Func) : (s.modFunc m f g).rotor = s.rotor := rfl

/-! ## `State.modLink` -/

@[simp] theorem State.modLink_mem (s : State) (m l : Nat) (f : Link → Link) : (s.modLink m l f).mem = s.mem := rfl
@[simp] theorem State.modLink_full (s : State) (m l : Nat) (f : Link → Link) : (s.modLink m l f).full = s.full := rfl
@[simp] theorem State.modLink_bad (s : State) (m l : Nat) (f : Link → Link) : (s.modLink m l f).bad = s.bad := rfl
@[simp] theorem State.modLink_untagged (s : State) (m l : Nat) (f : Link → Link) : (s.modLink m l f).untagged = s.untagged := rfl
@[simp] theorem State.modLink_soft (s : State) (m l : Nat) (f : Link → Link) : (s.modLink m l f).soft = s.soft := rfl
@[simp] theorem State.modLink_dirty (s : State) (m l : Nat) (f : Link → Link) : (s.modLink m l f).dirty = s.dirty := rfl
@[simp] theorem State.modLink_host (s : State) (m l : Nat) (f : Link → Link) : (s.modLink m l f).host = s.host := rfl
@[simp] theorem State.modLink_cores (s : State) (m l : Nat) (f : Link → Link) : (s.modLink m l f).cores = s.cores := rfl
@[simp] theorem State.modLink_saved (s : State) (m l : Nat) (f : Link → Link) : (s.modLink m l f).saved = s.saved := rfl
@[simp] theorem State.modLink_quads (s : State) (m l : Nat) (f : Link → Link) : (s.modLink m l f).quads = s.quads := rfl
@[simp] theorem State.modLink_net (s : State) (m l : Nat) (f : Link → Link) : (s.modLink m l f).net = s.net := rfl
@[simp] theorem State.modLink_now (s : State) (m l : Nat) (f : Link → Link) : (s.modLink m l f).now = s.now := rfl
@[simp] theorem State.modLink_stamp (s : State) (m l : Nat) (f : Link → Link) : (s.modLink m l f).stamp = s.stamp := rfl
@[simp] theorem State.modLink_free (s : State) (m l : Nat) (f : Link → Link) : (s.modLink m l f).free = s.free := rfl
@[simp] theorem State.modLink_cur (s : State) (m l : Nat) (f : Link → Link) : (s.modLink m l f).cur = s.cur := rfl
@[simp] theorem State.modLink_ir (s : State) (m l : Nat) (f : Link → Link) : (s.modLink m l f).ir = s.ir := rfl
@[simp] theorem State.modLink_args (s : State) (m l : Nat) (f : Link → Link) : (s.modLink m l f).args = s.args := rfl
@[simp] theorem State.modLink_sched (s : State) (m l : Nat) (f : Link → Link) : (s.modLink m l f).sched = s.sched := rfl
@[simp] theorem State.modLink_rotor (s : State) (m l : Nat) (f : Link → Link) : (s.modLink m l f).rotor = s.rotor := rfl

/-! ## `State.tick` -/

@[simp] theorem State.tick_mem (s : State) : (s.tick).mem = s.mem := rfl
@[simp] theorem State.tick_full (s : State) : (s.tick).full = s.full := rfl
@[simp] theorem State.tick_bad (s : State) : (s.tick).bad = s.bad := rfl
@[simp] theorem State.tick_untagged (s : State) : (s.tick).untagged = s.untagged := rfl
@[simp] theorem State.tick_soft (s : State) : (s.tick).soft = s.soft := rfl
@[simp] theorem State.tick_dirty (s : State) : (s.tick).dirty = s.dirty := rfl
@[simp] theorem State.tick_host (s : State) : (s.tick).host = s.host := rfl
@[simp] theorem State.tick_cores (s : State) : (s.tick).cores = s.cores := rfl
@[simp] theorem State.tick_saved (s : State) : (s.tick).saved = s.saved := rfl
@[simp] theorem State.tick_quads (s : State) : (s.tick).quads = s.quads := rfl
@[simp] theorem State.tick_modules (s : State) : (s.tick).modules = s.modules := rfl
@[simp] theorem State.tick_net (s : State) : (s.tick).net = s.net := rfl
@[simp] theorem State.tick_now (s : State) : (s.tick).now = s.now := rfl
@[simp] theorem State.tick_stamp (s : State) : (s.tick).stamp = s.stamp := rfl
@[simp] theorem State.tick_cur (s : State) : (s.tick).cur = s.cur := rfl
@[simp] theorem State.tick_ir (s : State) : (s.tick).ir = s.ir := rfl
@[simp] theorem State.tick_args (s : State) : (s.tick).args = s.args := rfl
@[simp] theorem State.tick_sched (s : State) : (s.tick).sched = s.sched := rfl
@[simp] theorem State.tick_rotor (s : State) : (s.tick).rotor = s.rotor := rfl

/-! ## `State.stampUp` -/

@[simp] theorem State.stampUp_mem (s : State) : (s.stampUp).mem = s.mem := rfl
@[simp] theorem State.stampUp_full (s : State) : (s.stampUp).full = s.full := rfl
@[simp] theorem State.stampUp_bad (s : State) : (s.stampUp).bad = s.bad := rfl
@[simp] theorem State.stampUp_untagged (s : State) : (s.stampUp).untagged = s.untagged := rfl
@[simp] theorem State.stampUp_soft (s : State) : (s.stampUp).soft = s.soft := rfl
@[simp] theorem State.stampUp_dirty (s : State) : (s.stampUp).dirty = s.dirty := rfl
@[simp] theorem State.stampUp_host (s : State) : (s.stampUp).host = s.host := rfl
@[simp] theorem State.stampUp_cores (s : State) : (s.stampUp).cores = s.cores := rfl
@[simp] theorem State.stampUp_saved (s : State) : (s.stampUp).saved = s.saved := rfl
@[simp] theorem State.stampUp_quads (s : State) : (s.stampUp).quads = s.quads := rfl
@[simp] theorem State.stampUp_modules (s : State) : (s.stampUp).modules = s.modules := rfl
@[simp] theorem State.stampUp_net (s : State) : (s.stampUp).net = s.net := rfl
@[simp] theorem State.stampUp_now (s : State) : (s.stampUp).now = s.now := rfl
@[simp] theorem State.stampUp_free (s : State) : (s.stampUp).free = s.free := rfl
@[simp] theorem State.stampUp_cur (s : State) : (s.stampUp).cur = s.cur := rfl
@[simp] theorem State.stampUp_ir (s : State) : (s.stampUp).ir = s.ir := rfl
@[simp] theorem State.stampUp_args (s : State) : (s.stampUp).args = s.args := rfl
@[simp] theorem State.stampUp_sched (s : State) : (s.stampUp).sched = s.sched := rfl
@[simp] theorem State.stampUp_rotor (s : State) : (s.stampUp).rotor = s.rotor := rfl

/-! ## `State.putBytes` -/

@[simp] theorem State.putBytes_full (s : State) (a : Nat) (bs : List Byte) : (s.putBytes a bs).full = s.full := rfl
@[simp] theorem State.putBytes_dirty (s : State) (a : Nat) (bs : List Byte) : (s.putBytes a bs).dirty = s.dirty := rfl
@[simp] theorem State.putBytes_host (s : State) (a : Nat) (bs : List Byte) : (s.putBytes a bs).host = s.host := rfl
@[simp] theorem State.putBytes_cores (s : State) (a : Nat) (bs : List Byte) : (s.putBytes a bs).cores = s.cores := rfl
@[simp] theorem State.putBytes_saved (s : State) (a : Nat) (bs : List Byte) : (s.putBytes a bs).saved = s.saved := rfl
@[simp] theorem State.putBytes_quads (s : State) (a : Nat) (bs : List Byte) : (s.putBytes a bs).quads = s.quads := rfl
@[simp] theorem State.putBytes_modules (s : State) (a : Nat) (bs : List Byte) : (s.putBytes a bs).modules = s.modules := rfl
@[simp] theorem State.putBytes_net (s : State) (a : Nat) (bs : List Byte) : (s.putBytes a bs).net = s.net := rfl
@[simp] theorem State.putBytes_now (s : State) (a : Nat) (bs : List Byte) : (s.putBytes a bs).now = s.now := rfl
@[simp] theorem State.putBytes_stamp (s : State) (a : Nat) (bs : List Byte) : (s.putBytes a bs).stamp = s.stamp := rfl
@[simp] theorem State.putBytes_free (s : State) (a : Nat) (bs : List Byte) : (s.putBytes a bs).free = s.free := rfl
@[simp] theorem State.putBytes_cur (s : State) (a : Nat) (bs : List Byte) : (s.putBytes a bs).cur = s.cur := rfl
@[simp] theorem State.putBytes_ir (s : State) (a : Nat) (bs : List Byte) : (s.putBytes a bs).ir = s.ir := rfl
@[simp] theorem State.putBytes_args (s : State) (a : Nat) (bs : List Byte) : (s.putBytes a bs).args = s.args := rfl
@[simp] theorem State.putBytes_sched (s : State) (a : Nat) (bs : List Byte) : (s.putBytes a bs).sched = s.sched := rfl
@[simp] theorem State.putBytes_rotor (s : State) (a : Nat) (bs : List Byte) : (s.putBytes a bs).rotor = s.rotor := rfl

/-! ## `State.setFull` -/

@[simp] theorem State.setFull_mem (s : State) (a n : Nat) (b : Bool) : (s.setFull a n b).mem = s.mem := rfl
@[simp] theorem State.setFull_bad (s : State) (a n : Nat) (b : Bool) : (s.setFull a n b).bad = s.bad := rfl
@[simp] theorem State.setFull_untagged (s : State) (a n : Nat) (b : Bool) : (s.setFull a n b).untagged = s.untagged := rfl
@[simp] theorem State.setFull_soft (s : State) (a n : Nat) (b : Bool) : (s.setFull a n b).soft = s.soft := rfl
@[simp] theorem State.setFull_dirty (s : State) (a n : Nat) (b : Bool) : (s.setFull a n b).dirty = s.dirty := rfl
@[simp] theorem State.setFull_host (s : State) (a n : Nat) (b : Bool) : (s.setFull a n b).host = s.host := rfl
@[simp] theorem State.setFull_cores (s : State) (a n : Nat) (b : Bool) : (s.setFull a n b).cores = s.cores := rfl
@[simp] theorem State.setFull_saved (s : State) (a n : Nat) (b : Bool) : (s.setFull a n b).saved = s.saved := rfl
@[simp] theorem State.setFull_quads (s : State) (a n : Nat) (b : Bool) : (s.setFull a n b).quads = s.quads := rfl
@[simp] theorem State.setFull_modules (s : State) (a n : Nat) (b : Bool) : (s.setFull a n b).modules = s.modules := rfl
@[simp] theorem State.setFull_net (s : State) (a n : Nat) (b : Bool) : (s.setFull a n b).net = s.net := rfl
@[simp] theorem State.setFull_now (s : State) (a n : Nat) (b : Bool) : (s.setFull a n b).now = s.now := rfl
@[simp] theorem State.setFull_stamp (s : State) (a n : Nat) (b : Bool) : (s.setFull a n b).stamp = s.stamp := rfl
@[simp] theorem State.setFull_free (s : State) (a n : Nat) (b : Bool) : (s.setFull a n b).free = s.free := rfl
@[simp] theorem State.setFull_cur (s : State) (a n : Nat) (b : Bool) : (s.setFull a n b).cur = s.cur := rfl
@[simp] theorem State.setFull_ir (s : State) (a n : Nat) (b : Bool) : (s.setFull a n b).ir = s.ir := rfl
@[simp] theorem State.setFull_args (s : State) (a n : Nat) (b : Bool) : (s.setFull a n b).args = s.args := rfl
@[simp] theorem State.setFull_sched (s : State) (a n : Nat) (b : Bool) : (s.setFull a n b).sched = s.sched := rfl
@[simp] theorem State.setFull_rotor (s : State) (a n : Nat) (b : Bool) : (s.setFull a n b).rotor = s.rotor := rfl

/-! ## `State.advanceAt` -/

@[simp] theorem State.advanceAt_mem (s : State) (c k : Nat) : (s.advanceAt c k).mem = s.mem := rfl
@[simp] theorem State.advanceAt_full (s : State) (c k : Nat) : (s.advanceAt c k).full = s.full := rfl
@[simp] theorem State.advanceAt_bad (s : State) (c k : Nat) : (s.advanceAt c k).bad = s.bad := rfl
@[simp] theorem State.advanceAt_untagged (s : State) (c k : Nat) : (s.advanceAt c k).untagged = s.untagged := rfl
@[simp] theorem State.advanceAt_soft (s : State) (c k : Nat) : (s.advanceAt c k).soft = s.soft := rfl
@[simp] theorem State.advanceAt_dirty (s : State) (c k : Nat) : (s.advanceAt c k).dirty = s.dirty := rfl
@[simp] theorem State.advanceAt_host (s : State) (c k : Nat) : (s.advanceAt c k).host = s.host := rfl
@[simp] theorem State.advanceAt_saved (s : State) (c k : Nat) : (s.advanceAt c k).saved = s.saved := rfl
@[simp] theorem State.advanceAt_quads (s : State) (c k : Nat) : (s.advanceAt c k).quads = s.quads := rfl
@[simp] theorem State.advanceAt_modules (s : State) (c k : Nat) : (s.advanceAt c k).modules = s.modules := rfl
@[simp] theorem State.advanceAt_net (s : State) (c k : Nat) : (s.advanceAt c k).net = s.net := rfl
@[simp] theorem State.advanceAt_now (s : State) (c k : Nat) : (s.advanceAt c k).now = s.now := rfl
@[simp] theorem State.advanceAt_stamp (s : State) (c k : Nat) : (s.advanceAt c k).stamp = s.stamp := rfl
@[simp] theorem State.advanceAt_free (s : State) (c k : Nat) : (s.advanceAt c k).free = s.free := rfl
@[simp] theorem State.advanceAt_cur (s : State) (c k : Nat) : (s.advanceAt c k).cur = s.cur := rfl
@[simp] theorem State.advanceAt_ir (s : State) (c k : Nat) : (s.advanceAt c k).ir = s.ir := rfl
@[simp] theorem State.advanceAt_args (s : State) (c k : Nat) : (s.advanceAt c k).args = s.args := rfl
@[simp] theorem State.advanceAt_sched (s : State) (c k : Nat) : (s.advanceAt c k).sched = s.sched := rfl
@[simp] theorem State.advanceAt_rotor (s : State) (c k : Nat) : (s.advanceAt c k).rotor = s.rotor := rfl

/-! ## `State.park` -/

@[simp] theorem State.park_mem (s : State) (p : Park) : (s.park p).mem = s.mem := rfl
@[simp] theorem State.park_full (s : State) (p : Park) : (s.park p).full = s.full := rfl
@[simp] theorem State.park_bad (s : State) (p : Park) : (s.park p).bad = s.bad := rfl
@[simp] theorem State.park_untagged (s : State) (p : Park) : (s.park p).untagged = s.untagged := rfl
@[simp] theorem State.park_soft (s : State) (p : Park) : (s.park p).soft = s.soft := rfl
@[simp] theorem State.park_dirty (s : State) (p : Park) : (s.park p).dirty = s.dirty := rfl
@[simp] theorem State.park_host (s : State) (p : Park) : (s.park p).host = s.host := rfl
@[simp] theorem State.park_saved (s : State) (p : Park) : (s.park p).saved = s.saved := rfl
@[simp] theorem State.park_quads (s : State) (p : Park) : (s.park p).quads = s.quads := rfl
@[simp] theorem State.park_modules (s : State) (p : Park) : (s.park p).modules = s.modules := rfl
@[simp] theorem State.park_net (s : State) (p : Park) : (s.park p).net = s.net := rfl
@[simp] theorem State.park_now (s : State) (p : Park) : (s.park p).now = s.now := rfl
@[simp] theorem State.park_stamp (s : State) (p : Park) : (s.park p).stamp = s.stamp := rfl
@[simp] theorem State.park_free (s : State) (p : Park) : (s.park p).free = s.free := rfl
@[simp] theorem State.park_cur (s : State) (p : Park) : (s.park p).cur = s.cur := rfl
@[simp] theorem State.park_ir (s : State) (p : Park) : (s.park p).ir = s.ir := rfl
@[simp] theorem State.park_args (s : State) (p : Park) : (s.park p).args = s.args := rfl
@[simp] theorem State.park_sched (s : State) (p : Park) : (s.park p).sched = s.sched := rfl
@[simp] theorem State.park_rotor (s : State) (p : Park) : (s.park p).rotor = s.rotor := rfl

/-! ## `State.emptySlot` -/

@[simp] theorem State.emptySlot_mem (s : State) (c k : Nat) : (s.emptySlot c k).mem = s.mem := rfl
@[simp] theorem State.emptySlot_full (s : State) (c k : Nat) : (s.emptySlot c k).full = s.full := rfl
@[simp] theorem State.emptySlot_bad (s : State) (c k : Nat) : (s.emptySlot c k).bad = s.bad := rfl
@[simp] theorem State.emptySlot_untagged (s : State) (c k : Nat) : (s.emptySlot c k).untagged = s.untagged := rfl
@[simp] theorem State.emptySlot_soft (s : State) (c k : Nat) : (s.emptySlot c k).soft = s.soft := rfl
@[simp] theorem State.emptySlot_dirty (s : State) (c k : Nat) : (s.emptySlot c k).dirty = s.dirty := rfl
@[simp] theorem State.emptySlot_host (s : State) (c k : Nat) : (s.emptySlot c k).host = s.host := rfl
@[simp] theorem State.emptySlot_saved (s : State) (c k : Nat) : (s.emptySlot c k).saved = s.saved := rfl
@[simp] theorem State.emptySlot_quads (s : State) (c k : Nat) : (s.emptySlot c k).quads = s.quads := rfl
@[simp] theorem State.emptySlot_modules (s : State) (c k : Nat) : (s.emptySlot c k).modules = s.modules := rfl
@[simp] theorem State.emptySlot_net (s : State) (c k : Nat) : (s.emptySlot c k).net = s.net := rfl
@[simp] theorem State.emptySlot_now (s : State) (c k : Nat) : (s.emptySlot c k).now = s.now := rfl
@[simp] theorem State.emptySlot_stamp (s : State) (c k : Nat) : (s.emptySlot c k).stamp = s.stamp := rfl
@[simp] theorem State.emptySlot_free (s : State) (c k : Nat) : (s.emptySlot c k).free = s.free := rfl
@[simp] theorem State.emptySlot_cur (s : State) (c k : Nat) : (s.emptySlot c k).cur = s.cur := rfl
@[simp] theorem State.emptySlot_ir (s : State) (c k : Nat) : (s.emptySlot c k).ir = s.ir := rfl
@[simp] theorem State.emptySlot_args (s : State) (c k : Nat) : (s.emptySlot c k).args = s.args := rfl
@[simp] theorem State.emptySlot_sched (s : State) (c k : Nat) : (s.emptySlot c k).sched = s.sched := rfl
@[simp] theorem State.emptySlot_rotor (s : State) (c k : Nat) : (s.emptySlot c k).rotor = s.rotor := rfl

/-! ## `State.newThread` -/

@[simp] theorem State.newThread_mem (s : State) (c k : Nat) (t : Thread) : (s.newThread c k t).mem = s.mem := rfl
@[simp] theorem State.newThread_full (s : State) (c k : Nat) (t : Thread) : (s.newThread c k t).full = s.full := rfl
@[simp] theorem State.newThread_bad (s : State) (c k : Nat) (t : Thread) : (s.newThread c k t).bad = s.bad := rfl
@[simp] theorem State.newThread_untagged (s : State) (c k : Nat) (t : Thread) : (s.newThread c k t).untagged = s.untagged := rfl
@[simp] theorem State.newThread_soft (s : State) (c k : Nat) (t : Thread) : (s.newThread c k t).soft = s.soft := rfl
@[simp] theorem State.newThread_dirty (s : State) (c k : Nat) (t : Thread) : (s.newThread c k t).dirty = s.dirty := rfl
@[simp] theorem State.newThread_host (s : State) (c k : Nat) (t : Thread) : (s.newThread c k t).host = s.host := rfl
@[simp] theorem State.newThread_saved (s : State) (c k : Nat) (t : Thread) : (s.newThread c k t).saved = s.saved := rfl
@[simp] theorem State.newThread_quads (s : State) (c k : Nat) (t : Thread) : (s.newThread c k t).quads = s.quads := rfl
@[simp] theorem State.newThread_modules (s : State) (c k : Nat) (t : Thread) : (s.newThread c k t).modules = s.modules := rfl
@[simp] theorem State.newThread_net (s : State) (c k : Nat) (t : Thread) : (s.newThread c k t).net = s.net := rfl
@[simp] theorem State.newThread_now (s : State) (c k : Nat) (t : Thread) : (s.newThread c k t).now = s.now := rfl
@[simp] theorem State.newThread_stamp (s : State) (c k : Nat) (t : Thread) : (s.newThread c k t).stamp = s.stamp := rfl
@[simp] theorem State.newThread_free (s : State) (c k : Nat) (t : Thread) : (s.newThread c k t).free = s.free := rfl
@[simp] theorem State.newThread_cur (s : State) (c k : Nat) (t : Thread) : (s.newThread c k t).cur = s.cur := rfl
@[simp] theorem State.newThread_ir (s : State) (c k : Nat) (t : Thread) : (s.newThread c k t).ir = s.ir := rfl
@[simp] theorem State.newThread_args (s : State) (c k : Nat) (t : Thread) : (s.newThread c k t).args = s.args := rfl
@[simp] theorem State.newThread_sched (s : State) (c k : Nat) (t : Thread) : (s.newThread c k t).sched = s.sched := rfl
@[simp] theorem State.newThread_rotor (s : State) (c k : Nat) (t : Thread) : (s.newThread c k t).rotor = s.rotor := rfl

/-! ## Cores and slots after an update -/

@[simp] theorem State.core_modCore (s : State) (c : Nat) (f : Core → Core) : (s.modCore c f).core c = f (s.core c) := by
  simp only [State.core, State.modCore, Tbl.get_set, Option.getD_some]

theorem State.core_modCore_ne (s : State) {c d : Nat} (f : Core → Core) (h : d ≠ c) : (s.modCore c f).core d = s.core d := by
  simp only [State.core, State.modCore, Tbl.get_set_ne _ _ h]

@[simp] theorem State.modCore_modCore (s : State) (c : Nat) (f g : Core → Core) :
    (s.modCore c f).modCore c g = s.modCore c (fun o => g (f o)) := by
  have h := State.core_modCore s c f
  simp only [State.modCore] at h ⊢
  rw [h, Tbl.set_set]

/-- Cores are read from `cores` alone. -/
theorem State.core_congr {s r : State} (h : r.cores = s.cores) (c : Nat) : r.core c = s.core c := by
  simp only [State.core, h]

theorem State.slot_congr {s r : State} (h : r.cores = s.cores) (c k : Nat) : r.slot c k = s.slot c k := by
  simp only [State.slot, State.core_congr h]

@[simp] theorem Core.slot_putSlot (o : Core) (k : Nat) (l : Slot) : (o.putSlot k l).slot k = l := by
  simp only [Core.slot, Core.putSlot, Tbl.get_set, Option.getD_some]

theorem Core.slot_putSlot_ne (o : Core) {k j : Nat} (l : Slot) (h : j ≠ k) : (o.putSlot k l).slot j = o.slot j := by
  simp only [Core.slot, Core.putSlot, Tbl.get_set_ne _ _ h]

@[simp] theorem Core.putSlot_putSlot (o : Core) (k : Nat) (l m : Slot) : (o.putSlot k l).putSlot k m = o.putSlot k m := by
  simp only [Core.putSlot, Tbl.set_set]

@[simp] theorem State.slot_modSlot (s : State) (c k : Nat) (f : Slot → Slot) : (s.modSlot c k f).slot c k = f (s.slot c k) := by
  simp only [State.slot, State.modSlot, State.core_modCore, Core.slot_putSlot]

theorem State.slot_modSlot_ne (s : State) {c k d j : Nat} (f : Slot → Slot) (h : d ≠ c ∨ j ≠ k) :
    (s.modSlot c k f).slot d j = s.slot d j := by
  by_cases hd : d = c
  · subst hd
    have hj : j ≠ k := h.resolve_left (fun n => n rfl)
    simp only [State.slot, State.modSlot, State.core_modCore, Core.slot_putSlot_ne _ _ hj]
  · simp only [State.slot, State.modSlot, State.core_modCore_ne s _ hd]

@[simp] theorem State.modSlot_modSlot (s : State) (c k : Nat) (f g : Slot → Slot) :
    (s.modSlot c k f).modSlot c k g = s.modSlot c k (fun l => g (f l)) := by
  simp only [State.modSlot, State.modCore_modCore, Core.slot_putSlot, Core.putSlot_putSlot]

/-- Updates that agree on the core, or the slot, as it stands are one update. -/
theorem State.modCore_congr (s : State) (c : Nat) {f g : Core → Core} (h : f (s.core c) = g (s.core c)) :
    s.modCore c f = s.modCore c g := by
  simp only [State.modCore, h]

theorem State.modSlot_congr (s : State) (c k : Nat) {f g : Slot → Slot} (h : f (s.slot c k) = g (s.slot c k)) :
    s.modSlot c k f = s.modSlot c k g :=
  State.modCore_congr s c (congrArg ((s.core c).putSlot k) h)

@[simp] theorem State.running_modRunning (s : State) (f : Slot → Slot) : (s.modRunning f).running = f s.running :=
  State.slot_modSlot s s.cur.1 s.cur.2 f

@[simp] theorem State.modRunning_modRunning (s : State) (f g : Slot → Slot) :
    (s.modRunning f).modRunning g = s.modRunning (fun l => g (f l)) :=
  State.modSlot_modSlot s s.cur.1 s.cur.2 f g

theorem State.modRunning_congr (s : State) {f g : Slot → Slot} (h : f s.running = g s.running) :
    s.modRunning f = s.modRunning g :=
  State.modSlot_congr s s.cur.1 s.cur.2 h

@[simp] theorem State.here_modRunning (s : State) (f : Slot → Slot) : (s.modRunning f).here = s.here := rfl
@[simp] theorem State.slotNo_modRunning (s : State) (f : Slot → Slot) : (s.modRunning f).slotNo = s.slotNo := rfl

/-- An update of a slot leaves the parts of its core that are no slots. -/
theorem State.core_modSlot (s : State) (c k : Nat) (f : Slot → Slot) :
    (s.modSlot c k f).core c = (s.core c).putSlot k (f (s.slot c k)) :=
  State.core_modCore s c _

end Sys2Proof.Machine
end

