-- ==== Sys2Proof/Laws/Ops.lean ====
section
/-! SUPPORT. What the shared operations can do: operands, the gate of every meaning, completion and results. -/
namespace Sys2Proof.Machine

/-! ## General-register operands -/

theorem plain_cons (f : Reg) (l : List Reg) : plain (f :: l) = (!isStream f && plain l) := rfl

theorem plain_append (l m : List Reg) : plain (l ++ m) = (plain l && plain m) := by simp [plain]

theorem plain_mem {l : List Reg} (h : plain l = true) {f : Reg} (hf : f ∈ l) : isStream f = false := by
  simpa using List.all_eq_true.mp h f hf

/-- A list of general registers names neither stream. -/
theorem plain_contains {l : List Reg} (h : plain l = true) {f : Reg} (hf : isStream f = true) : l.contains f = false := by
  cases hc : l.contains f with
  | false => rfl
  | true => rw [plain_mem h (by simpa using hc)] at hf; cases hf

/-- General-register operands are always ready. -/
theorem operandsReady_plain (o : Core) (tid : BitVec 32) {srcs dsts : List Reg} (hs : plain srcs = true) (hd : plain dsts = true) :
    operandsReady o tid srcs dsts = .yes := by
  have h1 : srcs.map (sourceReady o tid) = srcs.map (fun _ => Ready.yes) :=
    List.map_congr_left (fun f hf => by simp [sourceReady, plain_mem hs hf])
  have h2 : dsts.map (destReady o tid) = dsts.map (fun _ => Ready.yes) :=
    List.map_congr_left (fun f hf => by simp [destReady, plain_mem hd hf])
  simp [operandsReady, h1, h2]

/-! ## The gate -/

/-- Every case of the gate. -/
theorem State.gate_cases (s : State) (srcs dsts : List Reg) (body : Thread → State) :
    (s.running.thread = none ∧ s.gate srcs dsts body = .fault .noThread) ∨
    (∃ t, s.Runs t ∧ operandsReady (s.core s.cur.1) t.tid srcs dsts = .unbound ∧
      s.gate srcs dsts body = .next (s.trapWord 12)) ∨
    (∃ t, s.Runs t ∧ operandsReady (s.core s.cur.1) t.tid srcs dsts = .wait ∧ s.gate srcs dsts body = .next (s.again 3)) ∨
    (∃ t, s.Runs t ∧ operandsReady (s.core s.cur.1) t.tid srcs dsts = .yes ∧ s.gate srcs dsts body = .next (body t)) := by
  unfold State.gate State.Runs
  cases h : s.running.thread with
  | none => exact .inl ⟨rfl, rfl⟩
  | some t =>
    refine .inr ?_
    cases hr : operandsReady (s.core s.cur.1) t.tid srcs dsts with
    | unbound => exact .inl ⟨t, rfl, hr, by simp [hr]⟩
    | wait => exact .inr (.inl ⟨t, rfl, hr, by simp [hr]⟩)
    | yes => exact .inr (.inr ⟨t, rfl, hr, by simp [hr]⟩)

theorem State.gate_ready {s : State} {t : Thread} (h : s.Runs t) {srcs dsts : List Reg} {body : Thread → State}
    (hr : operandsReady (s.core s.cur.1) t.tid srcs dsts = .yes) : s.gate srcs dsts body = .next (body t) := by
  unfold State.gate; rw [show s.running.thread = some t from h]; simp [hr]

theorem State.gate_wait {s : State} {t : Thread} (h : s.Runs t) {srcs dsts : List Reg} {body : Thread → State}
    (hr : operandsReady (s.core s.cur.1) t.tid srcs dsts = .wait) : s.gate srcs dsts body = .next (s.again 3) := by
  unfold State.gate; rw [show s.running.thread = some t from h]; simp [hr]

theorem State.gate_unbound {s : State} {t : Thread} (h : s.Runs t) {srcs dsts : List Reg} {body : Thread → State}
    (hr : operandsReady (s.core s.cur.1) t.tid srcs dsts = .unbound) : s.gate srcs dsts body = .next (s.trapWord 12) := by
  unfold State.gate; rw [show s.running.thread = some t from h]; simp [hr]

/-- A word whose privilege the thread has reaches the gate. -/
theorem State.gateFor_allowed {s : State} {t : Thread} (h : s.Runs t) {needs : Bool} (hp : needs = true → t.ctx.status.sup = true)
    (srcs dsts : List Reg) (body : Thread → State) : s.gateFor needs srcs dsts body = s.gate srcs dsts body := by
  unfold State.gateFor
  rw [show s.running.thread = some t from h]
  cases needs with
  | false => rfl
  | true => simp [hp rfl]

/-- A word whose privilege the thread lacks traps with cause 2, whatever its operands. -/
theorem State.gateFor_denied {s : State} {t : Thread} (h : s.Runs t) (hu : t.ctx.status.sup = false)
    (srcs dsts : List Reg) (body : Thread → State) : s.gateFor true srcs dsts body = .next (s.trapWord 2) := by
  unfold State.gateFor
  rw [show s.running.thread = some t from h]
  simp [hu]

/-- With general-register operands the body runs. -/
theorem State.gate_plain {s : State} {t : Thread} (h : s.Runs t) {srcs dsts : List Reg} (hs : plain srcs = true)
    (hd : plain dsts = true) (body : Thread → State) : s.gate srcs dsts body = .next (body t) :=
  State.gate_ready h (operandsReady_plain _ _ hs hd)

/-! ## Reading and completing -/

theorem State.X_plain {s : State} {t : Thread} (h : s.Runs t) {f : Reg} (hf : isStream f = false) : s.X f = t.ctx.get f := by
  have h' : (s.slot s.cur.1 s.cur.2).thread = some t := h
  simp [State.X, State.regAt, h', hf]

theorem State.P_of_runs {s : State} {t : Thread} (h : s.Runs t) (k : Pred) : s.P k = t.ctx.pred k := by
  simp [State.P, show s.running.thread = some t from h]

theorem State.ip_of_runs {s : State} {t : Thread} (h : s.Runs t) : s.ip = t.ctx.ip := by
  simp [State.ip, show s.running.thread = some t from h]

/-- Nothing is taken for general registers. -/
theorem State.takeFor_plain (s : State) (c : Nat) (tid : BitVec 32) {l : List Reg} (h : plain l = true) : s.takeFor c tid l = s := by
  have h1 : l.contains (11 : Reg) = false := plain_contains h rfl
  have h2 : l.contains (12 : Reg) = false := plain_contains h rfl
  simp only [State.takeFor, List.foldl, h1, h2, Bool.false_eq_true, if_false]

theorem State.takeAt_plain (s : State) (c k : Nat) {l : List Reg} (h : plain l = true) : s.takeAt c k l = s := by
  unfold State.takeAt
  cases (s.slot c k).thread with
  | none => rfl
  | some t => exact State.takeFor_plain s c t.tid h

theorem State.runs_modRunning (s : State) {f : Slot → Slot} {t : Thread} (h : (f s.running).thread = some t) :
    (s.modRunning f).Runs t := by
  unfold State.Runs; rw [State.running_modRunning]; exact h

theorem State.modCtx_eq {s : State} {t : Thread} (h : s.Runs t) (f : Ctx → Ctx) :
    s.modCtx f = s.modRunning (fun l => { l with thread := some { t with ctx := f t.ctx } }) :=
  State.modRunning_congr s (by simp [show s.running.thread = some t from h])

theorem State.runs_modCtx {s : State} {t : Thread} (h : s.Runs t) (f : Ctx → Ctx) :
    (s.modCtx f).Runs { t with ctx := f t.ctx } := by
  rw [State.modCtx_eq h]; exact State.runs_modRunning s rfl

/-- A general register written. -/
theorem State.setX_plain {s : State} {t : Thread} (h : s.Runs t) {d : Reg} (hd : isStream d = false) (v : Word) :
    s.setX d v = s.modCtx (fun x => x.put d v) := by
  have h' : (s.slot s.cur.1 s.cur.2).thread = some t := h
  rw [State.modCtx_eq h]
  simp [State.setX, State.setRegAt, h', hd, State.modRunning]

theorem State.advanceAt_eq {s : State} {t : Thread} (h : s.Runs t) :
    s.advanceAt s.cur.1 s.cur.2 = s.went t t.ctx.past :=
  State.modRunning_congr s (f := fun l =>
    { l with park := none, thread := l.thread.map (fun t => { t with ctx := { t.ctx with ip := t.ctx.ip + 4 } }) })
    (by simp [show s.running.thread = some t from h, Ctx.past])

/-- The running instruction completes without a stream operand: ip moves on, and nothing else changes. -/
theorem State.complete_plain {s : State} {t : Thread} (h : s.Runs t) {l : List Reg} (hl : plain l = true) :
    s.complete l = s.went t t.ctx.past := by
  rw [State.complete, State.takeAt_plain _ _ _ hl, State.advanceAt_eq h]

theorem State.went_modCtx {s : State} {t : Thread} (h : s.Runs t) (f : Ctx → Ctx) (x : Ctx) :
    (s.modCtx f).went { t with ctx := f t.ctx } x = s.went t x := by
  rw [State.modCtx_eq h, State.went, State.modRunning_modRunning]; rfl

/-- A context changed, then completion. -/
theorem State.modCtx_complete {s : State} {t : Thread} (h : s.Runs t) (f : Ctx → Ctx) {l : List Reg} (hl : plain l = true) :
    (s.modCtx f).complete l = s.went t (f t.ctx).past := by
  rw [State.complete_plain (State.runs_modCtx h f) hl, State.went_modCtx h]

/-- A result in a general register: the register, ip, and nothing else. -/
theorem State.result_plain {s : State} {t : Thread} (h : s.Runs t) {l : List Reg} (hl : plain l = true) {d : Reg}
    (hd : isStream d = false) (v : Word) : s.result l d v = s.went t (t.ctx.put d v).past := by
  rw [State.result, State.takeAt_plain _ _ _ hl, State.setX_plain h hd]
  exact (State.advanceAt_eq (State.runs_modCtx h _)).trans (State.went_modCtx h _ _)

theorem State.runs_went (s : State) (t : Thread) (x : Ctx) : (s.went t x).Runs { t with ctx := x } := State.runs_modRunning s rfl

theorem State.went_went (s : State) (t : Thread) (x y : Ctx) : (s.went t x).went { t with ctx := x } y = s.went t y := by
  unfold State.went; rw [State.modRunning_modRunning]

/-- A change of the context after completion is a change of what completion leaves. -/
theorem State.modCtx_went (s : State) (t : Thread) (x : Ctx) (f : Ctx → Ctx) : (s.went t x).modCtx f = s.went t (f x) := by
  rw [State.modCtx_eq (State.runs_went s t x)]
  unfold State.went; rw [State.modRunning_modRunning]

end Sys2Proof.Machine
end

