-- ==== Sys2Proof/Laws/Scalar.lean ====
section
/-! SUPPORT. What the shapes of register instructions do with general-register operands, and their functions in other words. -/
namespace Sys2Proof.Machine

variable {s : State} {t : Thread}

/-! ## Shapes -/

theorem plain1 {a : Reg} : plain [a] = true ↔ isStream a = false := by simp [plain]

theorem plain2 {a b : Reg} : plain [a, b] = true ↔ isStream a = false ∧ isStream b = false := by simp [plain]

theorem plain3 {a b c : Reg} : plain [a, b, c] = true ↔ isStream a = false ∧ isStream b = false ∧ isStream c = false := by
  simp [plain]

theorem State.binary_plain (h : s.Runs t) {d a b : Reg} (hp : plain [d, a, b] = true) (f : Word → Word → Word) :
    s.binary d a b f = .next (s.went t (t.ctx.put d (f (t.ctx.get a) (t.ctx.get b))).past) := by
  obtain ⟨hd, ha, hb⟩ := plain3.mp hp
  rw [State.binary, State.gate_plain h (plain2.mpr ⟨ha, hb⟩) (plain1.mpr hd), State.result_plain h (plain2.mpr ⟨ha, hb⟩) hd,
    State.X_plain h ha, State.X_plain h hb]

theorem State.unary_plain (h : s.Runs t) {d a : Reg} (hp : plain [d, a] = true) (f : Word → Word) :
    s.unary d a f = .next (s.went t (t.ctx.put d (f (t.ctx.get a))).past) := by
  obtain ⟨hd, ha⟩ := plain2.mp hp
  rw [State.unary, State.gate_plain h (plain1.mpr ha) (plain1.mpr hd), State.result_plain h (plain1.mpr ha) hd, State.X_plain h ha]

theorem State.slow_plain (h : s.Runs t) (n : Nat) {d a b : Reg} (hp : plain [d, a, b] = true) (f : Word → Word → Word) :
    s.slow n d a b f =
      .next ((s.went t (t.ctx.put d (f (t.ctx.get a) (t.ctx.get b))).past).modRunning (fun l => { l with busy := n - 1 })) := by
  obtain ⟨hd, ha, hb⟩ := plain3.mp hp
  rw [State.slow, State.gate_plain h (plain2.mpr ⟨ha, hb⟩) (plain1.mpr hd), State.result_plain h (plain2.mpr ⟨ha, hb⟩) hd,
    State.X_plain h ha, State.X_plain h hb]
  rfl

theorem State.compare_plain (h : s.Runs t) (p : Pred) {a b : Reg} (hp : plain [a, b] = true) (f : Word → Word → Bool) :
    s.compare p a b f = .next (s.went t (t.ctx.setPred p (f (t.ctx.get a) (t.ctx.get b))).past) := by
  obtain ⟨ha, hb⟩ := plain2.mp hp
  rw [State.compare, State.gate_plain h hp rfl, State.modCtx_complete h _ hp, State.X_plain h ha, State.X_plain h hb]

theorem State.predicate_eq (h : s.Runs t) (p : Pred) (v : Bool) :
    s.predicate p v = .next (s.went t (t.ctx.setPred p v).past) := by
  rw [State.predicate, State.gate_plain h rfl rfl, State.modCtx_complete h _ rfl]

end Sys2Proof.Machine
end

