-- ==== Sys2Proof/Laws/Access.lean ====
section
/-! SUPPORT. Accesses to the private portion of local memory: the key of a byte, its path, and what each kind of access does there. -/
namespace Sys2Proof.Machine

/-! ## Keys of local bytes -/

/-- The number of a core below its die, and the offset, have their places in the key of a local byte. -/
theorem localKey_compute {c off : Nat} (hc : isHead c = false) :
    localKey c off = moduleOf c * 2 ^ 44 + 2 * 2 ^ 42 + dieOf c * 2 ^ 36 + quadField c * 2 ^ 25 + coreInQuad c * 2 ^ 16 + off := by
  rw [localKey, if_neg (by simp [hc])]

theorem localKey_head {c off : Nat} (hc : isHead c = true) :
    localKey c off = 2 ^ 52 + (moduleOf c * 16 + dieOf c * 2 + c % 2) * 2 ^ 20 + off := by
  rw [localKey, if_pos hc]

/-- Where a local byte's key leads: its core, its offset, and no other kind of memory. -/
structure LocalKey (c off k : Nat) : Prop where
  below : k < 2 ^ 53
  isLocal : isLocalKey k = true
  notBulk : isBulkKey k = false
  core : coreOfKey k = c
  offset : localOff k = off

theorem quad_digits {m d q : Nat} (h : q < 2048) : (m * 524288 + 262144 + d * 2048 + q) % 2048 = q := by omega

theorem core_digits {m d q i : Nat} (h : i < 4) : (m * 268435456 + 134217728 + d * 1048576 + q * 512 + i) % 4 = i := by omega

theorem localKey_spec {c off : Nat} (ha : activeCore c = true) (ho : off < if isHead c then 2 ^ 20 else 2 ^ 16) :
    LocalKey c off (localKey c off) := by
  cases hc : isHead c with
  | false =>
    rw [hc] at ho
    simp only [Bool.false_eq_true, if_false] at ho
    rw [localKey_compute hc]
    simp only [isHead, decide_eq_false_iff_not, Nat.not_le] at hc
    have hm : moduleOf c < 256 := Nat.mod_lt _ (by decide)
    have hd : dieOf c < 8 := Nat.mod_lt _ (by decide)
    have hq : quadField c < 2048 := Nat.mod_lt _ (by decide)
    have hi : coreInQuad c < 4 := Nat.mod_lt _ (by decide)
    have hcore : moduleOf c * 2 ^ 16 + dieOf c * 2 ^ 13 + quadField c * 4 + coreInQuad c = c := by
      simp only [moduleOf, dieOf, quadField, coreInQuad]; omega
    generalize moduleOf c = m at *
    generalize dieOf c = d at *
    generalize quadField c = q at *
    generalize coreInQuad c = i at *
    generalize hk : m * 2 ^ 44 + 2 * 2 ^ 42 + d * 2 ^ 36 + q * 2 ^ 25 + i * 2 ^ 16 + off = k
    have hlt : k < 2 ^ 52 := by omega
    have h42 : k / 2 ^ 42 = m * 4 + 2 := by omega
    have h44 : k / 2 ^ 44 = m := by omega
    have h36 : k / 2 ^ 36 = m * 256 + 128 + d := by omega
    have h25 : k / 2 ^ 25 = m * 524288 + 262144 + d * 2048 + q := by omega
    have h16 : k / 2 ^ 16 = m * 268435456 + 134217728 + d * 1048576 + q * 512 + i := by omega
    have hs : spaceOf k = 2 := by rw [spaceOf, h42]; omega
    refine ⟨by omega, ?_, ?_, ?_, ?_⟩
    · rw [isLocalKey, hs, decide_eq_true hlt]; simp
    · rw [isBulkKey, hs]; simp
    · rw [coreOfKey, if_neg (by omega), if_pos hs]
      have e1 : m % 256 = m := Nat.mod_eq_of_lt hm
      have e2 : (m * 256 + 128 + d) % 8 = d := by omega
      have e3 : (m * 524288 + 262144 + d * 2048 + q) % 2 ^ 11 = q := quad_digits hq
      have e4 : (m * 268435456 + 134217728 + d * 1048576 + q * 512 + i) % 4 = i := core_digits hi
      rw [coreOfQuad, quadOfPa, h44, h36, h25, h16, e1, e2, e3, e4]; omega
    · rw [localOff, if_neg (by omega)]; omega
  | true =>
    rw [hc] at ho
    simp only [if_true] at ho
    rw [localKey_head hc]
    have h2 : c < 2 ^ 25 ∧ c % 2 ^ 13 < 2 := by simpa [activeCore, hc] using ha
    simp only [isHead, decide_eq_true_eq] at hc
    have hm : moduleOf c < 256 := Nat.mod_lt _ (by decide)
    have hd : dieOf c < 8 := Nat.mod_lt _ (by decide)
    have hi : c % 2 < 2 := Nat.mod_lt _ (by decide)
    have hlow : c % 2 ^ 13 = c % 2 := by omega
    have hcore : 2 ^ 24 + moduleOf c * 2 ^ 16 + dieOf c * 2 ^ 13 + c % 2 = c := by
      rw [← hlow]; simp only [moduleOf, dieOf]; omega
    clear hlow h2 ha
    generalize moduleOf c = m at *
    generalize dieOf c = d at *
    generalize c % 2 = i at *
    generalize hk : 2 ^ 52 + (m * 16 + d * 2 + i) * 2 ^ 20 + off = k
    have h52 : k % 2 ^ 52 = (m * 16 + d * 2 + i) * 2 ^ 20 + off := by omega
    have h24 : k % 2 ^ 52 / 2 ^ 24 = m := by omega
    have h21 : k % 2 ^ 52 / 2 ^ 21 = m * 8 + d := by omega
    have h20 : k % 2 ^ 52 / 2 ^ 20 = m * 16 + d * 2 + i := by omega
    refine ⟨by omega, ?_, ?_, ?_, ?_⟩
    · have h1 : 2 ^ 52 ≤ k := by omega
      have h3 : k < 2 ^ 53 := by omega
      rw [isLocalKey, decide_eq_true h1, decide_eq_true h3]; rfl
    · have h1 : ¬ k < 2 ^ 52 := by omega
      rw [isBulkKey, decide_eq_false h1]; rfl
    · rw [coreOfKey, if_pos (by omega)]
      have e1 : m % 256 = m := Nat.mod_eq_of_lt hm
      have e2 : (m * 8 + d) % 8 = d := by omega
      have e3 : (m * 16 + d * 2 + i) % 2 = i := by omega
      rw [headId, h24, h21, h20, e1, e2, e3]; omega
    · rw [localOff, if_pos (by omega)]; omega

theorem State.privSize_le (s : State) (c : Nat) : s.privSize c ≤ if isHead c then 2 ^ 20 else 0xC000 := by
  unfold State.privSize
  cases h : isHead c
  · rw [if_neg (by decide), if_neg (by decide)]; omega
  · exact Nat.le_of_eq rfl

/-! ## Checks and paths in the private portion -/

section
variable {s : State} {t : Thread}

theorem State.refusal_unbounded {c : Nat} (h : t.bounded c = false) (off n : Nat) : s.refusal c t off n = none := by
  rw [State.refusal, h]; rfl

theorem State.herePlace_private {c va n : Nat} {k : AccKind} (h : t.bounded c = false) (hv : va + n ≤ s.privSize c) :
    s.herePlace c t va n k = .priv (localKey c va) := by
  rw [State.herePlace, if_neg (Nat.not_lt.mpr hv), State.refusal_unbounded h, ite_self]

theorem State.place_private {c va n : Nat} {m : Option Meet} {k : AccKind} (h : t.bounded c = false) (hn : 0 < n)
    (hv : va + n ≤ s.privSize c) : s.place c t m va n k = (s, .priv (localKey c va)) := by
  have hp := s.privSize_le c
  unfold State.place
  cases hc : isHead c with
  | true =>
    rw [hc, if_pos rfl] at hp
    rw [if_neg (by omega), if_pos (by simp only [Bool.true_and, decide_eq_true_eq]; omega), State.herePlace_private h hv]
  | false =>
    rw [hc, if_neg (by decide)] at hp
    rw [if_neg (by omega), if_neg (by simp), if_pos (by simp only [Bool.not_false, Bool.true_and, decide_eq_true_eq]; omega),
      State.herePlace_private h hv]

theorem localKey_private {c off : Nat} (ha : activeCore c = true) (ho : off < s.privSize c) : LocalKey c off (localKey c off) :=
  localKey_spec ha (by have := s.privSize_le c; split at this <;> rename_i hc <;> simp only [hc] <;> simp only [if_true, if_false, Bool.false_eq_true] <;> omega)

theorem State.pathOf_private {c off : Nat} (ha : activeCore c = true) (ho : off < s.privSize c) :
    s.pathOf c (localKey c off) = .direct := by
  have h := localKey_private (s := s) ha ho
  have h1 := h.below
  unfold State.pathOf
  rw [if_neg (by omega), if_neg (by simp only [isFarKey, Bool.and_eq_true, decide_eq_true_eq]; omega), if_neg (by omega),
    if_pos h.isLocal]
  simp only [h.core, h.offset, ho, decide_true, Bool.and_true, if_true]

/-- The pieces of an access that does not cross an aligned 32-byte boundary. -/
theorem pieces_whole {va : Word} {n : Nat} (h : va.toNat % 32 + n ≤ 32) : pieces va n = [(va.toNat, n)] := by
  unfold pieces; rw [if_pos (by omega)]

/-- The pieces of one that crosses it below 2^64. -/
theorem pieces_crossing {va : Word} {n : Nat} (h : 32 < va.toNat % 32 + n) (hv : va.toNat + 32 < 2 ^ 64) :
    pieces va n = [(va.toNat, 32 - va.toNat % 32), (va.toNat + (32 - va.toNat % 32), n - (32 - va.toNat % 32))] := by
  have hlt : va.toNat + (32 - va.toNat % 32) < 2 ^ 64 := by omega
  unfold pieces; rw [if_neg (by omega), Nat.mod_eq_of_lt hlt]

theorem State.check_private {c : Nat} {m : Option Meet} {k : AccKind} (h : t.bounded c = false) :
    ∀ (l : List (Nat × Nat)) (done : List (Place × Nat)), (∀ p ∈ l, 0 < p.2 ∧ p.1 + p.2 ≤ s.privSize c) →
      s.check c t m k l done = (s, .places (done ++ l.map (fun p => (Place.priv (localKey c p.1), p.2))))
  | [], done, _ => by simp [State.check]
  | (va, n) :: rest, done, hl => by
    have hp := hl (va, n) List.mem_cons_self
    rw [State.check, State.place_private h hp.1 hp.2]
    simp only
    rw [State.check_private h rest _ (fun p hm => hl p (List.mem_cons_of_mem _ hm))]
    simp

/-- The pieces of a private access lie in the private portion. -/
theorem pieces_private {va : Word} {n size : Nat} (hn : 0 < n) (h32 : n ≤ 32) (hs : size ≤ 2 ^ 20) (hv : va.toNat + n ≤ size) :
    ∀ p ∈ pieces va n, 0 < p.2 ∧ p.1 + p.2 ≤ size := by
  by_cases h : va.toNat % 32 + n ≤ 32
  · rw [pieces_whole h]; simp only [List.mem_singleton, forall_eq]; omega
  · rw [pieces_crossing (by omega) (by omega)]
    intro p hp
    simp only [List.mem_cons, List.not_mem_nil, or_false] at hp
    rcases hp with rfl | rfl <;> simp only <;> omega

theorem State.privSize_bound (s : State) (c : Nat) : s.privSize c ≤ 2 ^ 20 := by
  have := s.privSize_le c
  split at this <;> omega

theorem State.fateOf_plain (h : s.Resides t) (op : AccOp) (ps : List (Place × Nat)) : s.fateOf t op ps = none := by
  unfold State.fateOf State.splitSeat
  rw [if_neg (by rw [h.unmet]; decide), if_neg (by rw [h.plainTask]; decide)]

theorem State.access_private (h : s.Resides t) {op : AccOp} {va : Word} {align : Nat} {srcs : List Reg}
    (ha : va.toNat % align = 0) (h0 : 0 < op.size) (h32 : op.size ≤ 32) (hv : va.toNat + op.size ≤ s.privSize s.here)
    (hp : plain srcs = true) :
    s.access t op va align srcs = (s.runParts s.here s.slotNo op va srcs (s.tookAt s.here s.slotNo srcs) false
      ((pieces va op.size).map (fun p => (localKey s.here p.1, p.2))) []).1 := by
  unfold State.access State.checked
  rw [if_neg (by rw [ha]; decide), State.check_private h.resident _ _ (pieces_private h0 h32 (s.privSize_bound _) hv)]
  simp only [List.nil_append, State.fateOf_plain h]
  unfold State.startAccess
  rw [if_neg (by simp [isOwn])]
  simp only [List.map_map, Function.comp_def, Place.key, State.takeFor_plain _ _ _ hp, ite_self]

/-! ## One private piece -/

theorem State.health_private {c va n : Nat} (ha : activeCore c = true) (hv : va < s.privSize c)
    (hb : s.hasBad (localKey c va) n = false) : s.health (localKey c va) n = .sound := by
  rw [State.health, hb, (localKey_private ha hv).notBulk]; rfl

theorem State.readHome_private {c k va n : Nat} (ha : activeCore c = true) (hv : va < s.privSize c)
    (hb : s.hasBad (localKey c va) n = false) : s.readHome c k (localKey c va) n = .did s (s.bytes (localKey c va) n) := by
  rw [State.readHome, State.health_private ha hv hb, State.countRead, (localKey_private ha hv).notBulk]; rfl

theorem State.storeHome_private {c va : Nat} (ha : activeCore c = true) (hv : va < s.privSize c) (bs : List Byte) :
    s.storeHome (localKey c va) bs = s.putBytes (localKey c va) bs := by
  rw [State.storeHome, State.cacheable, (localKey_private ha hv).notBulk]; rfl

/-- The key of a later byte. -/
theorem localKey_add (c off n : Nat) : localKey c (off + n) = localKey c off + n := by
  unfold localKey; split <;> omega

theorem Memory.readList_append (m : List Host.Cell) (a : Nat) : ∀ n k,
    Memory.readList m a (n + k) = Memory.readList m a n ++ Memory.readList m (a + n) k
  | 0, k => by simp [Memory.readList]
  | n + 1, k => by
    rw [show n + 1 + k = (n + k) + 1 by omega, Memory.readList, Memory.readList, Memory.readList_append m (a + 1) n k]
    simp [Nat.add_assoc, Nat.add_comm 1 n]

theorem State.bytes_append (a n k : Nat) : s.bytes a (n + k) = s.bytes a n ++ s.bytes (a + n) k := Memory.readList_append _ _ _ _

/-- Bytes with no bad word have none in a part. -/
theorem State.hasBad_part {a n b k : Nat} (h : s.hasBad a n = false) (h1 : a ≤ b) (h2 : b + k ≤ a + n) : s.hasBad b k = false := by
  unfold State.hasBad at *
  rw [List.any_eq_false] at *
  intro w hw
  have := h w hw
  simp only [Bool.and_eq_true, decide_eq_true_eq, not_and] at *
  omega

/-! ## The end of an access -/

theorem State.slot_here (h : s.Runs t) : (s.slot s.here s.slotNo).thread = some t := h

/-- An access with a general destination ends: the destination, ip, nothing carried, and nothing else. -/
theorem State.finish_put (h : s.Runs t) (hc : s.running.carried = none) {d : Reg} (hd : isStream d = false) (v : Word) :
    ((s.setRegAt s.here s.slotNo d v).modSlot s.here s.slotNo (fun t => { t with carried := none })).advanceAt s.here s.slotNo =
      s.went t (t.ctx.put d v).past := by
  have h1 := s.slot_here h
  simp only [State.setRegAt, h1, hd, Bool.false_eq_true, if_false, State.advanceAt, State.modSlot_modSlot]
  exact State.modRunning_congr s (by simp [show s.running.carried = none from hc, Ctx.past])

/-- An access without a destination ends: ip, and nothing else. -/
theorem State.finish_none (h : s.Runs t) (hc : s.running.carried = none) :
    (s.modSlot s.here s.slotNo (fun t => { t with carried := none })).advanceAt s.here s.slotNo = s.went t t.ctx.past := by
  have h2 : s.running.carried = none := hc
  simp only [State.advanceAt, State.modSlot_modSlot]
  exact State.modRunning_congr s (by simp [h2, show s.running.thread = some t from h, Ctx.past])

/-! ## Private pieces in order (R173) -/

section
variable {c k : Nat} {op : AccOp} {va : Word} {srcs : List Reg} {b : Bool} {off n : Nat} {rest : List (Nat × Nat)} {got l : List Byte}
  {s1 : State}

/-- A private piece performs at once: the access ends with its last piece, and the slot holds the pieces that are left. -/
theorem State.runParts_did (ha : activeCore c = true) (ho : off < s.privSize c)
    (hd : s.perform c k op (localKey c off) n (op.size - ((n :: rest.map (·.2)).foldl (· + ·) 0)) = .did s1 l) :
    (s.runParts c k op va srcs took b ((localKey c off, n) :: rest) got).1 =
      (match rest with
        | [] => s1.finishAccess c k op (got ++ l)
        | _ => s1.modSlot c k (fun x => x.holding { op, va, parts := rest, got := got ++ l, took })).afterFull op (localKey c off) := by
  rw [State.runParts]
  simp only [State.pathOf_private ha ho, hd] <;> cases rest <;> rfl

/-- A private access of one piece. -/
theorem State.runParts_whole {x : Word} (ha : activeCore c = true) (h : x.toNat % 32 + op.size ≤ 32) (hv : x.toNat < s.privSize c)
    (hd : s.perform c k op (localKey c x.toNat) op.size 0 = .did s1 l) :
    (s.runParts c k op va srcs took b ((pieces x op.size).map (fun p => (localKey c p.1, p.2))) []).1 =
      (s1.finishAccess c k op l).afterFull op (localKey c x.toNat) := by
  rw [pieces_whole h, List.map_cons, List.map_nil, State.runParts_did ha hv (l := l) (s1 := s1) (by simpa using hd)]
  rfl


/-- The first of the two pieces of a private access that crosses the boundary. -/
theorem State.runParts_first {x : Word} (ha : activeCore c = true) (h : 32 < x.toNat % 32 + op.size) (h32 : op.size ≤ 32)
    (hv : x.toNat + op.size ≤ s.privSize c) (hd : s.perform c k op (localKey c x.toNat) (roomAt x) 0 = .did s1 l)
    (haf : ∀ (s : State) key, s.afterFull op key = s) :
    (s.runParts c k op va srcs took b ((pieces x op.size).map (fun p => (localKey c p.1, p.2))) []).1 =
      s1.modSlot c k (fun y => y.holding
        { op, va, parts := [(localKey c (x.toNat + roomAt x), op.size - roomAt x)], got := l, took }) := by
  have hb := s.privSize_bound c
  unfold roomAt at *
  rw [pieces_crossing h (by omega), List.map_cons, List.map_cons, List.map_nil,
    State.runParts_did ha (by omega) (l := l) (s1 := s1)
      (by rw [← hd]; congr 1; simp only [List.map_cons, List.map_nil, List.foldl_cons, List.foldl_nil]; omega), haf]
  rfl

/-- The piece that is left of one. -/
theorem State.runParts_last {p : Nat} (ha : activeCore c = true) (ho : off < s.privSize c) (hp : op.size = p + n)
    (hd : s.perform c k op (localKey c off) n p = .did s1 l) (haf : ∀ (s : State) key, s.afterFull op key = s) :
    (s.runParts c k op va srcs took b [(localKey c off, n)] got).1 = s1.finishAccess c k op (got ++ l) := by
  rw [State.runParts_did ha ho (l := l) (s1 := s1) (by rw [← hd]; congr 1; simp; omega), haf]

theorem State.cur_self (s : State) : { s with cur := (s.cur.1, s.cur.2) } = s := rfl

/-- A slot that holds the rest of an access goes on with it before anything else. -/
theorem State.mend_holding (a : Access) (hs : s.Runs t) :
    (s.modRunning (fun x => x.holding a)).mend s.here s.slotNo =
      (s.modRunning (fun x => { x with park := none, carried := some (.access a), torn := false })).resumeAccess s.here s.slotNo a := by
  have h : (s.modRunning (fun x => x.holding a)).slot s.here s.slotNo = s.running.holding a := State.slot_modSlot s _ _ _
  have h2 : (s.modRunning (fun x => x.holding a)).modSlot s.here s.slotNo (fun l => { l with torn := false }) =
      s.modRunning (fun x => { x with park := none, carried := some (.access a), torn := false }) := State.modSlot_modSlot s _ _ _ _
  unfold State.mend
  rw [h, h2, if_neg (by simp [Slot.holding])]
  simp only [Slot.holding, show s.running.thread = some t from hs, State.goOn]
  exact congrArg (fun z => State.resumeAccess z s.here s.slotNo a) (State.cur_self _)

theorem State.mend_whole (h : (s.slot c k).torn = false) : s.mend c k = s := by
  unfold State.mend; rw [h]; rfl

end

end

end Sys2Proof.Machine
end

