-- ==== Sys2Proof/Laws/Bits.lean ====
section
/-! SUPPORT. The bits of words that are put together bit by bit, or byte by byte. -/
namespace Sys2Proof.Machine

/-- The sum of the powers of two that a test accepts, below 2^n, has the bits of the test. -/
theorem testBit_sumBits (f : Nat → Bool) (n : Nat) :
    (List.range n).foldl (fun v i => if f i then v + 2 ^ i else v) 0 < 2 ^ n ∧
      ∀ i, ((List.range n).foldl (fun v i => if f i then v + 2 ^ i else v) 0).testBit i = (decide (i < n) && f i) := by
  induction n with
  | zero => exact ⟨Nat.one_pos, fun i => by simp⟩
  | succ n ih =>
    obtain ⟨hlt, hb⟩ := ih
    rw [List.range_succ, List.foldl_append]
    generalize hv : (List.range n).foldl (fun v i => if f i then v + 2 ^ i else v) 0 = v at hlt hb
    simp only [List.foldl_cons, List.foldl_nil]
    cases hf : f n with
    | false =>
      refine ⟨by simpa using Nat.lt_of_lt_of_le hlt (Nat.pow_le_pow_right (by decide) (Nat.le_succ n)), fun i => ?_⟩
      simp only [Bool.false_eq_true, if_false, hb]
      by_cases hi : i = n
      · subst hi; simp [hf]
      · have : (i < n + 1) = (i < n) := by apply propext; omega
        simp [this]
    | true =>
      simp only [if_true]
      refine ⟨by rw [Nat.pow_succ]; omega, fun i => ?_⟩
      rw [Nat.add_comm]
      by_cases hi : i = n
      · subst hi
        rw [Nat.testBit_two_pow_add_eq, hb]; simp [hf]
      · by_cases hlt' : i < n
        · rw [Nat.testBit_two_pow_add_gt hlt', hb]
          have : i < n + 1 := by omega
          simp [this, hlt']
        · have h1 : ¬ i < n + 1 := by omega
          simp only [h1, decide_false, Bool.false_and]
          apply Nat.testBit_lt_two_pow
          calc 2 ^ n + v < 2 ^ n + 2 ^ n := by omega
            _ = 2 ^ (n + 1) := by rw [Nat.pow_succ]; omega
            _ ≤ 2 ^ i := Nat.pow_le_pow_right (by decide) (by omega)

theorem getLsbD_bitsFrom (f : Nat → Bool) {i : Nat} (h : i < 64) : (bitsFrom f).getLsbD i = f i := by
  rw [bitsFrom, BitVec.getLsbD_ofNat, (testBit_sumBits f 64).2 i]
  simp [h]

/-- Bit i of a number is bit i mod 8 of its byte i / 8. -/
theorem testBit_ofBytes (l : List Byte) (i : Nat) : (ofBytes l).testBit i = (l.getD (i / 8) 0).getLsbD (i % 8) := by
  induction l generalizing i with
  | nil => simp [ofBytes]
  | cons b bs ih =>
    rw [ofBytes, show (256 : Nat) = 2 ^ 8 from rfl, Nat.add_comm, Nat.testBit_two_pow_mul_add _ b.isLt]
    by_cases h : i < 8
    · rw [if_pos h, Nat.div_eq_of_lt h, Nat.mod_eq_of_lt h, List.getD_cons_zero]; rfl
    · rw [if_neg h, ih, show i / 8 = (i - 8) / 8 + 1 by omega, List.getD_cons_succ, show (i - 8) % 8 = i % 8 by omega]

theorem getD_toBytes (v : Nat) {n k : Nat} (h : k < n) : (toBytes v n).getD k 0 = BitVec.ofNat 8 (v / 256 ^ k) := by
  induction n generalizing v k with
  | zero => omega
  | succ n ih =>
    cases k with
    | zero => simp [toBytes]
    | succ k =>
      rw [toBytes, List.getD_cons_succ, ih (v / 256) (by omega), Nat.div_div_eq_div_mul, Nat.pow_succ, Nat.mul_comm]

theorem getLsbD_swapBytes (u : Word) {i : Nat} (h : i < 64) : (swapBytes u).getLsbD i = u.getLsbD ((7 - i / 8) * 8 + i % 8) := by
  have hk : i / 8 < 8 := by omega
  have hr : (toBytes u.toNat 8).reverse.getD (i / 8) 0 = (toBytes u.toNat 8).getD (7 - i / 8) 0 := by
    rw [List.getD_eq_getElem?_getD, List.getElem?_reverse (by rw [toBytes_length]; exact hk), toBytes_length,
      ← List.getD_eq_getElem?_getD]
  rw [swapBytes, BitVec.getLsbD_ofNat, testBit_ofBytes, hr, getD_toBytes _ (by omega), BitVec.getLsbD_ofNat,
    show (256 : Nat) = 2 ^ 8 from rfl, ← Nat.pow_mul, Nat.testBit_div_two_pow, BitVec.getLsbD]
  have h8 : i % 8 < 8 := by omega
  simp only [h, h8, decide_true, Bool.true_and]
  congr 1; omega

end Sys2Proof.Machine
end

