-- ==== Sys2Proof/Laws/Exec.lean ====
section
/-! SUPPORT. The arm of each constructor: exec is its meaning. -/
namespace Sys2Proof.Machine

theorem exec_add (d : Reg) (a : Reg) (b : Reg) (s : State) : exec (.add d a b) s = execAdd d a b s := rfl
theorem exec_sub (d : Reg) (a : Reg) (b : Reg) (s : State) : exec (.sub d a b) s = execSub d a b s := rfl
theorem exec_and (d : Reg) (a : Reg) (b : Reg) (s : State) : exec (.and d a b) s = execAnd d a b s := rfl
theorem exec_or (d : Reg) (a : Reg) (b : Reg) (s : State) : exec (.or d a b) s = execOr d a b s := rfl
theorem exec_xor (d : Reg) (a : Reg) (b : Reg) (s : State) : exec (.xor d a b) s = execXor d a b s := rfl
theorem exec_andn (d : Reg) (a : Reg) (b : Reg) (s : State) : exec (.andn d a b) s = execAndn d a b s := rfl
theorem exec_orn (d : Reg) (a : Reg) (b : Reg) (s : State) : exec (.orn d a b) s = execOrn d a b s := rfl
theorem exec_shl (d : Reg) (a : Reg) (b : Reg) (s : State) : exec (.shl d a b) s = execShl d a b s := rfl
theorem exec_shr (d : Reg) (a : Reg) (b : Reg) (s : State) : exec (.shr d a b) s = execShr d a b s := rfl
theorem exec_sar (d : Reg) (a : Reg) (b : Reg) (s : State) : exec (.sar d a b) s = execSar d a b s := rfl
theorem exec_rol (d : Reg) (a : Reg) (b : Reg) (s : State) : exec (.rol d a b) s = execRol d a b s := rfl
theorem exec_ror (d : Reg) (a : Reg) (b : Reg) (s : State) : exec (.ror d a b) s = execRor d a b s := rfl
theorem exec_min (d : Reg) (a : Reg) (b : Reg) (s : State) : exec (.min d a b) s = execMin d a b s := rfl
theorem exec_max (d : Reg) (a : Reg) (b : Reg) (s : State) : exec (.max d a b) s = execMax d a b s := rfl
theorem exec_minu (d : Reg) (a : Reg) (b : Reg) (s : State) : exec (.minu d a b) s = execMinu d a b s := rfl
theorem exec_maxu (d : Reg) (a : Reg) (b : Reg) (s : State) : exec (.maxu d a b) s = execMaxu d a b s := rfl
theorem exec_lsa (d : Reg) (a : Reg) (b : Reg) (k : BitVec 3) (s : State) : exec (.lsa d a b k) s = execLsa d a b k s := rfl
theorem exec_addw (d : Reg) (a : Reg) (b : Reg) (s : State) : exec (.addw d a b) s = execAddw d a b s := rfl
theorem exec_subw (d : Reg) (a : Reg) (b : Reg) (s : State) : exec (.subw d a b) s = execSubw d a b s := rfl
theorem exec_shlw (d : Reg) (a : Reg) (b : Reg) (s : State) : exec (.shlw d a b) s = execShlw d a b s := rfl
theorem exec_shrw (d : Reg) (a : Reg) (b : Reg) (s : State) : exec (.shrw d a b) s = execShrw d a b s := rfl
theorem exec_sarw (d : Reg) (a : Reg) (b : Reg) (s : State) : exec (.sarw d a b) s = execSarw d a b s := rfl
theorem exec_mul (d : Reg) (a : Reg) (b : Reg) (s : State) : exec (.mul d a b) s = execMul d a b s := rfl
theorem exec_mulh (d : Reg) (a : Reg) (b : Reg) (s : State) : exec (.mulh d a b) s = execMulh d a b s := rfl
theorem exec_mulhu (d : Reg) (a : Reg) (b : Reg) (s : State) : exec (.mulhu d a b) s = execMulhu d a b s := rfl
theorem exec_mulw (d : Reg) (a : Reg) (b : Reg) (s : State) : exec (.mulw d a b) s = execMulw d a b s := rfl
theorem exec_div (d : Reg) (a : Reg) (b : Reg) (s : State) : exec (.div d a b) s = execDiv d a b s := rfl
theorem exec_divu (d : Reg) (a : Reg) (b : Reg) (s : State) : exec (.divu d a b) s = execDivu d a b s := rfl
theorem exec_rem (d : Reg) (a : Reg) (b : Reg) (s : State) : exec (.rem d a b) s = execRem d a b s := rfl
theorem exec_remu (d : Reg) (a : Reg) (b : Reg) (s : State) : exec (.remu d a b) s = execRemu d a b s := rfl
theorem exec_divw (d : Reg) (a : Reg) (b : Reg) (s : State) : exec (.divw d a b) s = execDivw d a b s := rfl
theorem exec_remw (d : Reg) (a : Reg) (b : Reg) (s : State) : exec (.remw d a b) s = execRemw d a b s := rfl
theorem exec_clz (d : Reg) (a : Reg) (s : State) : exec (.clz d a) s = execClz d a s := rfl
theorem exec_ctz (d : Reg) (a : Reg) (s : State) : exec (.ctz d a) s = execCtz d a s := rfl
theorem exec_popc (d : Reg) (a : Reg) (s : State) : exec (.popc d a) s = execPopc d a s := rfl
theorem exec_brev (d : Reg) (a : Reg) (s : State) : exec (.brev d a) s = execBrev d a s := rfl
theorem exec_bswap (d : Reg) (a : Reg) (s : State) : exec (.bswap d a) s = execBswap d a s := rfl
theorem exec_sxb (d : Reg) (a : Reg) (s : State) : exec (.sxb d a) s = execSxb d a s := rfl
theorem exec_sxh (d : Reg) (a : Reg) (s : State) : exec (.sxh d a) s = execSxh d a s := rfl
theorem exec_sxw (d : Reg) (a : Reg) (s : State) : exec (.sxw d a) s = execSxw d a s := rfl
theorem exec_zxb (d : Reg) (a : Reg) (s : State) : exec (.zxb d a) s = execZxb d a s := rfl
theorem exec_zxh (d : Reg) (a : Reg) (s : State) : exec (.zxh d a) s = execZxh d a s := rfl
theorem exec_zxw (d : Reg) (a : Reg) (s : State) : exec (.zxw d a) s = execZxw d a s := rfl
theorem exec_bfx (d : Reg) (a : Reg) (b : Reg) (s : State) : exec (.bfx d a b) s = execBfx d a b s := rfl
theorem exec_bfxs (d : Reg) (a : Reg) (b : Reg) (s : State) : exec (.bfxs d a b) s = execBfxs d a b s := rfl
theorem exec_bfi (d : Reg) (a : Reg) (b : Reg) (s : State) : exec (.bfi d a b) s = execBfi d a b s := rfl
theorem exec_addi (d : Reg) (a : Reg) (v : BitVec 18) (s : State) : exec (.addi d a v) s = execAddi d a v s := rfl
theorem exec_andi (d : Reg) (a : Reg) (v : BitVec 18) (s : State) : exec (.andi d a v) s = execAndi d a v s := rfl
theorem exec_ori (d : Reg) (a : Reg) (v : BitVec 18) (s : State) : exec (.ori d a v) s = execOri d a v s := rfl
theorem exec_xori (d : Reg) (a : Reg) (v : BitVec 18) (s : State) : exec (.xori d a v) s = execXori d a v s := rfl
theorem exec_shli (d : Reg) (a : Reg) (k : BitVec 6) (s : State) : exec (.shli d a k) s = execShli d a k s := rfl
theorem exec_shri (d : Reg) (a : Reg) (k : BitVec 6) (s : State) : exec (.shri d a k) s = execShri d a k s := rfl
theorem exec_sari (d : Reg) (a : Reg) (k : BitVec 6) (s : State) : exec (.sari d a k) s = execSari d a k s := rfl
theorem exec_roli (d : Reg) (a : Reg) (k : BitVec 6) (s : State) : exec (.roli d a k) s = execRoli d a k s := rfl
theorem exec_shliw (d : Reg) (a : Reg) (k : BitVec 5) (s : State) : exec (.shliw d a k) s = execShliw d a k s := rfl
theorem exec_shriw (d : Reg) (a : Reg) (k : BitVec 5) (s : State) : exec (.shriw d a k) s = execShriw d a k s := rfl
theorem exec_sariw (d : Reg) (a : Reg) (k : BitVec 5) (s : State) : exec (.sariw d a k) s = execSariw d a k s := rfl
theorem exec_lui (d : Reg) (v : BitVec 22) (s : State) : exec (.lui d v) s = execLui d v s := rfl
theorem exec_ipa (d : Reg) (v : BitVec 22) (s : State) : exec (.ipa d v) s = execIpa d v s := rfl
theorem exec_gaddr (d : Reg) (a : Reg) (b : Reg) (s : State) : exec (.gaddr d a b) s = execGaddr d a b s := rfl
theorem exec_homeof (d : Reg) (a : Reg) (s : State) : exec (.homeof d a) s = execHomeof d a s := rfl
theorem exec_hops (d : Reg) (a : Reg) (b : Reg) (s : State) : exec (.hops d a b) s = execHops d a b s := rfl
theorem exec_cmp (p : Pred) (a : Reg) (b : Reg) (c : BitVec 4) (s : State) : exec (.cmp p a b c) s = execCmp p a b c s := rfl
theorem exec_cmpw (p : Pred) (a : Reg) (b : Reg) (c : BitVec 4) (s : State) : exec (.cmpw p a b c) s = execCmpw p a b c s := rfl
theorem exec_cmpi (p : Pred) (a : Reg) (c : BitVec 4) (v : BitVec 14) (s : State) : exec (.cmpi p a c v) s = execCmpi p a c v s := rfl
theorem exec_pand (p : Pred) (q : Pred) (e : Pred) (s : State) : exec (.pand p q e) s = execPand p q e s := rfl
theorem exec_por (p : Pred) (q : Pred) (e : Pred) (s : State) : exec (.por p q e) s = execPor p q e s := rfl
theorem exec_pxor (p : Pred) (q : Pred) (e : Pred) (s : State) : exec (.pxor p q e) s = execPxor p q e s := rfl
theorem exec_pandn (p : Pred) (q : Pred) (e : Pred) (s : State) : exec (.pandn p q e) s = execPandn p q e s := rfl
theorem exec_pnot (p : Pred) (q : Pred) (s : State) : exec (.pnot p q) s = execPnot p q s := rfl
theorem exec_p2x (d : Reg) (s : State) : exec (.p2x d) s = execP2x d s := rfl
theorem exec_x2p (a : Reg) (s : State) : exec (.x2p a) s = execX2p a s := rfl
theorem exec_sel (d : Reg) (a : Reg) (b : Reg) (k : Pred) (s : State) : exec (.sel d a b k) s = execSel d a b k s := rfl
theorem exec_faddS (d : Reg) (a : Reg) (b : Reg) (r : BitVec 3) (s : State) : exec (.faddS d a b r) s = execFaddS d a b r s := rfl
theorem exec_fsubS (d : Reg) (a : Reg) (b : Reg) (r : BitVec 3) (s : State) : exec (.fsubS d a b r) s = execFsubS d a b r s := rfl
theorem exec_fmulS (d : Reg) (a : Reg) (b : Reg) (r : BitVec 3) (s : State) : exec (.fmulS d a b r) s = execFmulS d a b r s := rfl
theorem exec_ffmaS (d : Reg) (a : Reg) (b : Reg) (r : BitVec 3) (s : State) : exec (.ffmaS d a b r) s = execFfmaS d a b r s := rfl
theorem exec_fminS (d : Reg) (a : Reg) (b : Reg) (r : BitVec 3) (s : State) : exec (.fminS d a b r) s = execFminS d a b r s := rfl
theorem exec_fmaxS (d : Reg) (a : Reg) (b : Reg) (r : BitVec 3) (s : State) : exec (.fmaxS d a b r) s = execFmaxS d a b r s := rfl
theorem exec_fabsS (d : Reg) (a : Reg) (r : BitVec 3) (s : State) : exec (.fabsS d a r) s = execFabsS d a r s := rfl
theorem exec_fnegS (d : Reg) (a : Reg) (r : BitVec 3) (s : State) : exec (.fnegS d a r) s = execFnegS d a r s := rfl
theorem exec_fdivS (d : Reg) (a : Reg) (b : Reg) (r : BitVec 3) (s : State) : exec (.fdivS d a b r) s = execFdivS d a b r s := rfl
theorem exec_fsqrtS (d : Reg) (a : Reg) (r : BitVec 3) (s : State) : exec (.fsqrtS d a r) s = execFsqrtS d a r s := rfl
theorem exec_frsqsS (d : Reg) (a : Reg) (r : BitVec 3) (s : State) : exec (.frsqsS d a r) s = execFrsqsS d a r s := rfl
theorem exec_frcpsS (d : Reg) (a : Reg) (r : BitVec 3) (s : State) : exec (.frcpsS d a r) s = execFrcpsS d a r s := rfl
theorem exec_faddD (d : Reg) (a : Reg) (b : Reg) (r : BitVec 3) (s : State) : exec (.faddD d a b r) s = execFaddD d a b r s := rfl
theorem exec_fsubD (d : Reg) (a : Reg) (b : Reg) (r : BitVec 3) (s : State) : exec (.fsubD d a b r) s = execFsubD d a b r s := rfl
theorem exec_fmulD (d : Reg) (a : Reg) (b : Reg) (r : BitVec 3) (s : State) : exec (.fmulD d a b r) s = execFmulD d a b r s := rfl
theorem exec_ffmaD (d : Reg) (a : Reg) (b : Reg) (r : BitVec 3) (s : State) : exec (.ffmaD d a b r) s = execFfmaD d a b r s := rfl
theorem exec_fminD (d : Reg) (a : Reg) (b : Reg) (r : BitVec 3) (s : State) : exec (.fminD d a b r) s = execFminD d a b r s := rfl
theorem exec_fmaxD (d : Reg) (a : Reg) (b : Reg) (r : BitVec 3) (s : State) : exec (.fmaxD d a b r) s = execFmaxD d a b r s := rfl
theorem exec_fabsD (d : Reg) (a : Reg) (r : BitVec 3) (s : State) : exec (.fabsD d a r) s = execFabsD d a r s := rfl
theorem exec_fnegD (d : Reg) (a : Reg) (r : BitVec 3) (s : State) : exec (.fnegD d a r) s = execFnegD d a r s := rfl
theorem exec_fdivD (d : Reg) (a : Reg) (b : Reg) (r : BitVec 3) (s : State) : exec (.fdivD d a b r) s = execFdivD d a b r s := rfl
theorem exec_fsqrtD (d : Reg) (a : Reg) (r : BitVec 3) (s : State) : exec (.fsqrtD d a r) s = execFsqrtD d a r s := rfl
theorem exec_frsqsD (d : Reg) (a : Reg) (r : BitVec 3) (s : State) : exec (.frsqsD d a r) s = execFrsqsD d a r s := rfl
theorem exec_frcpsD (d : Reg) (a : Reg) (r : BitVec 3) (s : State) : exec (.frcpsD d a r) s = execFrcpsD d a r s := rfl
theorem exec_fcvtSD (d : Reg) (a : Reg) (r : BitVec 3) (s : State) : exec (.fcvtSD d a r) s = execFcvtSD d a r s := rfl
theorem exec_fcvtDS (d : Reg) (a : Reg) (r : BitVec 3) (s : State) : exec (.fcvtDS d a r) s = execFcvtDS d a r s := rfl
theorem exec_fcvtSL (d : Reg) (a : Reg) (r : BitVec 3) (s : State) : exec (.fcvtSL d a r) s = execFcvtSL d a r s := rfl
theorem exec_fcvtDL (d : Reg) (a : Reg) (r : BitVec 3) (s : State) : exec (.fcvtDL d a r) s = execFcvtDL d a r s := rfl
theorem exec_fcvtLS (d : Reg) (a : Reg) (r : BitVec 3) (s : State) : exec (.fcvtLS d a r) s = execFcvtLS d a r s := rfl
theorem exec_fcvtLD (d : Reg) (a : Reg) (r : BitVec 3) (s : State) : exec (.fcvtLD d a r) s = execFcvtLD d a r s := rfl
theorem exec_fcvtHS (d : Reg) (a : Reg) (r : BitVec 3) (s : State) : exec (.fcvtHS d a r) s = execFcvtHS d a r s := rfl
theorem exec_fcvtSH (d : Reg) (a : Reg) (r : BitVec 3) (s : State) : exec (.fcvtSH d a r) s = execFcvtSH d a r s := rfl
theorem exec_fcvtBS (d : Reg) (a : Reg) (r : BitVec 3) (s : State) : exec (.fcvtBS d a r) s = execFcvtBS d a r s := rfl
theorem exec_fcvtSB (d : Reg) (a : Reg) (r : BitVec 3) (s : State) : exec (.fcvtSB d a r) s = execFcvtSB d a r s := rfl
theorem exec_fclassS (d : Reg) (a : Reg) (r : BitVec 3) (s : State) : exec (.fclassS d a r) s = execFclassS d a r s := rfl
theorem exec_fclassD (d : Reg) (a : Reg) (r : BitVec 3) (s : State) : exec (.fclassD d a r) s = execFclassD d a r s := rfl
theorem exec_fcmpS (p : Pred) (a : Reg) (b : Reg) (c : BitVec 4) (s : State) : exec (.fcmpS p a b c) s = execFcmpS p a b c s := rfl
theorem exec_fcmpD (p : Pred) (a : Reg) (b : Reg) (c : BitVec 4) (s : State) : exec (.fcmpD p a b c) s = execFcmpD p a b c s := rfl
theorem exec_ldBz (d : Reg) (a : Reg) (v : BitVec 14) (s : State) : exec (.ldBz d a v) s = execLdBz d a v s := rfl
theorem exec_ldBs (d : Reg) (a : Reg) (v : BitVec 14) (s : State) : exec (.ldBs d a v) s = execLdBs d a v s := rfl
theorem exec_ldHz (d : Reg) (a : Reg) (v : BitVec 14) (s : State) : exec (.ldHz d a v) s = execLdHz d a v s := rfl
theorem exec_ldHs (d : Reg) (a : Reg) (v : BitVec 14) (s : State) : exec (.ldHs d a v) s = execLdHs d a v s := rfl
theorem exec_ldWz (d : Reg) (a : Reg) (v : BitVec 14) (s : State) : exec (.ldWz d a v) s = execLdWz d a v s := rfl
theorem exec_ldWs (d : Reg) (a : Reg) (v : BitVec 14) (s : State) : exec (.ldWs d a v) s = execLdWs d a v s := rfl
theorem exec_ldD (d : Reg) (a : Reg) (v : BitVec 14) (s : State) : exec (.ldD d a v) s = execLdD d a v s := rfl
theorem exec_stB (d : Reg) (a : Reg) (v : BitVec 14) (s : State) : exec (.stB d a v) s = execStB d a v s := rfl
theorem exec_stH (d : Reg) (a : Reg) (v : BitVec 14) (s : State) : exec (.stH d a v) s = execStH d a v s := rfl
theorem exec_stW (d : Reg) (a : Reg) (v : BitVec 14) (s : State) : exec (.stW d a v) s = execStW d a v s := rfl
theorem exec_stD (d : Reg) (a : Reg) (v : BitVec 14) (s : State) : exec (.stD d a v) s = execStD d a v s := rfl
theorem exec_ldq (d : Reg) (a : Reg) (v : BitVec 14) (s : State) : exec (.ldq d a v) s = execLdq d a v s := rfl
theorem exec_stq (d : Reg) (a : Reg) (v : BitVec 14) (s : State) : exec (.stq d a v) s = execStq d a v s := rfl
theorem exec_ldfW (d : Reg) (a : Reg) (v : BitVec 14) (s : State) : exec (.ldfW d a v) s = execLdfW d a v s := rfl
theorem exec_ldfD (d : Reg) (a : Reg) (v : BitVec 14) (s : State) : exec (.ldfD d a v) s = execLdfD d a v s := rfl
theorem exec_ldfeW (d : Reg) (a : Reg) (v : BitVec 14) (s : State) : exec (.ldfeW d a v) s = execLdfeW d a v s := rfl
theorem exec_ldfeD (d : Reg) (a : Reg) (v : BitVec 14) (s : State) : exec (.ldfeD d a v) s = execLdfeD d a v s := rfl
theorem exec_stfW (d : Reg) (a : Reg) (v : BitVec 14) (s : State) : exec (.stfW d a v) s = execStfW d a v s := rfl
theorem exec_stfD (d : Reg) (a : Reg) (v : BitVec 14) (s : State) : exec (.stfD d a v) s = execStfD d a v s := rfl
theorem exec_stfeW (d : Reg) (a : Reg) (v : BitVec 14) (s : State) : exec (.stfeW d a v) s = execStfeW d a v s := rfl
theorem exec_stfeD (d : Reg) (a : Reg) (v : BitVec 14) (s : State) : exec (.stfeD d a v) s = execStfeD d a v s := rfl
theorem exec_fck (d : Reg) (a : Reg) (v : BitVec 14) (s : State) : exec (.fck d a v) s = execFck d a v s := rfl
theorem exec_amoAdd (d : Reg) (a : Reg) (b : Reg) (e : BitVec 1) (s : State) : exec (.amoAdd d a b e) s = execAmoAdd d a b e s := rfl
theorem exec_amoAnd (d : Reg) (a : Reg) (b : Reg) (e : BitVec 1) (s : State) : exec (.amoAnd d a b e) s = execAmoAnd d a b e s := rfl
theorem exec_amoOr (d : Reg) (a : Reg) (b : Reg) (e : BitVec 1) (s : State) : exec (.amoOr d a b e) s = execAmoOr d a b e s := rfl
theorem exec_amoXor (d : Reg) (a : Reg) (b : Reg) (e : BitVec 1) (s : State) : exec (.amoXor d a b e) s = execAmoXor d a b e s := rfl
theorem exec_amoMin (d : Reg) (a : Reg) (b : Reg) (e : BitVec 1) (s : State) : exec (.amoMin d a b e) s = execAmoMin d a b e s := rfl
theorem exec_amoMax (d : Reg) (a : Reg) (b : Reg) (e : BitVec 1) (s : State) : exec (.amoMax d a b e) s = execAmoMax d a b e s := rfl
theorem exec_amoMinu (d : Reg) (a : Reg) (b : Reg) (e : BitVec 1) (s : State) : exec (.amoMinu d a b e) s = execAmoMinu d a b e s := rfl
theorem exec_amoMaxu (d : Reg) (a : Reg) (b : Reg) (e : BitVec 1) (s : State) : exec (.amoMaxu d a b e) s = execAmoMaxu d a b e s := rfl
theorem exec_amoSwap (d : Reg) (a : Reg) (b : Reg) (e : BitVec 1) (s : State) : exec (.amoSwap d a b e) s = execAmoSwap d a b e s := rfl
theorem exec_amoCas (d : Reg) (a : Reg) (b : Reg) (e : BitVec 1) (s : State) : exec (.amoCas d a b e) s = execAmoCas d a b e s := rfl
theorem exec_amoFadd (d : Reg) (a : Reg) (b : Reg) (e : BitVec 1) (s : State) : exec (.amoFadd d a b e) s = execAmoFadd d a b e s := rfl
theorem exec_stcW (d : Reg) (a : Reg) (v : BitVec 14) (s : State) : exec (.stcW d a v) s = execStcW d a v s := rfl
theorem exec_stcD (d : Reg) (a : Reg) (v : BitVec 14) (s : State) : exec (.stcD d a v) s = execStcD d a v s := rfl
theorem exec_redAdd (a : Reg) (b : Reg) (e : BitVec 1) (s : State) : exec (.redAdd a b e) s = execRedAdd a b e s := rfl
theorem exec_redFadd (a : Reg) (b : Reg) (e : BitVec 1) (s : State) : exec (.redFadd a b e) s = execRedFadd a b e s := rfl
theorem exec_redMin (a : Reg) (b : Reg) (e : BitVec 1) (s : State) : exec (.redMin a b e) s = execRedMin a b e s := rfl
theorem exec_redMax (a : Reg) (b : Reg) (e : BitVec 1) (s : State) : exec (.redMax a b e) s = execRedMax a b e s := rfl
theorem exec_redOr (a : Reg) (b : Reg) (e : BitVec 1) (s : State) : exec (.redOr a b e) s = execRedOr a b e s := rfl
theorem exec_pf (a : Reg) (v : BitVec 14) (s : State) : exec (.pf a v) s = execPf a v s := rfl
theorem exec_cwb (a : Reg) (v : BitVec 14) (s : State) : exec (.cwb a v) s = execCwb a v s := rfl
theorem exec_cdis (a : Reg) (v : BitVec 14) (s : State) : exec (.cdis a v) s = execCdis a v s := rfl
theorem exec_cinvI (a : Reg) (v : BitVec 14) (s : State) : exec (.cinvI a v) s = execCinvI a v s := rfl
theorem exec_br (p : Pred) (e : BitVec 1) (d : BitVec 21) (s : State) : exec (.br p e d) s = execBr p e d s := rfl
theorem exec_jmp (d : BitVec 26) (s : State) : exec (.jmp d) s = execJmp d s := rfl
theorem exec_call (d : BitVec 26) (s : State) : exec (.call d) s = execCall d s := rfl
theorem exec_jr (a : Reg) (s : State) : exec (.jr a) s = execJr a s := rfl
theorem exec_callr (a : Reg) (s : State) : exec (.callr a) s = execCallr a s := rfl
theorem exec_loop (a : Reg) (v : BitVec 18) (s : State) : exec (.loop a v) s = execLoop a v s := rfl
theorem exec_go (a : Reg) (s : State) : exec (.go a) s = execGo a s := rfl
theorem exec_gocore (a : Reg) (s : State) : exec (.gocore a) s = execGocore a s := rfl
theorem exec_meet (d : Reg) (a : Reg) (b : Reg) (s : State) : exec (.meet d a b) s = execMeet d a b s := rfl
theorem exec_xget (d : Reg) (n : BitVec 4) (s : State) : exec (.xget d n) s = execXget d n s := rfl
theorem exec_partgo (a : Reg) (s : State) : exec (.partgo a) s = execPartgo a s := rfl
theorem exec_spawn (d : Reg) (a : Reg) (b : Reg) (s : State) : exec (.spawn d a b) s = execSpawn d a b s := rfl
theorem exec_alloc (d : Reg) (a : Reg) (s : State) : exec (.alloc d a) s = execAlloc d a s := rfl
theorem exec_fork (d : Reg) (a : Reg) (b : Reg) (s : State) : exec (.fork d a b) s = execFork d a b s := rfl
theorem exec_join (a : Reg) (s : State) : exec (.join a) s = execJoin a s := rfl
theorem exec_wakePark (a : Reg) (s : State) : exec (.wakePark a) s = execWakePark a s := rfl
theorem exec_tsk (a : Reg) (b : Reg) (s : State) : exec (.tsk a b) s = execTsk a b s := rfl
theorem exec_qpush (a : Reg) (b : Reg) (s : State) : exec (.qpush a b) s = execQpush a b s := rfl
theorem exec_qpop (d : Reg) (s : State) : exec (.qpop d) s = execQpop d s := rfl
theorem exec_qlen (d : Reg) (b : Reg) (s : State) : exec (.qlen d b) s = execQlen d b s := rfl
theorem exec_recv (d : Reg) (a : Reg) (s : State) : exec (.recv d a) s = execRecv d a s := rfl
theorem exec_mpoll (d : Reg) (a : Reg) (s : State) : exec (.mpoll d a) s = execMpoll d a s := rfl
theorem exec_mbind (a : Reg) (b : Reg) (s : State) : exec (.mbind a b) s = execMbind a b s := rfl
theorem exec_bar (e : BitVec 3) (n : BitVec 4) (s : State) : exec (.bar e n) s = execBar e n s := rfl
theorem exec_barn (e : BitVec 3) (n : BitVec 4) (s : State) : exec (.barn e n) s = execBarn e n s := rfl
theorem exec_barw (a : Reg) (e : BitVec 3) (n : BitVec 4) (s : State) : exec (.barw a e n) s = execBarw a e n s := rfl
theorem exec_barg (a : Reg) (e : BitVec 3) (n : BitVec 4) (s : State) : exec (.barg a e n) s = execBarg a e n s := rfl
theorem exec_barset (a : Reg) (e : BitVec 3) (n : BitVec 4) (s : State) : exec (.barset a e n) s = execBarset a e n s := rfl
theorem exec_srd (f : BitVec 10) (a : Reg) (s : State) : exec (.srd f a) s = execSrd f a s := rfl
theorem exec_swr (f : BitVec 10) (a : Reg) (s : State) : exec (.swr f a) s = execSwr f a s := rfl
theorem exec_trap (k : BitVec 8) (s : State) : exec (.trap k) s = execTrap k s := rfl
theorem exec_blk (h : BitVec 16) (s : State) : exec (.blk h) s = execBlk h s := rfl
theorem exec_ctxsv (a : Reg) (s : State) : exec (.ctxsv a) s = execCtxsv a s := rfl
theorem exec_ctxrs (a : Reg) (s : State) : exec (.ctxrs a) s = execCtxrs a s := rfl
theorem exec_cp (a : Reg) (b : Reg) (w : BitVec 1) (s : State) : exec (.cp a b w) s = execCp a b w s := rfl
theorem exec_cpn (a : Reg) (b : Reg) (w : BitVec 1) (s : State) : exec (.cpn a b w) s = execCpn a b w s := rfl
theorem exec_cpm (a : Reg) (b : Reg) (w : BitVec 1) (s : State) : exec (.cpm a b w) s = execCpm a b w s := rfl
theorem exec_cps (a : Reg) (b : Reg) (w : BitVec 1) (s : State) : exec (.cps a b w) s = execCps a b w s := rfl
theorem exec_cprFp32 (a : Reg) (b : Reg) (w : BitVec 1) (s : State) : exec (.cprFp32 a b w) s = execCprFp32 a b w s := rfl
theorem exec_cpsi (a : Reg) (b : Reg) (q : BitVec 1) (s : State) : exec (.cpsi a b q) s = execCpsi a b q s := rfl
theorem exec_cpso (a : Reg) (b : Reg) (q : BitVec 1) (s : State) : exec (.cpso a b q) s = execCpso a b q s := rfl
theorem exec_cpf (a : Reg) (b : Reg) (w : BitVec 1) (e : BitVec 1) (s : State) : exec (.cpf a b w e) s = execCpf a b w e s := rfl
theorem exec_cpz (a : Reg) (w : BitVec 1) (s : State) : exec (.cpz a w) s = execCpz a w s := rfl
theorem exec_cpc (a : Reg) (w : BitVec 1) (s : State) : exec (.cpc a w) s = execCpc a w s := rfl
theorem exec_cpset (b : Reg) (r : BitVec 6) (s : State) : exec (.cpset b r) s = execCpset b r s := rfl
theorem exec_cpget (b : Reg) (r : BitVec 6) (s : State) : exec (.cpget b r) s = execCpget b r s := rfl
theorem exec_vadd (a : Reg) (b : Reg) (w : BitVec 1) (m : BitVec 1) (k : BitVec 1) (s : State) : exec (.vadd a b w m k) s = execVadd a b w m k s := rfl
theorem exec_vsub (a : Reg) (b : Reg) (w : BitVec 1) (m : BitVec 1) (k : BitVec 1) (s : State) : exec (.vsub a b w m k) s = execVsub a b w m k s := rfl
theorem exec_vmul (a : Reg) (b : Reg) (w : BitVec 1) (m : BitVec 1) (k : BitVec 1) (s : State) : exec (.vmul a b w m k) s = execVmul a b w m k s := rfl
theorem exec_vfma (a : Reg) (b : Reg) (w : BitVec 1) (m : BitVec 1) (k : BitVec 1) (s : State) : exec (.vfma a b w m k) s = execVfma a b w m k s := rfl
theorem exec_vmin (a : Reg) (b : Reg) (w : BitVec 1) (m : BitVec 1) (k : BitVec 1) (s : State) : exec (.vmin a b w m k) s = execVmin a b w m k s := rfl
theorem exec_vmax (a : Reg) (b : Reg) (w : BitVec 1) (m : BitVec 1) (k : BitVec 1) (s : State) : exec (.vmax a b w m k) s = execVmax a b w m k s := rfl
theorem exec_vabs (a : Reg) (b : Reg) (w : BitVec 1) (m : BitVec 1) (s : State) : exec (.vabs a b w m) s = execVabs a b w m s := rfl
theorem exec_vneg (a : Reg) (b : Reg) (w : BitVec 1) (m : BitVec 1) (s : State) : exec (.vneg a b w m) s = execVneg a b w m s := rfl
theorem exec_vsqrt (a : Reg) (b : Reg) (w : BitVec 1) (m : BitVec 1) (s : State) : exec (.vsqrt a b w m) s = execVsqrt a b w m s := rfl
theorem exec_vexp2 (a : Reg) (b : Reg) (w : BitVec 1) (m : BitVec 1) (s : State) : exec (.vexp2 a b w m) s = execVexp2 a b w m s := rfl
theorem exec_vcmp (a : Reg) (b : Reg) (w : BitVec 1) (c : BitVec 4) (k : BitVec 1) (s : State) : exec (.vcmp a b w c k) s = execVcmp a b w c k s := rfl
theorem exec_vsel (a : Reg) (b : Reg) (w : BitVec 1) (m : BitVec 1) (k : BitVec 1) (s : State) : exec (.vsel a b w m k) s = execVsel a b w m k s := rfl
theorem exec_vcvt (a : Reg) (b : Reg) (w : BitVec 1) (f : BitVec 4) (m : BitVec 1) (s : State) : exec (.vcvt a b w f m) s = execVcvt a b w f m s := rfl
theorem exec_vred (a : Reg) (b : Reg) (w : BitVec 1) (s : State) : exec (.vred a b w) s = execVred a b w s := rfl
theorem exec_vdot (a : Reg) (b : Reg) (w : BitVec 1) (k : BitVec 1) (s : State) : exec (.vdot a b w k) s = execVdot a b w k s := rfl
theorem exec_vgat (a : Reg) (b : Reg) (w : BitVec 1) (m : BitVec 1) (s : State) : exec (.vgat a b w m) s = execVgat a b w m s := rfl
theorem exec_vsca (a : Reg) (b : Reg) (w : BitVec 1) (m : BitVec 1) (s : State) : exec (.vsca a b w m) s = execVsca a b w m s := rfl
theorem exec_vscadd (a : Reg) (b : Reg) (w : BitVec 1) (m : BitVec 1) (s : State) : exec (.vscadd a b w m) s = execVscadd a b w m s := rfl
theorem exec_vrot (a : Reg) (b : Reg) (w : BitVec 1) (r : BitVec 2) (s : State) : exec (.vrot a b w r) s = execVrot a b w r s := rfl
theorem exec_vquant (a : Reg) (b : Reg) (w : BitVec 1) (s : State) : exec (.vquant a b w) s = execVquant a b w s := rfl
theorem exec_vdeq (a : Reg) (b : Reg) (w : BitVec 1) (s : State) : exec (.vdeq a b w) s = execVdeq a b w s := rfl
theorem exec_vtab (b : Reg) (w : BitVec 1) (t : BitVec 1) (s : State) : exec (.vtab b w t) s = execVtab b w t s := rfl
theorem exec_vfix (a : Reg) (b : Reg) (w : BitVec 1) (m : BitVec 1) (s : State) : exec (.vfix a b w m) s = execVfix a b w m s := rfl
theorem exec_vflt (a : Reg) (b : Reg) (w : BitVec 1) (m : BitVec 1) (s : State) : exec (.vflt a b w m) s = execVflt a b w m s := rfl
theorem exec_vset (b : Reg) (r : BitVec 6) (s : State) : exec (.vset b r) s = execVset b r s := rfl
theorem exec_vget (b : Reg) (r : BitVec 6) (s : State) : exec (.vget b r) s = execVget b r s := rfl
theorem exec_mldb (a : Reg) (b : Reg) (w : BitVec 1) (s : State) : exec (.mldb a b w) s = execMldb a b w s := rfl
theorem exec_mmac (a : Reg) (b : Reg) (w : BitVec 1) (s : State) : exec (.mmac a b w) s = execMmac a b w s := rfl
theorem exec_mpass (w : BitVec 1) (s : State) : exec (.mpass w) s = execMpass w s := rfl
theorem exec_mzero (a : Reg) (w : BitVec 1) (s : State) : exec (.mzero a w) s = execMzero a w s := rfl
theorem exec_mdrain (a : Reg) (b : Reg) (w : BitVec 1) (c : BitVec 1) (f : BitVec 2) (s : State) : exec (.mdrain a b w c f) s = execMdrain a b w c f s := rfl
theorem exec_mdrainx (a : Reg) (w : BitVec 1) (c : BitVec 1) (s : State) : exec (.mdrainx a w c) s = execMdrainx a w c s := rfl
theorem exec_maddx (a : Reg) (w : BitVec 1) (s : State) : exec (.maddx a w) s = execMaddx a w s := rfl
theorem exec_mset (b : Reg) (r : BitVec 6) (s : State) : exec (.mset b r) s = execMset b r s := rfl
theorem exec_mget (b : Reg) (r : BitVec 6) (s : State) : exec (.mget b r) s = execMget b r s := rfl
theorem exec_pool (a : Reg) (b : Reg) (w : BitVec 1) (s : State) : exec (.pool a b w) s = execPool a b w s := rfl
theorem exec_poset (b : Reg) (r : BitVec 6) (s : State) : exec (.poset b r) s = execPoset b r s := rfl
theorem exec_poget (b : Reg) (r : BitVec 6) (s : State) : exec (.poget b r) s = execPoget b r s := rfl
theorem exec_binapp (a : Reg) (b : Reg) (w : BitVec 1) (s : State) : exec (.binapp a b w) s = execBinapp a b w s := rfl
theorem exec_binplayFp32 (a : Reg) (b : Reg) (w : BitVec 1) (s : State) : exec (.binplayFp32 a b w) s = execBinplayFp32 a b w s := rfl
theorem exec_binflush (w : BitVec 1) (s : State) : exec (.binflush w) s = execBinflush w s := rfl
theorem exec_bnset (b : Reg) (r : BitVec 6) (s : State) : exec (.bnset b r) s = execBnset b r s := rfl
theorem exec_bnget (b : Reg) (r : BitVec 6) (s : State) : exec (.bnget b r) s = execBnget b r s := rfl
theorem exec_fenceQ (s : State) : exec .fenceQ s = execFenceQ s := rfl
theorem exec_fenceE (s : State) : exec .fenceE s = execFenceE s := rfl
theorem exec_fenceA (s : State) : exec .fenceA s = execFenceA s := rfl
theorem exec_back (s : State) : exec .back s = execBack s := rfl
theorem exec_part (s : State) : exec .part s = execPart s := rfl
theorem exec_quit (s : State) : exec .quit s = execQuit s := rfl
theorem exec_yield (s : State) : exec .yield s = execYield s := rfl
theorem exec_done (s : State) : exec .done s = execDone s := rfl
theorem exec_abort (s : State) : exec .abort s = execAbort s := rfl
theorem exec_rte (s : State) : exec .rte s = execRte s := rfl
theorem exec_brk (s : State) : exec .brk s = execBrk s := rfl
theorem exec_isync (s : State) : exec .isync s = execIsync s := rfl
theorem exec_wakeNotice (s : State) : exec .wakeNotice s = execWakeNotice s := rfl
theorem exec_wakeCopyResume (s : State) : exec .wakeCopyResume s = execWakeCopyResume s := rfl
theorem exec_wakeCopyAbandon (s : State) : exec .wakeCopyAbandon s = execWakeCopyAbandon s := rfl
theorem exec_cprFp64 (s : State) : exec .cprFp64 s = execCprFp64 s := rfl
theorem exec_cprRaw (s : State) : exec .cprRaw s = execCprRaw s := rfl
theorem exec_cprInt64 (s : State) : exec .cprInt64 s = execCprInt64 s := rfl
theorem exec_binplayAnchored (s : State) : exec .binplayAnchored s = execBinplayAnchored s := rfl
theorem exec_moduleReset (s : State) : exec .moduleReset s = execModuleReset s := rfl
theorem exec_laneFailure (s : State) : exec .laneFailure s = execLaneFailure s := rfl
theorem exec_linkRetrainingComplete (s : State) : exec .linkRetrainingComplete s = execLinkRetrainingComplete s := rfl
theorem exec_linkTrainingRetry (s : State) : exec .linkTrainingRetry s = execLinkTrainingRetry s := rfl
theorem exec_lanifyPacketSend (s : State) : exec .lanifyPacketSend s = execLanifyPacketSend s := rfl
theorem exec_lanifyFlitReceive (s : State) : exec .lanifyFlitReceive s = execLanifyFlitReceive s := rfl
theorem exec_ackTimeout (s : State) : exec .ackTimeout s = execAckTimeout s := rfl
theorem exec_lanifyAcknowledgement (s : State) : exec .lanifyAcknowledgement s = execLanifyAcknowledgement s := rfl
theorem exec_replayRequest (s : State) : exec .replayRequest s = execReplayRequest s := rfl
theorem exec_dieTemperatureChange (s : State) : exec .dieTemperatureChange s = execDieTemperatureChange s := rfl
theorem exec_thermalStepDown (s : State) : exec .thermalStepDown s = execThermalStepDown s := rfl
theorem exec_thermalStepUp (s : State) : exec .thermalStepUp s = execThermalStepUp s := rfl
theorem exec_relockRestart (s : State) : exec .relockRestart s = execRelockRestart s := rfl
theorem exec_powerGrant (s : State) : exec .powerGrant s = execPowerGrant s := rfl
theorem exec_powerGrantArrival (s : State) : exec .powerGrantArrival s = execPowerGrantArrival s := rfl
theorem exec_allowanceExceeded (s : State) : exec .allowanceExceeded s = execAllowanceExceeded s := rfl
theorem exec_dramRowRemap (s : State) : exec .dramRowRemap s = execDramRowRemap s := rfl
theorem exec_spareRankBringIn (s : State) : exec .spareRankBringIn s = execSpareRankBringIn s := rfl
theorem exec_spareRankCopyDone (s : State) : exec .spareRankCopyDone s = execSpareRankCopyDone s := rfl
theorem exec_commandPost (s : State) : exec .commandPost s = execCommandPost s := rfl
theorem exec_commandAccept (s : State) : exec .commandAccept s = execCommandAccept s := rfl
theorem exec_commandComplete (s : State) : exec .commandComplete s = execCommandComplete s := rfl
theorem exec_functionLevelReset (s : State) : exec .functionLevelReset s = execFunctionLevelReset s := rfl
theorem exec_fnstWrite (s : State) : exec .fnstWrite s = execFnstWrite s := rfl
theorem exec_queryModule (s : State) : exec .queryModule s = execQueryModule s := rfl
theorem exec_queryPartition (s : State) : exec .queryPartition s = execQueryPartition s := rfl
theorem exec_partCreate (s : State) : exec .partCreate s = execPartCreate s := rfl
theorem exec_partDestroy (s : State) : exec .partDestroy s = execPartDestroy s := rfl
theorem exec_keySet (s : State) : exec .keySet s = execKeySet s := rfl
theorem exec_imageLoad (s : State) : exec .imageLoad s = execImageLoad s := rfl
theorem exec_boot (s : State) : exec .boot s = execBoot s := rfl
theorem exec_launch (s : State) : exec .launch s = execLaunch s := rfl
theorem exec_launchSeed (s : State) : exec .launchSeed s = execLaunchSeed s := rfl
theorem exec_launchComplete (s : State) : exec .launchComplete s = execLaunchComplete s := rfl
theorem exec_hostCopy (s : State) : exec .hostCopy s = execHostCopy s := rfl
theorem exec_attestQuote (s : State) : exec .attestQuote s = execAttestQuote s := rfl
theorem exec_attestChain (s : State) : exec .attestChain s = execAttestChain s := rfl
theorem exec_dump (s : State) : exec .dump s = execDump s := rfl
theorem exec_stop (s : State) : exec .stop s = execStop s := rfl
theorem exec_stopEdge (s : State) : exec .stopEdge s = execStopEdge s := rfl
theorem exec_resume (s : State) : exec .resume s = execResume s := rfl
theorem exec_censusCfgOff (s : State) : exec .censusCfgOff s = execCensusCfgOff s := rfl
theorem exec_censusCfgOn (s : State) : exec .censusCfgOn s = execCensusCfgOn s := rfl
theorem exec_censusCfgClear (s : State) : exec .censusCfgClear s = execCensusCfgClear s := rfl
theorem exec_censusCfgRetrain (s : State) : exec .censusCfgRetrain s = execCensusCfgRetrain s := rfl
theorem exec_powerSet (s : State) : exec .powerSet s = execPowerSet s := rfl
theorem exec_healthReport (s : State) : exec .healthReport s = execHealthReport s := rfl
theorem exec_healthRetrain (s : State) : exec .healthRetrain s = execHealthRetrain s := rfl
theorem exec_dispatch (s : State) : exec .dispatch s = execDispatch s := rfl
theorem exec_overflowRefill (s : State) : exec .overflowRefill s = execOverflowRefill s := rfl
theorem exec_stealIdle (s : State) : exec .stealIdle s = execStealIdle s := rfl
theorem exec_stealWaitEnd (s : State) : exec .stealWaitEnd s = execStealWaitEnd s := rfl
theorem exec_stealProbeArrival (s : State) : exec .stealProbeArrival s = execStealProbeArrival s := rfl
theorem exec_stolenTaskRecordArrival (s : State) : exec .stolenTaskRecordArrival s = execStolenTaskRecordArrival s := rfl
theorem exec_emptyReplyArrival (s : State) : exec .emptyReplyArrival s = execEmptyReplyArrival s := rfl
theorem exec_periodExpiry (s : State) : exec .periodExpiry s = execPeriodExpiry s := rfl
theorem exec_accountIncrementArrival (s : State) : exec .accountIncrementArrival s = execAccountIncrementArrival s := rfl
theorem exec_accountAckArrival (s : State) : exec .accountAckArrival s = execAccountAckArrival s := rfl
theorem exec_accountDecrementArrival (s : State) : exec .accountDecrementArrival s = execAccountDecrementArrival s := rfl
theorem exec_quitNoticeArrival (s : State) : exec .quitNoticeArrival s = execQuitNoticeArrival s := rfl
theorem exec_retirementDecrementSend (s : State) : exec .retirementDecrementSend s = execRetirementDecrementSend s := rfl
theorem exec_commitLogHandoff (s : State) : exec .commitLogHandoff s = execCommitLogHandoff s := rfl
theorem exec_commitEntry (s : State) : exec .commitEntry s = execCommitEntry s := rfl
theorem exec_commitEnd (s : State) : exec .commitEnd s = execCommitEnd s := rfl
theorem exec_seededRecordArrival (s : State) : exec .seededRecordArrival s = execSeededRecordArrival s := rfl
theorem exec_forkChildArrival (s : State) : exec .forkChildArrival s = execForkChildArrival s := rfl
theorem exec_taskTokenArrival (s : State) : exec .taskTokenArrival s = execTaskTokenArrival s := rfl
theorem exec_spawnTokenArrival (s : State) : exec .spawnTokenArrival s = execSpawnTokenArrival s := rfl
theorem exec_spawnDeadline (s : State) : exec .spawnDeadline s = execSpawnDeadline s := rfl
theorem exec_spawnReplyArrival (s : State) : exec .spawnReplyArrival s = execSpawnReplyArrival s := rfl
theorem exec_wakeTokenArrival (s : State) : exec .wakeTokenArrival s = execWakeTokenArrival s := rfl
theorem exec_storeBufferDrain (s : State) : exec .storeBufferDrain s = execStoreBufferDrain s := rfl
theorem exec_loopbackPerform (s : State) : exec .loopbackPerform s = execLoopbackPerform s := rfl
theorem exec_tableWalkComplete (s : State) : exec .tableWalkComplete s = execTableWalkComplete s := rfl
theorem exec_tlbinvComplete (s : State) : exec .tlbinvComplete s = execTlbinvComplete s := rfl
theorem exec_lmsplitTakeEffect (s : State) : exec .lmsplitTakeEffect s = execLmsplitTakeEffect s := rfl
theorem exec_engineCommandStart (s : State) : exec .engineCommandStart s = execEngineCommandStart s := rfl
theorem exec_engineRead (s : State) : exec .engineRead s = execEngineRead s := rfl
theorem exec_engineWritePerform (s : State) : exec .engineWritePerform s = execEngineWritePerform s := rfl
theorem exec_engineCommandComplete (s : State) : exec .engineCommandComplete s = execEngineCommandComplete s := rfl
theorem exec_latchTileArrival (s : State) : exec .latchTileArrival s = execLatchTileArrival s := rfl
theorem exec_ringStall (s : State) : exec .ringStall s = execRingStall s := rfl
theorem exec_timerExpiry (s : State) : exec .timerExpiry s = execTimerExpiry s := rfl
theorem exec_interruptEntry (s : State) : exec .interruptEntry s = execInterruptEntry s := rfl
theorem exec_noticeArrival (s : State) : exec .noticeArrival s = execNoticeArrival s := rfl
theorem exec_mailboxRingRefill (s : State) : exec .mailboxRingRefill s = execMailboxRingRefill s := rfl
theorem exec_contextArrival (s : State) : exec .contextArrival s = execContextArrival s := rfl
theorem exec_arrivalQueueRefill (s : State) : exec .arrivalQueueRefill s = execArrivalQueueRefill s := rfl
theorem exec_contextTake (s : State) : exec .contextTake s = execContextTake s := rfl
theorem exec_partyArrival (s : State) : exec .partyArrival s = execPartyArrival s := rfl
theorem exec_pairPlacement (s : State) : exec .pairPlacement s = execPairPlacement s := rfl
theorem exec_meetingDeadline (s : State) : exec .meetingDeadline s = execMeetingDeadline s := rfl
theorem exec_partyReturnArrival (s : State) : exec .partyReturnArrival s = execPartyReturnArrival s := rfl
theorem exec_luggageWriteArrival (s : State) : exec .luggageWriteArrival s = execLuggageWriteArrival s := rfl
theorem exec_dumpWrite (s : State) : exec .dumpWrite s = execDumpWrite s := rfl
theorem exec_testSlice (s : State) : exec .testSlice s = execTestSlice s := rfl
theorem exec_forcedTestGap (s : State) : exec .forcedTestGap s = execForcedTestGap s := rfl
theorem exec_testSliceComplete (s : State) : exec .testSliceComplete s = execTestSliceComplete s := rfl
theorem exec_censusRecordWrite (s : State) : exec .censusRecordWrite s = execCensusRecordWrite s := rfl
theorem exec_sampleRecord (s : State) : exec .sampleRecord s = execSampleRecord s := rfl
theorem exec_barrierArrivalAtRoot (s : State) : exec .barrierArrivalAtRoot s = execBarrierArrivalAtRoot s := rfl
theorem exec_barrierReleaseArrival (s : State) : exec .barrierReleaseArrival s = execBarrierReleaseArrival s := rfl
theorem exec_podRelayForward (s : State) : exec .podRelayForward s = execPodRelayForward s := rfl
theorem exec_barsetRootTake (s : State) : exec .barsetRootTake s = execBarsetRootTake s := rfl
theorem exec_registerWrite (s : State) : exec .registerWrite s = execRegisterWrite s := rfl
theorem exec_lmsplitWrite (s : State) : exec .lmsplitWrite s = execLmsplitWrite s := rfl
theorem exec_tlbinvPage (s : State) : exec .tlbinvPage s = execTlbinvPage s := rfl
theorem exec_tlbinvAsid (s : State) : exec .tlbinvAsid s = execTlbinvAsid s := rfl
theorem exec_tlbinvPartition (s : State) : exec .tlbinvPartition s = execTlbinvPartition s := rfl
theorem exec_ptbaseWrite (s : State) : exec .ptbaseWrite s = execPtbaseWrite s := rfl
theorem exec_fcsrWrite (s : State) : exec .fcsrWrite s = execFcsrWrite s := rfl
theorem exec_mbstWrite (s : State) : exec .mbstWrite s = execMbstWrite s := rfl
theorem exec_engineStatusWrite (s : State) : exec .engineStatusWrite s = execEngineStatusWrite s := rfl
theorem exec_illegalEncoding (s : State) : exec .illegalEncoding s = execIllegalEncoding s := rfl
theorem exec_luggageWriteAcknowledgement (s : State) : exec .luggageWriteAcknowledgement s = execLuggageWriteAcknowledgement s := rfl
theorem exec_monitorSlotStop (s : State) : exec .monitorSlotStop s = execMonitorSlotStop s := rfl
theorem exec_columnCopyComplete (s : State) : exec .columnCopyComplete s = execColumnCopyComplete s := rfl
theorem exec_rowCopyComplete (s : State) : exec .rowCopyComplete s = execRowCopyComplete s := rfl

end Sys2Proof.Machine
end

