-- ==== Sys2Proof/Laws/PerInstr.lean ====
section
/-! SUPPORT. One lemma per constructor of Instr: the word of a well-formed instruction decodes to it (R294, R301 to R306). -/
namespace Sys2Proof.Laws.RoundTrip

/-- The word that the encoder gives a well-formed instruction has 32 bits, and decodes to that instruction. -/
def Statement (i : Instr) : Prop := ∀ n, i.wf = true → encodeNat i = some n → n < 2 ^ 32 ∧ decodeNat n = .ok i

/-! ## Words put together from, and cut into, their fields -/
theorem pack0 (w : Nat) : pack w [] = w := rfl

theorem pack1 (w v0 i0 : Nat) : pack w [(v0, i0)] = w + v0 * 2 ^ i0 := rfl

theorem pack2 (w v0 i0 v1 i1 : Nat) : pack w [(v0, i0), (v1, i1)] = w + v0 * 2 ^ i0 + v1 * 2 ^ i1 := rfl

theorem pack3 (w v0 i0 v1 i1 v2 i2 : Nat) : pack w [(v0, i0), (v1, i1), (v2, i2)] = w + v0 * 2 ^ i0 + v1 * 2 ^ i1 + v2 * 2 ^ i2 := rfl

theorem pack4 (w v0 i0 v1 i1 v2 i2 v3 i3 : Nat) : pack w [(v0, i0), (v1, i1), (v2, i2), (v3, i3)] = w + v0 * 2 ^ i0 + v1 * 2 ^ i1 + v2 * 2 ^ i2 + v3 * 2 ^ i3 := rfl

theorem pack5 (w v0 i0 v1 i1 v2 i2 v3 i3 v4 i4 : Nat) : pack w [(v0, i0), (v1, i1), (v2, i2), (v3, i3), (v4, i4)] = w + v0 * 2 ^ i0 + v1 * 2 ^ i1 + v2 * 2 ^ i2 + v3 * 2 ^ i3 + v4 * 2 ^ i4 := rfl

theorem layout0 (w p0 p1 p2 p3 p4 p5 : Nat) (h0 : p0 < 2 ^ 6) (h1 : p1 < 2 ^ 4) (h2 : p2 < 2 ^ 4) (h3 : p3 < 2 ^ 4) (h4 : p4 < 2 ^ 8) (h5 : p5 < 2 ^ 6)
    (h : w = p0 * 2 ^ 26 + p1 * 2 ^ 22 + p2 * 2 ^ 18 + p3 * 2 ^ 14 + p4 * 2 ^ 6 + p5 * 2 ^ 0) :
    w < 2 ^ 32 ∧ fld w 31 26 = p0 ∧ fld w 25 22 = p1 ∧ fld w 21 18 = p2 ∧ fld w 17 14 = p3 ∧ fld w 13 6 = p4 ∧ fld w 5 0 = p5 := by
  simp only [fld] at *
  omega

theorem layout1 (w p0 p1 p2 p3 p4 p5 p6 : Nat) (h0 : p0 < 2 ^ 6) (h1 : p1 < 2 ^ 4) (h2 : p2 < 2 ^ 4) (h3 : p3 < 2 ^ 4) (h4 : p4 < 2 ^ 8) (h5 : p5 < 2 ^ 3) (h6 : p6 < 2 ^ 3)
    (h : w = p0 * 2 ^ 26 + p1 * 2 ^ 22 + p2 * 2 ^ 18 + p3 * 2 ^ 14 + p4 * 2 ^ 6 + p5 * 2 ^ 3 + p6 * 2 ^ 0) :
    w < 2 ^ 32 ∧ fld w 31 26 = p0 ∧ fld w 25 22 = p1 ∧ fld w 21 18 = p2 ∧ fld w 17 14 = p3 ∧ fld w 13 6 = p4 ∧ fld w 5 3 = p5 ∧ fld w 2 0 = p6 := by
  simp only [fld] at *
  omega

theorem layout2 (w p0 p1 p2 p3 : Nat) (h0 : p0 < 2 ^ 6) (h1 : p1 < 2 ^ 4) (h2 : p2 < 2 ^ 4) (h3 : p3 < 2 ^ 18)
    (h : w = p0 * 2 ^ 26 + p1 * 2 ^ 22 + p2 * 2 ^ 18 + p3 * 2 ^ 0) :
    w < 2 ^ 32 ∧ fld w 31 26 = p0 ∧ fld w 25 22 = p1 ∧ fld w 21 18 = p2 ∧ fld w 17 0 = p3 := by
  simp only [fld] at *
  omega

theorem layout3 (w p0 p1 p2 p3 p4 p5 : Nat) (h0 : p0 < 2 ^ 6) (h1 : p1 < 2 ^ 4) (h2 : p2 < 2 ^ 4) (h3 : p3 < 2 ^ 6) (h4 : p4 < 2 ^ 6) (h5 : p5 < 2 ^ 6)
    (h : w = p0 * 2 ^ 26 + p1 * 2 ^ 22 + p2 * 2 ^ 18 + p3 * 2 ^ 12 + p4 * 2 ^ 6 + p5 * 2 ^ 0) :
    w < 2 ^ 32 ∧ fld w 31 26 = p0 ∧ fld w 25 22 = p1 ∧ fld w 21 18 = p2 ∧ fld w 17 12 = p3 ∧ fld w 11 6 = p4 ∧ fld w 5 0 = p5 := by
  simp only [fld] at *
  omega

theorem layout4 (w p0 p1 p2 p3 p4 p5 : Nat) (h0 : p0 < 2 ^ 6) (h1 : p1 < 2 ^ 4) (h2 : p2 < 2 ^ 4) (h3 : p3 < 2 ^ 6) (h4 : p4 < 2 ^ 7) (h5 : p5 < 2 ^ 5)
    (h : w = p0 * 2 ^ 26 + p1 * 2 ^ 22 + p2 * 2 ^ 18 + p3 * 2 ^ 12 + p4 * 2 ^ 5 + p5 * 2 ^ 0) :
    w < 2 ^ 32 ∧ fld w 31 26 = p0 ∧ fld w 25 22 = p1 ∧ fld w 21 18 = p2 ∧ fld w 17 12 = p3 ∧ fld w 11 5 = p4 ∧ fld w 4 0 = p5 := by
  simp only [fld] at *
  omega

theorem layout5 (w p0 p1 p2 : Nat) (h0 : p0 < 2 ^ 6) (h1 : p1 < 2 ^ 4) (h2 : p2 < 2 ^ 22)
    (h : w = p0 * 2 ^ 26 + p1 * 2 ^ 22 + p2 * 2 ^ 0) :
    w < 2 ^ 32 ∧ fld w 31 26 = p0 ∧ fld w 25 22 = p1 ∧ fld w 21 0 = p2 := by
  simp only [fld] at *
  omega

theorem layout6 (w p0 p1 p2 p3 p4 p5 : Nat) (h0 : p0 < 2 ^ 6) (h1 : p1 < 2 ^ 4) (h2 : p2 < 2 ^ 4) (h3 : p3 < 2 ^ 4) (h4 : p4 < 2 ^ 4) (h5 : p5 < 2 ^ 10)
    (h : w = p0 * 2 ^ 26 + p1 * 2 ^ 22 + p2 * 2 ^ 18 + p3 * 2 ^ 14 + p4 * 2 ^ 10 + p5 * 2 ^ 0) :
    w < 2 ^ 32 ∧ fld w 31 26 = p0 ∧ fld w 25 22 = p1 ∧ fld w 21 18 = p2 ∧ fld w 17 14 = p3 ∧ fld w 13 10 = p4 ∧ fld w 9 0 = p5 := by
  simp only [fld] at *
  omega

theorem layout7 (w p0 p1 p2 p3 p4 : Nat) (h0 : p0 < 2 ^ 6) (h1 : p1 < 2 ^ 4) (h2 : p2 < 2 ^ 4) (h3 : p3 < 2 ^ 4) (h4 : p4 < 2 ^ 14)
    (h : w = p0 * 2 ^ 26 + p1 * 2 ^ 22 + p2 * 2 ^ 18 + p3 * 2 ^ 14 + p4 * 2 ^ 0) :
    w < 2 ^ 32 ∧ fld w 31 26 = p0 ∧ fld w 25 22 = p1 ∧ fld w 21 18 = p2 ∧ fld w 17 14 = p3 ∧ fld w 13 0 = p4 := by
  simp only [fld] at *
  omega

theorem layout8 (w p0 p1 p2 p3 p4 : Nat) (h0 : p0 < 2 ^ 6) (h1 : p1 < 2 ^ 4) (h2 : p2 < 2 ^ 4) (h3 : p3 < 2 ^ 8) (h4 : p4 < 2 ^ 10)
    (h : w = p0 * 2 ^ 26 + p1 * 2 ^ 22 + p2 * 2 ^ 18 + p3 * 2 ^ 10 + p4 * 2 ^ 0) :
    w < 2 ^ 32 ∧ fld w 31 26 = p0 ∧ fld w 25 22 = p1 ∧ fld w 21 18 = p2 ∧ fld w 17 10 = p3 ∧ fld w 9 0 = p4 := by
  simp only [fld] at *
  omega

theorem layout9 (w p0 p1 p2 p3 : Nat) (h0 : p0 < 2 ^ 6) (h1 : p1 < 2 ^ 4) (h2 : p2 < 2 ^ 12) (h3 : p3 < 2 ^ 10)
    (h : w = p0 * 2 ^ 26 + p1 * 2 ^ 22 + p2 * 2 ^ 10 + p3 * 2 ^ 0) :
    w < 2 ^ 32 ∧ fld w 31 26 = p0 ∧ fld w 25 22 = p1 ∧ fld w 21 10 = p2 ∧ fld w 9 0 = p3 := by
  simp only [fld] at *
  omega

theorem layout10 (w p0 p1 p2 p3 p4 p5 p6 : Nat) (h0 : p0 < 2 ^ 6) (h1 : p1 < 2 ^ 4) (h2 : p2 < 2 ^ 4) (h3 : p3 < 2 ^ 4) (h4 : p4 < 2 ^ 8) (h5 : p5 < 2 ^ 5) (h6 : p6 < 2 ^ 1)
    (h : w = p0 * 2 ^ 26 + p1 * 2 ^ 22 + p2 * 2 ^ 18 + p3 * 2 ^ 14 + p4 * 2 ^ 6 + p5 * 2 ^ 1 + p6 * 2 ^ 0) :
    w < 2 ^ 32 ∧ fld w 31 26 = p0 ∧ fld w 25 22 = p1 ∧ fld w 21 18 = p2 ∧ fld w 17 14 = p3 ∧ fld w 13 6 = p4 ∧ fld w 5 1 = p5 ∧ fld w 0 0 = p6 := by
  simp only [fld] at *
  omega

theorem layout11 (w p0 p1 p2 p3 : Nat) (h0 : p0 < 2 ^ 6) (h1 : p1 < 2 ^ 4) (h2 : p2 < 2 ^ 1) (h3 : p3 < 2 ^ 21)
    (h : w = p0 * 2 ^ 26 + p1 * 2 ^ 22 + p2 * 2 ^ 21 + p3 * 2 ^ 0) :
    w < 2 ^ 32 ∧ fld w 31 26 = p0 ∧ fld w 25 22 = p1 ∧ fld w 21 21 = p2 ∧ fld w 20 0 = p3 := by
  simp only [fld] at *
  omega

theorem layout12 (w p0 p1 : Nat) (h0 : p0 < 2 ^ 6) (h1 : p1 < 2 ^ 26)
    (h : w = p0 * 2 ^ 26 + p1 * 2 ^ 0) :
    w < 2 ^ 32 ∧ fld w 31 26 = p0 ∧ fld w 25 0 = p1 := by
  simp only [fld] at *
  omega

theorem layout13 (w p0 p1 p2 p3 p4 p5 : Nat) (h0 : p0 < 2 ^ 6) (h1 : p1 < 2 ^ 4) (h2 : p2 < 2 ^ 8) (h3 : p3 < 2 ^ 8) (h4 : p4 < 2 ^ 2) (h5 : p5 < 2 ^ 4)
    (h : w = p0 * 2 ^ 26 + p1 * 2 ^ 22 + p2 * 2 ^ 14 + p3 * 2 ^ 6 + p4 * 2 ^ 4 + p5 * 2 ^ 0) :
    w < 2 ^ 32 ∧ fld w 31 26 = p0 ∧ fld w 25 22 = p1 ∧ fld w 21 14 = p2 ∧ fld w 13 6 = p3 ∧ fld w 5 4 = p4 ∧ fld w 3 0 = p5 := by
  simp only [fld] at *
  omega

theorem layout14 (w p0 p1 p2 p3 p4 : Nat) (h0 : p0 < 2 ^ 6) (h1 : p1 < 2 ^ 4) (h2 : p2 < 2 ^ 8) (h3 : p3 < 2 ^ 8) (h4 : p4 < 2 ^ 6)
    (h : w = p0 * 2 ^ 26 + p1 * 2 ^ 22 + p2 * 2 ^ 14 + p3 * 2 ^ 6 + p4 * 2 ^ 0) :
    w < 2 ^ 32 ∧ fld w 31 26 = p0 ∧ fld w 25 22 = p1 ∧ fld w 21 14 = p2 ∧ fld w 13 6 = p3 ∧ fld w 5 0 = p4 := by
  simp only [fld] at *
  omega

theorem layout15 (w p0 p1 p2 p3 p4 : Nat) (h0 : p0 < 2 ^ 6) (h1 : p1 < 2 ^ 10) (h2 : p2 < 2 ^ 9) (h3 : p3 < 2 ^ 3) (h4 : p4 < 2 ^ 4)
    (h : w = p0 * 2 ^ 26 + p1 * 2 ^ 16 + p2 * 2 ^ 7 + p3 * 2 ^ 4 + p4 * 2 ^ 0) :
    w < 2 ^ 32 ∧ fld w 31 26 = p0 ∧ fld w 25 16 = p1 ∧ fld w 15 7 = p2 ∧ fld w 6 4 = p3 ∧ fld w 3 0 = p4 := by
  simp only [fld] at *
  omega

theorem layout16 (w p0 p1 p2 p3 p4 p5 : Nat) (h0 : p0 < 2 ^ 6) (h1 : p1 < 2 ^ 10) (h2 : p2 < 2 ^ 4) (h3 : p3 < 2 ^ 5) (h4 : p4 < 2 ^ 3) (h5 : p5 < 2 ^ 4)
    (h : w = p0 * 2 ^ 26 + p1 * 2 ^ 16 + p2 * 2 ^ 12 + p3 * 2 ^ 7 + p4 * 2 ^ 4 + p5 * 2 ^ 0) :
    w < 2 ^ 32 ∧ fld w 31 26 = p0 ∧ fld w 25 16 = p1 ∧ fld w 15 12 = p2 ∧ fld w 11 7 = p3 ∧ fld w 6 4 = p4 ∧ fld w 3 0 = p5 := by
  simp only [fld] at *
  omega

theorem layout17 (w p0 p1 p2 p3 : Nat) (h0 : p0 < 2 ^ 6) (h1 : p1 < 2 ^ 10) (h2 : p2 < 2 ^ 4) (h3 : p3 < 2 ^ 12)
    (h : w = p0 * 2 ^ 26 + p1 * 2 ^ 16 + p2 * 2 ^ 12 + p3 * 2 ^ 0) :
    w < 2 ^ 32 ∧ fld w 31 26 = p0 ∧ fld w 25 16 = p1 ∧ fld w 15 12 = p2 ∧ fld w 11 0 = p3 := by
  simp only [fld] at *
  omega

theorem layout18 (w p0 p1 p2 p3 : Nat) (h0 : p0 < 2 ^ 6) (h1 : p1 < 2 ^ 10) (h2 : p2 < 2 ^ 8) (h3 : p3 < 2 ^ 8)
    (h : w = p0 * 2 ^ 26 + p1 * 2 ^ 16 + p2 * 2 ^ 8 + p3 * 2 ^ 0) :
    w < 2 ^ 32 ∧ fld w 31 26 = p0 ∧ fld w 25 16 = p1 ∧ fld w 15 8 = p2 ∧ fld w 7 0 = p3 := by
  simp only [fld] at *
  omega

theorem layout19 (w p0 p1 p2 : Nat) (h0 : p0 < 2 ^ 6) (h1 : p1 < 2 ^ 10) (h2 : p2 < 2 ^ 16)
    (h : w = p0 * 2 ^ 26 + p1 * 2 ^ 16 + p2 * 2 ^ 0) :
    w < 2 ^ 32 ∧ fld w 31 26 = p0 ∧ fld w 25 16 = p1 ∧ fld w 15 0 = p2 := by
  simp only [fld] at *
  omega

theorem layout20 (w p0 p1 p2 p3 p4 p5 : Nat) (h0 : p0 < 2 ^ 6) (h1 : p1 < 2 ^ 4) (h2 : p2 < 2 ^ 4) (h3 : p3 < 2 ^ 6) (h4 : p4 < 2 ^ 1) (h5 : p5 < 2 ^ 11)
    (h : w = p0 * 2 ^ 26 + p1 * 2 ^ 22 + p2 * 2 ^ 18 + p3 * 2 ^ 12 + p4 * 2 ^ 11 + p5 * 2 ^ 0) :
    w < 2 ^ 32 ∧ fld w 31 26 = p0 ∧ fld w 25 22 = p1 ∧ fld w 21 18 = p2 ∧ fld w 17 12 = p3 ∧ fld w 11 11 = p4 ∧ fld w 10 0 = p5 := by
  simp only [fld] at *
  omega

theorem layout21 (w p0 p1 p2 p3 p4 p5 : Nat) (h0 : p0 < 2 ^ 6) (h1 : p1 < 2 ^ 4) (h2 : p2 < 2 ^ 4) (h3 : p3 < 2 ^ 6) (h4 : p4 < 2 ^ 11) (h5 : p5 < 2 ^ 1)
    (h : w = p0 * 2 ^ 26 + p1 * 2 ^ 22 + p2 * 2 ^ 18 + p3 * 2 ^ 12 + p4 * 2 ^ 1 + p5 * 2 ^ 0) :
    w < 2 ^ 32 ∧ fld w 31 26 = p0 ∧ fld w 25 22 = p1 ∧ fld w 21 18 = p2 ∧ fld w 17 12 = p3 ∧ fld w 11 1 = p4 ∧ fld w 0 0 = p5 := by
  simp only [fld] at *
  omega

theorem layout22 (w p0 p1 p2 p3 p4 p5 p6 : Nat) (h0 : p0 < 2 ^ 6) (h1 : p1 < 2 ^ 4) (h2 : p2 < 2 ^ 4) (h3 : p3 < 2 ^ 6) (h4 : p4 < 2 ^ 1) (h5 : p5 < 2 ^ 10) (h6 : p6 < 2 ^ 1)
    (h : w = p0 * 2 ^ 26 + p1 * 2 ^ 22 + p2 * 2 ^ 18 + p3 * 2 ^ 12 + p4 * 2 ^ 11 + p5 * 2 ^ 1 + p6 * 2 ^ 0) :
    w < 2 ^ 32 ∧ fld w 31 26 = p0 ∧ fld w 25 22 = p1 ∧ fld w 21 18 = p2 ∧ fld w 17 12 = p3 ∧ fld w 11 11 = p4 ∧ fld w 10 1 = p5 ∧ fld w 0 0 = p6 := by
  simp only [fld] at *
  omega

theorem layout23 (w p0 p1 p2 p3 p4 p5 p6 p7 : Nat) (h0 : p0 < 2 ^ 6) (h1 : p1 < 2 ^ 4) (h2 : p2 < 2 ^ 4) (h3 : p3 < 2 ^ 6) (h4 : p4 < 2 ^ 1) (h5 : p5 < 2 ^ 9) (h6 : p6 < 2 ^ 1) (h7 : p7 < 2 ^ 1)
    (h : w = p0 * 2 ^ 26 + p1 * 2 ^ 22 + p2 * 2 ^ 18 + p3 * 2 ^ 12 + p4 * 2 ^ 11 + p5 * 2 ^ 2 + p6 * 2 ^ 1 + p7 * 2 ^ 0) :
    w < 2 ^ 32 ∧ fld w 31 26 = p0 ∧ fld w 25 22 = p1 ∧ fld w 21 18 = p2 ∧ fld w 17 12 = p3 ∧ fld w 11 11 = p4 ∧ fld w 10 2 = p5 ∧ fld w 1 1 = p6 ∧ fld w 0 0 = p7 := by
  simp only [fld] at *
  omega

theorem layout24 (w p0 p1 p2 p3 p4 p5 p6 p7 p8 : Nat) (h0 : p0 < 2 ^ 6) (h1 : p1 < 2 ^ 4) (h2 : p2 < 2 ^ 4) (h3 : p3 < 2 ^ 6) (h4 : p4 < 2 ^ 1) (h5 : p5 < 2 ^ 3) (h6 : p6 < 2 ^ 4) (h7 : p7 < 2 ^ 3) (h8 : p8 < 2 ^ 1)
    (h : w = p0 * 2 ^ 26 + p1 * 2 ^ 22 + p2 * 2 ^ 18 + p3 * 2 ^ 12 + p4 * 2 ^ 11 + p5 * 2 ^ 8 + p6 * 2 ^ 4 + p7 * 2 ^ 1 + p8 * 2 ^ 0) :
    w < 2 ^ 32 ∧ fld w 31 26 = p0 ∧ fld w 25 22 = p1 ∧ fld w 21 18 = p2 ∧ fld w 17 12 = p3 ∧ fld w 11 11 = p4 ∧ fld w 10 8 = p5 ∧ fld w 7 4 = p6 ∧ fld w 3 1 = p7 ∧ fld w 0 0 = p8 := by
  simp only [fld] at *
  omega

theorem layout25 (w p0 p1 p2 p3 p4 p5 p6 p7 p8 p9 : Nat) (h0 : p0 < 2 ^ 6) (h1 : p1 < 2 ^ 4) (h2 : p2 < 2 ^ 4) (h3 : p3 < 2 ^ 6) (h4 : p4 < 2 ^ 1) (h5 : p5 < 2 ^ 3) (h6 : p6 < 2 ^ 4) (h7 : p7 < 2 ^ 2) (h8 : p8 < 2 ^ 1) (h9 : p9 < 2 ^ 1)
    (h : w = p0 * 2 ^ 26 + p1 * 2 ^ 22 + p2 * 2 ^ 18 + p3 * 2 ^ 12 + p4 * 2 ^ 11 + p5 * 2 ^ 8 + p6 * 2 ^ 4 + p7 * 2 ^ 2 + p8 * 2 ^ 1 + p9 * 2 ^ 0) :
    w < 2 ^ 32 ∧ fld w 31 26 = p0 ∧ fld w 25 22 = p1 ∧ fld w 21 18 = p2 ∧ fld w 17 12 = p3 ∧ fld w 11 11 = p4 ∧ fld w 10 8 = p5 ∧ fld w 7 4 = p6 ∧ fld w 3 2 = p7 ∧ fld w 1 1 = p8 ∧ fld w 0 0 = p9 := by
  simp only [fld] at *
  omega

theorem layout26 (w p0 p1 p2 p3 p4 p5 p6 p7 : Nat) (h0 : p0 < 2 ^ 6) (h1 : p1 < 2 ^ 4) (h2 : p2 < 2 ^ 4) (h3 : p3 < 2 ^ 6) (h4 : p4 < 2 ^ 1) (h5 : p5 < 2 ^ 5) (h6 : p6 < 2 ^ 2) (h7 : p7 < 2 ^ 4)
    (h : w = p0 * 2 ^ 26 + p1 * 2 ^ 22 + p2 * 2 ^ 18 + p3 * 2 ^ 12 + p4 * 2 ^ 11 + p5 * 2 ^ 6 + p6 * 2 ^ 4 + p7 * 2 ^ 0) :
    w < 2 ^ 32 ∧ fld w 31 26 = p0 ∧ fld w 25 22 = p1 ∧ fld w 21 18 = p2 ∧ fld w 17 12 = p3 ∧ fld w 11 11 = p4 ∧ fld w 10 6 = p5 ∧ fld w 5 4 = p6 ∧ fld w 3 0 = p7 := by
  simp only [fld] at *
  omega

theorem layout27 (w p0 p1 p2 p3 p4 p5 p6 p7 : Nat) (h0 : p0 < 2 ^ 6) (h1 : p1 < 2 ^ 4) (h2 : p2 < 2 ^ 4) (h3 : p3 < 2 ^ 6) (h4 : p4 < 2 ^ 1) (h5 : p5 < 2 ^ 6) (h6 : p6 < 2 ^ 1) (h7 : p7 < 2 ^ 4)
    (h : w = p0 * 2 ^ 26 + p1 * 2 ^ 22 + p2 * 2 ^ 18 + p3 * 2 ^ 12 + p4 * 2 ^ 11 + p5 * 2 ^ 5 + p6 * 2 ^ 4 + p7 * 2 ^ 0) :
    w < 2 ^ 32 ∧ fld w 31 26 = p0 ∧ fld w 25 22 = p1 ∧ fld w 21 18 = p2 ∧ fld w 17 12 = p3 ∧ fld w 11 11 = p4 ∧ fld w 10 5 = p5 ∧ fld w 4 4 = p6 ∧ fld w 3 0 = p7 := by
  simp only [fld] at *
  omega

theorem layout28 (w p0 p1 p2 p3 p4 : Nat) (h0 : p0 < 2 ^ 6) (h1 : p1 < 2 ^ 8) (h2 : p2 < 2 ^ 6) (h3 : p3 < 2 ^ 1) (h4 : p4 < 2 ^ 11)
    (h : w = p0 * 2 ^ 26 + p1 * 2 ^ 18 + p2 * 2 ^ 12 + p3 * 2 ^ 11 + p4 * 2 ^ 0) :
    w < 2 ^ 32 ∧ fld w 31 26 = p0 ∧ fld w 25 18 = p1 ∧ fld w 17 12 = p2 ∧ fld w 11 11 = p3 ∧ fld w 10 0 = p4 := by
  simp only [fld] at *
  omega

theorem layout29 (w p0 p1 p2 p3 p4 p5 p6 p7 p8 : Nat) (h0 : p0 < 2 ^ 6) (h1 : p1 < 2 ^ 4) (h2 : p2 < 2 ^ 4) (h3 : p3 < 2 ^ 6) (h4 : p4 < 2 ^ 1) (h5 : p5 < 2 ^ 4) (h6 : p6 < 2 ^ 1) (h7 : p7 < 2 ^ 2) (h8 : p8 < 2 ^ 4)
    (h : w = p0 * 2 ^ 26 + p1 * 2 ^ 22 + p2 * 2 ^ 18 + p3 * 2 ^ 12 + p4 * 2 ^ 11 + p5 * 2 ^ 7 + p6 * 2 ^ 6 + p7 * 2 ^ 4 + p8 * 2 ^ 0) :
    w < 2 ^ 32 ∧ fld w 31 26 = p0 ∧ fld w 25 22 = p1 ∧ fld w 21 18 = p2 ∧ fld w 17 12 = p3 ∧ fld w 11 11 = p4 ∧ fld w 10 7 = p5 ∧ fld w 6 6 = p6 ∧ fld w 5 4 = p7 ∧ fld w 3 0 = p8 := by
  simp only [fld] at *
  omega

theorem layout30 (w p0 p1 p2 p3 p4 p5 p6 p7 : Nat) (h0 : p0 < 2 ^ 6) (h1 : p1 < 2 ^ 4) (h2 : p2 < 2 ^ 4) (h3 : p3 < 2 ^ 6) (h4 : p4 < 2 ^ 1) (h5 : p5 < 2 ^ 4) (h6 : p6 < 2 ^ 1) (h7 : p7 < 2 ^ 6)
    (h : w = p0 * 2 ^ 26 + p1 * 2 ^ 22 + p2 * 2 ^ 18 + p3 * 2 ^ 12 + p4 * 2 ^ 11 + p5 * 2 ^ 7 + p6 * 2 ^ 6 + p7 * 2 ^ 0) :
    w < 2 ^ 32 ∧ fld w 31 26 = p0 ∧ fld w 25 22 = p1 ∧ fld w 21 18 = p2 ∧ fld w 17 12 = p3 ∧ fld w 11 11 = p4 ∧ fld w 10 7 = p5 ∧ fld w 6 6 = p6 ∧ fld w 5 0 = p7 := by
  simp only [fld] at *
  omega

theorem layout31 (w p0 p1 p2 p3 : Nat) (h0 : p0 < 2 ^ 6) (h1 : p1 < 2 ^ 12) (h2 : p2 < 2 ^ 8) (h3 : p3 < 2 ^ 6)
    (h : w = p0 * 2 ^ 26 + p1 * 2 ^ 14 + p2 * 2 ^ 6 + p3 * 2 ^ 0) :
    w < 2 ^ 32 ∧ fld w 31 26 = p0 ∧ fld w 25 14 = p1 ∧ fld w 13 6 = p2 ∧ fld w 5 0 = p3 := by
  simp only [fld] at *
  omega

/-! ## The rows of the decoder -/

theorem decMajor01 (w : Nat) (h : fld w 31 26 = 1) : decodeNat w = dec01 w := by
  unfold decodeNat
  rw [h]
  rfl

theorem decMajor02 (w : Nat) (h : fld w 31 26 = 2) : decodeNat w = dec02 w := by
  unfold decodeNat
  rw [h]
  rfl

theorem decMajor03 (w : Nat) (h : fld w 31 26 = 3) : decodeNat w = dec03 w := by
  unfold decodeNat
  rw [h]
  rfl

theorem decMajor04 (w : Nat) (h : fld w 31 26 = 4) : decodeNat w = dec04 w := by
  unfold decodeNat
  rw [h]
  rfl

theorem decMajor05 (w : Nat) (h : fld w 31 26 = 5) : decodeNat w = dec05 w := by
  unfold decodeNat
  rw [h]
  rfl

theorem decMajor06 (w : Nat) (h : fld w 31 26 = 6) : decodeNat w = dec06 w := by
  unfold decodeNat
  rw [h]
  rfl

theorem decMajor07 (w : Nat) (h : fld w 31 26 = 7) : decodeNat w = dec07 w := by
  unfold decodeNat
  rw [h]
  rfl

theorem decMajor08 (w : Nat) (h : fld w 31 26 = 8) : decodeNat w = dec08 w := by
  unfold decodeNat
  rw [h]
  rfl

theorem decMajor09 (w : Nat) (h : fld w 31 26 = 9) : decodeNat w = dec09 w := by
  unfold decodeNat
  rw [h]
  rfl

theorem decMajor0A (w : Nat) (h : fld w 31 26 = 10) : decodeNat w = dec0A w := by
  unfold decodeNat
  rw [h]
  rfl

theorem decMajor0B (w : Nat) (h : fld w 31 26 = 11) : decodeNat w = dec0B w := by
  unfold decodeNat
  rw [h]
  rfl

theorem decMajor0C (w : Nat) (h : fld w 31 26 = 12) : decodeNat w = dec0C w := by
  unfold decodeNat
  rw [h]
  rfl

theorem decMajor0D (w : Nat) (h : fld w 31 26 = 13) : decodeNat w = dec0D w := by
  unfold decodeNat
  rw [h]
  rfl

theorem decMajor0E (w : Nat) (h : fld w 31 26 = 14) : decodeNat w = dec0E w := by
  unfold decodeNat
  rw [h]
  rfl

theorem decMajor0F (w : Nat) (h : fld w 31 26 = 15) : decodeNat w = dec0F w := by
  unfold decodeNat
  rw [h]
  rfl

theorem decMajor10 (w : Nat) (h : fld w 31 26 = 16) : decodeNat w = dec10 w := by
  unfold decodeNat
  rw [h]
  rfl

theorem decMajor11 (w : Nat) (h : fld w 31 26 = 17) : decodeNat w = dec11 w := by
  unfold decodeNat
  rw [h]
  rfl

theorem decMajor12 (w : Nat) (h : fld w 31 26 = 18) : decodeNat w = dec12 w := by
  unfold decodeNat
  rw [h]
  rfl

theorem decMajor13 (w : Nat) (h : fld w 31 26 = 19) : decodeNat w = dec13 w := by
  unfold decodeNat
  rw [h]
  rfl

theorem decMajor14 (w : Nat) (h : fld w 31 26 = 20) : decodeNat w = dec14 w := by
  unfold decodeNat
  rw [h]
  rfl

theorem decMajor15 (w : Nat) (h : fld w 31 26 = 21) : decodeNat w = dec15 w := by
  unfold decodeNat
  rw [h]
  rfl

theorem decMajor16 (w : Nat) (h : fld w 31 26 = 22) : decodeNat w = dec16 w := by
  unfold decodeNat
  rw [h]
  rfl

theorem decMajor17 (w : Nat) (h : fld w 31 26 = 23) : decodeNat w = dec17 w := by
  unfold decodeNat
  rw [h]
  rfl

theorem decMajor18 (w : Nat) (h : fld w 31 26 = 24) : decodeNat w = dec18 w := by
  unfold decodeNat
  rw [h]
  rfl

theorem decMajor19 (w : Nat) (h : fld w 31 26 = 25) : decodeNat w = dec19 w := by
  unfold decodeNat
  rw [h]
  rfl

theorem decMajor1A (w : Nat) (h : fld w 31 26 = 26) : decodeNat w = dec1A w := by
  unfold decodeNat
  rw [h]
  rfl

theorem decMajor1B (w : Nat) (h : fld w 31 26 = 27) : decodeNat w = dec1B w := by
  unfold decodeNat
  rw [h]
  rfl

theorem decMajor1C (w : Nat) (h : fld w 31 26 = 28) : decodeNat w = dec1C w := by
  unfold decodeNat
  rw [h]
  rfl

theorem decMajor1D (w : Nat) (h : fld w 31 26 = 29) : decodeNat w = dec1D w := by
  unfold decodeNat
  rw [h]
  rfl

theorem decMajor1E (w : Nat) (h : fld w 31 26 = 30) : decodeNat w = dec1E w := by
  unfold decodeNat
  rw [h]
  rfl

theorem decMajor1F (w : Nat) (h : fld w 31 26 = 31) : decodeNat w = dec1F w := by
  unfold decodeNat
  rw [h]
  rfl

theorem decMajor20 (w : Nat) (h : fld w 31 26 = 32) : decodeNat w = dec20 w := by
  unfold decodeNat
  rw [h]
  rfl

theorem decMajor21 (w : Nat) (h : fld w 31 26 = 33) : decodeNat w = dec21 w := by
  unfold decodeNat
  rw [h]
  rfl

theorem decMajor22 (w : Nat) (h : fld w 31 26 = 34) : decodeNat w = dec22 w := by
  unfold decodeNat
  rw [h]
  rfl

theorem decMajor23 (w : Nat) (h : fld w 31 26 = 35) : decodeNat w = dec23 w := by
  unfold decodeNat
  rw [h]
  rfl

theorem decMajor24 (w : Nat) (h : fld w 31 26 = 36) : decodeNat w = dec24 w := by
  unfold decodeNat
  rw [h]
  rfl

theorem decMajor25 (w : Nat) (h : fld w 31 26 = 37) : decodeNat w = dec25 w := by
  unfold decodeNat
  rw [h]
  rfl

theorem decMajor26 (w : Nat) (h : fld w 31 26 = 38) : decodeNat w = dec26 w := by
  unfold decodeNat
  rw [h]
  rfl

theorem decMajor27 (w : Nat) (h : fld w 31 26 = 39) : decodeNat w = dec27 w := by
  unfold decodeNat
  rw [h]
  rfl

theorem decMajor28 (w : Nat) (h : fld w 31 26 = 40) : decodeNat w = dec28 w := by
  unfold decodeNat
  rw [h]
  rfl

theorem decMajor29 (w : Nat) (h : fld w 31 26 = 41) : decodeNat w = dec29 w := by
  unfold decodeNat
  rw [h]
  rfl

theorem decMajor2A (w : Nat) (h : fld w 31 26 = 42) : decodeNat w = dec2A w := by
  unfold decodeNat
  rw [h]
  rfl

theorem decMajor30 (w : Nat) (h : fld w 31 26 = 48) : decodeNat w = dec30 w := by
  unfold decodeNat
  rw [h]
  rfl

theorem decMajor31 (w : Nat) (h : fld w 31 26 = 49) : decodeNat w = dec31 w := by
  unfold decodeNat
  rw [h]
  rfl

theorem decMajor32 (w : Nat) (h : fld w 31 26 = 50) : decodeNat w = dec32 w := by
  unfold decodeNat
  rw [h]
  rfl

theorem decMajor33 (w : Nat) (h : fld w 31 26 = 51) : decodeNat w = dec33 w := by
  unfold decodeNat
  rw [h]
  rfl

theorem decMajor34 (w : Nat) (h : fld w 31 26 = 52) : decodeNat w = dec34 w := by
  unfold decodeNat
  rw [h]
  rfl

theorem decMajor35 (w : Nat) (h : fld w 31 26 = 53) : decodeNat w = dec35 w := by
  unfold decodeNat
  rw [h]
  rfl

theorem decMajor36 (w : Nat) (h : fld w 31 26 = 54) : decodeNat w = dec36 w := by
  unfold decodeNat
  rw [h]
  rfl

theorem decMajor37 (w : Nat) (h : fld w 31 26 = 55) : decodeNat w = dec37 w := by
  unfold decodeNat
  rw [h]
  rfl

theorem decMajor38 (w : Nat) (h : fld w 31 26 = 56) : decodeNat w = dec38 w := by
  unfold decodeNat
  rw [h]
  rfl

theorem decMajor39 (w : Nat) (h : fld w 31 26 = 57) : decodeNat w = dec39 w := by
  unfold decodeNat
  rw [h]
  rfl

theorem dec01_0 (w : Nat) (h : fld w 13 6 = 0) : dec01 w =
    chk (fld w 5 0 != 0) (false) (badReg (fld w 25 22) || badReg (fld w 21 18) || badReg (fld w 17 14)) (.add (.ofNat 4 (fld w 25 22)) (.ofNat 4 (fld w 21 18)) (.ofNat 4 (fld w 17 14))) := by
  unfold dec01
  rw [h]
  rfl

theorem dec01_1 (w : Nat) (h : fld w 13 6 = 1) : dec01 w =
    chk (fld w 5 0 != 0) (false) (badReg (fld w 25 22) || badReg (fld w 21 18) || badReg (fld w 17 14)) (.sub (.ofNat 4 (fld w 25 22)) (.ofNat 4 (fld w 21 18)) (.ofNat 4 (fld w 17 14))) := by
  unfold dec01
  rw [h]
  rfl

theorem dec01_2 (w : Nat) (h : fld w 13 6 = 2) : dec01 w =
    chk (fld w 5 0 != 0) (false) (badReg (fld w 25 22) || badReg (fld w 21 18) || badReg (fld w 17 14)) (.and (.ofNat 4 (fld w 25 22)) (.ofNat 4 (fld w 21 18)) (.ofNat 4 (fld w 17 14))) := by
  unfold dec01
  rw [h]
  rfl

theorem dec01_3 (w : Nat) (h : fld w 13 6 = 3) : dec01 w =
    chk (fld w 5 0 != 0) (false) (badReg (fld w 25 22) || badReg (fld w 21 18) || badReg (fld w 17 14)) (.or (.ofNat 4 (fld w 25 22)) (.ofNat 4 (fld w 21 18)) (.ofNat 4 (fld w 17 14))) := by
  unfold dec01
  rw [h]
  rfl

theorem dec01_4 (w : Nat) (h : fld w 13 6 = 4) : dec01 w =
    chk (fld w 5 0 != 0) (false) (badReg (fld w 25 22) || badReg (fld w 21 18) || badReg (fld w 17 14)) (.xor (.ofNat 4 (fld w 25 22)) (.ofNat 4 (fld w 21 18)) (.ofNat 4 (fld w 17 14))) := by
  unfold dec01
  rw [h]
  rfl

theorem dec01_5 (w : Nat) (h : fld w 13 6 = 5) : dec01 w =
    chk (fld w 5 0 != 0) (false) (badReg (fld w 25 22) || badReg (fld w 21 18) || badReg (fld w 17 14)) (.andn (.ofNat 4 (fld w 25 22)) (.ofNat 4 (fld w 21 18)) (.ofNat 4 (fld w 17 14))) := by
  unfold dec01
  rw [h]
  rfl

theorem dec01_6 (w : Nat) (h : fld w 13 6 = 6) : dec01 w =
    chk (fld w 5 0 != 0) (false) (badReg (fld w 25 22) || badReg (fld w 21 18) || badReg (fld w 17 14)) (.orn (.ofNat 4 (fld w 25 22)) (.ofNat 4 (fld w 21 18)) (.ofNat 4 (fld w 17 14))) := by
  unfold dec01
  rw [h]
  rfl

theorem dec01_7 (w : Nat) (h : fld w 13 6 = 7) : dec01 w =
    chk (fld w 5 0 != 0) (false) (badReg (fld w 25 22) || badReg (fld w 21 18) || badReg (fld w 17 14)) (.shl (.ofNat 4 (fld w 25 22)) (.ofNat 4 (fld w 21 18)) (.ofNat 4 (fld w 17 14))) := by
  unfold dec01
  rw [h]
  rfl

theorem dec01_8 (w : Nat) (h : fld w 13 6 = 8) : dec01 w =
    chk (fld w 5 0 != 0) (false) (badReg (fld w 25 22) || badReg (fld w 21 18) || badReg (fld w 17 14)) (.shr (.ofNat 4 (fld w 25 22)) (.ofNat 4 (fld w 21 18)) (.ofNat 4 (fld w 17 14))) := by
  unfold dec01
  rw [h]
  rfl

theorem dec01_9 (w : Nat) (h : fld w 13 6 = 9) : dec01 w =
    chk (fld w 5 0 != 0) (false) (badReg (fld w 25 22) || badReg (fld w 21 18) || badReg (fld w 17 14)) (.sar (.ofNat 4 (fld w 25 22)) (.ofNat 4 (fld w 21 18)) (.ofNat 4 (fld w 17 14))) := by
  unfold dec01
  rw [h]
  rfl

theorem dec01_10 (w : Nat) (h : fld w 13 6 = 10) : dec01 w =
    chk (fld w 5 0 != 0) (false) (badReg (fld w 25 22) || badReg (fld w 21 18) || badReg (fld w 17 14)) (.rol (.ofNat 4 (fld w 25 22)) (.ofNat 4 (fld w 21 18)) (.ofNat 4 (fld w 17 14))) := by
  unfold dec01
  rw [h]
  rfl

theorem dec01_11 (w : Nat) (h : fld w 13 6 = 11) : dec01 w =
    chk (fld w 5 0 != 0) (false) (badReg (fld w 25 22) || badReg (fld w 21 18) || badReg (fld w 17 14)) (.ror (.ofNat 4 (fld w 25 22)) (.ofNat 4 (fld w 21 18)) (.ofNat 4 (fld w 17 14))) := by
  unfold dec01
  rw [h]
  rfl

theorem dec01_12 (w : Nat) (h : fld w 13 6 = 12) : dec01 w =
    chk (fld w 5 0 != 0) (false) (badReg (fld w 25 22) || badReg (fld w 21 18) || badReg (fld w 17 14)) (.min (.ofNat 4 (fld w 25 22)) (.ofNat 4 (fld w 21 18)) (.ofNat 4 (fld w 17 14))) := by
  unfold dec01
  rw [h]
  rfl

theorem dec01_13 (w : Nat) (h : fld w 13 6 = 13) : dec01 w =
    chk (fld w 5 0 != 0) (false) (badReg (fld w 25 22) || badReg (fld w 21 18) || badReg (fld w 17 14)) (.max (.ofNat 4 (fld w 25 22)) (.ofNat 4 (fld w 21 18)) (.ofNat 4 (fld w 17 14))) := by
  unfold dec01
  rw [h]
  rfl

theorem dec01_14 (w : Nat) (h : fld w 13 6 = 14) : dec01 w =
    chk (fld w 5 0 != 0) (false) (badReg (fld w 25 22) || badReg (fld w 21 18) || badReg (fld w 17 14)) (.minu (.ofNat 4 (fld w 25 22)) (.ofNat 4 (fld w 21 18)) (.ofNat 4 (fld w 17 14))) := by
  unfold dec01
  rw [h]
  rfl

theorem dec01_15 (w : Nat) (h : fld w 13 6 = 15) : dec01 w =
    chk (fld w 5 0 != 0) (false) (badReg (fld w 25 22) || badReg (fld w 21 18) || badReg (fld w 17 14)) (.maxu (.ofNat 4 (fld w 25 22)) (.ofNat 4 (fld w 21 18)) (.ofNat 4 (fld w 17 14))) := by
  unfold dec01
  rw [h]
  rfl

theorem dec01_16 (w : Nat) (h : fld w 13 6 = 16) : dec01 w =
    chk (fld w 5 3 != 0) (false) (badReg (fld w 25 22) || badReg (fld w 21 18) || badReg (fld w 17 14)) (.lsa (.ofNat 4 (fld w 25 22)) (.ofNat 4 (fld w 21 18)) (.ofNat 4 (fld w 17 14)) (.ofNat 3 (fld w 2 0))) := by
  unfold dec01
  rw [h]
  rfl

theorem dec02_0 (w : Nat) (h : fld w 13 6 = 0) : dec02 w =
    chk (fld w 5 0 != 0) (false) (badReg (fld w 25 22) || badReg (fld w 21 18) || badReg (fld w 17 14)) (.addw (.ofNat 4 (fld w 25 22)) (.ofNat 4 (fld w 21 18)) (.ofNat 4 (fld w 17 14))) := by
  unfold dec02
  rw [h]
  rfl

theorem dec02_1 (w : Nat) (h : fld w 13 6 = 1) : dec02 w =
    chk (fld w 5 0 != 0) (false) (badReg (fld w 25 22) || badReg (fld w 21 18) || badReg (fld w 17 14)) (.subw (.ofNat 4 (fld w 25 22)) (.ofNat 4 (fld w 21 18)) (.ofNat 4 (fld w 17 14))) := by
  unfold dec02
  rw [h]
  rfl

theorem dec02_2 (w : Nat) (h : fld w 13 6 = 2) : dec02 w =
    chk (fld w 5 0 != 0) (false) (badReg (fld w 25 22) || badReg (fld w 21 18) || badReg (fld w 17 14)) (.shlw (.ofNat 4 (fld w 25 22)) (.ofNat 4 (fld w 21 18)) (.ofNat 4 (fld w 17 14))) := by
  unfold dec02
  rw [h]
  rfl

theorem dec02_3 (w : Nat) (h : fld w 13 6 = 3) : dec02 w =
    chk (fld w 5 0 != 0) (false) (badReg (fld w 25 22) || badReg (fld w 21 18) || badReg (fld w 17 14)) (.shrw (.ofNat 4 (fld w 25 22)) (.ofNat 4 (fld w 21 18)) (.ofNat 4 (fld w 17 14))) := by
  unfold dec02
  rw [h]
  rfl

theorem dec02_4 (w : Nat) (h : fld w 13 6 = 4) : dec02 w =
    chk (fld w 5 0 != 0) (false) (badReg (fld w 25 22) || badReg (fld w 21 18) || badReg (fld w 17 14)) (.sarw (.ofNat 4 (fld w 25 22)) (.ofNat 4 (fld w 21 18)) (.ofNat 4 (fld w 17 14))) := by
  unfold dec02
  rw [h]
  rfl

theorem dec03_0 (w : Nat) (h : fld w 13 6 = 0) : dec03 w =
    chk (fld w 5 0 != 0) (false) (badReg (fld w 25 22) || badReg (fld w 21 18) || badReg (fld w 17 14)) (.mul (.ofNat 4 (fld w 25 22)) (.ofNat 4 (fld w 21 18)) (.ofNat 4 (fld w 17 14))) := by
  unfold dec03
  rw [h]
  rfl

theorem dec03_1 (w : Nat) (h : fld w 13 6 = 1) : dec03 w =
    chk (fld w 5 0 != 0) (false) (badReg (fld w 25 22) || badReg (fld w 21 18) || badReg (fld w 17 14)) (.mulh (.ofNat 4 (fld w 25 22)) (.ofNat 4 (fld w 21 18)) (.ofNat 4 (fld w 17 14))) := by
  unfold dec03
  rw [h]
  rfl

theorem dec03_2 (w : Nat) (h : fld w 13 6 = 2) : dec03 w =
    chk (fld w 5 0 != 0) (false) (badReg (fld w 25 22) || badReg (fld w 21 18) || badReg (fld w 17 14)) (.mulhu (.ofNat 4 (fld w 25 22)) (.ofNat 4 (fld w 21 18)) (.ofNat 4 (fld w 17 14))) := by
  unfold dec03
  rw [h]
  rfl

theorem dec03_3 (w : Nat) (h : fld w 13 6 = 3) : dec03 w =
    chk (fld w 5 0 != 0) (false) (badReg (fld w 25 22) || badReg (fld w 21 18) || badReg (fld w 17 14)) (.mulw (.ofNat 4 (fld w 25 22)) (.ofNat 4 (fld w 21 18)) (.ofNat 4 (fld w 17 14))) := by
  unfold dec03
  rw [h]
  rfl

theorem dec03_4 (w : Nat) (h : fld w 13 6 = 4) : dec03 w =
    chk (fld w 5 0 != 0) (false) (badReg (fld w 25 22) || badReg (fld w 21 18) || badReg (fld w 17 14)) (.div (.ofNat 4 (fld w 25 22)) (.ofNat 4 (fld w 21 18)) (.ofNat 4 (fld w 17 14))) := by
  unfold dec03
  rw [h]
  rfl

theorem dec03_5 (w : Nat) (h : fld w 13 6 = 5) : dec03 w =
    chk (fld w 5 0 != 0) (false) (badReg (fld w 25 22) || badReg (fld w 21 18) || badReg (fld w 17 14)) (.divu (.ofNat 4 (fld w 25 22)) (.ofNat 4 (fld w 21 18)) (.ofNat 4 (fld w 17 14))) := by
  unfold dec03
  rw [h]
  rfl

theorem dec03_6 (w : Nat) (h : fld w 13 6 = 6) : dec03 w =
    chk (fld w 5 0 != 0) (false) (badReg (fld w 25 22) || badReg (fld w 21 18) || badReg (fld w 17 14)) (.rem (.ofNat 4 (fld w 25 22)) (.ofNat 4 (fld w 21 18)) (.ofNat 4 (fld w 17 14))) := by
  unfold dec03
  rw [h]
  rfl

theorem dec03_7 (w : Nat) (h : fld w 13 6 = 7) : dec03 w =
    chk (fld w 5 0 != 0) (false) (badReg (fld w 25 22) || badReg (fld w 21 18) || badReg (fld w 17 14)) (.remu (.ofNat 4 (fld w 25 22)) (.ofNat 4 (fld w 21 18)) (.ofNat 4 (fld w 17 14))) := by
  unfold dec03
  rw [h]
  rfl

theorem dec03_8 (w : Nat) (h : fld w 13 6 = 8) : dec03 w =
    chk (fld w 5 0 != 0) (false) (badReg (fld w 25 22) || badReg (fld w 21 18) || badReg (fld w 17 14)) (.divw (.ofNat 4 (fld w 25 22)) (.ofNat 4 (fld w 21 18)) (.ofNat 4 (fld w 17 14))) := by
  unfold dec03
  rw [h]
  rfl

theorem dec03_9 (w : Nat) (h : fld w 13 6 = 9) : dec03 w =
    chk (fld w 5 0 != 0) (false) (badReg (fld w 25 22) || badReg (fld w 21 18) || badReg (fld w 17 14)) (.remw (.ofNat 4 (fld w 25 22)) (.ofNat 4 (fld w 21 18)) (.ofNat 4 (fld w 17 14))) := by
  unfold dec03
  rw [h]
  rfl

theorem dec04_0 (w : Nat) (h : fld w 13 6 = 0) : dec04 w =
    chk (fld w 17 14 != 0 || fld w 5 0 != 0) (false) (badReg (fld w 25 22) || badReg (fld w 21 18)) (.clz (.ofNat 4 (fld w 25 22)) (.ofNat 4 (fld w 21 18))) := by
  unfold dec04
  rw [h]
  rfl

theorem dec04_1 (w : Nat) (h : fld w 13 6 = 1) : dec04 w =
    chk (fld w 17 14 != 0 || fld w 5 0 != 0) (false) (badReg (fld w 25 22) || badReg (fld w 21 18)) (.ctz (.ofNat 4 (fld w 25 22)) (.ofNat 4 (fld w 21 18))) := by
  unfold dec04
  rw [h]
  rfl

theorem dec04_2 (w : Nat) (h : fld w 13 6 = 2) : dec04 w =
    chk (fld w 17 14 != 0 || fld w 5 0 != 0) (false) (badReg (fld w 25 22) || badReg (fld w 21 18)) (.popc (.ofNat 4 (fld w 25 22)) (.ofNat 4 (fld w 21 18))) := by
  unfold dec04
  rw [h]
  rfl

theorem dec04_3 (w : Nat) (h : fld w 13 6 = 3) : dec04 w =
    chk (fld w 17 14 != 0 || fld w 5 0 != 0) (false) (badReg (fld w 25 22) || badReg (fld w 21 18)) (.brev (.ofNat 4 (fld w 25 22)) (.ofNat 4 (fld w 21 18))) := by
  unfold dec04
  rw [h]
  rfl

theorem dec04_4 (w : Nat) (h : fld w 13 6 = 4) : dec04 w =
    chk (fld w 17 14 != 0 || fld w 5 0 != 0) (false) (badReg (fld w 25 22) || badReg (fld w 21 18)) (.bswap (.ofNat 4 (fld w 25 22)) (.ofNat 4 (fld w 21 18))) := by
  unfold dec04
  rw [h]
  rfl

theorem dec04_5 (w : Nat) (h : fld w 13 6 = 5) : dec04 w =
    chk (fld w 17 14 != 0 || fld w 5 0 != 0) (false) (badReg (fld w 25 22) || badReg (fld w 21 18)) (.sxb (.ofNat 4 (fld w 25 22)) (.ofNat 4 (fld w 21 18))) := by
  unfold dec04
  rw [h]
  rfl

theorem dec04_6 (w : Nat) (h : fld w 13 6 = 6) : dec04 w =
    chk (fld w 17 14 != 0 || fld w 5 0 != 0) (false) (badReg (fld w 25 22) || badReg (fld w 21 18)) (.sxh (.ofNat 4 (fld w 25 22)) (.ofNat 4 (fld w 21 18))) := by
  unfold dec04
  rw [h]
  rfl

theorem dec04_7 (w : Nat) (h : fld w 13 6 = 7) : dec04 w =
    chk (fld w 17 14 != 0 || fld w 5 0 != 0) (false) (badReg (fld w 25 22) || badReg (fld w 21 18)) (.sxw (.ofNat 4 (fld w 25 22)) (.ofNat 4 (fld w 21 18))) := by
  unfold dec04
  rw [h]
  rfl

theorem dec04_8 (w : Nat) (h : fld w 13 6 = 8) : dec04 w =
    chk (fld w 17 14 != 0 || fld w 5 0 != 0) (false) (badReg (fld w 25 22) || badReg (fld w 21 18)) (.zxb (.ofNat 4 (fld w 25 22)) (.ofNat 4 (fld w 21 18))) := by
  unfold dec04
  rw [h]
  rfl

theorem dec04_9 (w : Nat) (h : fld w 13 6 = 9) : dec04 w =
    chk (fld w 17 14 != 0 || fld w 5 0 != 0) (false) (badReg (fld w 25 22) || badReg (fld w 21 18)) (.zxh (.ofNat 4 (fld w 25 22)) (.ofNat 4 (fld w 21 18))) := by
  unfold dec04
  rw [h]
  rfl

theorem dec04_10 (w : Nat) (h : fld w 13 6 = 10) : dec04 w =
    chk (fld w 17 14 != 0 || fld w 5 0 != 0) (false) (badReg (fld w 25 22) || badReg (fld w 21 18)) (.zxw (.ofNat 4 (fld w 25 22)) (.ofNat 4 (fld w 21 18))) := by
  unfold dec04
  rw [h]
  rfl

theorem dec04_11 (w : Nat) (h : fld w 13 6 = 11) : dec04 w =
    chk (fld w 5 0 != 0) (false) (badReg (fld w 25 22) || badReg (fld w 21 18) || badReg (fld w 17 14)) (.bfx (.ofNat 4 (fld w 25 22)) (.ofNat 4 (fld w 21 18)) (.ofNat 4 (fld w 17 14))) := by
  unfold dec04
  rw [h]
  rfl

theorem dec04_12 (w : Nat) (h : fld w 13 6 = 12) : dec04 w =
    chk (fld w 5 0 != 0) (false) (badReg (fld w 25 22) || badReg (fld w 21 18) || badReg (fld w 17 14)) (.bfxs (.ofNat 4 (fld w 25 22)) (.ofNat 4 (fld w 21 18)) (.ofNat 4 (fld w 17 14))) := by
  unfold dec04
  rw [h]
  rfl

theorem dec04_13 (w : Nat) (h : fld w 13 6 = 13) : dec04 w =
    chk (fld w 5 0 != 0) (false) (badReg (fld w 25 22) || badReg (fld w 21 18) || badReg (fld w 17 14)) (.bfi (.ofNat 4 (fld w 25 22)) (.ofNat 4 (fld w 21 18)) (.ofNat 4 (fld w 17 14))) := by
  unfold dec04
  rw [h]
  rfl

theorem dec09_0 (w : Nat) (h : fld w 17 12 = 0) : dec09 w =
    chk (fld w 11 6 != 0) (false) (badReg (fld w 25 22) || badReg (fld w 21 18)) (.shli (.ofNat 4 (fld w 25 22)) (.ofNat 4 (fld w 21 18)) (.ofNat 6 (fld w 5 0))) := by
  unfold dec09
  rw [h]
  rfl

theorem dec09_1 (w : Nat) (h : fld w 17 12 = 1) : dec09 w =
    chk (fld w 11 6 != 0) (false) (badReg (fld w 25 22) || badReg (fld w 21 18)) (.shri (.ofNat 4 (fld w 25 22)) (.ofNat 4 (fld w 21 18)) (.ofNat 6 (fld w 5 0))) := by
  unfold dec09
  rw [h]
  rfl

theorem dec09_2 (w : Nat) (h : fld w 17 12 = 2) : dec09 w =
    chk (fld w 11 6 != 0) (false) (badReg (fld w 25 22) || badReg (fld w 21 18)) (.sari (.ofNat 4 (fld w 25 22)) (.ofNat 4 (fld w 21 18)) (.ofNat 6 (fld w 5 0))) := by
  unfold dec09
  rw [h]
  rfl

theorem dec09_3 (w : Nat) (h : fld w 17 12 = 3) : dec09 w =
    chk (fld w 11 6 != 0) (false) (badReg (fld w 25 22) || badReg (fld w 21 18)) (.roli (.ofNat 4 (fld w 25 22)) (.ofNat 4 (fld w 21 18)) (.ofNat 6 (fld w 5 0))) := by
  unfold dec09
  rw [h]
  rfl

theorem dec09_4 (w : Nat) (h : fld w 17 12 = 4) : dec09 w =
    chk (fld w 11 5 != 0) (false) (badReg (fld w 25 22) || badReg (fld w 21 18)) (.shliw (.ofNat 4 (fld w 25 22)) (.ofNat 4 (fld w 21 18)) (.ofNat 5 (fld w 4 0))) := by
  unfold dec09
  rw [h]
  rfl

theorem dec09_5 (w : Nat) (h : fld w 17 12 = 5) : dec09 w =
    chk (fld w 11 5 != 0) (false) (badReg (fld w 25 22) || badReg (fld w 21 18)) (.shriw (.ofNat 4 (fld w 25 22)) (.ofNat 4 (fld w 21 18)) (.ofNat 5 (fld w 4 0))) := by
  unfold dec09
  rw [h]
  rfl

theorem dec09_6 (w : Nat) (h : fld w 17 12 = 6) : dec09 w =
    chk (fld w 11 5 != 0) (false) (badReg (fld w 25 22) || badReg (fld w 21 18)) (.sariw (.ofNat 4 (fld w 25 22)) (.ofNat 4 (fld w 21 18)) (.ofNat 5 (fld w 4 0))) := by
  unfold dec09
  rw [h]
  rfl

theorem dec0C_0 (w : Nat) (h : fld w 13 6 = 0) : dec0C w =
    chk (fld w 5 0 != 0) (false) (badReg (fld w 25 22) || badReg (fld w 21 18) || badReg (fld w 17 14)) (.gaddr (.ofNat 4 (fld w 25 22)) (.ofNat 4 (fld w 21 18)) (.ofNat 4 (fld w 17 14))) := by
  unfold dec0C
  rw [h]
  rfl

theorem dec0C_1 (w : Nat) (h : fld w 13 6 = 1) : dec0C w =
    chk (fld w 17 14 != 0 || fld w 5 0 != 0) (false) (badReg (fld w 25 22) || badReg (fld w 21 18)) (.homeof (.ofNat 4 (fld w 25 22)) (.ofNat 4 (fld w 21 18))) := by
  unfold dec0C
  rw [h]
  rfl

theorem dec0C_2 (w : Nat) (h : fld w 13 6 = 2) : dec0C w =
    chk (fld w 5 0 != 0) (false) (badReg (fld w 25 22) || badReg (fld w 21 18) || badReg (fld w 17 14)) (.hops (.ofNat 4 (fld w 25 22)) (.ofNat 4 (fld w 21 18)) (.ofNat 4 (fld w 17 14))) := by
  unfold dec0C
  rw [h]
  rfl

theorem dec0D_0 (w : Nat) (h : fld w 9 0 = 0) : dec0D w =
    chk (false) (badCc12 (fld w 13 10)) (badReg (fld w 21 18) || badReg (fld w 17 14)) (.cmp (.ofNat 4 (fld w 25 22)) (.ofNat 4 (fld w 21 18)) (.ofNat 4 (fld w 17 14)) (.ofNat 4 (fld w 13 10))) := by
  unfold dec0D
  rw [h]
  rfl

theorem dec0D_1 (w : Nat) (h : fld w 9 0 = 1) : dec0D w =
    chk (false) (badCc12 (fld w 13 10)) (badReg (fld w 21 18) || badReg (fld w 17 14)) (.cmpw (.ofNat 4 (fld w 25 22)) (.ofNat 4 (fld w 21 18)) (.ofNat 4 (fld w 17 14)) (.ofNat 4 (fld w 13 10))) := by
  unfold dec0D
  rw [h]
  rfl

theorem dec0F_0 (w : Nat) (h : fld w 9 0 = 0) : dec0F w =
    chk (fld w 13 10 != 0) (false) (false) (.pand (.ofNat 4 (fld w 25 22)) (.ofNat 4 (fld w 21 18)) (.ofNat 4 (fld w 17 14))) := by
  unfold dec0F
  rw [h]
  rfl

theorem dec0F_1 (w : Nat) (h : fld w 9 0 = 1) : dec0F w =
    chk (fld w 13 10 != 0) (false) (false) (.por (.ofNat 4 (fld w 25 22)) (.ofNat 4 (fld w 21 18)) (.ofNat 4 (fld w 17 14))) := by
  unfold dec0F
  rw [h]
  rfl

theorem dec0F_2 (w : Nat) (h : fld w 9 0 = 2) : dec0F w =
    chk (fld w 13 10 != 0) (false) (false) (.pxor (.ofNat 4 (fld w 25 22)) (.ofNat 4 (fld w 21 18)) (.ofNat 4 (fld w 17 14))) := by
  unfold dec0F
  rw [h]
  rfl

theorem dec0F_3 (w : Nat) (h : fld w 9 0 = 3) : dec0F w =
    chk (fld w 13 10 != 0) (false) (false) (.pandn (.ofNat 4 (fld w 25 22)) (.ofNat 4 (fld w 21 18)) (.ofNat 4 (fld w 17 14))) := by
  unfold dec0F
  rw [h]
  rfl

theorem dec0F_4 (w : Nat) (h : fld w 9 0 = 4) : dec0F w =
    chk (fld w 17 10 != 0) (false) (false) (.pnot (.ofNat 4 (fld w 25 22)) (.ofNat 4 (fld w 21 18))) := by
  unfold dec0F
  rw [h]
  rfl

theorem dec0F_5 (w : Nat) (h : fld w 9 0 = 5) : dec0F w =
    chk (fld w 21 10 != 0) (false) (badReg (fld w 25 22)) (.p2x (.ofNat 4 (fld w 25 22))) := by
  unfold dec0F
  rw [h]
  rfl

theorem dec0F_6 (w : Nat) (h : fld w 9 0 = 6) : dec0F w =
    chk (fld w 25 22 != 0 || fld w 17 10 != 0) (false) (badReg (fld w 21 18)) (.x2p (.ofNat 4 (fld w 21 18))) := by
  unfold dec0F
  rw [h]
  rfl

theorem dec0F_7 (w : Nat) (h : fld w 9 0 = 7) : dec0F w =
    chk (false) (false) (badReg (fld w 25 22) || badReg (fld w 21 18) || badReg (fld w 17 14)) (.sel (.ofNat 4 (fld w 25 22)) (.ofNat 4 (fld w 21 18)) (.ofNat 4 (fld w 17 14)) (.ofNat 4 (fld w 13 10))) := by
  unfold dec0F
  rw [h]
  rfl

theorem dec10_0 (w : Nat) (h : fld w 13 6 = 0) : dec10 w =
    chk (fld w 5 3 != 0) (badRound (fld w 2 0)) (badReg (fld w 25 22) || badReg (fld w 21 18) || badReg (fld w 17 14)) (.faddS (.ofNat 4 (fld w 25 22)) (.ofNat 4 (fld w 21 18)) (.ofNat 4 (fld w 17 14)) (.ofNat 3 (fld w 2 0))) := by
  unfold dec10
  rw [h]
  rfl

theorem dec10_1 (w : Nat) (h : fld w 13 6 = 1) : dec10 w =
    chk (fld w 5 3 != 0) (badRound (fld w 2 0)) (badReg (fld w 25 22) || badReg (fld w 21 18) || badReg (fld w 17 14)) (.fsubS (.ofNat 4 (fld w 25 22)) (.ofNat 4 (fld w 21 18)) (.ofNat 4 (fld w 17 14)) (.ofNat 3 (fld w 2 0))) := by
  unfold dec10
  rw [h]
  rfl

theorem dec10_2 (w : Nat) (h : fld w 13 6 = 2) : dec10 w =
    chk (fld w 5 3 != 0) (badRound (fld w 2 0)) (badReg (fld w 25 22) || badReg (fld w 21 18) || badReg (fld w 17 14)) (.fmulS (.ofNat 4 (fld w 25 22)) (.ofNat 4 (fld w 21 18)) (.ofNat 4 (fld w 17 14)) (.ofNat 3 (fld w 2 0))) := by
  unfold dec10
  rw [h]
  rfl

theorem dec10_3 (w : Nat) (h : fld w 13 6 = 3) : dec10 w =
    chk (fld w 5 3 != 0) (badRound (fld w 2 0)) (badReg (fld w 25 22) || badReg (fld w 21 18) || badReg (fld w 17 14)) (.ffmaS (.ofNat 4 (fld w 25 22)) (.ofNat 4 (fld w 21 18)) (.ofNat 4 (fld w 17 14)) (.ofNat 3 (fld w 2 0))) := by
  unfold dec10
  rw [h]
  rfl

theorem dec10_4 (w : Nat) (h : fld w 13 6 = 4) : dec10 w =
    chk (fld w 5 3 != 0) (badRound (fld w 2 0)) (badReg (fld w 25 22) || badReg (fld w 21 18) || badReg (fld w 17 14)) (.fminS (.ofNat 4 (fld w 25 22)) (.ofNat 4 (fld w 21 18)) (.ofNat 4 (fld w 17 14)) (.ofNat 3 (fld w 2 0))) := by
  unfold dec10
  rw [h]
  rfl

theorem dec10_5 (w : Nat) (h : fld w 13 6 = 5) : dec10 w =
    chk (fld w 5 3 != 0) (badRound (fld w 2 0)) (badReg (fld w 25 22) || badReg (fld w 21 18) || badReg (fld w 17 14)) (.fmaxS (.ofNat 4 (fld w 25 22)) (.ofNat 4 (fld w 21 18)) (.ofNat 4 (fld w 17 14)) (.ofNat 3 (fld w 2 0))) := by
  unfold dec10
  rw [h]
  rfl

theorem dec10_6 (w : Nat) (h : fld w 13 6 = 6) : dec10 w =
    chk (fld w 17 14 != 0 || fld w 5 3 != 0) (badRound (fld w 2 0)) (badReg (fld w 25 22) || badReg (fld w 21 18)) (.fabsS (.ofNat 4 (fld w 25 22)) (.ofNat 4 (fld w 21 18)) (.ofNat 3 (fld w 2 0))) := by
  unfold dec10
  rw [h]
  rfl

theorem dec10_7 (w : Nat) (h : fld w 13 6 = 7) : dec10 w =
    chk (fld w 17 14 != 0 || fld w 5 3 != 0) (badRound (fld w 2 0)) (badReg (fld w 25 22) || badReg (fld w 21 18)) (.fnegS (.ofNat 4 (fld w 25 22)) (.ofNat 4 (fld w 21 18)) (.ofNat 3 (fld w 2 0))) := by
  unfold dec10
  rw [h]
  rfl

theorem dec10_8 (w : Nat) (h : fld w 13 6 = 8) : dec10 w =
    chk (fld w 5 3 != 0) (badRound (fld w 2 0)) (badReg (fld w 25 22) || badReg (fld w 21 18) || badReg (fld w 17 14)) (.fdivS (.ofNat 4 (fld w 25 22)) (.ofNat 4 (fld w 21 18)) (.ofNat 4 (fld w 17 14)) (.ofNat 3 (fld w 2 0))) := by
  unfold dec10
  rw [h]
  rfl

theorem dec10_9 (w : Nat) (h : fld w 13 6 = 9) : dec10 w =
    chk (fld w 17 14 != 0 || fld w 5 3 != 0) (badRound (fld w 2 0)) (badReg (fld w 25 22) || badReg (fld w 21 18)) (.fsqrtS (.ofNat 4 (fld w 25 22)) (.ofNat 4 (fld w 21 18)) (.ofNat 3 (fld w 2 0))) := by
  unfold dec10
  rw [h]
  rfl

theorem dec10_10 (w : Nat) (h : fld w 13 6 = 10) : dec10 w =
    chk (fld w 17 14 != 0 || fld w 5 3 != 0) (badRound (fld w 2 0)) (badReg (fld w 25 22) || badReg (fld w 21 18)) (.frsqsS (.ofNat 4 (fld w 25 22)) (.ofNat 4 (fld w 21 18)) (.ofNat 3 (fld w 2 0))) := by
  unfold dec10
  rw [h]
  rfl

theorem dec10_11 (w : Nat) (h : fld w 13 6 = 11) : dec10 w =
    chk (fld w 17 14 != 0 || fld w 5 3 != 0) (badRound (fld w 2 0)) (badReg (fld w 25 22) || badReg (fld w 21 18)) (.frcpsS (.ofNat 4 (fld w 25 22)) (.ofNat 4 (fld w 21 18)) (.ofNat 3 (fld w 2 0))) := by
  unfold dec10
  rw [h]
  rfl

theorem dec11_0 (w : Nat) (h : fld w 13 6 = 0) : dec11 w =
    chk (fld w 5 3 != 0) (badRound (fld w 2 0)) (badReg (fld w 25 22) || badReg (fld w 21 18) || badReg (fld w 17 14)) (.faddD (.ofNat 4 (fld w 25 22)) (.ofNat 4 (fld w 21 18)) (.ofNat 4 (fld w 17 14)) (.ofNat 3 (fld w 2 0))) := by
  unfold dec11
  rw [h]
  rfl

theorem dec11_1 (w : Nat) (h : fld w 13 6 = 1) : dec11 w =
    chk (fld w 5 3 != 0) (badRound (fld w 2 0)) (badReg (fld w 25 22) || badReg (fld w 21 18) || badReg (fld w 17 14)) (.fsubD (.ofNat 4 (fld w 25 22)) (.ofNat 4 (fld w 21 18)) (.ofNat 4 (fld w 17 14)) (.ofNat 3 (fld w 2 0))) := by
  unfold dec11
  rw [h]
  rfl

theorem dec11_2 (w : Nat) (h : fld w 13 6 = 2) : dec11 w =
    chk (fld w 5 3 != 0) (badRound (fld w 2 0)) (badReg (fld w 25 22) || badReg (fld w 21 18) || badReg (fld w 17 14)) (.fmulD (.ofNat 4 (fld w 25 22)) (.ofNat 4 (fld w 21 18)) (.ofNat 4 (fld w 17 14)) (.ofNat 3 (fld w 2 0))) := by
  unfold dec11
  rw [h]
  rfl

theorem dec11_3 (w : Nat) (h : fld w 13 6 = 3) : dec11 w =
    chk (fld w 5 3 != 0) (badRound (fld w 2 0)) (badReg (fld w 25 22) || badReg (fld w 21 18) || badReg (fld w 17 14)) (.ffmaD (.ofNat 4 (fld w 25 22)) (.ofNat 4 (fld w 21 18)) (.ofNat 4 (fld w 17 14)) (.ofNat 3 (fld w 2 0))) := by
  unfold dec11
  rw [h]
  rfl

theorem dec11_4 (w : Nat) (h : fld w 13 6 = 4) : dec11 w =
    chk (fld w 5 3 != 0) (badRound (fld w 2 0)) (badReg (fld w 25 22) || badReg (fld w 21 18) || badReg (fld w 17 14)) (.fminD (.ofNat 4 (fld w 25 22)) (.ofNat 4 (fld w 21 18)) (.ofNat 4 (fld w 17 14)) (.ofNat 3 (fld w 2 0))) := by
  unfold dec11
  rw [h]
  rfl

theorem dec11_5 (w : Nat) (h : fld w 13 6 = 5) : dec11 w =
    chk (fld w 5 3 != 0) (badRound (fld w 2 0)) (badReg (fld w 25 22) || badReg (fld w 21 18) || badReg (fld w 17 14)) (.fmaxD (.ofNat 4 (fld w 25 22)) (.ofNat 4 (fld w 21 18)) (.ofNat 4 (fld w 17 14)) (.ofNat 3 (fld w 2 0))) := by
  unfold dec11
  rw [h]
  rfl

theorem dec11_6 (w : Nat) (h : fld w 13 6 = 6) : dec11 w =
    chk (fld w 17 14 != 0 || fld w 5 3 != 0) (badRound (fld w 2 0)) (badReg (fld w 25 22) || badReg (fld w 21 18)) (.fabsD (.ofNat 4 (fld w 25 22)) (.ofNat 4 (fld w 21 18)) (.ofNat 3 (fld w 2 0))) := by
  unfold dec11
  rw [h]
  rfl

theorem dec11_7 (w : Nat) (h : fld w 13 6 = 7) : dec11 w =
    chk (fld w 17 14 != 0 || fld w 5 3 != 0) (badRound (fld w 2 0)) (badReg (fld w 25 22) || badReg (fld w 21 18)) (.fnegD (.ofNat 4 (fld w 25 22)) (.ofNat 4 (fld w 21 18)) (.ofNat 3 (fld w 2 0))) := by
  unfold dec11
  rw [h]
  rfl

theorem dec11_8 (w : Nat) (h : fld w 13 6 = 8) : dec11 w =
    chk (fld w 5 3 != 0) (badRound (fld w 2 0)) (badReg (fld w 25 22) || badReg (fld w 21 18) || badReg (fld w 17 14)) (.fdivD (.ofNat 4 (fld w 25 22)) (.ofNat 4 (fld w 21 18)) (.ofNat 4 (fld w 17 14)) (.ofNat 3 (fld w 2 0))) := by
  unfold dec11
  rw [h]
  rfl

theorem dec11_9 (w : Nat) (h : fld w 13 6 = 9) : dec11 w =
    chk (fld w 17 14 != 0 || fld w 5 3 != 0) (badRound (fld w 2 0)) (badReg (fld w 25 22) || badReg (fld w 21 18)) (.fsqrtD (.ofNat 4 (fld w 25 22)) (.ofNat 4 (fld w 21 18)) (.ofNat 3 (fld w 2 0))) := by
  unfold dec11
  rw [h]
  rfl

theorem dec11_10 (w : Nat) (h : fld w 13 6 = 10) : dec11 w =
    chk (fld w 17 14 != 0 || fld w 5 3 != 0) (badRound (fld w 2 0)) (badReg (fld w 25 22) || badReg (fld w 21 18)) (.frsqsD (.ofNat 4 (fld w 25 22)) (.ofNat 4 (fld w 21 18)) (.ofNat 3 (fld w 2 0))) := by
  unfold dec11
  rw [h]
  rfl

theorem dec11_11 (w : Nat) (h : fld w 13 6 = 11) : dec11 w =
    chk (fld w 17 14 != 0 || fld w 5 3 != 0) (badRound (fld w 2 0)) (badReg (fld w 25 22) || badReg (fld w 21 18)) (.frcpsD (.ofNat 4 (fld w 25 22)) (.ofNat 4 (fld w 21 18)) (.ofNat 3 (fld w 2 0))) := by
  unfold dec11
  rw [h]
  rfl

theorem dec12_0 (w : Nat) (h : fld w 13 6 = 0) : dec12 w =
    chk (fld w 17 14 != 0 || fld w 5 3 != 0) (badRound (fld w 2 0)) (badReg (fld w 25 22) || badReg (fld w 21 18)) (.fcvtSD (.ofNat 4 (fld w 25 22)) (.ofNat 4 (fld w 21 18)) (.ofNat 3 (fld w 2 0))) := by
  unfold dec12
  rw [h]
  rfl

theorem dec12_1 (w : Nat) (h : fld w 13 6 = 1) : dec12 w =
    chk (fld w 17 14 != 0 || fld w 5 3 != 0) (badRound (fld w 2 0)) (badReg (fld w 25 22) || badReg (fld w 21 18)) (.fcvtDS (.ofNat 4 (fld w 25 22)) (.ofNat 4 (fld w 21 18)) (.ofNat 3 (fld w 2 0))) := by
  unfold dec12
  rw [h]
  rfl

theorem dec12_2 (w : Nat) (h : fld w 13 6 = 2) : dec12 w =
    chk (fld w 17 14 != 0 || fld w 5 3 != 0) (badRound (fld w 2 0)) (badReg (fld w 25 22) || badReg (fld w 21 18)) (.fcvtSL (.ofNat 4 (fld w 25 22)) (.ofNat 4 (fld w 21 18)) (.ofNat 3 (fld w 2 0))) := by
  unfold dec12
  rw [h]
  rfl

theorem dec12_3 (w : Nat) (h : fld w 13 6 = 3) : dec12 w =
    chk (fld w 17 14 != 0 || fld w 5 3 != 0) (badRound (fld w 2 0)) (badReg (fld w 25 22) || badReg (fld w 21 18)) (.fcvtDL (.ofNat 4 (fld w 25 22)) (.ofNat 4 (fld w 21 18)) (.ofNat 3 (fld w 2 0))) := by
  unfold dec12
  rw [h]
  rfl

theorem dec12_4 (w : Nat) (h : fld w 13 6 = 4) : dec12 w =
    chk (fld w 17 14 != 0 || fld w 5 3 != 0) (badRound (fld w 2 0)) (badReg (fld w 25 22) || badReg (fld w 21 18)) (.fcvtLS (.ofNat 4 (fld w 25 22)) (.ofNat 4 (fld w 21 18)) (.ofNat 3 (fld w 2 0))) := by
  unfold dec12
  rw [h]
  rfl

theorem dec12_5 (w : Nat) (h : fld w 13 6 = 5) : dec12 w =
    chk (fld w 17 14 != 0 || fld w 5 3 != 0) (badRound (fld w 2 0)) (badReg (fld w 25 22) || badReg (fld w 21 18)) (.fcvtLD (.ofNat 4 (fld w 25 22)) (.ofNat 4 (fld w 21 18)) (.ofNat 3 (fld w 2 0))) := by
  unfold dec12
  rw [h]
  rfl

theorem dec12_6 (w : Nat) (h : fld w 13 6 = 6) : dec12 w =
    chk (fld w 17 14 != 0 || fld w 5 3 != 0) (badRound (fld w 2 0)) (badReg (fld w 25 22) || badReg (fld w 21 18)) (.fcvtHS (.ofNat 4 (fld w 25 22)) (.ofNat 4 (fld w 21 18)) (.ofNat 3 (fld w 2 0))) := by
  unfold dec12
  rw [h]
  rfl

theorem dec12_7 (w : Nat) (h : fld w 13 6 = 7) : dec12 w =
    chk (fld w 17 14 != 0 || fld w 5 3 != 0) (badRound (fld w 2 0)) (badReg (fld w 25 22) || badReg (fld w 21 18)) (.fcvtSH (.ofNat 4 (fld w 25 22)) (.ofNat 4 (fld w 21 18)) (.ofNat 3 (fld w 2 0))) := by
  unfold dec12
  rw [h]
  rfl

theorem dec12_8 (w : Nat) (h : fld w 13 6 = 8) : dec12 w =
    chk (fld w 17 14 != 0 || fld w 5 3 != 0) (badRound (fld w 2 0)) (badReg (fld w 25 22) || badReg (fld w 21 18)) (.fcvtBS (.ofNat 4 (fld w 25 22)) (.ofNat 4 (fld w 21 18)) (.ofNat 3 (fld w 2 0))) := by
  unfold dec12
  rw [h]
  rfl

theorem dec12_9 (w : Nat) (h : fld w 13 6 = 9) : dec12 w =
    chk (fld w 17 14 != 0 || fld w 5 3 != 0) (badRound (fld w 2 0)) (badReg (fld w 25 22) || badReg (fld w 21 18)) (.fcvtSB (.ofNat 4 (fld w 25 22)) (.ofNat 4 (fld w 21 18)) (.ofNat 3 (fld w 2 0))) := by
  unfold dec12
  rw [h]
  rfl

theorem dec12_10 (w : Nat) (h : fld w 13 6 = 10) : dec12 w =
    chk (fld w 17 14 != 0 || fld w 5 3 != 0) (badRound (fld w 2 0)) (badReg (fld w 25 22) || badReg (fld w 21 18)) (.fclassS (.ofNat 4 (fld w 25 22)) (.ofNat 4 (fld w 21 18)) (.ofNat 3 (fld w 2 0))) := by
  unfold dec12
  rw [h]
  rfl

theorem dec12_11 (w : Nat) (h : fld w 13 6 = 11) : dec12 w =
    chk (fld w 17 14 != 0 || fld w 5 3 != 0) (badRound (fld w 2 0)) (badReg (fld w 25 22) || badReg (fld w 21 18)) (.fclassD (.ofNat 4 (fld w 25 22)) (.ofNat 4 (fld w 21 18)) (.ofNat 3 (fld w 2 0))) := by
  unfold dec12
  rw [h]
  rfl

theorem dec13_0 (w : Nat) (h : fld w 9 0 = 0) : dec13 w =
    chk (false) (badCc8 (fld w 13 10)) (badReg (fld w 21 18) || badReg (fld w 17 14)) (.fcmpS (.ofNat 4 (fld w 25 22)) (.ofNat 4 (fld w 21 18)) (.ofNat 4 (fld w 17 14)) (.ofNat 4 (fld w 13 10))) := by
  unfold dec13
  rw [h]
  rfl

theorem dec13_1 (w : Nat) (h : fld w 9 0 = 1) : dec13 w =
    chk (false) (badCc8 (fld w 13 10)) (badReg (fld w 21 18) || badReg (fld w 17 14)) (.fcmpD (.ofNat 4 (fld w 25 22)) (.ofNat 4 (fld w 21 18)) (.ofNat 4 (fld w 17 14)) (.ofNat 4 (fld w 13 10))) := by
  unfold dec13
  rw [h]
  rfl

theorem dec14_0 (w : Nat) (h : fld w 17 14 = 0) : dec14 w =
    chk (false) (false) (badReg (fld w 25 22) || badReg (fld w 21 18)) (.ldBz (.ofNat 4 (fld w 25 22)) (.ofNat 4 (fld w 21 18)) (.ofNat 14 (fld w 13 0))) := by
  unfold dec14
  rw [h]
  rfl

theorem dec14_1 (w : Nat) (h : fld w 17 14 = 1) : dec14 w =
    chk (false) (false) (badReg (fld w 25 22) || badReg (fld w 21 18)) (.ldBs (.ofNat 4 (fld w 25 22)) (.ofNat 4 (fld w 21 18)) (.ofNat 14 (fld w 13 0))) := by
  unfold dec14
  rw [h]
  rfl

theorem dec14_2 (w : Nat) (h : fld w 17 14 = 2) : dec14 w =
    chk (false) (false) (badReg (fld w 25 22) || badReg (fld w 21 18)) (.ldHz (.ofNat 4 (fld w 25 22)) (.ofNat 4 (fld w 21 18)) (.ofNat 14 (fld w 13 0))) := by
  unfold dec14
  rw [h]
  rfl

theorem dec14_3 (w : Nat) (h : fld w 17 14 = 3) : dec14 w =
    chk (false) (false) (badReg (fld w 25 22) || badReg (fld w 21 18)) (.ldHs (.ofNat 4 (fld w 25 22)) (.ofNat 4 (fld w 21 18)) (.ofNat 14 (fld w 13 0))) := by
  unfold dec14
  rw [h]
  rfl

theorem dec14_4 (w : Nat) (h : fld w 17 14 = 4) : dec14 w =
    chk (false) (false) (badReg (fld w 25 22) || badReg (fld w 21 18)) (.ldWz (.ofNat 4 (fld w 25 22)) (.ofNat 4 (fld w 21 18)) (.ofNat 14 (fld w 13 0))) := by
  unfold dec14
  rw [h]
  rfl

theorem dec14_5 (w : Nat) (h : fld w 17 14 = 5) : dec14 w =
    chk (false) (false) (badReg (fld w 25 22) || badReg (fld w 21 18)) (.ldWs (.ofNat 4 (fld w 25 22)) (.ofNat 4 (fld w 21 18)) (.ofNat 14 (fld w 13 0))) := by
  unfold dec14
  rw [h]
  rfl

theorem dec14_6 (w : Nat) (h : fld w 17 14 = 6) : dec14 w =
    chk (false) (false) (badReg (fld w 25 22) || badReg (fld w 21 18)) (.ldD (.ofNat 4 (fld w 25 22)) (.ofNat 4 (fld w 21 18)) (.ofNat 14 (fld w 13 0))) := by
  unfold dec14
  rw [h]
  rfl

theorem dec15_0 (w : Nat) (h : fld w 17 14 = 0) : dec15 w =
    chk (false) (false) (badReg (fld w 25 22) || badReg (fld w 21 18)) (.stB (.ofNat 4 (fld w 25 22)) (.ofNat 4 (fld w 21 18)) (.ofNat 14 (fld w 13 0))) := by
  unfold dec15
  rw [h]
  rfl

theorem dec15_1 (w : Nat) (h : fld w 17 14 = 1) : dec15 w =
    chk (false) (false) (badReg (fld w 25 22) || badReg (fld w 21 18)) (.stH (.ofNat 4 (fld w 25 22)) (.ofNat 4 (fld w 21 18)) (.ofNat 14 (fld w 13 0))) := by
  unfold dec15
  rw [h]
  rfl

theorem dec15_2 (w : Nat) (h : fld w 17 14 = 2) : dec15 w =
    chk (false) (false) (badReg (fld w 25 22) || badReg (fld w 21 18)) (.stW (.ofNat 4 (fld w 25 22)) (.ofNat 4 (fld w 21 18)) (.ofNat 14 (fld w 13 0))) := by
  unfold dec15
  rw [h]
  rfl

theorem dec15_3 (w : Nat) (h : fld w 17 14 = 3) : dec15 w =
    chk (false) (false) (badReg (fld w 25 22) || badReg (fld w 21 18)) (.stD (.ofNat 4 (fld w 25 22)) (.ofNat 4 (fld w 21 18)) (.ofNat 14 (fld w 13 0))) := by
  unfold dec15
  rw [h]
  rfl

theorem dec16_0 (w : Nat) (h : fld w 17 14 = 0) : dec16 w =
    chkQuad w (false) (badReg (fld w 25 22) || badReg (fld w 21 18)) (.ldq (.ofNat 4 (fld w 25 22)) (.ofNat 4 (fld w 21 18)) (.ofNat 14 (fld w 13 0))) := by
  unfold dec16
  rw [h]
  rfl

theorem dec16_1 (w : Nat) (h : fld w 17 14 = 1) : dec16 w =
    chkQuad w (false) (badReg (fld w 25 22) || badReg (fld w 21 18)) (.stq (.ofNat 4 (fld w 25 22)) (.ofNat 4 (fld w 21 18)) (.ofNat 14 (fld w 13 0))) := by
  unfold dec16
  rw [h]
  rfl

theorem dec17_0 (w : Nat) (h : fld w 17 14 = 0) : dec17 w =
    chk (false) (false) (badReg (fld w 25 22) || badReg (fld w 21 18)) (.ldfW (.ofNat 4 (fld w 25 22)) (.ofNat 4 (fld w 21 18)) (.ofNat 14 (fld w 13 0))) := by
  unfold dec17
  rw [h]
  rfl

theorem dec17_1 (w : Nat) (h : fld w 17 14 = 1) : dec17 w =
    chk (false) (false) (badReg (fld w 25 22) || badReg (fld w 21 18)) (.ldfD (.ofNat 4 (fld w 25 22)) (.ofNat 4 (fld w 21 18)) (.ofNat 14 (fld w 13 0))) := by
  unfold dec17
  rw [h]
  rfl

theorem dec17_2 (w : Nat) (h : fld w 17 14 = 2) : dec17 w =
    chk (false) (false) (badReg (fld w 25 22) || badReg (fld w 21 18)) (.ldfeW (.ofNat 4 (fld w 25 22)) (.ofNat 4 (fld w 21 18)) (.ofNat 14 (fld w 13 0))) := by
  unfold dec17
  rw [h]
  rfl

theorem dec17_3 (w : Nat) (h : fld w 17 14 = 3) : dec17 w =
    chk (false) (false) (badReg (fld w 25 22) || badReg (fld w 21 18)) (.ldfeD (.ofNat 4 (fld w 25 22)) (.ofNat 4 (fld w 21 18)) (.ofNat 14 (fld w 13 0))) := by
  unfold dec17
  rw [h]
  rfl

theorem dec17_4 (w : Nat) (h : fld w 17 14 = 4) : dec17 w =
    chk (false) (false) (badReg (fld w 25 22) || badReg (fld w 21 18)) (.stfW (.ofNat 4 (fld w 25 22)) (.ofNat 4 (fld w 21 18)) (.ofNat 14 (fld w 13 0))) := by
  unfold dec17
  rw [h]
  rfl

theorem dec17_5 (w : Nat) (h : fld w 17 14 = 5) : dec17 w =
    chk (false) (false) (badReg (fld w 25 22) || badReg (fld w 21 18)) (.stfD (.ofNat 4 (fld w 25 22)) (.ofNat 4 (fld w 21 18)) (.ofNat 14 (fld w 13 0))) := by
  unfold dec17
  rw [h]
  rfl

theorem dec17_6 (w : Nat) (h : fld w 17 14 = 6) : dec17 w =
    chk (false) (false) (badReg (fld w 25 22) || badReg (fld w 21 18)) (.stfeW (.ofNat 4 (fld w 25 22)) (.ofNat 4 (fld w 21 18)) (.ofNat 14 (fld w 13 0))) := by
  unfold dec17
  rw [h]
  rfl

theorem dec17_7 (w : Nat) (h : fld w 17 14 = 7) : dec17 w =
    chk (false) (false) (badReg (fld w 25 22) || badReg (fld w 21 18)) (.stfeD (.ofNat 4 (fld w 25 22)) (.ofNat 4 (fld w 21 18)) (.ofNat 14 (fld w 13 0))) := by
  unfold dec17
  rw [h]
  rfl

theorem dec17_8 (w : Nat) (h : fld w 17 14 = 8) : dec17 w =
    chk (false) (false) (badReg (fld w 25 22) || badReg (fld w 21 18)) (.fck (.ofNat 4 (fld w 25 22)) (.ofNat 4 (fld w 21 18)) (.ofNat 14 (fld w 13 0))) := by
  unfold dec17
  rw [h]
  rfl

theorem dec18_0 (w : Nat) (h : fld w 13 6 = 0) : dec18 w =
    chk (fld w 5 1 != 0) (false) (badReg (fld w 25 22) || badReg (fld w 21 18) || badReg (fld w 17 14)) (.amoAdd (.ofNat 4 (fld w 25 22)) (.ofNat 4 (fld w 21 18)) (.ofNat 4 (fld w 17 14)) (.ofNat 1 (fld w 0 0))) := by
  unfold dec18
  rw [h]
  rfl

theorem dec18_1 (w : Nat) (h : fld w 13 6 = 1) : dec18 w =
    chk (fld w 5 1 != 0) (false) (badReg (fld w 25 22) || badReg (fld w 21 18) || badReg (fld w 17 14)) (.amoAnd (.ofNat 4 (fld w 25 22)) (.ofNat 4 (fld w 21 18)) (.ofNat 4 (fld w 17 14)) (.ofNat 1 (fld w 0 0))) := by
  unfold dec18
  rw [h]
  rfl

theorem dec18_2 (w : Nat) (h : fld w 13 6 = 2) : dec18 w =
    chk (fld w 5 1 != 0) (false) (badReg (fld w 25 22) || badReg (fld w 21 18) || badReg (fld w 17 14)) (.amoOr (.ofNat 4 (fld w 25 22)) (.ofNat 4 (fld w 21 18)) (.ofNat 4 (fld w 17 14)) (.ofNat 1 (fld w 0 0))) := by
  unfold dec18
  rw [h]
  rfl

theorem dec18_3 (w : Nat) (h : fld w 13 6 = 3) : dec18 w =
    chk (fld w 5 1 != 0) (false) (badReg (fld w 25 22) || badReg (fld w 21 18) || badReg (fld w 17 14)) (.amoXor (.ofNat 4 (fld w 25 22)) (.ofNat 4 (fld w 21 18)) (.ofNat 4 (fld w 17 14)) (.ofNat 1 (fld w 0 0))) := by
  unfold dec18
  rw [h]
  rfl

theorem dec18_4 (w : Nat) (h : fld w 13 6 = 4) : dec18 w =
    chk (fld w 5 1 != 0) (false) (badReg (fld w 25 22) || badReg (fld w 21 18) || badReg (fld w 17 14)) (.amoMin (.ofNat 4 (fld w 25 22)) (.ofNat 4 (fld w 21 18)) (.ofNat 4 (fld w 17 14)) (.ofNat 1 (fld w 0 0))) := by
  unfold dec18
  rw [h]
  rfl

theorem dec18_5 (w : Nat) (h : fld w 13 6 = 5) : dec18 w =
    chk (fld w 5 1 != 0) (false) (badReg (fld w 25 22) || badReg (fld w 21 18) || badReg (fld w 17 14)) (.amoMax (.ofNat 4 (fld w 25 22)) (.ofNat 4 (fld w 21 18)) (.ofNat 4 (fld w 17 14)) (.ofNat 1 (fld w 0 0))) := by
  unfold dec18
  rw [h]
  rfl

theorem dec18_6 (w : Nat) (h : fld w 13 6 = 6) : dec18 w =
    chk (fld w 5 1 != 0) (false) (badReg (fld w 25 22) || badReg (fld w 21 18) || badReg (fld w 17 14)) (.amoMinu (.ofNat 4 (fld w 25 22)) (.ofNat 4 (fld w 21 18)) (.ofNat 4 (fld w 17 14)) (.ofNat 1 (fld w 0 0))) := by
  unfold dec18
  rw [h]
  rfl

theorem dec18_7 (w : Nat) (h : fld w 13 6 = 7) : dec18 w =
    chk (fld w 5 1 != 0) (false) (badReg (fld w 25 22) || badReg (fld w 21 18) || badReg (fld w 17 14)) (.amoMaxu (.ofNat 4 (fld w 25 22)) (.ofNat 4 (fld w 21 18)) (.ofNat 4 (fld w 17 14)) (.ofNat 1 (fld w 0 0))) := by
  unfold dec18
  rw [h]
  rfl

theorem dec18_8 (w : Nat) (h : fld w 13 6 = 8) : dec18 w =
    chk (fld w 5 1 != 0) (false) (badReg (fld w 25 22) || badReg (fld w 21 18) || badReg (fld w 17 14)) (.amoSwap (.ofNat 4 (fld w 25 22)) (.ofNat 4 (fld w 21 18)) (.ofNat 4 (fld w 17 14)) (.ofNat 1 (fld w 0 0))) := by
  unfold dec18
  rw [h]
  rfl

theorem dec18_9 (w : Nat) (h : fld w 13 6 = 9) : dec18 w =
    chk (fld w 5 1 != 0) (false) (badReg (fld w 25 22) || badReg (fld w 21 18) || badReg (fld w 17 14)) (.amoCas (.ofNat 4 (fld w 25 22)) (.ofNat 4 (fld w 21 18)) (.ofNat 4 (fld w 17 14)) (.ofNat 1 (fld w 0 0))) := by
  unfold dec18
  rw [h]
  rfl

theorem dec18_10 (w : Nat) (h : fld w 13 6 = 10) : dec18 w =
    chk (fld w 5 1 != 0) (false) (badReg (fld w 25 22) || badReg (fld w 21 18) || badReg (fld w 17 14)) (.amoFadd (.ofNat 4 (fld w 25 22)) (.ofNat 4 (fld w 21 18)) (.ofNat 4 (fld w 17 14)) (.ofNat 1 (fld w 0 0))) := by
  unfold dec18
  rw [h]
  rfl

theorem dec19_0 (w : Nat) (h : fld w 17 14 = 0) : dec19 w =
    chk (false) (false) (badReg (fld w 25 22) || badReg (fld w 21 18)) (.stcW (.ofNat 4 (fld w 25 22)) (.ofNat 4 (fld w 21 18)) (.ofNat 14 (fld w 13 0))) := by
  unfold dec19
  rw [h]
  rfl

theorem dec19_1 (w : Nat) (h : fld w 17 14 = 1) : dec19 w =
    chk (false) (false) (badReg (fld w 25 22) || badReg (fld w 21 18)) (.stcD (.ofNat 4 (fld w 25 22)) (.ofNat 4 (fld w 21 18)) (.ofNat 14 (fld w 13 0))) := by
  unfold dec19
  rw [h]
  rfl

theorem dec1A_0 (w : Nat) (h : fld w 13 6 = 0) : dec1A w =
    chk (fld w 25 22 != 0 || fld w 5 1 != 0) (false) (badReg (fld w 21 18) || badReg (fld w 17 14)) (.redAdd (.ofNat 4 (fld w 21 18)) (.ofNat 4 (fld w 17 14)) (.ofNat 1 (fld w 0 0))) := by
  unfold dec1A
  rw [h]
  rfl

theorem dec1A_1 (w : Nat) (h : fld w 13 6 = 1) : dec1A w =
    chk (fld w 25 22 != 0 || fld w 5 1 != 0) (false) (badReg (fld w 21 18) || badReg (fld w 17 14)) (.redFadd (.ofNat 4 (fld w 21 18)) (.ofNat 4 (fld w 17 14)) (.ofNat 1 (fld w 0 0))) := by
  unfold dec1A
  rw [h]
  rfl

theorem dec1A_2 (w : Nat) (h : fld w 13 6 = 2) : dec1A w =
    chk (fld w 25 22 != 0 || fld w 5 1 != 0) (false) (badReg (fld w 21 18) || badReg (fld w 17 14)) (.redMin (.ofNat 4 (fld w 21 18)) (.ofNat 4 (fld w 17 14)) (.ofNat 1 (fld w 0 0))) := by
  unfold dec1A
  rw [h]
  rfl

theorem dec1A_3 (w : Nat) (h : fld w 13 6 = 3) : dec1A w =
    chk (fld w 25 22 != 0 || fld w 5 1 != 0) (false) (badReg (fld w 21 18) || badReg (fld w 17 14)) (.redMax (.ofNat 4 (fld w 21 18)) (.ofNat 4 (fld w 17 14)) (.ofNat 1 (fld w 0 0))) := by
  unfold dec1A
  rw [h]
  rfl

theorem dec1A_4 (w : Nat) (h : fld w 13 6 = 4) : dec1A w =
    chk (fld w 25 22 != 0 || fld w 5 1 != 0) (false) (badReg (fld w 21 18) || badReg (fld w 17 14)) (.redOr (.ofNat 4 (fld w 21 18)) (.ofNat 4 (fld w 17 14)) (.ofNat 1 (fld w 0 0))) := by
  unfold dec1A
  rw [h]
  rfl

theorem dec1B_0 (w : Nat) (h : fld w 17 14 = 0) : dec1B w =
    chk (fld w 25 22 != 0) (false) (badReg (fld w 21 18)) (.pf (.ofNat 4 (fld w 21 18)) (.ofNat 14 (fld w 13 0))) := by
  unfold dec1B
  rw [h]
  rfl

theorem dec1B_1 (w : Nat) (h : fld w 17 14 = 1) : dec1B w =
    chk (fld w 25 22 != 0) (false) (badReg (fld w 21 18)) (.cwb (.ofNat 4 (fld w 21 18)) (.ofNat 14 (fld w 13 0))) := by
  unfold dec1B
  rw [h]
  rfl

theorem dec1B_2 (w : Nat) (h : fld w 17 14 = 2) : dec1B w =
    chk (fld w 25 22 != 0) (false) (badReg (fld w 21 18)) (.cdis (.ofNat 4 (fld w 21 18)) (.ofNat 14 (fld w 13 0))) := by
  unfold dec1B
  rw [h]
  rfl

theorem dec1B_3 (w : Nat) (h : fld w 17 14 = 3) : dec1B w =
    chk (fld w 25 22 != 0) (false) (badReg (fld w 21 18)) (.cinvI (.ofNat 4 (fld w 21 18)) (.ofNat 14 (fld w 13 0))) := by
  unfold dec1B
  rw [h]
  rfl

theorem dec20_0 (w : Nat) (h : fld w 13 6 = 0) : dec20 w =
    chk (fld w 25 22 != 0 || fld w 17 14 != 0 || fld w 5 0 != 0) (false) (badReg (fld w 21 18)) (.jr (.ofNat 4 (fld w 21 18))) := by
  unfold dec20
  rw [h]
  rfl

theorem dec20_1 (w : Nat) (h : fld w 13 6 = 1) : dec20 w =
    chk (fld w 25 22 != 0 || fld w 17 14 != 0 || fld w 5 0 != 0) (false) (badReg (fld w 21 18)) (.callr (.ofNat 4 (fld w 21 18))) := by
  unfold dec20
  rw [h]
  rfl

theorem dec22_0 (w : Nat) (h : fld w 13 6 = 0) : dec22 w =
    chk (fld w 25 22 != 0 || fld w 17 14 != 0 || fld w 5 0 != 0) (false) (badReg (fld w 21 18)) (.go (.ofNat 4 (fld w 21 18))) := by
  unfold dec22
  rw [h]
  rfl

theorem dec22_1 (w : Nat) (h : fld w 13 6 = 1) : dec22 w =
    chk (fld w 25 22 != 0 || fld w 17 14 != 0 || fld w 5 0 != 0) (false) (badReg (fld w 21 18)) (.gocore (.ofNat 4 (fld w 21 18))) := by
  unfold dec22
  rw [h]
  rfl

theorem dec23_0 (w : Nat) (h : fld w 13 6 = 0) : dec23 w =
    chk (fld w 5 0 != 0) (false) (badReg (fld w 25 22) || badReg (fld w 21 18) || badReg (fld w 17 14)) (.meet (.ofNat 4 (fld w 25 22)) (.ofNat 4 (fld w 21 18)) (.ofNat 4 (fld w 17 14))) := by
  unfold dec23
  rw [h]
  rfl

theorem dec23_1 (w : Nat) (h : fld w 13 6 = 1) : dec23 w =
    chk (fld w 21 14 != 0 || fld w 5 4 != 0) (false) (badReg (fld w 25 22)) (.xget (.ofNat 4 (fld w 25 22)) (.ofNat 4 (fld w 3 0))) := by
  unfold dec23
  rw [h]
  rfl

theorem dec23_3 (w : Nat) (h : fld w 13 6 = 3) : dec23 w =
    chk (fld w 25 22 != 0 || fld w 17 14 != 0 || fld w 5 0 != 0) (false) (badReg (fld w 21 18)) (.partgo (.ofNat 4 (fld w 21 18))) := by
  unfold dec23
  rw [h]
  rfl

theorem dec24_0 (w : Nat) (h : fld w 13 6 = 0) : dec24 w =
    chk (fld w 5 0 != 0) (false) (badReg (fld w 25 22) || badReg (fld w 21 18) || badReg (fld w 17 14)) (.spawn (.ofNat 4 (fld w 25 22)) (.ofNat 4 (fld w 21 18)) (.ofNat 4 (fld w 17 14))) := by
  unfold dec24
  rw [h]
  rfl

theorem dec24_5 (w : Nat) (h : fld w 13 6 = 5) : dec24 w =
    chk (fld w 17 14 != 0 || fld w 5 0 != 0) (false) (badReg (fld w 25 22) || badReg (fld w 21 18)) (.alloc (.ofNat 4 (fld w 25 22)) (.ofNat 4 (fld w 21 18))) := by
  unfold dec24
  rw [h]
  rfl

theorem dec24_6 (w : Nat) (h : fld w 13 6 = 6) : dec24 w =
    chk (fld w 5 0 != 0) (false) (badReg (fld w 25 22) || badReg (fld w 21 18) || badReg (fld w 17 14)) (.fork (.ofNat 4 (fld w 25 22)) (.ofNat 4 (fld w 21 18)) (.ofNat 4 (fld w 17 14))) := by
  unfold dec24
  rw [h]
  rfl

theorem dec24_7 (w : Nat) (h : fld w 13 6 = 7) : dec24 w =
    chk (fld w 25 22 != 0 || fld w 17 14 != 0 || fld w 5 0 != 0) (false) (badReg (fld w 21 18)) (.join (.ofNat 4 (fld w 21 18))) := by
  unfold dec24
  rw [h]
  rfl

theorem dec24_8 (w : Nat) (h : fld w 13 6 = 8) : dec24 w =
    chk (fld w 25 22 != 0 || fld w 17 14 != 0 || fld w 5 0 != 0) (false) (badReg (fld w 21 18)) (.wakePark (.ofNat 4 (fld w 21 18))) := by
  unfold dec24
  rw [h]
  rfl

theorem dec24_9 (w : Nat) (h : fld w 13 6 = 9) : dec24 w =
    chk (fld w 25 22 != 0 || fld w 5 0 != 0) (false) (badReg (fld w 21 18) || badReg (fld w 17 14)) (.tsk (.ofNat 4 (fld w 21 18)) (.ofNat 4 (fld w 17 14))) := by
  unfold dec24
  rw [h]
  rfl

theorem dec25_0 (w : Nat) (h : fld w 13 6 = 0) : dec25 w =
    chk (fld w 25 22 != 0 || fld w 5 0 != 0) (false) (badReg (fld w 21 18) || badReg (fld w 17 14)) (.qpush (.ofNat 4 (fld w 21 18)) (.ofNat 4 (fld w 17 14))) := by
  unfold dec25
  rw [h]
  rfl

theorem dec25_1 (w : Nat) (h : fld w 13 6 = 1) : dec25 w =
    chk (fld w 21 14 != 0 || fld w 5 0 != 0) (false) (badReg (fld w 25 22)) (.qpop (.ofNat 4 (fld w 25 22))) := by
  unfold dec25
  rw [h]
  rfl

theorem dec25_2 (w : Nat) (h : fld w 13 6 = 2) : dec25 w =
    chk (fld w 21 18 != 0 || fld w 5 0 != 0) (false) (badReg (fld w 25 22) || badReg (fld w 17 14)) (.qlen (.ofNat 4 (fld w 25 22)) (.ofNat 4 (fld w 17 14))) := by
  unfold dec25
  rw [h]
  rfl

theorem dec26_0 (w : Nat) (h : fld w 13 6 = 0) : dec26 w =
    chk (fld w 17 14 != 0 || fld w 5 0 != 0) (false) (badReg (fld w 25 22) || badReg (fld w 21 18)) (.recv (.ofNat 4 (fld w 25 22)) (.ofNat 4 (fld w 21 18))) := by
  unfold dec26
  rw [h]
  rfl

theorem dec26_1 (w : Nat) (h : fld w 13 6 = 1) : dec26 w =
    chk (fld w 17 14 != 0 || fld w 5 0 != 0) (false) (badReg (fld w 25 22) || badReg (fld w 21 18)) (.mpoll (.ofNat 4 (fld w 25 22)) (.ofNat 4 (fld w 21 18))) := by
  unfold dec26
  rw [h]
  rfl

theorem dec26_2 (w : Nat) (h : fld w 13 6 = 2) : dec26 w =
    chk (fld w 25 22 != 0 || fld w 5 0 != 0) (false) (badReg (fld w 21 18) || badReg (fld w 17 14)) (.mbind (.ofNat 4 (fld w 21 18)) (.ofNat 4 (fld w 17 14))) := by
  unfold dec26
  rw [h]
  rfl

theorem dec27_0 (w : Nat) (h : fld w 25 16 = 0) : dec27 w =
    chk (fld w 15 7 != 0) (badScope (fld w 6 4)) (false) (.bar (.ofNat 3 (fld w 6 4)) (.ofNat 4 (fld w 3 0))) := by
  unfold dec27
  rw [h]
  rfl

theorem dec27_1 (w : Nat) (h : fld w 25 16 = 1) : dec27 w =
    chk (fld w 15 7 != 0) (badScope (fld w 6 4)) (false) (.barn (.ofNat 3 (fld w 6 4)) (.ofNat 4 (fld w 3 0))) := by
  unfold dec27
  rw [h]
  rfl

theorem dec27_2 (w : Nat) (h : fld w 25 16 = 2) : dec27 w =
    chk (fld w 11 7 != 0) (badScope (fld w 6 4)) (badReg (fld w 15 12)) (.barw (.ofNat 4 (fld w 15 12)) (.ofNat 3 (fld w 6 4)) (.ofNat 4 (fld w 3 0))) := by
  unfold dec27
  rw [h]
  rfl

theorem dec27_3 (w : Nat) (h : fld w 25 16 = 3) : dec27 w =
    chk (fld w 11 7 != 0) (badScope (fld w 6 4)) (badReg (fld w 15 12)) (.barg (.ofNat 4 (fld w 15 12)) (.ofNat 3 (fld w 6 4)) (.ofNat 4 (fld w 3 0))) := by
  unfold dec27
  rw [h]
  rfl

theorem dec27_4 (w : Nat) (h : fld w 25 16 = 4) : dec27 w =
    chk (fld w 11 7 != 0) (badScope (fld w 6 4)) (badReg (fld w 15 12)) (.barset (.ofNat 4 (fld w 15 12)) (.ofNat 3 (fld w 6 4)) (.ofNat 4 (fld w 3 0))) := by
  unfold dec27
  rw [h]
  rfl

theorem dec2A_0 (w : Nat) (h : fld w 25 16 = 0) : dec2A w =
    chk (fld w 15 8 != 0) (false) (false) (.trap (.ofNat 8 (fld w 7 0))) := by
  unfold dec2A
  rw [h]
  rfl

theorem dec2A_4 (w : Nat) (h : fld w 25 16 = 4) : dec2A w =
    chk (false) (false) (false) (.blk (.ofNat 16 (fld w 15 0))) := by
  unfold dec2A
  rw [h]
  rfl

theorem dec2A_5 (w : Nat) (h : fld w 25 16 = 5) : dec2A w =
    chk (fld w 11 0 != 0) (false) (badReg (fld w 15 12)) (.ctxsv (.ofNat 4 (fld w 15 12))) := by
  unfold dec2A
  rw [h]
  rfl

theorem dec2A_6 (w : Nat) (h : fld w 25 16 = 6) : dec2A w =
    chk (fld w 11 0 != 0) (false) (badReg (fld w 15 12)) (.ctxrs (.ofNat 4 (fld w 15 12))) := by
  unfold dec2A
  rw [h]
  rfl

theorem dec30_0 (w : Nat) (h : fld w 17 12 = 0) : dec30 w =
    chk (fld w 10 0 != 0) (false) (badReg (fld w 25 22) || badReg (fld w 21 18)) (.cp (.ofNat 4 (fld w 25 22)) (.ofNat 4 (fld w 21 18)) (.ofNat 1 (fld w 11 11))) := by
  unfold dec30
  rw [h]
  rfl

theorem dec30_1 (w : Nat) (h : fld w 17 12 = 1) : dec30 w =
    chk (fld w 10 0 != 0) (false) (badReg (fld w 25 22) || badReg (fld w 21 18)) (.cpn (.ofNat 4 (fld w 25 22)) (.ofNat 4 (fld w 21 18)) (.ofNat 1 (fld w 11 11))) := by
  unfold dec30
  rw [h]
  rfl

theorem dec30_2 (w : Nat) (h : fld w 17 12 = 2) : dec30 w =
    chk (fld w 10 0 != 0) (false) (badReg (fld w 25 22) || badReg (fld w 21 18)) (.cpm (.ofNat 4 (fld w 25 22)) (.ofNat 4 (fld w 21 18)) (.ofNat 1 (fld w 11 11))) := by
  unfold dec30
  rw [h]
  rfl

theorem dec30_3 (w : Nat) (h : fld w 17 12 = 3) : dec30 w =
    chk (fld w 10 0 != 0) (false) (badReg (fld w 25 22) || badReg (fld w 21 18)) (.cps (.ofNat 4 (fld w 25 22)) (.ofNat 4 (fld w 21 18)) (.ofNat 1 (fld w 11 11))) := by
  unfold dec30
  rw [h]
  rfl

theorem dec30_4 (w : Nat) (h : fld w 17 12 = 4) : dec30 w =
    chk (fld w 10 0 != 0) (false) (badReg (fld w 25 22) || badReg (fld w 21 18)) (.cprFp32 (.ofNat 4 (fld w 25 22)) (.ofNat 4 (fld w 21 18)) (.ofNat 1 (fld w 11 11))) := by
  unfold dec30
  rw [h]
  rfl

theorem dec30_5 (w : Nat) (h : fld w 17 12 = 5) : dec30 w =
    chk (fld w 11 1 != 0) (false) (badReg (fld w 25 22) || badReg (fld w 21 18)) (.cpsi (.ofNat 4 (fld w 25 22)) (.ofNat 4 (fld w 21 18)) (.ofNat 1 (fld w 0 0))) := by
  unfold dec30
  rw [h]
  rfl

theorem dec30_6 (w : Nat) (h : fld w 17 12 = 6) : dec30 w =
    chk (fld w 11 1 != 0) (false) (badReg (fld w 25 22) || badReg (fld w 21 18)) (.cpso (.ofNat 4 (fld w 25 22)) (.ofNat 4 (fld w 21 18)) (.ofNat 1 (fld w 0 0))) := by
  unfold dec30
  rw [h]
  rfl

theorem dec30_7 (w : Nat) (h : fld w 17 12 = 7) : dec30 w =
    chk (fld w 10 1 != 0) (false) (badReg (fld w 25 22) || badReg (fld w 21 18)) (.cpf (.ofNat 4 (fld w 25 22)) (.ofNat 4 (fld w 21 18)) (.ofNat 1 (fld w 11 11)) (.ofNat 1 (fld w 0 0))) := by
  unfold dec30
  rw [h]
  rfl

theorem dec30_8 (w : Nat) (h : fld w 17 12 = 8) : dec30 w =
    chk (fld w 21 18 != 0 || fld w 10 0 != 0) (false) (badReg (fld w 25 22)) (.cpz (.ofNat 4 (fld w 25 22)) (.ofNat 1 (fld w 11 11))) := by
  unfold dec30
  rw [h]
  rfl

theorem dec30_9 (w : Nat) (h : fld w 17 12 = 9) : dec30 w =
    chk (fld w 21 18 != 0 || fld w 10 0 != 0) (false) (badReg (fld w 25 22)) (.cpc (.ofNat 4 (fld w 25 22)) (.ofNat 1 (fld w 11 11))) := by
  unfold dec30
  rw [h]
  rfl

theorem dec32_0 (w : Nat) (h : fld w 17 12 = 0) : dec32 w =
    chk (fld w 10 2 != 0) (false) (badReg (fld w 25 22) || badReg (fld w 21 18)) (.vadd (.ofNat 4 (fld w 25 22)) (.ofNat 4 (fld w 21 18)) (.ofNat 1 (fld w 11 11)) (.ofNat 1 (fld w 1 1)) (.ofNat 1 (fld w 0 0))) := by
  unfold dec32
  rw [h]
  rfl

theorem dec32_1 (w : Nat) (h : fld w 17 12 = 1) : dec32 w =
    chk (fld w 10 2 != 0) (false) (badReg (fld w 25 22) || badReg (fld w 21 18)) (.vsub (.ofNat 4 (fld w 25 22)) (.ofNat 4 (fld w 21 18)) (.ofNat 1 (fld w 11 11)) (.ofNat 1 (fld w 1 1)) (.ofNat 1 (fld w 0 0))) := by
  unfold dec32
  rw [h]
  rfl

theorem dec32_2 (w : Nat) (h : fld w 17 12 = 2) : dec32 w =
    chk (fld w 10 2 != 0) (false) (badReg (fld w 25 22) || badReg (fld w 21 18)) (.vmul (.ofNat 4 (fld w 25 22)) (.ofNat 4 (fld w 21 18)) (.ofNat 1 (fld w 11 11)) (.ofNat 1 (fld w 1 1)) (.ofNat 1 (fld w 0 0))) := by
  unfold dec32
  rw [h]
  rfl

theorem dec32_3 (w : Nat) (h : fld w 17 12 = 3) : dec32 w =
    chk (fld w 10 2 != 0) (false) (badReg (fld w 25 22) || badReg (fld w 21 18)) (.vfma (.ofNat 4 (fld w 25 22)) (.ofNat 4 (fld w 21 18)) (.ofNat 1 (fld w 11 11)) (.ofNat 1 (fld w 1 1)) (.ofNat 1 (fld w 0 0))) := by
  unfold dec32
  rw [h]
  rfl

theorem dec32_4 (w : Nat) (h : fld w 17 12 = 4) : dec32 w =
    chk (fld w 10 2 != 0) (false) (badReg (fld w 25 22) || badReg (fld w 21 18)) (.vmin (.ofNat 4 (fld w 25 22)) (.ofNat 4 (fld w 21 18)) (.ofNat 1 (fld w 11 11)) (.ofNat 1 (fld w 1 1)) (.ofNat 1 (fld w 0 0))) := by
  unfold dec32
  rw [h]
  rfl

theorem dec32_5 (w : Nat) (h : fld w 17 12 = 5) : dec32 w =
    chk (fld w 10 2 != 0) (false) (badReg (fld w 25 22) || badReg (fld w 21 18)) (.vmax (.ofNat 4 (fld w 25 22)) (.ofNat 4 (fld w 21 18)) (.ofNat 1 (fld w 11 11)) (.ofNat 1 (fld w 1 1)) (.ofNat 1 (fld w 0 0))) := by
  unfold dec32
  rw [h]
  rfl

theorem dec32_6 (w : Nat) (h : fld w 17 12 = 6) : dec32 w =
    chk (fld w 10 2 != 0 || fld w 0 0 != 0) (false) (badReg (fld w 25 22) || badReg (fld w 21 18)) (.vabs (.ofNat 4 (fld w 25 22)) (.ofNat 4 (fld w 21 18)) (.ofNat 1 (fld w 11 11)) (.ofNat 1 (fld w 1 1))) := by
  unfold dec32
  rw [h]
  rfl

theorem dec32_7 (w : Nat) (h : fld w 17 12 = 7) : dec32 w =
    chk (fld w 10 2 != 0 || fld w 0 0 != 0) (false) (badReg (fld w 25 22) || badReg (fld w 21 18)) (.vneg (.ofNat 4 (fld w 25 22)) (.ofNat 4 (fld w 21 18)) (.ofNat 1 (fld w 11 11)) (.ofNat 1 (fld w 1 1))) := by
  unfold dec32
  rw [h]
  rfl

theorem dec32_8 (w : Nat) (h : fld w 17 12 = 8) : dec32 w =
    chk (fld w 10 2 != 0 || fld w 0 0 != 0) (false) (badReg (fld w 25 22) || badReg (fld w 21 18)) (.vsqrt (.ofNat 4 (fld w 25 22)) (.ofNat 4 (fld w 21 18)) (.ofNat 1 (fld w 11 11)) (.ofNat 1 (fld w 1 1))) := by
  unfold dec32
  rw [h]
  rfl

theorem dec32_9 (w : Nat) (h : fld w 17 12 = 9) : dec32 w =
    chk (fld w 10 2 != 0 || fld w 0 0 != 0) (false) (badReg (fld w 25 22) || badReg (fld w 21 18)) (.vexp2 (.ofNat 4 (fld w 25 22)) (.ofNat 4 (fld w 21 18)) (.ofNat 1 (fld w 11 11)) (.ofNat 1 (fld w 1 1))) := by
  unfold dec32
  rw [h]
  rfl

theorem dec32_10 (w : Nat) (h : fld w 17 12 = 10) : dec32 w =
    chk (fld w 10 8 != 0 || fld w 3 1 != 0) (badCc12 (fld w 7 4)) (badReg (fld w 25 22) || badReg (fld w 21 18)) (.vcmp (.ofNat 4 (fld w 25 22)) (.ofNat 4 (fld w 21 18)) (.ofNat 1 (fld w 11 11)) (.ofNat 4 (fld w 7 4)) (.ofNat 1 (fld w 0 0))) := by
  unfold dec32
  rw [h]
  rfl

theorem dec32_11 (w : Nat) (h : fld w 17 12 = 11) : dec32 w =
    chk (fld w 10 2 != 0) (false) (badReg (fld w 25 22) || badReg (fld w 21 18)) (.vsel (.ofNat 4 (fld w 25 22)) (.ofNat 4 (fld w 21 18)) (.ofNat 1 (fld w 11 11)) (.ofNat 1 (fld w 1 1)) (.ofNat 1 (fld w 0 0))) := by
  unfold dec32
  rw [h]
  rfl

theorem dec32_12 (w : Nat) (h : fld w 17 12 = 12) : dec32 w =
    chk (fld w 10 8 != 0 || fld w 3 2 != 0 || fld w 0 0 != 0) (false) (badReg (fld w 25 22) || badReg (fld w 21 18)) (.vcvt (.ofNat 4 (fld w 25 22)) (.ofNat 4 (fld w 21 18)) (.ofNat 1 (fld w 11 11)) (.ofNat 4 (fld w 7 4)) (.ofNat 1 (fld w 1 1))) := by
  unfold dec32
  rw [h]
  rfl

theorem dec32_13 (w : Nat) (h : fld w 17 12 = 13) : dec32 w =
    chk (fld w 10 0 != 0) (false) (badReg (fld w 25 22) || badReg (fld w 21 18)) (.vred (.ofNat 4 (fld w 25 22)) (.ofNat 4 (fld w 21 18)) (.ofNat 1 (fld w 11 11))) := by
  unfold dec32
  rw [h]
  rfl

theorem dec32_14 (w : Nat) (h : fld w 17 12 = 14) : dec32 w =
    chk (fld w 10 1 != 0) (false) (badReg (fld w 25 22) || badReg (fld w 21 18)) (.vdot (.ofNat 4 (fld w 25 22)) (.ofNat 4 (fld w 21 18)) (.ofNat 1 (fld w 11 11)) (.ofNat 1 (fld w 0 0))) := by
  unfold dec32
  rw [h]
  rfl

theorem dec32_15 (w : Nat) (h : fld w 17 12 = 15) : dec32 w =
    chk (fld w 10 2 != 0 || fld w 0 0 != 0) (false) (badReg (fld w 25 22) || badReg (fld w 21 18)) (.vgat (.ofNat 4 (fld w 25 22)) (.ofNat 4 (fld w 21 18)) (.ofNat 1 (fld w 11 11)) (.ofNat 1 (fld w 1 1))) := by
  unfold dec32
  rw [h]
  rfl

theorem dec32_16 (w : Nat) (h : fld w 17 12 = 16) : dec32 w =
    chk (fld w 10 2 != 0 || fld w 0 0 != 0) (false) (badReg (fld w 25 22) || badReg (fld w 21 18)) (.vsca (.ofNat 4 (fld w 25 22)) (.ofNat 4 (fld w 21 18)) (.ofNat 1 (fld w 11 11)) (.ofNat 1 (fld w 1 1))) := by
  unfold dec32
  rw [h]
  rfl

theorem dec32_17 (w : Nat) (h : fld w 17 12 = 17) : dec32 w =
    chk (fld w 10 2 != 0 || fld w 0 0 != 0) (false) (badReg (fld w 25 22) || badReg (fld w 21 18)) (.vscadd (.ofNat 4 (fld w 25 22)) (.ofNat 4 (fld w 21 18)) (.ofNat 1 (fld w 11 11)) (.ofNat 1 (fld w 1 1))) := by
  unfold dec32
  rw [h]
  rfl

theorem dec32_18 (w : Nat) (h : fld w 17 12 = 18) : dec32 w =
    chk (fld w 10 6 != 0 || fld w 3 0 != 0) (isThree (fld w 5 4)) (badReg (fld w 25 22) || badReg (fld w 21 18)) (.vrot (.ofNat 4 (fld w 25 22)) (.ofNat 4 (fld w 21 18)) (.ofNat 1 (fld w 11 11)) (.ofNat 2 (fld w 5 4))) := by
  unfold dec32
  rw [h]
  rfl

theorem dec32_19 (w : Nat) (h : fld w 17 12 = 19) : dec32 w =
    chk (fld w 10 0 != 0) (false) (badReg (fld w 25 22) || badReg (fld w 21 18)) (.vquant (.ofNat 4 (fld w 25 22)) (.ofNat 4 (fld w 21 18)) (.ofNat 1 (fld w 11 11))) := by
  unfold dec32
  rw [h]
  rfl

theorem dec32_20 (w : Nat) (h : fld w 17 12 = 20) : dec32 w =
    chk (fld w 10 0 != 0) (false) (badReg (fld w 25 22) || badReg (fld w 21 18)) (.vdeq (.ofNat 4 (fld w 25 22)) (.ofNat 4 (fld w 21 18)) (.ofNat 1 (fld w 11 11))) := by
  unfold dec32
  rw [h]
  rfl

theorem dec32_21 (w : Nat) (h : fld w 17 12 = 21) : dec32 w =
    chk (fld w 25 22 != 0 || fld w 10 5 != 0 || fld w 3 0 != 0) (false) (badReg (fld w 21 18)) (.vtab (.ofNat 4 (fld w 21 18)) (.ofNat 1 (fld w 11 11)) (.ofNat 1 (fld w 4 4))) := by
  unfold dec32
  rw [h]
  rfl

theorem dec32_22 (w : Nat) (h : fld w 17 12 = 22) : dec32 w =
    chk (fld w 10 2 != 0 || fld w 0 0 != 0) (false) (badReg (fld w 25 22) || badReg (fld w 21 18)) (.vfix (.ofNat 4 (fld w 25 22)) (.ofNat 4 (fld w 21 18)) (.ofNat 1 (fld w 11 11)) (.ofNat 1 (fld w 1 1))) := by
  unfold dec32
  rw [h]
  rfl

theorem dec32_23 (w : Nat) (h : fld w 17 12 = 23) : dec32 w =
    chk (fld w 10 2 != 0 || fld w 0 0 != 0) (false) (badReg (fld w 25 22) || badReg (fld w 21 18)) (.vflt (.ofNat 4 (fld w 25 22)) (.ofNat 4 (fld w 21 18)) (.ofNat 1 (fld w 11 11)) (.ofNat 1 (fld w 1 1))) := by
  unfold dec32
  rw [h]
  rfl

theorem dec34_0 (w : Nat) (h : fld w 17 12 = 0) : dec34 w =
    chk (fld w 10 0 != 0) (false) (badReg (fld w 25 22) || badReg (fld w 21 18)) (.mldb (.ofNat 4 (fld w 25 22)) (.ofNat 4 (fld w 21 18)) (.ofNat 1 (fld w 11 11))) := by
  unfold dec34
  rw [h]
  rfl

theorem dec34_1 (w : Nat) (h : fld w 17 12 = 1) : dec34 w =
    chk (fld w 10 0 != 0) (false) (badReg (fld w 25 22) || badReg (fld w 21 18)) (.mmac (.ofNat 4 (fld w 25 22)) (.ofNat 4 (fld w 21 18)) (.ofNat 1 (fld w 11 11))) := by
  unfold dec34
  rw [h]
  rfl

theorem dec34_2 (w : Nat) (h : fld w 17 12 = 2) : dec34 w =
    chk (fld w 25 18 != 0 || fld w 10 0 != 0) (false) (false) (.mpass (.ofNat 1 (fld w 11 11))) := by
  unfold dec34
  rw [h]
  rfl

theorem dec34_3 (w : Nat) (h : fld w 17 12 = 3) : dec34 w =
    chk (fld w 21 18 != 0 || fld w 10 0 != 0) (false) (badReg (fld w 25 22)) (.mzero (.ofNat 4 (fld w 25 22)) (.ofNat 1 (fld w 11 11))) := by
  unfold dec34
  rw [h]
  rfl

theorem dec34_4 (w : Nat) (h : fld w 17 12 = 4) : dec34 w =
    chk (fld w 10 7 != 0 || fld w 3 0 != 0) (isThree (fld w 5 4)) (badReg (fld w 25 22) || badReg (fld w 21 18)) (.mdrain (.ofNat 4 (fld w 25 22)) (.ofNat 4 (fld w 21 18)) (.ofNat 1 (fld w 11 11)) (.ofNat 1 (fld w 6 6)) (.ofNat 2 (fld w 5 4))) := by
  unfold dec34
  rw [h]
  rfl

theorem dec34_5 (w : Nat) (h : fld w 17 12 = 5) : dec34 w =
    chk (fld w 21 18 != 0 || fld w 10 7 != 0 || fld w 5 0 != 0) (false) (badReg (fld w 25 22)) (.mdrainx (.ofNat 4 (fld w 25 22)) (.ofNat 1 (fld w 11 11)) (.ofNat 1 (fld w 6 6))) := by
  unfold dec34
  rw [h]
  rfl

theorem dec34_6 (w : Nat) (h : fld w 17 12 = 6) : dec34 w =
    chk (fld w 21 18 != 0 || fld w 10 0 != 0) (false) (badReg (fld w 25 22)) (.maddx (.ofNat 4 (fld w 25 22)) (.ofNat 1 (fld w 11 11))) := by
  unfold dec34
  rw [h]
  rfl

theorem dec36_0 (w : Nat) (h : fld w 17 12 = 0) : dec36 w =
    chk (fld w 10 0 != 0) (false) (badReg (fld w 25 22) || badReg (fld w 21 18)) (.pool (.ofNat 4 (fld w 25 22)) (.ofNat 4 (fld w 21 18)) (.ofNat 1 (fld w 11 11))) := by
  unfold dec36
  rw [h]
  rfl

theorem dec38_0 (w : Nat) (h : fld w 17 12 = 0) : dec38 w =
    chk (fld w 10 0 != 0) (false) (badReg (fld w 25 22) || badReg (fld w 21 18)) (.binapp (.ofNat 4 (fld w 25 22)) (.ofNat 4 (fld w 21 18)) (.ofNat 1 (fld w 11 11))) := by
  unfold dec38
  rw [h]
  rfl

theorem dec38_1 (w : Nat) (h : fld w 17 12 = 1) : dec38 w =
    chk (fld w 10 0 != 0) (false) (badReg (fld w 25 22) || badReg (fld w 21 18)) (.binplayFp32 (.ofNat 4 (fld w 25 22)) (.ofNat 4 (fld w 21 18)) (.ofNat 1 (fld w 11 11))) := by
  unfold dec38
  rw [h]
  rfl

theorem dec38_2 (w : Nat) (h : fld w 17 12 = 2) : dec38 w =
    chk (fld w 25 18 != 0 || fld w 10 0 != 0) (false) (false) (.binflush (.ofNat 1 (fld w 11 11))) := by
  unfold dec38
  rw [h]
  rfl

theorem dec1C_0 (w : Nat) (h : fld w 25 16 = 0) : dec1C w =
    chk (fld w 15 0 != 0) (false) (false) (.fenceQ) := by
  unfold dec1C
  rw [h]
  rfl

theorem dec1C_1 (w : Nat) (h : fld w 25 16 = 1) : dec1C w =
    chk (fld w 15 0 != 0) (false) (false) (.fenceE) := by
  unfold dec1C
  rw [h]
  rfl

theorem dec1C_2 (w : Nat) (h : fld w 25 16 = 2) : dec1C w =
    chk (fld w 15 0 != 0) (false) (false) (.fenceA) := by
  unfold dec1C
  rw [h]
  rfl

theorem dec22_2 (w : Nat) (h : fld w 13 6 = 2) : dec22 w =
    chk (fld w 25 14 != 0 || fld w 5 0 != 0) (false) (false) (.back) := by
  unfold dec22
  rw [h]
  rfl

theorem dec23_2 (w : Nat) (h : fld w 13 6 = 2) : dec23 w =
    chk (fld w 25 14 != 0 || fld w 5 0 != 0) (false) (false) (.part) := by
  unfold dec23
  rw [h]
  rfl

theorem dec24_1 (w : Nat) (h : fld w 13 6 = 1) : dec24 w =
    chk (fld w 25 14 != 0 || fld w 5 0 != 0) (false) (false) (.quit) := by
  unfold dec24
  rw [h]
  rfl

theorem dec24_2 (w : Nat) (h : fld w 13 6 = 2) : dec24 w =
    chk (fld w 25 14 != 0 || fld w 5 0 != 0) (false) (false) (.yield) := by
  unfold dec24
  rw [h]
  rfl

theorem dec24_3 (w : Nat) (h : fld w 13 6 = 3) : dec24 w =
    chk (fld w 25 14 != 0 || fld w 5 0 != 0) (false) (false) (.done) := by
  unfold dec24
  rw [h]
  rfl

theorem dec24_4 (w : Nat) (h : fld w 13 6 = 4) : dec24 w =
    chk (fld w 25 14 != 0 || fld w 5 0 != 0) (false) (false) (.abort) := by
  unfold dec24
  rw [h]
  rfl

theorem dec2A_1 (w : Nat) (h : fld w 25 16 = 1) : dec2A w =
    chk (fld w 15 0 != 0) (false) (false) (.rte) := by
  unfold dec2A
  rw [h]
  rfl

theorem dec2A_2 (w : Nat) (h : fld w 25 16 = 2) : dec2A w =
    chk (fld w 15 0 != 0) (false) (false) (.brk) := by
  unfold dec2A
  rw [h]
  rfl

theorem dec2A_3 (w : Nat) (h : fld w 25 16 = 3) : dec2A w =
    chk (fld w 15 0 != 0) (false) (false) (.isync) := by
  unfold dec2A
  rw [h]
  rfl

/-! ## The constructors -/

theorem add (d : BitVec 4) (a : BitVec 4) (b : BitVec 4) : Statement (.add d a b) := by
  intro word hwf hw
  rw [show encodeNat (.add d a b) = some (pack 0x04000000 [(d.toNat, 22), (a.toNat, 18), (b.toNat, 14)]) from rfl] at hw
  rw [show Instr.wf (.add d a b) = (!badReg d.toNat && !badReg a.toNat && !badReg b.toNat) from rfl] at hwf
  rw [pack3, Option.some.injEq] at hw
  simp only [Bool.and_eq_true, Bool.not_eq_true'] at hwf
  obtain ⟨hn, e0, e1, e2, e3, e4, e5⟩ := layout0 word 1 d.toNat a.toNat b.toNat 0 0 (by decide) d.isLt a.isLt b.isLt (by decide) (by decide) (by omega)
  refine ⟨hn, ?_⟩
  rw [decMajor01 word e0, dec01_0 _ e4, e1, e2, e3, e5]
  simp_all [chk]

theorem sub (d : BitVec 4) (a : BitVec 4) (b : BitVec 4) : Statement (.sub d a b) := by
  intro word hwf hw
  rw [show encodeNat (.sub d a b) = some (pack 0x04000040 [(d.toNat, 22), (a.toNat, 18), (b.toNat, 14)]) from rfl] at hw
  rw [show Instr.wf (.sub d a b) = (!badReg d.toNat && !badReg a.toNat && !badReg b.toNat) from rfl] at hwf
  rw [pack3, Option.some.injEq] at hw
  simp only [Bool.and_eq_true, Bool.not_eq_true'] at hwf
  obtain ⟨hn, e0, e1, e2, e3, e4, e5⟩ := layout0 word 1 d.toNat a.toNat b.toNat 1 0 (by decide) d.isLt a.isLt b.isLt (by decide) (by decide) (by omega)
  refine ⟨hn, ?_⟩
  rw [decMajor01 word e0, dec01_1 _ e4, e1, e2, e3, e5]
  simp_all [chk]

theorem and (d : BitVec 4) (a : BitVec 4) (b : BitVec 4) : Statement (.and d a b) := by
  intro word hwf hw
  rw [show encodeNat (.and d a b) = some (pack 0x04000080 [(d.toNat, 22), (a.toNat, 18), (b.toNat, 14)]) from rfl] at hw
  rw [show Instr.wf (.and d a b) = (!badReg d.toNat && !badReg a.toNat && !badReg b.toNat) from rfl] at hwf
  rw [pack3, Option.some.injEq] at hw
  simp only [Bool.and_eq_true, Bool.not_eq_true'] at hwf
  obtain ⟨hn, e0, e1, e2, e3, e4, e5⟩ := layout0 word 1 d.toNat a.toNat b.toNat 2 0 (by decide) d.isLt a.isLt b.isLt (by decide) (by decide) (by omega)
  refine ⟨hn, ?_⟩
  rw [decMajor01 word e0, dec01_2 _ e4, e1, e2, e3, e5]
  simp_all [chk]

theorem or (d : BitVec 4) (a : BitVec 4) (b : BitVec 4) : Statement (.or d a b) := by
  intro word hwf hw
  rw [show encodeNat (.or d a b) = some (pack 0x040000C0 [(d.toNat, 22), (a.toNat, 18), (b.toNat, 14)]) from rfl] at hw
  rw [show Instr.wf (.or d a b) = (!badReg d.toNat && !badReg a.toNat && !badReg b.toNat) from rfl] at hwf
  rw [pack3, Option.some.injEq] at hw
  simp only [Bool.and_eq_true, Bool.not_eq_true'] at hwf
  obtain ⟨hn, e0, e1, e2, e3, e4, e5⟩ := layout0 word 1 d.toNat a.toNat b.toNat 3 0 (by decide) d.isLt a.isLt b.isLt (by decide) (by decide) (by omega)
  refine ⟨hn, ?_⟩
  rw [decMajor01 word e0, dec01_3 _ e4, e1, e2, e3, e5]
  simp_all [chk]

theorem xor (d : BitVec 4) (a : BitVec 4) (b : BitVec 4) : Statement (.xor d a b) := by
  intro word hwf hw
  rw [show encodeNat (.xor d a b) = some (pack 0x04000100 [(d.toNat, 22), (a.toNat, 18), (b.toNat, 14)]) from rfl] at hw
  rw [show Instr.wf (.xor d a b) = (!badReg d.toNat && !badReg a.toNat && !badReg b.toNat) from rfl] at hwf
  rw [pack3, Option.some.injEq] at hw
  simp only [Bool.and_eq_true, Bool.not_eq_true'] at hwf
  obtain ⟨hn, e0, e1, e2, e3, e4, e5⟩ := layout0 word 1 d.toNat a.toNat b.toNat 4 0 (by decide) d.isLt a.isLt b.isLt (by decide) (by decide) (by omega)
  refine ⟨hn, ?_⟩
  rw [decMajor01 word e0, dec01_4 _ e4, e1, e2, e3, e5]
  simp_all [chk]

theorem andn (d : BitVec 4) (a : BitVec 4) (b : BitVec 4) : Statement (.andn d a b) := by
  intro word hwf hw
  rw [show encodeNat (.andn d a b) = some (pack 0x04000140 [(d.toNat, 22), (a.toNat, 18), (b.toNat, 14)]) from rfl] at hw
  rw [show Instr.wf (.andn d a b) = (!badReg d.toNat && !badReg a.toNat && !badReg b.toNat) from rfl] at hwf
  rw [pack3, Option.some.injEq] at hw
  simp only [Bool.and_eq_true, Bool.not_eq_true'] at hwf
  obtain ⟨hn, e0, e1, e2, e3, e4, e5⟩ := layout0 word 1 d.toNat a.toNat b.toNat 5 0 (by decide) d.isLt a.isLt b.isLt (by decide) (by decide) (by omega)
  refine ⟨hn, ?_⟩
  rw [decMajor01 word e0, dec01_5 _ e4, e1, e2, e3, e5]
  simp_all [chk]

theorem orn (d : BitVec 4) (a : BitVec 4) (b : BitVec 4) : Statement (.orn d a b) := by
  intro word hwf hw
  rw [show encodeNat (.orn d a b) = some (pack 0x04000180 [(d.toNat, 22), (a.toNat, 18), (b.toNat, 14)]) from rfl] at hw
  rw [show Instr.wf (.orn d a b) = (!badReg d.toNat && !badReg a.toNat && !badReg b.toNat) from rfl] at hwf
  rw [pack3, Option.some.injEq] at hw
  simp only [Bool.and_eq_true, Bool.not_eq_true'] at hwf
  obtain ⟨hn, e0, e1, e2, e3, e4, e5⟩ := layout0 word 1 d.toNat a.toNat b.toNat 6 0 (by decide) d.isLt a.isLt b.isLt (by decide) (by decide) (by omega)
  refine ⟨hn, ?_⟩
  rw [decMajor01 word e0, dec01_6 _ e4, e1, e2, e3, e5]
  simp_all [chk]

theorem shl (d : BitVec 4) (a : BitVec 4) (b : BitVec 4) : Statement (.shl d a b) := by
  intro word hwf hw
  rw [show encodeNat (.shl d a b) = some (pack 0x040001C0 [(d.toNat, 22), (a.toNat, 18), (b.toNat, 14)]) from rfl] at hw
  rw [show Instr.wf (.shl d a b) = (!badReg d.toNat && !badReg a.toNat && !badReg b.toNat) from rfl] at hwf
  rw [pack3, Option.some.injEq] at hw
  simp only [Bool.and_eq_true, Bool.not_eq_true'] at hwf
  obtain ⟨hn, e0, e1, e2, e3, e4, e5⟩ := layout0 word 1 d.toNat a.toNat b.toNat 7 0 (by decide) d.isLt a.isLt b.isLt (by decide) (by decide) (by omega)
  refine ⟨hn, ?_⟩
  rw [decMajor01 word e0, dec01_7 _ e4, e1, e2, e3, e5]
  simp_all [chk]

theorem shr (d : BitVec 4) (a : BitVec 4) (b : BitVec 4) : Statement (.shr d a b) := by
  intro word hwf hw
  rw [show encodeNat (.shr d a b) = some (pack 0x04000200 [(d.toNat, 22), (a.toNat, 18), (b.toNat, 14)]) from rfl] at hw
  rw [show Instr.wf (.shr d a b) = (!badReg d.toNat && !badReg a.toNat && !badReg b.toNat) from rfl] at hwf
  rw [pack3, Option.some.injEq] at hw
  simp only [Bool.and_eq_true, Bool.not_eq_true'] at hwf
  obtain ⟨hn, e0, e1, e2, e3, e4, e5⟩ := layout0 word 1 d.toNat a.toNat b.toNat 8 0 (by decide) d.isLt a.isLt b.isLt (by decide) (by decide) (by omega)
  refine ⟨hn, ?_⟩
  rw [decMajor01 word e0, dec01_8 _ e4, e1, e2, e3, e5]
  simp_all [chk]

theorem sar (d : BitVec 4) (a : BitVec 4) (b : BitVec 4) : Statement (.sar d a b) := by
  intro word hwf hw
  rw [show encodeNat (.sar d a b) = some (pack 0x04000240 [(d.toNat, 22), (a.toNat, 18), (b.toNat, 14)]) from rfl] at hw
  rw [show Instr.wf (.sar d a b) = (!badReg d.toNat && !badReg a.toNat && !badReg b.toNat) from rfl] at hwf
  rw [pack3, Option.some.injEq] at hw
  simp only [Bool.and_eq_true, Bool.not_eq_true'] at hwf
  obtain ⟨hn, e0, e1, e2, e3, e4, e5⟩ := layout0 word 1 d.toNat a.toNat b.toNat 9 0 (by decide) d.isLt a.isLt b.isLt (by decide) (by decide) (by omega)
  refine ⟨hn, ?_⟩
  rw [decMajor01 word e0, dec01_9 _ e4, e1, e2, e3, e5]
  simp_all [chk]

theorem rol (d : BitVec 4) (a : BitVec 4) (b : BitVec 4) : Statement (.rol d a b) := by
  intro word hwf hw
  rw [show encodeNat (.rol d a b) = some (pack 0x04000280 [(d.toNat, 22), (a.toNat, 18), (b.toNat, 14)]) from rfl] at hw
  rw [show Instr.wf (.rol d a b) = (!badReg d.toNat && !badReg a.toNat && !badReg b.toNat) from rfl] at hwf
  rw [pack3, Option.some.injEq] at hw
  simp only [Bool.and_eq_true, Bool.not_eq_true'] at hwf
  obtain ⟨hn, e0, e1, e2, e3, e4, e5⟩ := layout0 word 1 d.toNat a.toNat b.toNat 10 0 (by decide) d.isLt a.isLt b.isLt (by decide) (by decide) (by omega)
  refine ⟨hn, ?_⟩
  rw [decMajor01 word e0, dec01_10 _ e4, e1, e2, e3, e5]
  simp_all [chk]

theorem ror (d : BitVec 4) (a : BitVec 4) (b : BitVec 4) : Statement (.ror d a b) := by
  intro word hwf hw
  rw [show encodeNat (.ror d a b) = some (pack 0x040002C0 [(d.toNat, 22), (a.toNat, 18), (b.toNat, 14)]) from rfl] at hw
  rw [show Instr.wf (.ror d a b) = (!badReg d.toNat && !badReg a.toNat && !badReg b.toNat) from rfl] at hwf
  rw [pack3, Option.some.injEq] at hw
  simp only [Bool.and_eq_true, Bool.not_eq_true'] at hwf
  obtain ⟨hn, e0, e1, e2, e3, e4, e5⟩ := layout0 word 1 d.toNat a.toNat b.toNat 11 0 (by decide) d.isLt a.isLt b.isLt (by decide) (by decide) (by omega)
  refine ⟨hn, ?_⟩
  rw [decMajor01 word e0, dec01_11 _ e4, e1, e2, e3, e5]
  simp_all [chk]

theorem min (d : BitVec 4) (a : BitVec 4) (b : BitVec 4) : Statement (.min d a b) := by
  intro word hwf hw
  rw [show encodeNat (.min d a b) = some (pack 0x04000300 [(d.toNat, 22), (a.toNat, 18), (b.toNat, 14)]) from rfl] at hw
  rw [show Instr.wf (.min d a b) = (!badReg d.toNat && !badReg a.toNat && !badReg b.toNat) from rfl] at hwf
  rw [pack3, Option.some.injEq] at hw
  simp only [Bool.and_eq_true, Bool.not_eq_true'] at hwf
  obtain ⟨hn, e0, e1, e2, e3, e4, e5⟩ := layout0 word 1 d.toNat a.toNat b.toNat 12 0 (by decide) d.isLt a.isLt b.isLt (by decide) (by decide) (by omega)
  refine ⟨hn, ?_⟩
  rw [decMajor01 word e0, dec01_12 _ e4, e1, e2, e3, e5]
  simp_all [chk]

theorem max (d : BitVec 4) (a : BitVec 4) (b : BitVec 4) : Statement (.max d a b) := by
  intro word hwf hw
  rw [show encodeNat (.max d a b) = some (pack 0x04000340 [(d.toNat, 22), (a.toNat, 18), (b.toNat, 14)]) from rfl] at hw
  rw [show Instr.wf (.max d a b) = (!badReg d.toNat && !badReg a.toNat && !badReg b.toNat) from rfl] at hwf
  rw [pack3, Option.some.injEq] at hw
  simp only [Bool.and_eq_true, Bool.not_eq_true'] at hwf
  obtain ⟨hn, e0, e1, e2, e3, e4, e5⟩ := layout0 word 1 d.toNat a.toNat b.toNat 13 0 (by decide) d.isLt a.isLt b.isLt (by decide) (by decide) (by omega)
  refine ⟨hn, ?_⟩
  rw [decMajor01 word e0, dec01_13 _ e4, e1, e2, e3, e5]
  simp_all [chk]

theorem minu (d : BitVec 4) (a : BitVec 4) (b : BitVec 4) : Statement (.minu d a b) := by
  intro word hwf hw
  rw [show encodeNat (.minu d a b) = some (pack 0x04000380 [(d.toNat, 22), (a.toNat, 18), (b.toNat, 14)]) from rfl] at hw
  rw [show Instr.wf (.minu d a b) = (!badReg d.toNat && !badReg a.toNat && !badReg b.toNat) from rfl] at hwf
  rw [pack3, Option.some.injEq] at hw
  simp only [Bool.and_eq_true, Bool.not_eq_true'] at hwf
  obtain ⟨hn, e0, e1, e2, e3, e4, e5⟩ := layout0 word 1 d.toNat a.toNat b.toNat 14 0 (by decide) d.isLt a.isLt b.isLt (by decide) (by decide) (by omega)
  refine ⟨hn, ?_⟩
  rw [decMajor01 word e0, dec01_14 _ e4, e1, e2, e3, e5]
  simp_all [chk]

theorem maxu (d : BitVec 4) (a : BitVec 4) (b : BitVec 4) : Statement (.maxu d a b) := by
  intro word hwf hw
  rw [show encodeNat (.maxu d a b) = some (pack 0x040003C0 [(d.toNat, 22), (a.toNat, 18), (b.toNat, 14)]) from rfl] at hw
  rw [show Instr.wf (.maxu d a b) = (!badReg d.toNat && !badReg a.toNat && !badReg b.toNat) from rfl] at hwf
  rw [pack3, Option.some.injEq] at hw
  simp only [Bool.and_eq_true, Bool.not_eq_true'] at hwf
  obtain ⟨hn, e0, e1, e2, e3, e4, e5⟩ := layout0 word 1 d.toNat a.toNat b.toNat 15 0 (by decide) d.isLt a.isLt b.isLt (by decide) (by decide) (by omega)
  refine ⟨hn, ?_⟩
  rw [decMajor01 word e0, dec01_15 _ e4, e1, e2, e3, e5]
  simp_all [chk]

theorem lsa (d : BitVec 4) (a : BitVec 4) (b : BitVec 4) (k : BitVec 3) : Statement (.lsa d a b k) := by
  intro word hwf hw
  rw [show encodeNat (.lsa d a b k) = some (pack 0x04000400 [(d.toNat, 22), (a.toNat, 18), (b.toNat, 14), (k.toNat, 0)]) from rfl] at hw
  rw [show Instr.wf (.lsa d a b k) = (!badReg d.toNat && !badReg a.toNat && !badReg b.toNat) from rfl] at hwf
  rw [pack4, Option.some.injEq] at hw
  simp only [Bool.and_eq_true, Bool.not_eq_true'] at hwf
  obtain ⟨hn, e0, e1, e2, e3, e4, e5, e6⟩ := layout1 word 1 d.toNat a.toNat b.toNat 16 0 k.toNat (by decide) d.isLt a.isLt b.isLt (by decide) (by decide) k.isLt (by omega)
  refine ⟨hn, ?_⟩
  rw [decMajor01 word e0, dec01_16 _ e4, e1, e2, e3, e5, e6]
  simp_all [chk]

theorem addw (d : BitVec 4) (a : BitVec 4) (b : BitVec 4) : Statement (.addw d a b) := by
  intro word hwf hw
  rw [show encodeNat (.addw d a b) = some (pack 0x08000000 [(d.toNat, 22), (a.toNat, 18), (b.toNat, 14)]) from rfl] at hw
  rw [show Instr.wf (.addw d a b) = (!badReg d.toNat && !badReg a.toNat && !badReg b.toNat) from rfl] at hwf
  rw [pack3, Option.some.injEq] at hw
  simp only [Bool.and_eq_true, Bool.not_eq_true'] at hwf
  obtain ⟨hn, e0, e1, e2, e3, e4, e5⟩ := layout0 word 2 d.toNat a.toNat b.toNat 0 0 (by decide) d.isLt a.isLt b.isLt (by decide) (by decide) (by omega)
  refine ⟨hn, ?_⟩
  rw [decMajor02 word e0, dec02_0 _ e4, e1, e2, e3, e5]
  simp_all [chk]

theorem subw (d : BitVec 4) (a : BitVec 4) (b : BitVec 4) : Statement (.subw d a b) := by
  intro word hwf hw
  rw [show encodeNat (.subw d a b) = some (pack 0x08000040 [(d.toNat, 22), (a.toNat, 18), (b.toNat, 14)]) from rfl] at hw
  rw [show Instr.wf (.subw d a b) = (!badReg d.toNat && !badReg a.toNat && !badReg b.toNat) from rfl] at hwf
  rw [pack3, Option.some.injEq] at hw
  simp only [Bool.and_eq_true, Bool.not_eq_true'] at hwf
  obtain ⟨hn, e0, e1, e2, e3, e4, e5⟩ := layout0 word 2 d.toNat a.toNat b.toNat 1 0 (by decide) d.isLt a.isLt b.isLt (by decide) (by decide) (by omega)
  refine ⟨hn, ?_⟩
  rw [decMajor02 word e0, dec02_1 _ e4, e1, e2, e3, e5]
  simp_all [chk]

theorem shlw (d : BitVec 4) (a : BitVec 4) (b : BitVec 4) : Statement (.shlw d a b) := by
  intro word hwf hw
  rw [show encodeNat (.shlw d a b) = some (pack 0x08000080 [(d.toNat, 22), (a.toNat, 18), (b.toNat, 14)]) from rfl] at hw
  rw [show Instr.wf (.shlw d a b) = (!badReg d.toNat && !badReg a.toNat && !badReg b.toNat) from rfl] at hwf
  rw [pack3, Option.some.injEq] at hw
  simp only [Bool.and_eq_true, Bool.not_eq_true'] at hwf
  obtain ⟨hn, e0, e1, e2, e3, e4, e5⟩ := layout0 word 2 d.toNat a.toNat b.toNat 2 0 (by decide) d.isLt a.isLt b.isLt (by decide) (by decide) (by omega)
  refine ⟨hn, ?_⟩
  rw [decMajor02 word e0, dec02_2 _ e4, e1, e2, e3, e5]
  simp_all [chk]

theorem shrw (d : BitVec 4) (a : BitVec 4) (b : BitVec 4) : Statement (.shrw d a b) := by
  intro word hwf hw
  rw [show encodeNat (.shrw d a b) = some (pack 0x080000C0 [(d.toNat, 22), (a.toNat, 18), (b.toNat, 14)]) from rfl] at hw
  rw [show Instr.wf (.shrw d a b) = (!badReg d.toNat && !badReg a.toNat && !badReg b.toNat) from rfl] at hwf
  rw [pack3, Option.some.injEq] at hw
  simp only [Bool.and_eq_true, Bool.not_eq_true'] at hwf
  obtain ⟨hn, e0, e1, e2, e3, e4, e5⟩ := layout0 word 2 d.toNat a.toNat b.toNat 3 0 (by decide) d.isLt a.isLt b.isLt (by decide) (by decide) (by omega)
  refine ⟨hn, ?_⟩
  rw [decMajor02 word e0, dec02_3 _ e4, e1, e2, e3, e5]
  simp_all [chk]

theorem sarw (d : BitVec 4) (a : BitVec 4) (b : BitVec 4) : Statement (.sarw d a b) := by
  intro word hwf hw
  rw [show encodeNat (.sarw d a b) = some (pack 0x08000100 [(d.toNat, 22), (a.toNat, 18), (b.toNat, 14)]) from rfl] at hw
  rw [show Instr.wf (.sarw d a b) = (!badReg d.toNat && !badReg a.toNat && !badReg b.toNat) from rfl] at hwf
  rw [pack3, Option.some.injEq] at hw
  simp only [Bool.and_eq_true, Bool.not_eq_true'] at hwf
  obtain ⟨hn, e0, e1, e2, e3, e4, e5⟩ := layout0 word 2 d.toNat a.toNat b.toNat 4 0 (by decide) d.isLt a.isLt b.isLt (by decide) (by decide) (by omega)
  refine ⟨hn, ?_⟩
  rw [decMajor02 word e0, dec02_4 _ e4, e1, e2, e3, e5]
  simp_all [chk]

theorem mul (d : BitVec 4) (a : BitVec 4) (b : BitVec 4) : Statement (.mul d a b) := by
  intro word hwf hw
  rw [show encodeNat (.mul d a b) = some (pack 0x0C000000 [(d.toNat, 22), (a.toNat, 18), (b.toNat, 14)]) from rfl] at hw
  rw [show Instr.wf (.mul d a b) = (!badReg d.toNat && !badReg a.toNat && !badReg b.toNat) from rfl] at hwf
  rw [pack3, Option.some.injEq] at hw
  simp only [Bool.and_eq_true, Bool.not_eq_true'] at hwf
  obtain ⟨hn, e0, e1, e2, e3, e4, e5⟩ := layout0 word 3 d.toNat a.toNat b.toNat 0 0 (by decide) d.isLt a.isLt b.isLt (by decide) (by decide) (by omega)
  refine ⟨hn, ?_⟩
  rw [decMajor03 word e0, dec03_0 _ e4, e1, e2, e3, e5]
  simp_all [chk]

theorem mulh (d : BitVec 4) (a : BitVec 4) (b : BitVec 4) : Statement (.mulh d a b) := by
  intro word hwf hw
  rw [show encodeNat (.mulh d a b) = some (pack 0x0C000040 [(d.toNat, 22), (a.toNat, 18), (b.toNat, 14)]) from rfl] at hw
  rw [show Instr.wf (.mulh d a b) = (!badReg d.toNat && !badReg a.toNat && !badReg b.toNat) from rfl] at hwf
  rw [pack3, Option.some.injEq] at hw
  simp only [Bool.and_eq_true, Bool.not_eq_true'] at hwf
  obtain ⟨hn, e0, e1, e2, e3, e4, e5⟩ := layout0 word 3 d.toNat a.toNat b.toNat 1 0 (by decide) d.isLt a.isLt b.isLt (by decide) (by decide) (by omega)
  refine ⟨hn, ?_⟩
  rw [decMajor03 word e0, dec03_1 _ e4, e1, e2, e3, e5]
  simp_all [chk]

theorem mulhu (d : BitVec 4) (a : BitVec 4) (b : BitVec 4) : Statement (.mulhu d a b) := by
  intro word hwf hw
  rw [show encodeNat (.mulhu d a b) = some (pack 0x0C000080 [(d.toNat, 22), (a.toNat, 18), (b.toNat, 14)]) from rfl] at hw
  rw [show Instr.wf (.mulhu d a b) = (!badReg d.toNat && !badReg a.toNat && !badReg b.toNat) from rfl] at hwf
  rw [pack3, Option.some.injEq] at hw
  simp only [Bool.and_eq_true, Bool.not_eq_true'] at hwf
  obtain ⟨hn, e0, e1, e2, e3, e4, e5⟩ := layout0 word 3 d.toNat a.toNat b.toNat 2 0 (by decide) d.isLt a.isLt b.isLt (by decide) (by decide) (by omega)
  refine ⟨hn, ?_⟩
  rw [decMajor03 word e0, dec03_2 _ e4, e1, e2, e3, e5]
  simp_all [chk]

theorem mulw (d : BitVec 4) (a : BitVec 4) (b : BitVec 4) : Statement (.mulw d a b) := by
  intro word hwf hw
  rw [show encodeNat (.mulw d a b) = some (pack 0x0C0000C0 [(d.toNat, 22), (a.toNat, 18), (b.toNat, 14)]) from rfl] at hw
  rw [show Instr.wf (.mulw d a b) = (!badReg d.toNat && !badReg a.toNat && !badReg b.toNat) from rfl] at hwf
  rw [pack3, Option.some.injEq] at hw
  simp only [Bool.and_eq_true, Bool.not_eq_true'] at hwf
  obtain ⟨hn, e0, e1, e2, e3, e4, e5⟩ := layout0 word 3 d.toNat a.toNat b.toNat 3 0 (by decide) d.isLt a.isLt b.isLt (by decide) (by decide) (by omega)
  refine ⟨hn, ?_⟩
  rw [decMajor03 word e0, dec03_3 _ e4, e1, e2, e3, e5]
  simp_all [chk]

theorem div (d : BitVec 4) (a : BitVec 4) (b : BitVec 4) : Statement (.div d a b) := by
  intro word hwf hw
  rw [show encodeNat (.div d a b) = some (pack 0x0C000100 [(d.toNat, 22), (a.toNat, 18), (b.toNat, 14)]) from rfl] at hw
  rw [show Instr.wf (.div d a b) = (!badReg d.toNat && !badReg a.toNat && !badReg b.toNat) from rfl] at hwf
  rw [pack3, Option.some.injEq] at hw
  simp only [Bool.and_eq_true, Bool.not_eq_true'] at hwf
  obtain ⟨hn, e0, e1, e2, e3, e4, e5⟩ := layout0 word 3 d.toNat a.toNat b.toNat 4 0 (by decide) d.isLt a.isLt b.isLt (by decide) (by decide) (by omega)
  refine ⟨hn, ?_⟩
  rw [decMajor03 word e0, dec03_4 _ e4, e1, e2, e3, e5]
  simp_all [chk]

theorem divu (d : BitVec 4) (a : BitVec 4) (b : BitVec 4) : Statement (.divu d a b) := by
  intro word hwf hw
  rw [show encodeNat (.divu d a b) = some (pack 0x0C000140 [(d.toNat, 22), (a.toNat, 18), (b.toNat, 14)]) from rfl] at hw
  rw [show Instr.wf (.divu d a b) = (!badReg d.toNat && !badReg a.toNat && !badReg b.toNat) from rfl] at hwf
  rw [pack3, Option.some.injEq] at hw
  simp only [Bool.and_eq_true, Bool.not_eq_true'] at hwf
  obtain ⟨hn, e0, e1, e2, e3, e4, e5⟩ := layout0 word 3 d.toNat a.toNat b.toNat 5 0 (by decide) d.isLt a.isLt b.isLt (by decide) (by decide) (by omega)
  refine ⟨hn, ?_⟩
  rw [decMajor03 word e0, dec03_5 _ e4, e1, e2, e3, e5]
  simp_all [chk]

theorem rem (d : BitVec 4) (a : BitVec 4) (b : BitVec 4) : Statement (.rem d a b) := by
  intro word hwf hw
  rw [show encodeNat (.rem d a b) = some (pack 0x0C000180 [(d.toNat, 22), (a.toNat, 18), (b.toNat, 14)]) from rfl] at hw
  rw [show Instr.wf (.rem d a b) = (!badReg d.toNat && !badReg a.toNat && !badReg b.toNat) from rfl] at hwf
  rw [pack3, Option.some.injEq] at hw
  simp only [Bool.and_eq_true, Bool.not_eq_true'] at hwf
  obtain ⟨hn, e0, e1, e2, e3, e4, e5⟩ := layout0 word 3 d.toNat a.toNat b.toNat 6 0 (by decide) d.isLt a.isLt b.isLt (by decide) (by decide) (by omega)
  refine ⟨hn, ?_⟩
  rw [decMajor03 word e0, dec03_6 _ e4, e1, e2, e3, e5]
  simp_all [chk]

theorem remu (d : BitVec 4) (a : BitVec 4) (b : BitVec 4) : Statement (.remu d a b) := by
  intro word hwf hw
  rw [show encodeNat (.remu d a b) = some (pack 0x0C0001C0 [(d.toNat, 22), (a.toNat, 18), (b.toNat, 14)]) from rfl] at hw
  rw [show Instr.wf (.remu d a b) = (!badReg d.toNat && !badReg a.toNat && !badReg b.toNat) from rfl] at hwf
  rw [pack3, Option.some.injEq] at hw
  simp only [Bool.and_eq_true, Bool.not_eq_true'] at hwf
  obtain ⟨hn, e0, e1, e2, e3, e4, e5⟩ := layout0 word 3 d.toNat a.toNat b.toNat 7 0 (by decide) d.isLt a.isLt b.isLt (by decide) (by decide) (by omega)
  refine ⟨hn, ?_⟩
  rw [decMajor03 word e0, dec03_7 _ e4, e1, e2, e3, e5]
  simp_all [chk]

theorem divw (d : BitVec 4) (a : BitVec 4) (b : BitVec 4) : Statement (.divw d a b) := by
  intro word hwf hw
  rw [show encodeNat (.divw d a b) = some (pack 0x0C000200 [(d.toNat, 22), (a.toNat, 18), (b.toNat, 14)]) from rfl] at hw
  rw [show Instr.wf (.divw d a b) = (!badReg d.toNat && !badReg a.toNat && !badReg b.toNat) from rfl] at hwf
  rw [pack3, Option.some.injEq] at hw
  simp only [Bool.and_eq_true, Bool.not_eq_true'] at hwf
  obtain ⟨hn, e0, e1, e2, e3, e4, e5⟩ := layout0 word 3 d.toNat a.toNat b.toNat 8 0 (by decide) d.isLt a.isLt b.isLt (by decide) (by decide) (by omega)
  refine ⟨hn, ?_⟩
  rw [decMajor03 word e0, dec03_8 _ e4, e1, e2, e3, e5]
  simp_all [chk]

theorem remw (d : BitVec 4) (a : BitVec 4) (b : BitVec 4) : Statement (.remw d a b) := by
  intro word hwf hw
  rw [show encodeNat (.remw d a b) = some (pack 0x0C000240 [(d.toNat, 22), (a.toNat, 18), (b.toNat, 14)]) from rfl] at hw
  rw [show Instr.wf (.remw d a b) = (!badReg d.toNat && !badReg a.toNat && !badReg b.toNat) from rfl] at hwf
  rw [pack3, Option.some.injEq] at hw
  simp only [Bool.and_eq_true, Bool.not_eq_true'] at hwf
  obtain ⟨hn, e0, e1, e2, e3, e4, e5⟩ := layout0 word 3 d.toNat a.toNat b.toNat 9 0 (by decide) d.isLt a.isLt b.isLt (by decide) (by decide) (by omega)
  refine ⟨hn, ?_⟩
  rw [decMajor03 word e0, dec03_9 _ e4, e1, e2, e3, e5]
  simp_all [chk]

theorem clz (d : BitVec 4) (a : BitVec 4) : Statement (.clz d a) := by
  intro word hwf hw
  rw [show encodeNat (.clz d a) = some (pack 0x10000000 [(d.toNat, 22), (a.toNat, 18)]) from rfl] at hw
  rw [show Instr.wf (.clz d a) = (!badReg d.toNat && !badReg a.toNat) from rfl] at hwf
  rw [pack2, Option.some.injEq] at hw
  simp only [Bool.and_eq_true, Bool.not_eq_true'] at hwf
  obtain ⟨hn, e0, e1, e2, e3, e4, e5⟩ := layout0 word 4 d.toNat a.toNat 0 0 0 (by decide) d.isLt a.isLt (by decide) (by decide) (by decide) (by omega)
  refine ⟨hn, ?_⟩
  rw [decMajor04 word e0, dec04_0 _ e4, e1, e2, e3, e5]
  simp_all [chk]

theorem ctz (d : BitVec 4) (a : BitVec 4) : Statement (.ctz d a) := by
  intro word hwf hw
  rw [show encodeNat (.ctz d a) = some (pack 0x10000040 [(d.toNat, 22), (a.toNat, 18)]) from rfl] at hw
  rw [show Instr.wf (.ctz d a) = (!badReg d.toNat && !badReg a.toNat) from rfl] at hwf
  rw [pack2, Option.some.injEq] at hw
  simp only [Bool.and_eq_true, Bool.not_eq_true'] at hwf
  obtain ⟨hn, e0, e1, e2, e3, e4, e5⟩ := layout0 word 4 d.toNat a.toNat 0 1 0 (by decide) d.isLt a.isLt (by decide) (by decide) (by decide) (by omega)
  refine ⟨hn, ?_⟩
  rw [decMajor04 word e0, dec04_1 _ e4, e1, e2, e3, e5]
  simp_all [chk]

theorem popc (d : BitVec 4) (a : BitVec 4) : Statement (.popc d a) := by
  intro word hwf hw
  rw [show encodeNat (.popc d a) = some (pack 0x10000080 [(d.toNat, 22), (a.toNat, 18)]) from rfl] at hw
  rw [show Instr.wf (.popc d a) = (!badReg d.toNat && !badReg a.toNat) from rfl] at hwf
  rw [pack2, Option.some.injEq] at hw
  simp only [Bool.and_eq_true, Bool.not_eq_true'] at hwf
  obtain ⟨hn, e0, e1, e2, e3, e4, e5⟩ := layout0 word 4 d.toNat a.toNat 0 2 0 (by decide) d.isLt a.isLt (by decide) (by decide) (by decide) (by omega)
  refine ⟨hn, ?_⟩
  rw [decMajor04 word e0, dec04_2 _ e4, e1, e2, e3, e5]
  simp_all [chk]

theorem brev (d : BitVec 4) (a : BitVec 4) : Statement (.brev d a) := by
  intro word hwf hw
  rw [show encodeNat (.brev d a) = some (pack 0x100000C0 [(d.toNat, 22), (a.toNat, 18)]) from rfl] at hw
  rw [show Instr.wf (.brev d a) = (!badReg d.toNat && !badReg a.toNat) from rfl] at hwf
  rw [pack2, Option.some.injEq] at hw
  simp only [Bool.and_eq_true, Bool.not_eq_true'] at hwf
  obtain ⟨hn, e0, e1, e2, e3, e4, e5⟩ := layout0 word 4 d.toNat a.toNat 0 3 0 (by decide) d.isLt a.isLt (by decide) (by decide) (by decide) (by omega)
  refine ⟨hn, ?_⟩
  rw [decMajor04 word e0, dec04_3 _ e4, e1, e2, e3, e5]
  simp_all [chk]

theorem bswap (d : BitVec 4) (a : BitVec 4) : Statement (.bswap d a) := by
  intro word hwf hw
  rw [show encodeNat (.bswap d a) = some (pack 0x10000100 [(d.toNat, 22), (a.toNat, 18)]) from rfl] at hw
  rw [show Instr.wf (.bswap d a) = (!badReg d.toNat && !badReg a.toNat) from rfl] at hwf
  rw [pack2, Option.some.injEq] at hw
  simp only [Bool.and_eq_true, Bool.not_eq_true'] at hwf
  obtain ⟨hn, e0, e1, e2, e3, e4, e5⟩ := layout0 word 4 d.toNat a.toNat 0 4 0 (by decide) d.isLt a.isLt (by decide) (by decide) (by decide) (by omega)
  refine ⟨hn, ?_⟩
  rw [decMajor04 word e0, dec04_4 _ e4, e1, e2, e3, e5]
  simp_all [chk]

theorem sxb (d : BitVec 4) (a : BitVec 4) : Statement (.sxb d a) := by
  intro word hwf hw
  rw [show encodeNat (.sxb d a) = some (pack 0x10000140 [(d.toNat, 22), (a.toNat, 18)]) from rfl] at hw
  rw [show Instr.wf (.sxb d a) = (!badReg d.toNat && !badReg a.toNat) from rfl] at hwf
  rw [pack2, Option.some.injEq] at hw
  simp only [Bool.and_eq_true, Bool.not_eq_true'] at hwf
  obtain ⟨hn, e0, e1, e2, e3, e4, e5⟩ := layout0 word 4 d.toNat a.toNat 0 5 0 (by decide) d.isLt a.isLt (by decide) (by decide) (by decide) (by omega)
  refine ⟨hn, ?_⟩
  rw [decMajor04 word e0, dec04_5 _ e4, e1, e2, e3, e5]
  simp_all [chk]

theorem sxh (d : BitVec 4) (a : BitVec 4) : Statement (.sxh d a) := by
  intro word hwf hw
  rw [show encodeNat (.sxh d a) = some (pack 0x10000180 [(d.toNat, 22), (a.toNat, 18)]) from rfl] at hw
  rw [show Instr.wf (.sxh d a) = (!badReg d.toNat && !badReg a.toNat) from rfl] at hwf
  rw [pack2, Option.some.injEq] at hw
  simp only [Bool.and_eq_true, Bool.not_eq_true'] at hwf
  obtain ⟨hn, e0, e1, e2, e3, e4, e5⟩ := layout0 word 4 d.toNat a.toNat 0 6 0 (by decide) d.isLt a.isLt (by decide) (by decide) (by decide) (by omega)
  refine ⟨hn, ?_⟩
  rw [decMajor04 word e0, dec04_6 _ e4, e1, e2, e3, e5]
  simp_all [chk]

theorem sxw (d : BitVec 4) (a : BitVec 4) : Statement (.sxw d a) := by
  intro word hwf hw
  rw [show encodeNat (.sxw d a) = some (pack 0x100001C0 [(d.toNat, 22), (a.toNat, 18)]) from rfl] at hw
  rw [show Instr.wf (.sxw d a) = (!badReg d.toNat && !badReg a.toNat) from rfl] at hwf
  rw [pack2, Option.some.injEq] at hw
  simp only [Bool.and_eq_true, Bool.not_eq_true'] at hwf
  obtain ⟨hn, e0, e1, e2, e3, e4, e5⟩ := layout0 word 4 d.toNat a.toNat 0 7 0 (by decide) d.isLt a.isLt (by decide) (by decide) (by decide) (by omega)
  refine ⟨hn, ?_⟩
  rw [decMajor04 word e0, dec04_7 _ e4, e1, e2, e3, e5]
  simp_all [chk]

theorem zxb (d : BitVec 4) (a : BitVec 4) : Statement (.zxb d a) := by
  intro word hwf hw
  rw [show encodeNat (.zxb d a) = some (pack 0x10000200 [(d.toNat, 22), (a.toNat, 18)]) from rfl] at hw
  rw [show Instr.wf (.zxb d a) = (!badReg d.toNat && !badReg a.toNat) from rfl] at hwf
  rw [pack2, Option.some.injEq] at hw
  simp only [Bool.and_eq_true, Bool.not_eq_true'] at hwf
  obtain ⟨hn, e0, e1, e2, e3, e4, e5⟩ := layout0 word 4 d.toNat a.toNat 0 8 0 (by decide) d.isLt a.isLt (by decide) (by decide) (by decide) (by omega)
  refine ⟨hn, ?_⟩
  rw [decMajor04 word e0, dec04_8 _ e4, e1, e2, e3, e5]
  simp_all [chk]

theorem zxh (d : BitVec 4) (a : BitVec 4) : Statement (.zxh d a) := by
  intro word hwf hw
  rw [show encodeNat (.zxh d a) = some (pack 0x10000240 [(d.toNat, 22), (a.toNat, 18)]) from rfl] at hw
  rw [show Instr.wf (.zxh d a) = (!badReg d.toNat && !badReg a.toNat) from rfl] at hwf
  rw [pack2, Option.some.injEq] at hw
  simp only [Bool.and_eq_true, Bool.not_eq_true'] at hwf
  obtain ⟨hn, e0, e1, e2, e3, e4, e5⟩ := layout0 word 4 d.toNat a.toNat 0 9 0 (by decide) d.isLt a.isLt (by decide) (by decide) (by decide) (by omega)
  refine ⟨hn, ?_⟩
  rw [decMajor04 word e0, dec04_9 _ e4, e1, e2, e3, e5]
  simp_all [chk]

theorem zxw (d : BitVec 4) (a : BitVec 4) : Statement (.zxw d a) := by
  intro word hwf hw
  rw [show encodeNat (.zxw d a) = some (pack 0x10000280 [(d.toNat, 22), (a.toNat, 18)]) from rfl] at hw
  rw [show Instr.wf (.zxw d a) = (!badReg d.toNat && !badReg a.toNat) from rfl] at hwf
  rw [pack2, Option.some.injEq] at hw
  simp only [Bool.and_eq_true, Bool.not_eq_true'] at hwf
  obtain ⟨hn, e0, e1, e2, e3, e4, e5⟩ := layout0 word 4 d.toNat a.toNat 0 10 0 (by decide) d.isLt a.isLt (by decide) (by decide) (by decide) (by omega)
  refine ⟨hn, ?_⟩
  rw [decMajor04 word e0, dec04_10 _ e4, e1, e2, e3, e5]
  simp_all [chk]

theorem bfx (d : BitVec 4) (a : BitVec 4) (b : BitVec 4) : Statement (.bfx d a b) := by
  intro word hwf hw
  rw [show encodeNat (.bfx d a b) = some (pack 0x100002C0 [(d.toNat, 22), (a.toNat, 18), (b.toNat, 14)]) from rfl] at hw
  rw [show Instr.wf (.bfx d a b) = (!badReg d.toNat && !badReg a.toNat && !badReg b.toNat) from rfl] at hwf
  rw [pack3, Option.some.injEq] at hw
  simp only [Bool.and_eq_true, Bool.not_eq_true'] at hwf
  obtain ⟨hn, e0, e1, e2, e3, e4, e5⟩ := layout0 word 4 d.toNat a.toNat b.toNat 11 0 (by decide) d.isLt a.isLt b.isLt (by decide) (by decide) (by omega)
  refine ⟨hn, ?_⟩
  rw [decMajor04 word e0, dec04_11 _ e4, e1, e2, e3, e5]
  simp_all [chk]

theorem bfxs (d : BitVec 4) (a : BitVec 4) (b : BitVec 4) : Statement (.bfxs d a b) := by
  intro word hwf hw
  rw [show encodeNat (.bfxs d a b) = some (pack 0x10000300 [(d.toNat, 22), (a.toNat, 18), (b.toNat, 14)]) from rfl] at hw
  rw [show Instr.wf (.bfxs d a b) = (!badReg d.toNat && !badReg a.toNat && !badReg b.toNat) from rfl] at hwf
  rw [pack3, Option.some.injEq] at hw
  simp only [Bool.and_eq_true, Bool.not_eq_true'] at hwf
  obtain ⟨hn, e0, e1, e2, e3, e4, e5⟩ := layout0 word 4 d.toNat a.toNat b.toNat 12 0 (by decide) d.isLt a.isLt b.isLt (by decide) (by decide) (by omega)
  refine ⟨hn, ?_⟩
  rw [decMajor04 word e0, dec04_12 _ e4, e1, e2, e3, e5]
  simp_all [chk]

theorem bfi (d : BitVec 4) (a : BitVec 4) (b : BitVec 4) : Statement (.bfi d a b) := by
  intro word hwf hw
  rw [show encodeNat (.bfi d a b) = some (pack 0x10000340 [(d.toNat, 22), (a.toNat, 18), (b.toNat, 14)]) from rfl] at hw
  rw [show Instr.wf (.bfi d a b) = (!badReg d.toNat && !badReg a.toNat && !badReg b.toNat) from rfl] at hwf
  rw [pack3, Option.some.injEq] at hw
  simp only [Bool.and_eq_true, Bool.not_eq_true'] at hwf
  obtain ⟨hn, e0, e1, e2, e3, e4, e5⟩ := layout0 word 4 d.toNat a.toNat b.toNat 13 0 (by decide) d.isLt a.isLt b.isLt (by decide) (by decide) (by omega)
  refine ⟨hn, ?_⟩
  rw [decMajor04 word e0, dec04_13 _ e4, e1, e2, e3, e5]
  simp_all [chk]

theorem addi (d : BitVec 4) (a : BitVec 4) (i : BitVec 18) : Statement (.addi d a i) := by
  intro word hwf hw
  rw [show encodeNat (.addi d a i) = some (pack 0x14000000 [(d.toNat, 22), (a.toNat, 18), (i.toNat, 0)]) from rfl] at hw
  rw [show Instr.wf (.addi d a i) = (!badReg d.toNat && !badReg a.toNat) from rfl] at hwf
  rw [pack3, Option.some.injEq] at hw
  simp only [Bool.and_eq_true, Bool.not_eq_true'] at hwf
  obtain ⟨hn, e0, e1, e2, e3⟩ := layout2 word 5 d.toNat a.toNat i.toNat (by decide) d.isLt a.isLt i.isLt (by omega)
  refine ⟨hn, ?_⟩
  rw [decMajor05 word e0, dec05, e1, e2, e3]
  simp_all [chk]

theorem andi (d : BitVec 4) (a : BitVec 4) (i : BitVec 18) : Statement (.andi d a i) := by
  intro word hwf hw
  rw [show encodeNat (.andi d a i) = some (pack 0x18000000 [(d.toNat, 22), (a.toNat, 18), (i.toNat, 0)]) from rfl] at hw
  rw [show Instr.wf (.andi d a i) = (!badReg d.toNat && !badReg a.toNat) from rfl] at hwf
  rw [pack3, Option.some.injEq] at hw
  simp only [Bool.and_eq_true, Bool.not_eq_true'] at hwf
  obtain ⟨hn, e0, e1, e2, e3⟩ := layout2 word 6 d.toNat a.toNat i.toNat (by decide) d.isLt a.isLt i.isLt (by omega)
  refine ⟨hn, ?_⟩
  rw [decMajor06 word e0, dec06, e1, e2, e3]
  simp_all [chk]

theorem ori (d : BitVec 4) (a : BitVec 4) (i : BitVec 18) : Statement (.ori d a i) := by
  intro word hwf hw
  rw [show encodeNat (.ori d a i) = some (pack 0x1C000000 [(d.toNat, 22), (a.toNat, 18), (i.toNat, 0)]) from rfl] at hw
  rw [show Instr.wf (.ori d a i) = (!badReg d.toNat && !badReg a.toNat) from rfl] at hwf
  rw [pack3, Option.some.injEq] at hw
  simp only [Bool.and_eq_true, Bool.not_eq_true'] at hwf
  obtain ⟨hn, e0, e1, e2, e3⟩ := layout2 word 7 d.toNat a.toNat i.toNat (by decide) d.isLt a.isLt i.isLt (by omega)
  refine ⟨hn, ?_⟩
  rw [decMajor07 word e0, dec07, e1, e2, e3]
  simp_all [chk]

theorem xori (d : BitVec 4) (a : BitVec 4) (i : BitVec 18) : Statement (.xori d a i) := by
  intro word hwf hw
  rw [show encodeNat (.xori d a i) = some (pack 0x20000000 [(d.toNat, 22), (a.toNat, 18), (i.toNat, 0)]) from rfl] at hw
  rw [show Instr.wf (.xori d a i) = (!badReg d.toNat && !badReg a.toNat) from rfl] at hwf
  rw [pack3, Option.some.injEq] at hw
  simp only [Bool.and_eq_true, Bool.not_eq_true'] at hwf
  obtain ⟨hn, e0, e1, e2, e3⟩ := layout2 word 8 d.toNat a.toNat i.toNat (by decide) d.isLt a.isLt i.isLt (by omega)
  refine ⟨hn, ?_⟩
  rw [decMajor08 word e0, dec08, e1, e2, e3]
  simp_all [chk]

theorem shli (d : BitVec 4) (a : BitVec 4) (k : BitVec 6) : Statement (.shli d a k) := by
  intro word hwf hw
  rw [show encodeNat (.shli d a k) = some (pack 0x24000000 [(d.toNat, 22), (a.toNat, 18), (k.toNat, 0)]) from rfl] at hw
  rw [show Instr.wf (.shli d a k) = (!badReg d.toNat && !badReg a.toNat) from rfl] at hwf
  rw [pack3, Option.some.injEq] at hw
  simp only [Bool.and_eq_true, Bool.not_eq_true'] at hwf
  obtain ⟨hn, e0, e1, e2, e3, e4, e5⟩ := layout3 word 9 d.toNat a.toNat 0 0 k.toNat (by decide) d.isLt a.isLt (by decide) (by decide) k.isLt (by omega)
  refine ⟨hn, ?_⟩
  rw [decMajor09 word e0, dec09_0 _ e3, e1, e2, e4, e5]
  simp_all [chk]

theorem shri (d : BitVec 4) (a : BitVec 4) (k : BitVec 6) : Statement (.shri d a k) := by
  intro word hwf hw
  rw [show encodeNat (.shri d a k) = some (pack 0x24001000 [(d.toNat, 22), (a.toNat, 18), (k.toNat, 0)]) from rfl] at hw
  rw [show Instr.wf (.shri d a k) = (!badReg d.toNat && !badReg a.toNat) from rfl] at hwf
  rw [pack3, Option.some.injEq] at hw
  simp only [Bool.and_eq_true, Bool.not_eq_true'] at hwf
  obtain ⟨hn, e0, e1, e2, e3, e4, e5⟩ := layout3 word 9 d.toNat a.toNat 1 0 k.toNat (by decide) d.isLt a.isLt (by decide) (by decide) k.isLt (by omega)
  refine ⟨hn, ?_⟩
  rw [decMajor09 word e0, dec09_1 _ e3, e1, e2, e4, e5]
  simp_all [chk]

theorem sari (d : BitVec 4) (a : BitVec 4) (k : BitVec 6) : Statement (.sari d a k) := by
  intro word hwf hw
  rw [show encodeNat (.sari d a k) = some (pack 0x24002000 [(d.toNat, 22), (a.toNat, 18), (k.toNat, 0)]) from rfl] at hw
  rw [show Instr.wf (.sari d a k) = (!badReg d.toNat && !badReg a.toNat) from rfl] at hwf
  rw [pack3, Option.some.injEq] at hw
  simp only [Bool.and_eq_true, Bool.not_eq_true'] at hwf
  obtain ⟨hn, e0, e1, e2, e3, e4, e5⟩ := layout3 word 9 d.toNat a.toNat 2 0 k.toNat (by decide) d.isLt a.isLt (by decide) (by decide) k.isLt (by omega)
  refine ⟨hn, ?_⟩
  rw [decMajor09 word e0, dec09_2 _ e3, e1, e2, e4, e5]
  simp_all [chk]

theorem roli (d : BitVec 4) (a : BitVec 4) (k : BitVec 6) : Statement (.roli d a k) := by
  intro word hwf hw
  rw [show encodeNat (.roli d a k) = some (pack 0x24003000 [(d.toNat, 22), (a.toNat, 18), (k.toNat, 0)]) from rfl] at hw
  rw [show Instr.wf (.roli d a k) = (!badReg d.toNat && !badReg a.toNat) from rfl] at hwf
  rw [pack3, Option.some.injEq] at hw
  simp only [Bool.and_eq_true, Bool.not_eq_true'] at hwf
  obtain ⟨hn, e0, e1, e2, e3, e4, e5⟩ := layout3 word 9 d.toNat a.toNat 3 0 k.toNat (by decide) d.isLt a.isLt (by decide) (by decide) k.isLt (by omega)
  refine ⟨hn, ?_⟩
  rw [decMajor09 word e0, dec09_3 _ e3, e1, e2, e4, e5]
  simp_all [chk]

theorem shliw (d : BitVec 4) (a : BitVec 4) (k : BitVec 5) : Statement (.shliw d a k) := by
  intro word hwf hw
  rw [show encodeNat (.shliw d a k) = some (pack 0x24004000 [(d.toNat, 22), (a.toNat, 18), (k.toNat, 0)]) from rfl] at hw
  rw [show Instr.wf (.shliw d a k) = (!badReg d.toNat && !badReg a.toNat) from rfl] at hwf
  rw [pack3, Option.some.injEq] at hw
  simp only [Bool.and_eq_true, Bool.not_eq_true'] at hwf
  obtain ⟨hn, e0, e1, e2, e3, e4, e5⟩ := layout4 word 9 d.toNat a.toNat 4 0 k.toNat (by decide) d.isLt a.isLt (by decide) (by decide) k.isLt (by omega)
  refine ⟨hn, ?_⟩
  rw [decMajor09 word e0, dec09_4 _ e3, e1, e2, e4, e5]
  simp_all [chk]

theorem shriw (d : BitVec 4) (a : BitVec 4) (k : BitVec 5) : Statement (.shriw d a k) := by
  intro word hwf hw
  rw [show encodeNat (.shriw d a k) = some (pack 0x24005000 [(d.toNat, 22), (a.toNat, 18), (k.toNat, 0)]) from rfl] at hw
  rw [show Instr.wf (.shriw d a k) = (!badReg d.toNat && !badReg a.toNat) from rfl] at hwf
  rw [pack3, Option.some.injEq] at hw
  simp only [Bool.and_eq_true, Bool.not_eq_true'] at hwf
  obtain ⟨hn, e0, e1, e2, e3, e4, e5⟩ := layout4 word 9 d.toNat a.toNat 5 0 k.toNat (by decide) d.isLt a.isLt (by decide) (by decide) k.isLt (by omega)
  refine ⟨hn, ?_⟩
  rw [decMajor09 word e0, dec09_5 _ e3, e1, e2, e4, e5]
  simp_all [chk]

theorem sariw (d : BitVec 4) (a : BitVec 4) (k : BitVec 5) : Statement (.sariw d a k) := by
  intro word hwf hw
  rw [show encodeNat (.sariw d a k) = some (pack 0x24006000 [(d.toNat, 22), (a.toNat, 18), (k.toNat, 0)]) from rfl] at hw
  rw [show Instr.wf (.sariw d a k) = (!badReg d.toNat && !badReg a.toNat) from rfl] at hwf
  rw [pack3, Option.some.injEq] at hw
  simp only [Bool.and_eq_true, Bool.not_eq_true'] at hwf
  obtain ⟨hn, e0, e1, e2, e3, e4, e5⟩ := layout4 word 9 d.toNat a.toNat 6 0 k.toNat (by decide) d.isLt a.isLt (by decide) (by decide) k.isLt (by omega)
  refine ⟨hn, ?_⟩
  rw [decMajor09 word e0, dec09_6 _ e3, e1, e2, e4, e5]
  simp_all [chk]

theorem lui (d : BitVec 4) (i : BitVec 22) : Statement (.lui d i) := by
  intro word hwf hw
  rw [show encodeNat (.lui d i) = some (pack 0x28000000 [(d.toNat, 22), (i.toNat, 0)]) from rfl] at hw
  rw [show Instr.wf (.lui d i) = (!badReg d.toNat) from rfl] at hwf
  rw [pack2, Option.some.injEq] at hw
  simp only [Bool.and_eq_true, Bool.not_eq_true'] at hwf
  obtain ⟨hn, e0, e1, e2⟩ := layout5 word 10 d.toNat i.toNat (by decide) d.isLt i.isLt (by omega)
  refine ⟨hn, ?_⟩
  rw [decMajor0A word e0, dec0A, e1, e2]
  simp_all [chk]

theorem ipa (d : BitVec 4) (i : BitVec 22) : Statement (.ipa d i) := by
  intro word hwf hw
  rw [show encodeNat (.ipa d i) = some (pack 0x2C000000 [(d.toNat, 22), (i.toNat, 0)]) from rfl] at hw
  rw [show Instr.wf (.ipa d i) = (!badReg d.toNat) from rfl] at hwf
  rw [pack2, Option.some.injEq] at hw
  simp only [Bool.and_eq_true, Bool.not_eq_true'] at hwf
  obtain ⟨hn, e0, e1, e2⟩ := layout5 word 11 d.toNat i.toNat (by decide) d.isLt i.isLt (by omega)
  refine ⟨hn, ?_⟩
  rw [decMajor0B word e0, dec0B, e1, e2]
  simp_all [chk]

theorem gaddr (d : BitVec 4) (a : BitVec 4) (b : BitVec 4) : Statement (.gaddr d a b) := by
  intro word hwf hw
  rw [show encodeNat (.gaddr d a b) = some (pack 0x30000000 [(d.toNat, 22), (a.toNat, 18), (b.toNat, 14)]) from rfl] at hw
  rw [show Instr.wf (.gaddr d a b) = (!badReg d.toNat && !badReg a.toNat && !badReg b.toNat) from rfl] at hwf
  rw [pack3, Option.some.injEq] at hw
  simp only [Bool.and_eq_true, Bool.not_eq_true'] at hwf
  obtain ⟨hn, e0, e1, e2, e3, e4, e5⟩ := layout0 word 12 d.toNat a.toNat b.toNat 0 0 (by decide) d.isLt a.isLt b.isLt (by decide) (by decide) (by omega)
  refine ⟨hn, ?_⟩
  rw [decMajor0C word e0, dec0C_0 _ e4, e1, e2, e3, e5]
  simp_all [chk]

theorem homeof (d : BitVec 4) (a : BitVec 4) : Statement (.homeof d a) := by
  intro word hwf hw
  rw [show encodeNat (.homeof d a) = some (pack 0x30000040 [(d.toNat, 22), (a.toNat, 18)]) from rfl] at hw
  rw [show Instr.wf (.homeof d a) = (!badReg d.toNat && !badReg a.toNat) from rfl] at hwf
  rw [pack2, Option.some.injEq] at hw
  simp only [Bool.and_eq_true, Bool.not_eq_true'] at hwf
  obtain ⟨hn, e0, e1, e2, e3, e4, e5⟩ := layout0 word 12 d.toNat a.toNat 0 1 0 (by decide) d.isLt a.isLt (by decide) (by decide) (by decide) (by omega)
  refine ⟨hn, ?_⟩
  rw [decMajor0C word e0, dec0C_1 _ e4, e1, e2, e3, e5]
  simp_all [chk]

theorem hops (d : BitVec 4) (a : BitVec 4) (b : BitVec 4) : Statement (.hops d a b) := by
  intro word hwf hw
  rw [show encodeNat (.hops d a b) = some (pack 0x30000080 [(d.toNat, 22), (a.toNat, 18), (b.toNat, 14)]) from rfl] at hw
  rw [show Instr.wf (.hops d a b) = (!badReg d.toNat && !badReg a.toNat && !badReg b.toNat) from rfl] at hwf
  rw [pack3, Option.some.injEq] at hw
  simp only [Bool.and_eq_true, Bool.not_eq_true'] at hwf
  obtain ⟨hn, e0, e1, e2, e3, e4, e5⟩ := layout0 word 12 d.toNat a.toNat b.toNat 2 0 (by decide) d.isLt a.isLt b.isLt (by decide) (by decide) (by omega)
  refine ⟨hn, ?_⟩
  rw [decMajor0C word e0, dec0C_2 _ e4, e1, e2, e3, e5]
  simp_all [chk]

theorem cmp (p : BitVec 4) (a : BitVec 4) (b : BitVec 4) (c : BitVec 4) : Statement (.cmp p a b c) := by
  intro word hwf hw
  rw [show encodeNat (.cmp p a b c) = some (pack 0x34000000 [(p.toNat, 22), (a.toNat, 18), (b.toNat, 14), (c.toNat, 10)]) from rfl] at hw
  rw [show Instr.wf (.cmp p a b c) = (!badReg a.toNat && !badReg b.toNat && !badCc12 c.toNat) from rfl] at hwf
  rw [pack4, Option.some.injEq] at hw
  simp only [Bool.and_eq_true, Bool.not_eq_true'] at hwf
  obtain ⟨hn, e0, e1, e2, e3, e4, e5⟩ := layout6 word 13 p.toNat a.toNat b.toNat c.toNat 0 (by decide) p.isLt a.isLt b.isLt c.isLt (by decide) (by omega)
  refine ⟨hn, ?_⟩
  rw [decMajor0D word e0, dec0D_0 _ e5, e1, e2, e3, e4]
  simp_all [chk]

theorem cmpw (p : BitVec 4) (a : BitVec 4) (b : BitVec 4) (c : BitVec 4) : Statement (.cmpw p a b c) := by
  intro word hwf hw
  rw [show encodeNat (.cmpw p a b c) = some (pack 0x34000001 [(p.toNat, 22), (a.toNat, 18), (b.toNat, 14), (c.toNat, 10)]) from rfl] at hw
  rw [show Instr.wf (.cmpw p a b c) = (!badReg a.toNat && !badReg b.toNat && !badCc12 c.toNat) from rfl] at hwf
  rw [pack4, Option.some.injEq] at hw
  simp only [Bool.and_eq_true, Bool.not_eq_true'] at hwf
  obtain ⟨hn, e0, e1, e2, e3, e4, e5⟩ := layout6 word 13 p.toNat a.toNat b.toNat c.toNat 1 (by decide) p.isLt a.isLt b.isLt c.isLt (by decide) (by omega)
  refine ⟨hn, ?_⟩
  rw [decMajor0D word e0, dec0D_1 _ e5, e1, e2, e3, e4]
  simp_all [chk]

theorem cmpi (p : BitVec 4) (a : BitVec 4) (c : BitVec 4) (i : BitVec 14) : Statement (.cmpi p a c i) := by
  intro word hwf hw
  rw [show encodeNat (.cmpi p a c i) = some (pack 0x38000000 [(p.toNat, 22), (a.toNat, 18), (c.toNat, 14), (i.toNat, 0)]) from rfl] at hw
  rw [show Instr.wf (.cmpi p a c i) = (!badReg a.toNat && !badCc12 c.toNat) from rfl] at hwf
  rw [pack4, Option.some.injEq] at hw
  simp only [Bool.and_eq_true, Bool.not_eq_true'] at hwf
  obtain ⟨hn, e0, e1, e2, e3, e4⟩ := layout7 word 14 p.toNat a.toNat c.toNat i.toNat (by decide) p.isLt a.isLt c.isLt i.isLt (by omega)
  refine ⟨hn, ?_⟩
  rw [decMajor0E word e0, dec0E, e1, e2, e3, e4]
  simp_all [chk]

theorem pand (p : BitVec 4) (q : BitVec 4) (s : BitVec 4) : Statement (.pand p q s) := by
  intro word hwf hw
  rw [show encodeNat (.pand p q s) = some (pack 0x3C000000 [(p.toNat, 22), (q.toNat, 18), (s.toNat, 14)]) from rfl] at hw
  rw [show Instr.wf (.pand p q s) = (true) from rfl] at hwf
  rw [pack3, Option.some.injEq] at hw
  simp only [Bool.and_eq_true, Bool.not_eq_true'] at hwf
  obtain ⟨hn, e0, e1, e2, e3, e4, e5⟩ := layout6 word 15 p.toNat q.toNat s.toNat 0 0 (by decide) p.isLt q.isLt s.isLt (by decide) (by decide) (by omega)
  refine ⟨hn, ?_⟩
  rw [decMajor0F word e0, dec0F_0 _ e5, e1, e2, e3, e4]
  simp_all [chk]

theorem por (p : BitVec 4) (q : BitVec 4) (s : BitVec 4) : Statement (.por p q s) := by
  intro word hwf hw
  rw [show encodeNat (.por p q s) = some (pack 0x3C000001 [(p.toNat, 22), (q.toNat, 18), (s.toNat, 14)]) from rfl] at hw
  rw [show Instr.wf (.por p q s) = (true) from rfl] at hwf
  rw [pack3, Option.some.injEq] at hw
  simp only [Bool.and_eq_true, Bool.not_eq_true'] at hwf
  obtain ⟨hn, e0, e1, e2, e3, e4, e5⟩ := layout6 word 15 p.toNat q.toNat s.toNat 0 1 (by decide) p.isLt q.isLt s.isLt (by decide) (by decide) (by omega)
  refine ⟨hn, ?_⟩
  rw [decMajor0F word e0, dec0F_1 _ e5, e1, e2, e3, e4]
  simp_all [chk]

theorem pxor (p : BitVec 4) (q : BitVec 4) (s : BitVec 4) : Statement (.pxor p q s) := by
  intro word hwf hw
  rw [show encodeNat (.pxor p q s) = some (pack 0x3C000002 [(p.toNat, 22), (q.toNat, 18), (s.toNat, 14)]) from rfl] at hw
  rw [show Instr.wf (.pxor p q s) = (true) from rfl] at hwf
  rw [pack3, Option.some.injEq] at hw
  simp only [Bool.and_eq_true, Bool.not_eq_true'] at hwf
  obtain ⟨hn, e0, e1, e2, e3, e4, e5⟩ := layout6 word 15 p.toNat q.toNat s.toNat 0 2 (by decide) p.isLt q.isLt s.isLt (by decide) (by decide) (by omega)
  refine ⟨hn, ?_⟩
  rw [decMajor0F word e0, dec0F_2 _ e5, e1, e2, e3, e4]
  simp_all [chk]

theorem pandn (p : BitVec 4) (q : BitVec 4) (s : BitVec 4) : Statement (.pandn p q s) := by
  intro word hwf hw
  rw [show encodeNat (.pandn p q s) = some (pack 0x3C000003 [(p.toNat, 22), (q.toNat, 18), (s.toNat, 14)]) from rfl] at hw
  rw [show Instr.wf (.pandn p q s) = (true) from rfl] at hwf
  rw [pack3, Option.some.injEq] at hw
  simp only [Bool.and_eq_true, Bool.not_eq_true'] at hwf
  obtain ⟨hn, e0, e1, e2, e3, e4, e5⟩ := layout6 word 15 p.toNat q.toNat s.toNat 0 3 (by decide) p.isLt q.isLt s.isLt (by decide) (by decide) (by omega)
  refine ⟨hn, ?_⟩
  rw [decMajor0F word e0, dec0F_3 _ e5, e1, e2, e3, e4]
  simp_all [chk]

theorem pnot (p : BitVec 4) (q : BitVec 4) : Statement (.pnot p q) := by
  intro word hwf hw
  rw [show encodeNat (.pnot p q) = some (pack 0x3C000004 [(p.toNat, 22), (q.toNat, 18)]) from rfl] at hw
  rw [show Instr.wf (.pnot p q) = (true) from rfl] at hwf
  rw [pack2, Option.some.injEq] at hw
  simp only [Bool.and_eq_true, Bool.not_eq_true'] at hwf
  obtain ⟨hn, e0, e1, e2, e3, e4⟩ := layout8 word 15 p.toNat q.toNat 0 4 (by decide) p.isLt q.isLt (by decide) (by decide) (by omega)
  refine ⟨hn, ?_⟩
  rw [decMajor0F word e0, dec0F_4 _ e4, e1, e2, e3]
  simp_all [chk]

theorem p2x (d : BitVec 4) : Statement (.p2x d) := by
  intro word hwf hw
  rw [show encodeNat (.p2x d) = some (pack 0x3C000005 [(d.toNat, 22)]) from rfl] at hw
  rw [show Instr.wf (.p2x d) = (!badReg d.toNat) from rfl] at hwf
  rw [pack1, Option.some.injEq] at hw
  simp only [Bool.and_eq_true, Bool.not_eq_true'] at hwf
  obtain ⟨hn, e0, e1, e2, e3⟩ := layout9 word 15 d.toNat 0 5 (by decide) d.isLt (by decide) (by decide) (by omega)
  refine ⟨hn, ?_⟩
  rw [decMajor0F word e0, dec0F_5 _ e3, e1, e2]
  simp_all [chk]

theorem x2p (a : BitVec 4) : Statement (.x2p a) := by
  intro word hwf hw
  rw [show encodeNat (.x2p a) = some (pack 0x3C000006 [(a.toNat, 18)]) from rfl] at hw
  rw [show Instr.wf (.x2p a) = (!badReg a.toNat) from rfl] at hwf
  rw [pack1, Option.some.injEq] at hw
  simp only [Bool.and_eq_true, Bool.not_eq_true'] at hwf
  obtain ⟨hn, e0, e1, e2, e3, e4⟩ := layout8 word 15 0 a.toNat 0 6 (by decide) (by decide) a.isLt (by decide) (by decide) (by omega)
  refine ⟨hn, ?_⟩
  rw [decMajor0F word e0, dec0F_6 _ e4, e1, e2, e3]
  simp_all [chk]

theorem sel (d : BitVec 4) (a : BitVec 4) (b : BitVec 4) (k : BitVec 4) : Statement (.sel d a b k) := by
  intro word hwf hw
  rw [show encodeNat (.sel d a b k) = some (pack 0x3C000007 [(d.toNat, 22), (a.toNat, 18), (b.toNat, 14), (k.toNat, 10)]) from rfl] at hw
  rw [show Instr.wf (.sel d a b k) = (!badReg d.toNat && !badReg a.toNat && !badReg b.toNat) from rfl] at hwf
  rw [pack4, Option.some.injEq] at hw
  simp only [Bool.and_eq_true, Bool.not_eq_true'] at hwf
  obtain ⟨hn, e0, e1, e2, e3, e4, e5⟩ := layout6 word 15 d.toNat a.toNat b.toNat k.toNat 7 (by decide) d.isLt a.isLt b.isLt k.isLt (by decide) (by omega)
  refine ⟨hn, ?_⟩
  rw [decMajor0F word e0, dec0F_7 _ e5, e1, e2, e3, e4]
  simp_all [chk]

theorem faddS (d : BitVec 4) (a : BitVec 4) (b : BitVec 4) (r : BitVec 3) : Statement (.faddS d a b r) := by
  intro word hwf hw
  rw [show encodeNat (.faddS d a b r) = some (pack 0x40000000 [(d.toNat, 22), (a.toNat, 18), (b.toNat, 14), (r.toNat, 0)]) from rfl] at hw
  rw [show Instr.wf (.faddS d a b r) = (!badReg d.toNat && !badReg a.toNat && !badReg b.toNat && !badRound r.toNat) from rfl] at hwf
  rw [pack4, Option.some.injEq] at hw
  simp only [Bool.and_eq_true, Bool.not_eq_true'] at hwf
  obtain ⟨hn, e0, e1, e2, e3, e4, e5, e6⟩ := layout1 word 16 d.toNat a.toNat b.toNat 0 0 r.toNat (by decide) d.isLt a.isLt b.isLt (by decide) (by decide) r.isLt (by omega)
  refine ⟨hn, ?_⟩
  rw [decMajor10 word e0, dec10_0 _ e4, e1, e2, e3, e5, e6]
  simp_all [chk]

theorem fsubS (d : BitVec 4) (a : BitVec 4) (b : BitVec 4) (r : BitVec 3) : Statement (.fsubS d a b r) := by
  intro word hwf hw
  rw [show encodeNat (.fsubS d a b r) = some (pack 0x40000040 [(d.toNat, 22), (a.toNat, 18), (b.toNat, 14), (r.toNat, 0)]) from rfl] at hw
  rw [show Instr.wf (.fsubS d a b r) = (!badReg d.toNat && !badReg a.toNat && !badReg b.toNat && !badRound r.toNat) from rfl] at hwf
  rw [pack4, Option.some.injEq] at hw
  simp only [Bool.and_eq_true, Bool.not_eq_true'] at hwf
  obtain ⟨hn, e0, e1, e2, e3, e4, e5, e6⟩ := layout1 word 16 d.toNat a.toNat b.toNat 1 0 r.toNat (by decide) d.isLt a.isLt b.isLt (by decide) (by decide) r.isLt (by omega)
  refine ⟨hn, ?_⟩
  rw [decMajor10 word e0, dec10_1 _ e4, e1, e2, e3, e5, e6]
  simp_all [chk]

theorem fmulS (d : BitVec 4) (a : BitVec 4) (b : BitVec 4) (r : BitVec 3) : Statement (.fmulS d a b r) := by
  intro word hwf hw
  rw [show encodeNat (.fmulS d a b r) = some (pack 0x40000080 [(d.toNat, 22), (a.toNat, 18), (b.toNat, 14), (r.toNat, 0)]) from rfl] at hw
  rw [show Instr.wf (.fmulS d a b r) = (!badReg d.toNat && !badReg a.toNat && !badReg b.toNat && !badRound r.toNat) from rfl] at hwf
  rw [pack4, Option.some.injEq] at hw
  simp only [Bool.and_eq_true, Bool.not_eq_true'] at hwf
  obtain ⟨hn, e0, e1, e2, e3, e4, e5, e6⟩ := layout1 word 16 d.toNat a.toNat b.toNat 2 0 r.toNat (by decide) d.isLt a.isLt b.isLt (by decide) (by decide) r.isLt (by omega)
  refine ⟨hn, ?_⟩
  rw [decMajor10 word e0, dec10_2 _ e4, e1, e2, e3, e5, e6]
  simp_all [chk]

theorem ffmaS (d : BitVec 4) (a : BitVec 4) (b : BitVec 4) (r : BitVec 3) : Statement (.ffmaS d a b r) := by
  intro word hwf hw
  rw [show encodeNat (.ffmaS d a b r) = some (pack 0x400000C0 [(d.toNat, 22), (a.toNat, 18), (b.toNat, 14), (r.toNat, 0)]) from rfl] at hw
  rw [show Instr.wf (.ffmaS d a b r) = (!badReg d.toNat && !badReg a.toNat && !badReg b.toNat && !badRound r.toNat) from rfl] at hwf
  rw [pack4, Option.some.injEq] at hw
  simp only [Bool.and_eq_true, Bool.not_eq_true'] at hwf
  obtain ⟨hn, e0, e1, e2, e3, e4, e5, e6⟩ := layout1 word 16 d.toNat a.toNat b.toNat 3 0 r.toNat (by decide) d.isLt a.isLt b.isLt (by decide) (by decide) r.isLt (by omega)
  refine ⟨hn, ?_⟩
  rw [decMajor10 word e0, dec10_3 _ e4, e1, e2, e3, e5, e6]
  simp_all [chk]

theorem fminS (d : BitVec 4) (a : BitVec 4) (b : BitVec 4) (r : BitVec 3) : Statement (.fminS d a b r) := by
  intro word hwf hw
  rw [show encodeNat (.fminS d a b r) = some (pack 0x40000100 [(d.toNat, 22), (a.toNat, 18), (b.toNat, 14), (r.toNat, 0)]) from rfl] at hw
  rw [show Instr.wf (.fminS d a b r) = (!badReg d.toNat && !badReg a.toNat && !badReg b.toNat && !badRound r.toNat) from rfl] at hwf
  rw [pack4, Option.some.injEq] at hw
  simp only [Bool.and_eq_true, Bool.not_eq_true'] at hwf
  obtain ⟨hn, e0, e1, e2, e3, e4, e5, e6⟩ := layout1 word 16 d.toNat a.toNat b.toNat 4 0 r.toNat (by decide) d.isLt a.isLt b.isLt (by decide) (by decide) r.isLt (by omega)
  refine ⟨hn, ?_⟩
  rw [decMajor10 word e0, dec10_4 _ e4, e1, e2, e3, e5, e6]
  simp_all [chk]

theorem fmaxS (d : BitVec 4) (a : BitVec 4) (b : BitVec 4) (r : BitVec 3) : Statement (.fmaxS d a b r) := by
  intro word hwf hw
  rw [show encodeNat (.fmaxS d a b r) = some (pack 0x40000140 [(d.toNat, 22), (a.toNat, 18), (b.toNat, 14), (r.toNat, 0)]) from rfl] at hw
  rw [show Instr.wf (.fmaxS d a b r) = (!badReg d.toNat && !badReg a.toNat && !badReg b.toNat && !badRound r.toNat) from rfl] at hwf
  rw [pack4, Option.some.injEq] at hw
  simp only [Bool.and_eq_true, Bool.not_eq_true'] at hwf
  obtain ⟨hn, e0, e1, e2, e3, e4, e5, e6⟩ := layout1 word 16 d.toNat a.toNat b.toNat 5 0 r.toNat (by decide) d.isLt a.isLt b.isLt (by decide) (by decide) r.isLt (by omega)
  refine ⟨hn, ?_⟩
  rw [decMajor10 word e0, dec10_5 _ e4, e1, e2, e3, e5, e6]
  simp_all [chk]

theorem fabsS (d : BitVec 4) (a : BitVec 4) (r : BitVec 3) : Statement (.fabsS d a r) := by
  intro word hwf hw
  rw [show encodeNat (.fabsS d a r) = some (pack 0x40000180 [(d.toNat, 22), (a.toNat, 18), (r.toNat, 0)]) from rfl] at hw
  rw [show Instr.wf (.fabsS d a r) = (!badReg d.toNat && !badReg a.toNat && !badRound r.toNat) from rfl] at hwf
  rw [pack3, Option.some.injEq] at hw
  simp only [Bool.and_eq_true, Bool.not_eq_true'] at hwf
  obtain ⟨hn, e0, e1, e2, e3, e4, e5, e6⟩ := layout1 word 16 d.toNat a.toNat 0 6 0 r.toNat (by decide) d.isLt a.isLt (by decide) (by decide) (by decide) r.isLt (by omega)
  refine ⟨hn, ?_⟩
  rw [decMajor10 word e0, dec10_6 _ e4, e1, e2, e3, e5, e6]
  simp_all [chk]

theorem fnegS (d : BitVec 4) (a : BitVec 4) (r : BitVec 3) : Statement (.fnegS d a r) := by
  intro word hwf hw
  rw [show encodeNat (.fnegS d a r) = some (pack 0x400001C0 [(d.toNat, 22), (a.toNat, 18), (r.toNat, 0)]) from rfl] at hw
  rw [show Instr.wf (.fnegS d a r) = (!badReg d.toNat && !badReg a.toNat && !badRound r.toNat) from rfl] at hwf
  rw [pack3, Option.some.injEq] at hw
  simp only [Bool.and_eq_true, Bool.not_eq_true'] at hwf
  obtain ⟨hn, e0, e1, e2, e3, e4, e5, e6⟩ := layout1 word 16 d.toNat a.toNat 0 7 0 r.toNat (by decide) d.isLt a.isLt (by decide) (by decide) (by decide) r.isLt (by omega)
  refine ⟨hn, ?_⟩
  rw [decMajor10 word e0, dec10_7 _ e4, e1, e2, e3, e5, e6]
  simp_all [chk]

theorem fdivS (d : BitVec 4) (a : BitVec 4) (b : BitVec 4) (r : BitVec 3) : Statement (.fdivS d a b r) := by
  intro word hwf hw
  rw [show encodeNat (.fdivS d a b r) = some (pack 0x40000200 [(d.toNat, 22), (a.toNat, 18), (b.toNat, 14), (r.toNat, 0)]) from rfl] at hw
  rw [show Instr.wf (.fdivS d a b r) = (!badReg d.toNat && !badReg a.toNat && !badReg b.toNat && !badRound r.toNat) from rfl] at hwf
  rw [pack4, Option.some.injEq] at hw
  simp only [Bool.and_eq_true, Bool.not_eq_true'] at hwf
  obtain ⟨hn, e0, e1, e2, e3, e4, e5, e6⟩ := layout1 word 16 d.toNat a.toNat b.toNat 8 0 r.toNat (by decide) d.isLt a.isLt b.isLt (by decide) (by decide) r.isLt (by omega)
  refine ⟨hn, ?_⟩
  rw [decMajor10 word e0, dec10_8 _ e4, e1, e2, e3, e5, e6]
  simp_all [chk]

theorem fsqrtS (d : BitVec 4) (a : BitVec 4) (r : BitVec 3) : Statement (.fsqrtS d a r) := by
  intro word hwf hw
  rw [show encodeNat (.fsqrtS d a r) = some (pack 0x40000240 [(d.toNat, 22), (a.toNat, 18), (r.toNat, 0)]) from rfl] at hw
  rw [show Instr.wf (.fsqrtS d a r) = (!badReg d.toNat && !badReg a.toNat && !badRound r.toNat) from rfl] at hwf
  rw [pack3, Option.some.injEq] at hw
  simp only [Bool.and_eq_true, Bool.not_eq_true'] at hwf
  obtain ⟨hn, e0, e1, e2, e3, e4, e5, e6⟩ := layout1 word 16 d.toNat a.toNat 0 9 0 r.toNat (by decide) d.isLt a.isLt (by decide) (by decide) (by decide) r.isLt (by omega)
  refine ⟨hn, ?_⟩
  rw [decMajor10 word e0, dec10_9 _ e4, e1, e2, e3, e5, e6]
  simp_all [chk]

theorem frsqsS (d : BitVec 4) (a : BitVec 4) (r : BitVec 3) : Statement (.frsqsS d a r) := by
  intro word hwf hw
  rw [show encodeNat (.frsqsS d a r) = some (pack 0x40000280 [(d.toNat, 22), (a.toNat, 18), (r.toNat, 0)]) from rfl] at hw
  rw [show Instr.wf (.frsqsS d a r) = (!badReg d.toNat && !badReg a.toNat && !badRound r.toNat) from rfl] at hwf
  rw [pack3, Option.some.injEq] at hw
  simp only [Bool.and_eq_true, Bool.not_eq_true'] at hwf
  obtain ⟨hn, e0, e1, e2, e3, e4, e5, e6⟩ := layout1 word 16 d.toNat a.toNat 0 10 0 r.toNat (by decide) d.isLt a.isLt (by decide) (by decide) (by decide) r.isLt (by omega)
  refine ⟨hn, ?_⟩
  rw [decMajor10 word e0, dec10_10 _ e4, e1, e2, e3, e5, e6]
  simp_all [chk]

theorem frcpsS (d : BitVec 4) (a : BitVec 4) (r : BitVec 3) : Statement (.frcpsS d a r) := by
  intro word hwf hw
  rw [show encodeNat (.frcpsS d a r) = some (pack 0x400002C0 [(d.toNat, 22), (a.toNat, 18), (r.toNat, 0)]) from rfl] at hw
  rw [show Instr.wf (.frcpsS d a r) = (!badReg d.toNat && !badReg a.toNat && !badRound r.toNat) from rfl] at hwf
  rw [pack3, Option.some.injEq] at hw
  simp only [Bool.and_eq_true, Bool.not_eq_true'] at hwf
  obtain ⟨hn, e0, e1, e2, e3, e4, e5, e6⟩ := layout1 word 16 d.toNat a.toNat 0 11 0 r.toNat (by decide) d.isLt a.isLt (by decide) (by decide) (by decide) r.isLt (by omega)
  refine ⟨hn, ?_⟩
  rw [decMajor10 word e0, dec10_11 _ e4, e1, e2, e3, e5, e6]
  simp_all [chk]

theorem faddD (d : BitVec 4) (a : BitVec 4) (b : BitVec 4) (r : BitVec 3) : Statement (.faddD d a b r) := by
  intro word hwf hw
  rw [show encodeNat (.faddD d a b r) = some (pack 0x44000000 [(d.toNat, 22), (a.toNat, 18), (b.toNat, 14), (r.toNat, 0)]) from rfl] at hw
  rw [show Instr.wf (.faddD d a b r) = (!badReg d.toNat && !badReg a.toNat && !badReg b.toNat && !badRound r.toNat) from rfl] at hwf
  rw [pack4, Option.some.injEq] at hw
  simp only [Bool.and_eq_true, Bool.not_eq_true'] at hwf
  obtain ⟨hn, e0, e1, e2, e3, e4, e5, e6⟩ := layout1 word 17 d.toNat a.toNat b.toNat 0 0 r.toNat (by decide) d.isLt a.isLt b.isLt (by decide) (by decide) r.isLt (by omega)
  refine ⟨hn, ?_⟩
  rw [decMajor11 word e0, dec11_0 _ e4, e1, e2, e3, e5, e6]
  simp_all [chk]

theorem fsubD (d : BitVec 4) (a : BitVec 4) (b : BitVec 4) (r : BitVec 3) : Statement (.fsubD d a b r) := by
  intro word hwf hw
  rw [show encodeNat (.fsubD d a b r) = some (pack 0x44000040 [(d.toNat, 22), (a.toNat, 18), (b.toNat, 14), (r.toNat, 0)]) from rfl] at hw
  rw [show Instr.wf (.fsubD d a b r) = (!badReg d.toNat && !badReg a.toNat && !badReg b.toNat && !badRound r.toNat) from rfl] at hwf
  rw [pack4, Option.some.injEq] at hw
  simp only [Bool.and_eq_true, Bool.not_eq_true'] at hwf
  obtain ⟨hn, e0, e1, e2, e3, e4, e5, e6⟩ := layout1 word 17 d.toNat a.toNat b.toNat 1 0 r.toNat (by decide) d.isLt a.isLt b.isLt (by decide) (by decide) r.isLt (by omega)
  refine ⟨hn, ?_⟩
  rw [decMajor11 word e0, dec11_1 _ e4, e1, e2, e3, e5, e6]
  simp_all [chk]

theorem fmulD (d : BitVec 4) (a : BitVec 4) (b : BitVec 4) (r : BitVec 3) : Statement (.fmulD d a b r) := by
  intro word hwf hw
  rw [show encodeNat (.fmulD d a b r) = some (pack 0x44000080 [(d.toNat, 22), (a.toNat, 18), (b.toNat, 14), (r.toNat, 0)]) from rfl] at hw
  rw [show Instr.wf (.fmulD d a b r) = (!badReg d.toNat && !badReg a.toNat && !badReg b.toNat && !badRound r.toNat) from rfl] at hwf
  rw [pack4, Option.some.injEq] at hw
  simp only [Bool.and_eq_true, Bool.not_eq_true'] at hwf
  obtain ⟨hn, e0, e1, e2, e3, e4, e5, e6⟩ := layout1 word 17 d.toNat a.toNat b.toNat 2 0 r.toNat (by decide) d.isLt a.isLt b.isLt (by decide) (by decide) r.isLt (by omega)
  refine ⟨hn, ?_⟩
  rw [decMajor11 word e0, dec11_2 _ e4, e1, e2, e3, e5, e6]
  simp_all [chk]

theorem ffmaD (d : BitVec 4) (a : BitVec 4) (b : BitVec 4) (r : BitVec 3) : Statement (.ffmaD d a b r) := by
  intro word hwf hw
  rw [show encodeNat (.ffmaD d a b r) = some (pack 0x440000C0 [(d.toNat, 22), (a.toNat, 18), (b.toNat, 14), (r.toNat, 0)]) from rfl] at hw
  rw [show Instr.wf (.ffmaD d a b r) = (!badReg d.toNat && !badReg a.toNat && !badReg b.toNat && !badRound r.toNat) from rfl] at hwf
  rw [pack4, Option.some.injEq] at hw
  simp only [Bool.and_eq_true, Bool.not_eq_true'] at hwf
  obtain ⟨hn, e0, e1, e2, e3, e4, e5, e6⟩ := layout1 word 17 d.toNat a.toNat b.toNat 3 0 r.toNat (by decide) d.isLt a.isLt b.isLt (by decide) (by decide) r.isLt (by omega)
  refine ⟨hn, ?_⟩
  rw [decMajor11 word e0, dec11_3 _ e4, e1, e2, e3, e5, e6]
  simp_all [chk]

theorem fminD (d : BitVec 4) (a : BitVec 4) (b : BitVec 4) (r : BitVec 3) : Statement (.fminD d a b r) := by
  intro word hwf hw
  rw [show encodeNat (.fminD d a b r) = some (pack 0x44000100 [(d.toNat, 22), (a.toNat, 18), (b.toNat, 14), (r.toNat, 0)]) from rfl] at hw
  rw [show Instr.wf (.fminD d a b r) = (!badReg d.toNat && !badReg a.toNat && !badReg b.toNat && !badRound r.toNat) from rfl] at hwf
  rw [pack4, Option.some.injEq] at hw
  simp only [Bool.and_eq_true, Bool.not_eq_true'] at hwf
  obtain ⟨hn, e0, e1, e2, e3, e4, e5, e6⟩ := layout1 word 17 d.toNat a.toNat b.toNat 4 0 r.toNat (by decide) d.isLt a.isLt b.isLt (by decide) (by decide) r.isLt (by omega)
  refine ⟨hn, ?_⟩
  rw [decMajor11 word e0, dec11_4 _ e4, e1, e2, e3, e5, e6]
  simp_all [chk]

theorem fmaxD (d : BitVec 4) (a : BitVec 4) (b : BitVec 4) (r : BitVec 3) : Statement (.fmaxD d a b r) := by
  intro word hwf hw
  rw [show encodeNat (.fmaxD d a b r) = some (pack 0x44000140 [(d.toNat, 22), (a.toNat, 18), (b.toNat, 14), (r.toNat, 0)]) from rfl] at hw
  rw [show Instr.wf (.fmaxD d a b r) = (!badReg d.toNat && !badReg a.toNat && !badReg b.toNat && !badRound r.toNat) from rfl] at hwf
  rw [pack4, Option.some.injEq] at hw
  simp only [Bool.and_eq_true, Bool.not_eq_true'] at hwf
  obtain ⟨hn, e0, e1, e2, e3, e4, e5, e6⟩ := layout1 word 17 d.toNat a.toNat b.toNat 5 0 r.toNat (by decide) d.isLt a.isLt b.isLt (by decide) (by decide) r.isLt (by omega)
  refine ⟨hn, ?_⟩
  rw [decMajor11 word e0, dec11_5 _ e4, e1, e2, e3, e5, e6]
  simp_all [chk]

theorem fabsD (d : BitVec 4) (a : BitVec 4) (r : BitVec 3) : Statement (.fabsD d a r) := by
  intro word hwf hw
  rw [show encodeNat (.fabsD d a r) = some (pack 0x44000180 [(d.toNat, 22), (a.toNat, 18), (r.toNat, 0)]) from rfl] at hw
  rw [show Instr.wf (.fabsD d a r) = (!badReg d.toNat && !badReg a.toNat && !badRound r.toNat) from rfl] at hwf
  rw [pack3, Option.some.injEq] at hw
  simp only [Bool.and_eq_true, Bool.not_eq_true'] at hwf
  obtain ⟨hn, e0, e1, e2, e3, e4, e5, e6⟩ := layout1 word 17 d.toNat a.toNat 0 6 0 r.toNat (by decide) d.isLt a.isLt (by decide) (by decide) (by decide) r.isLt (by omega)
  refine ⟨hn, ?_⟩
  rw [decMajor11 word e0, dec11_6 _ e4, e1, e2, e3, e5, e6]
  simp_all [chk]

theorem fnegD (d : BitVec 4) (a : BitVec 4) (r : BitVec 3) : Statement (.fnegD d a r) := by
  intro word hwf hw
  rw [show encodeNat (.fnegD d a r) = some (pack 0x440001C0 [(d.toNat, 22), (a.toNat, 18), (r.toNat, 0)]) from rfl] at hw
  rw [show Instr.wf (.fnegD d a r) = (!badReg d.toNat && !badReg a.toNat && !badRound r.toNat) from rfl] at hwf
  rw [pack3, Option.some.injEq] at hw
  simp only [Bool.and_eq_true, Bool.not_eq_true'] at hwf
  obtain ⟨hn, e0, e1, e2, e3, e4, e5, e6⟩ := layout1 word 17 d.toNat a.toNat 0 7 0 r.toNat (by decide) d.isLt a.isLt (by decide) (by decide) (by decide) r.isLt (by omega)
  refine ⟨hn, ?_⟩
  rw [decMajor11 word e0, dec11_7 _ e4, e1, e2, e3, e5, e6]
  simp_all [chk]

theorem fdivD (d : BitVec 4) (a : BitVec 4) (b : BitVec 4) (r : BitVec 3) : Statement (.fdivD d a b r) := by
  intro word hwf hw
  rw [show encodeNat (.fdivD d a b r) = some (pack 0x44000200 [(d.toNat, 22), (a.toNat, 18), (b.toNat, 14), (r.toNat, 0)]) from rfl] at hw
  rw [show Instr.wf (.fdivD d a b r) = (!badReg d.toNat && !badReg a.toNat && !badReg b.toNat && !badRound r.toNat) from rfl] at hwf
  rw [pack4, Option.some.injEq] at hw
  simp only [Bool.and_eq_true, Bool.not_eq_true'] at hwf
  obtain ⟨hn, e0, e1, e2, e3, e4, e5, e6⟩ := layout1 word 17 d.toNat a.toNat b.toNat 8 0 r.toNat (by decide) d.isLt a.isLt b.isLt (by decide) (by decide) r.isLt (by omega)
  refine ⟨hn, ?_⟩
  rw [decMajor11 word e0, dec11_8 _ e4, e1, e2, e3, e5, e6]
  simp_all [chk]

theorem fsqrtD (d : BitVec 4) (a : BitVec 4) (r : BitVec 3) : Statement (.fsqrtD d a r) := by
  intro word hwf hw
  rw [show encodeNat (.fsqrtD d a r) = some (pack 0x44000240 [(d.toNat, 22), (a.toNat, 18), (r.toNat, 0)]) from rfl] at hw
  rw [show Instr.wf (.fsqrtD d a r) = (!badReg d.toNat && !badReg a.toNat && !badRound r.toNat) from rfl] at hwf
  rw [pack3, Option.some.injEq] at hw
  simp only [Bool.and_eq_true, Bool.not_eq_true'] at hwf
  obtain ⟨hn, e0, e1, e2, e3, e4, e5, e6⟩ := layout1 word 17 d.toNat a.toNat 0 9 0 r.toNat (by decide) d.isLt a.isLt (by decide) (by decide) (by decide) r.isLt (by omega)
  refine ⟨hn, ?_⟩
  rw [decMajor11 word e0, dec11_9 _ e4, e1, e2, e3, e5, e6]
  simp_all [chk]

theorem frsqsD (d : BitVec 4) (a : BitVec 4) (r : BitVec 3) : Statement (.frsqsD d a r) := by
  intro word hwf hw
  rw [show encodeNat (.frsqsD d a r) = some (pack 0x44000280 [(d.toNat, 22), (a.toNat, 18), (r.toNat, 0)]) from rfl] at hw
  rw [show Instr.wf (.frsqsD d a r) = (!badReg d.toNat && !badReg a.toNat && !badRound r.toNat) from rfl] at hwf
  rw [pack3, Option.some.injEq] at hw
  simp only [Bool.and_eq_true, Bool.not_eq_true'] at hwf
  obtain ⟨hn, e0, e1, e2, e3, e4, e5, e6⟩ := layout1 word 17 d.toNat a.toNat 0 10 0 r.toNat (by decide) d.isLt a.isLt (by decide) (by decide) (by decide) r.isLt (by omega)
  refine ⟨hn, ?_⟩
  rw [decMajor11 word e0, dec11_10 _ e4, e1, e2, e3, e5, e6]
  simp_all [chk]

theorem frcpsD (d : BitVec 4) (a : BitVec 4) (r : BitVec 3) : Statement (.frcpsD d a r) := by
  intro word hwf hw
  rw [show encodeNat (.frcpsD d a r) = some (pack 0x440002C0 [(d.toNat, 22), (a.toNat, 18), (r.toNat, 0)]) from rfl] at hw
  rw [show Instr.wf (.frcpsD d a r) = (!badReg d.toNat && !badReg a.toNat && !badRound r.toNat) from rfl] at hwf
  rw [pack3, Option.some.injEq] at hw
  simp only [Bool.and_eq_true, Bool.not_eq_true'] at hwf
  obtain ⟨hn, e0, e1, e2, e3, e4, e5, e6⟩ := layout1 word 17 d.toNat a.toNat 0 11 0 r.toNat (by decide) d.isLt a.isLt (by decide) (by decide) (by decide) r.isLt (by omega)
  refine ⟨hn, ?_⟩
  rw [decMajor11 word e0, dec11_11 _ e4, e1, e2, e3, e5, e6]
  simp_all [chk]

theorem fcvtSD (d : BitVec 4) (a : BitVec 4) (r : BitVec 3) : Statement (.fcvtSD d a r) := by
  intro word hwf hw
  rw [show encodeNat (.fcvtSD d a r) = some (pack 0x48000000 [(d.toNat, 22), (a.toNat, 18), (r.toNat, 0)]) from rfl] at hw
  rw [show Instr.wf (.fcvtSD d a r) = (!badReg d.toNat && !badReg a.toNat && !badRound r.toNat) from rfl] at hwf
  rw [pack3, Option.some.injEq] at hw
  simp only [Bool.and_eq_true, Bool.not_eq_true'] at hwf
  obtain ⟨hn, e0, e1, e2, e3, e4, e5, e6⟩ := layout1 word 18 d.toNat a.toNat 0 0 0 r.toNat (by decide) d.isLt a.isLt (by decide) (by decide) (by decide) r.isLt (by omega)
  refine ⟨hn, ?_⟩
  rw [decMajor12 word e0, dec12_0 _ e4, e1, e2, e3, e5, e6]
  simp_all [chk]

theorem fcvtDS (d : BitVec 4) (a : BitVec 4) (r : BitVec 3) : Statement (.fcvtDS d a r) := by
  intro word hwf hw
  rw [show encodeNat (.fcvtDS d a r) = some (pack 0x48000040 [(d.toNat, 22), (a.toNat, 18), (r.toNat, 0)]) from rfl] at hw
  rw [show Instr.wf (.fcvtDS d a r) = (!badReg d.toNat && !badReg a.toNat && !badRound r.toNat) from rfl] at hwf
  rw [pack3, Option.some.injEq] at hw
  simp only [Bool.and_eq_true, Bool.not_eq_true'] at hwf
  obtain ⟨hn, e0, e1, e2, e3, e4, e5, e6⟩ := layout1 word 18 d.toNat a.toNat 0 1 0 r.toNat (by decide) d.isLt a.isLt (by decide) (by decide) (by decide) r.isLt (by omega)
  refine ⟨hn, ?_⟩
  rw [decMajor12 word e0, dec12_1 _ e4, e1, e2, e3, e5, e6]
  simp_all [chk]

theorem fcvtSL (d : BitVec 4) (a : BitVec 4) (r : BitVec 3) : Statement (.fcvtSL d a r) := by
  intro word hwf hw
  rw [show encodeNat (.fcvtSL d a r) = some (pack 0x48000080 [(d.toNat, 22), (a.toNat, 18), (r.toNat, 0)]) from rfl] at hw
  rw [show Instr.wf (.fcvtSL d a r) = (!badReg d.toNat && !badReg a.toNat && !badRound r.toNat) from rfl] at hwf
  rw [pack3, Option.some.injEq] at hw
  simp only [Bool.and_eq_true, Bool.not_eq_true'] at hwf
  obtain ⟨hn, e0, e1, e2, e3, e4, e5, e6⟩ := layout1 word 18 d.toNat a.toNat 0 2 0 r.toNat (by decide) d.isLt a.isLt (by decide) (by decide) (by decide) r.isLt (by omega)
  refine ⟨hn, ?_⟩
  rw [decMajor12 word e0, dec12_2 _ e4, e1, e2, e3, e5, e6]
  simp_all [chk]

theorem fcvtDL (d : BitVec 4) (a : BitVec 4) (r : BitVec 3) : Statement (.fcvtDL d a r) := by
  intro word hwf hw
  rw [show encodeNat (.fcvtDL d a r) = some (pack 0x480000C0 [(d.toNat, 22), (a.toNat, 18), (r.toNat, 0)]) from rfl] at hw
  rw [show Instr.wf (.fcvtDL d a r) = (!badReg d.toNat && !badReg a.toNat && !badRound r.toNat) from rfl] at hwf
  rw [pack3, Option.some.injEq] at hw
  simp only [Bool.and_eq_true, Bool.not_eq_true'] at hwf
  obtain ⟨hn, e0, e1, e2, e3, e4, e5, e6⟩ := layout1 word 18 d.toNat a.toNat 0 3 0 r.toNat (by decide) d.isLt a.isLt (by decide) (by decide) (by decide) r.isLt (by omega)
  refine ⟨hn, ?_⟩
  rw [decMajor12 word e0, dec12_3 _ e4, e1, e2, e3, e5, e6]
  simp_all [chk]

theorem fcvtLS (d : BitVec 4) (a : BitVec 4) (r : BitVec 3) : Statement (.fcvtLS d a r) := by
  intro word hwf hw
  rw [show encodeNat (.fcvtLS d a r) = some (pack 0x48000100 [(d.toNat, 22), (a.toNat, 18), (r.toNat, 0)]) from rfl] at hw
  rw [show Instr.wf (.fcvtLS d a r) = (!badReg d.toNat && !badReg a.toNat && !badRound r.toNat) from rfl] at hwf
  rw [pack3, Option.some.injEq] at hw
  simp only [Bool.and_eq_true, Bool.not_eq_true'] at hwf
  obtain ⟨hn, e0, e1, e2, e3, e4, e5, e6⟩ := layout1 word 18 d.toNat a.toNat 0 4 0 r.toNat (by decide) d.isLt a.isLt (by decide) (by decide) (by decide) r.isLt (by omega)
  refine ⟨hn, ?_⟩
  rw [decMajor12 word e0, dec12_4 _ e4, e1, e2, e3, e5, e6]
  simp_all [chk]

theorem fcvtLD (d : BitVec 4) (a : BitVec 4) (r : BitVec 3) : Statement (.fcvtLD d a r) := by
  intro word hwf hw
  rw [show encodeNat (.fcvtLD d a r) = some (pack 0x48000140 [(d.toNat, 22), (a.toNat, 18), (r.toNat, 0)]) from rfl] at hw
  rw [show Instr.wf (.fcvtLD d a r) = (!badReg d.toNat && !badReg a.toNat && !badRound r.toNat) from rfl] at hwf
  rw [pack3, Option.some.injEq] at hw
  simp only [Bool.and_eq_true, Bool.not_eq_true'] at hwf
  obtain ⟨hn, e0, e1, e2, e3, e4, e5, e6⟩ := layout1 word 18 d.toNat a.toNat 0 5 0 r.toNat (by decide) d.isLt a.isLt (by decide) (by decide) (by decide) r.isLt (by omega)
  refine ⟨hn, ?_⟩
  rw [decMajor12 word e0, dec12_5 _ e4, e1, e2, e3, e5, e6]
  simp_all [chk]

theorem fcvtHS (d : BitVec 4) (a : BitVec 4) (r : BitVec 3) : Statement (.fcvtHS d a r) := by
  intro word hwf hw
  rw [show encodeNat (.fcvtHS d a r) = some (pack 0x48000180 [(d.toNat, 22), (a.toNat, 18), (r.toNat, 0)]) from rfl] at hw
  rw [show Instr.wf (.fcvtHS d a r) = (!badReg d.toNat && !badReg a.toNat && !badRound r.toNat) from rfl] at hwf
  rw [pack3, Option.some.injEq] at hw
  simp only [Bool.and_eq_true, Bool.not_eq_true'] at hwf
  obtain ⟨hn, e0, e1, e2, e3, e4, e5, e6⟩ := layout1 word 18 d.toNat a.toNat 0 6 0 r.toNat (by decide) d.isLt a.isLt (by decide) (by decide) (by decide) r.isLt (by omega)
  refine ⟨hn, ?_⟩
  rw [decMajor12 word e0, dec12_6 _ e4, e1, e2, e3, e5, e6]
  simp_all [chk]

theorem fcvtSH (d : BitVec 4) (a : BitVec 4) (r : BitVec 3) : Statement (.fcvtSH d a r) := by
  intro word hwf hw
  rw [show encodeNat (.fcvtSH d a r) = some (pack 0x480001C0 [(d.toNat, 22), (a.toNat, 18), (r.toNat, 0)]) from rfl] at hw
  rw [show Instr.wf (.fcvtSH d a r) = (!badReg d.toNat && !badReg a.toNat && !badRound r.toNat) from rfl] at hwf
  rw [pack3, Option.some.injEq] at hw
  simp only [Bool.and_eq_true, Bool.not_eq_true'] at hwf
  obtain ⟨hn, e0, e1, e2, e3, e4, e5, e6⟩ := layout1 word 18 d.toNat a.toNat 0 7 0 r.toNat (by decide) d.isLt a.isLt (by decide) (by decide) (by decide) r.isLt (by omega)
  refine ⟨hn, ?_⟩
  rw [decMajor12 word e0, dec12_7 _ e4, e1, e2, e3, e5, e6]
  simp_all [chk]

theorem fcvtBS (d : BitVec 4) (a : BitVec 4) (r : BitVec 3) : Statement (.fcvtBS d a r) := by
  intro word hwf hw
  rw [show encodeNat (.fcvtBS d a r) = some (pack 0x48000200 [(d.toNat, 22), (a.toNat, 18), (r.toNat, 0)]) from rfl] at hw
  rw [show Instr.wf (.fcvtBS d a r) = (!badReg d.toNat && !badReg a.toNat && !badRound r.toNat) from rfl] at hwf
  rw [pack3, Option.some.injEq] at hw
  simp only [Bool.and_eq_true, Bool.not_eq_true'] at hwf
  obtain ⟨hn, e0, e1, e2, e3, e4, e5, e6⟩ := layout1 word 18 d.toNat a.toNat 0 8 0 r.toNat (by decide) d.isLt a.isLt (by decide) (by decide) (by decide) r.isLt (by omega)
  refine ⟨hn, ?_⟩
  rw [decMajor12 word e0, dec12_8 _ e4, e1, e2, e3, e5, e6]
  simp_all [chk]

theorem fcvtSB (d : BitVec 4) (a : BitVec 4) (r : BitVec 3) : Statement (.fcvtSB d a r) := by
  intro word hwf hw
  rw [show encodeNat (.fcvtSB d a r) = some (pack 0x48000240 [(d.toNat, 22), (a.toNat, 18), (r.toNat, 0)]) from rfl] at hw
  rw [show Instr.wf (.fcvtSB d a r) = (!badReg d.toNat && !badReg a.toNat && !badRound r.toNat) from rfl] at hwf
  rw [pack3, Option.some.injEq] at hw
  simp only [Bool.and_eq_true, Bool.not_eq_true'] at hwf
  obtain ⟨hn, e0, e1, e2, e3, e4, e5, e6⟩ := layout1 word 18 d.toNat a.toNat 0 9 0 r.toNat (by decide) d.isLt a.isLt (by decide) (by decide) (by decide) r.isLt (by omega)
  refine ⟨hn, ?_⟩
  rw [decMajor12 word e0, dec12_9 _ e4, e1, e2, e3, e5, e6]
  simp_all [chk]

theorem fclassS (d : BitVec 4) (a : BitVec 4) (r : BitVec 3) : Statement (.fclassS d a r) := by
  intro word hwf hw
  rw [show encodeNat (.fclassS d a r) = some (pack 0x48000280 [(d.toNat, 22), (a.toNat, 18), (r.toNat, 0)]) from rfl] at hw
  rw [show Instr.wf (.fclassS d a r) = (!badReg d.toNat && !badReg a.toNat && !badRound r.toNat) from rfl] at hwf
  rw [pack3, Option.some.injEq] at hw
  simp only [Bool.and_eq_true, Bool.not_eq_true'] at hwf
  obtain ⟨hn, e0, e1, e2, e3, e4, e5, e6⟩ := layout1 word 18 d.toNat a.toNat 0 10 0 r.toNat (by decide) d.isLt a.isLt (by decide) (by decide) (by decide) r.isLt (by omega)
  refine ⟨hn, ?_⟩
  rw [decMajor12 word e0, dec12_10 _ e4, e1, e2, e3, e5, e6]
  simp_all [chk]

theorem fclassD (d : BitVec 4) (a : BitVec 4) (r : BitVec 3) : Statement (.fclassD d a r) := by
  intro word hwf hw
  rw [show encodeNat (.fclassD d a r) = some (pack 0x480002C0 [(d.toNat, 22), (a.toNat, 18), (r.toNat, 0)]) from rfl] at hw
  rw [show Instr.wf (.fclassD d a r) = (!badReg d.toNat && !badReg a.toNat && !badRound r.toNat) from rfl] at hwf
  rw [pack3, Option.some.injEq] at hw
  simp only [Bool.and_eq_true, Bool.not_eq_true'] at hwf
  obtain ⟨hn, e0, e1, e2, e3, e4, e5, e6⟩ := layout1 word 18 d.toNat a.toNat 0 11 0 r.toNat (by decide) d.isLt a.isLt (by decide) (by decide) (by decide) r.isLt (by omega)
  refine ⟨hn, ?_⟩
  rw [decMajor12 word e0, dec12_11 _ e4, e1, e2, e3, e5, e6]
  simp_all [chk]

theorem fcmpS (p : BitVec 4) (a : BitVec 4) (b : BitVec 4) (c : BitVec 4) : Statement (.fcmpS p a b c) := by
  intro word hwf hw
  rw [show encodeNat (.fcmpS p a b c) = some (pack 0x4C000000 [(p.toNat, 22), (a.toNat, 18), (b.toNat, 14), (c.toNat, 10)]) from rfl] at hw
  rw [show Instr.wf (.fcmpS p a b c) = (!badReg a.toNat && !badReg b.toNat && !badCc8 c.toNat) from rfl] at hwf
  rw [pack4, Option.some.injEq] at hw
  simp only [Bool.and_eq_true, Bool.not_eq_true'] at hwf
  obtain ⟨hn, e0, e1, e2, e3, e4, e5⟩ := layout6 word 19 p.toNat a.toNat b.toNat c.toNat 0 (by decide) p.isLt a.isLt b.isLt c.isLt (by decide) (by omega)
  refine ⟨hn, ?_⟩
  rw [decMajor13 word e0, dec13_0 _ e5, e1, e2, e3, e4]
  simp_all [chk]

theorem fcmpD (p : BitVec 4) (a : BitVec 4) (b : BitVec 4) (c : BitVec 4) : Statement (.fcmpD p a b c) := by
  intro word hwf hw
  rw [show encodeNat (.fcmpD p a b c) = some (pack 0x4C000001 [(p.toNat, 22), (a.toNat, 18), (b.toNat, 14), (c.toNat, 10)]) from rfl] at hw
  rw [show Instr.wf (.fcmpD p a b c) = (!badReg a.toNat && !badReg b.toNat && !badCc8 c.toNat) from rfl] at hwf
  rw [pack4, Option.some.injEq] at hw
  simp only [Bool.and_eq_true, Bool.not_eq_true'] at hwf
  obtain ⟨hn, e0, e1, e2, e3, e4, e5⟩ := layout6 word 19 p.toNat a.toNat b.toNat c.toNat 1 (by decide) p.isLt a.isLt b.isLt c.isLt (by decide) (by omega)
  refine ⟨hn, ?_⟩
  rw [decMajor13 word e0, dec13_1 _ e5, e1, e2, e3, e4]
  simp_all [chk]

theorem ldBz (d : BitVec 4) (a : BitVec 4) (i : BitVec 14) : Statement (.ldBz d a i) := by
  intro word hwf hw
  rw [show encodeNat (.ldBz d a i) = some (pack 0x50000000 [(d.toNat, 22), (a.toNat, 18), (i.toNat, 0)]) from rfl] at hw
  rw [show Instr.wf (.ldBz d a i) = (!badReg d.toNat && !badReg a.toNat) from rfl] at hwf
  rw [pack3, Option.some.injEq] at hw
  simp only [Bool.and_eq_true, Bool.not_eq_true'] at hwf
  obtain ⟨hn, e0, e1, e2, e3, e4⟩ := layout7 word 20 d.toNat a.toNat 0 i.toNat (by decide) d.isLt a.isLt (by decide) i.isLt (by omega)
  refine ⟨hn, ?_⟩
  rw [decMajor14 word e0, dec14_0 _ e3, e1, e2, e4]
  simp_all [chk]

theorem ldBs (d : BitVec 4) (a : BitVec 4) (i : BitVec 14) : Statement (.ldBs d a i) := by
  intro word hwf hw
  rw [show encodeNat (.ldBs d a i) = some (pack 0x50004000 [(d.toNat, 22), (a.toNat, 18), (i.toNat, 0)]) from rfl] at hw
  rw [show Instr.wf (.ldBs d a i) = (!badReg d.toNat && !badReg a.toNat) from rfl] at hwf
  rw [pack3, Option.some.injEq] at hw
  simp only [Bool.and_eq_true, Bool.not_eq_true'] at hwf
  obtain ⟨hn, e0, e1, e2, e3, e4⟩ := layout7 word 20 d.toNat a.toNat 1 i.toNat (by decide) d.isLt a.isLt (by decide) i.isLt (by omega)
  refine ⟨hn, ?_⟩
  rw [decMajor14 word e0, dec14_1 _ e3, e1, e2, e4]
  simp_all [chk]

theorem ldHz (d : BitVec 4) (a : BitVec 4) (i : BitVec 14) : Statement (.ldHz d a i) := by
  intro word hwf hw
  rw [show encodeNat (.ldHz d a i) = some (pack 0x50008000 [(d.toNat, 22), (a.toNat, 18), (i.toNat, 0)]) from rfl] at hw
  rw [show Instr.wf (.ldHz d a i) = (!badReg d.toNat && !badReg a.toNat) from rfl] at hwf
  rw [pack3, Option.some.injEq] at hw
  simp only [Bool.and_eq_true, Bool.not_eq_true'] at hwf
  obtain ⟨hn, e0, e1, e2, e3, e4⟩ := layout7 word 20 d.toNat a.toNat 2 i.toNat (by decide) d.isLt a.isLt (by decide) i.isLt (by omega)
  refine ⟨hn, ?_⟩
  rw [decMajor14 word e0, dec14_2 _ e3, e1, e2, e4]
  simp_all [chk]

theorem ldHs (d : BitVec 4) (a : BitVec 4) (i : BitVec 14) : Statement (.ldHs d a i) := by
  intro word hwf hw
  rw [show encodeNat (.ldHs d a i) = some (pack 0x5000C000 [(d.toNat, 22), (a.toNat, 18), (i.toNat, 0)]) from rfl] at hw
  rw [show Instr.wf (.ldHs d a i) = (!badReg d.toNat && !badReg a.toNat) from rfl] at hwf
  rw [pack3, Option.some.injEq] at hw
  simp only [Bool.and_eq_true, Bool.not_eq_true'] at hwf
  obtain ⟨hn, e0, e1, e2, e3, e4⟩ := layout7 word 20 d.toNat a.toNat 3 i.toNat (by decide) d.isLt a.isLt (by decide) i.isLt (by omega)
  refine ⟨hn, ?_⟩
  rw [decMajor14 word e0, dec14_3 _ e3, e1, e2, e4]
  simp_all [chk]

theorem ldWz (d : BitVec 4) (a : BitVec 4) (i : BitVec 14) : Statement (.ldWz d a i) := by
  intro word hwf hw
  rw [show encodeNat (.ldWz d a i) = some (pack 0x50010000 [(d.toNat, 22), (a.toNat, 18), (i.toNat, 0)]) from rfl] at hw
  rw [show Instr.wf (.ldWz d a i) = (!badReg d.toNat && !badReg a.toNat) from rfl] at hwf
  rw [pack3, Option.some.injEq] at hw
  simp only [Bool.and_eq_true, Bool.not_eq_true'] at hwf
  obtain ⟨hn, e0, e1, e2, e3, e4⟩ := layout7 word 20 d.toNat a.toNat 4 i.toNat (by decide) d.isLt a.isLt (by decide) i.isLt (by omega)
  refine ⟨hn, ?_⟩
  rw [decMajor14 word e0, dec14_4 _ e3, e1, e2, e4]
  simp_all [chk]

theorem ldWs (d : BitVec 4) (a : BitVec 4) (i : BitVec 14) : Statement (.ldWs d a i) := by
  intro word hwf hw
  rw [show encodeNat (.ldWs d a i) = some (pack 0x50014000 [(d.toNat, 22), (a.toNat, 18), (i.toNat, 0)]) from rfl] at hw
  rw [show Instr.wf (.ldWs d a i) = (!badReg d.toNat && !badReg a.toNat) from rfl] at hwf
  rw [pack3, Option.some.injEq] at hw
  simp only [Bool.and_eq_true, Bool.not_eq_true'] at hwf
  obtain ⟨hn, e0, e1, e2, e3, e4⟩ := layout7 word 20 d.toNat a.toNat 5 i.toNat (by decide) d.isLt a.isLt (by decide) i.isLt (by omega)
  refine ⟨hn, ?_⟩
  rw [decMajor14 word e0, dec14_5 _ e3, e1, e2, e4]
  simp_all [chk]

theorem ldD (d : BitVec 4) (a : BitVec 4) (i : BitVec 14) : Statement (.ldD d a i) := by
  intro word hwf hw
  rw [show encodeNat (.ldD d a i) = some (pack 0x50018000 [(d.toNat, 22), (a.toNat, 18), (i.toNat, 0)]) from rfl] at hw
  rw [show Instr.wf (.ldD d a i) = (!badReg d.toNat && !badReg a.toNat) from rfl] at hwf
  rw [pack3, Option.some.injEq] at hw
  simp only [Bool.and_eq_true, Bool.not_eq_true'] at hwf
  obtain ⟨hn, e0, e1, e2, e3, e4⟩ := layout7 word 20 d.toNat a.toNat 6 i.toNat (by decide) d.isLt a.isLt (by decide) i.isLt (by omega)
  refine ⟨hn, ?_⟩
  rw [decMajor14 word e0, dec14_6 _ e3, e1, e2, e4]
  simp_all [chk]

theorem stB (d : BitVec 4) (a : BitVec 4) (i : BitVec 14) : Statement (.stB d a i) := by
  intro word hwf hw
  rw [show encodeNat (.stB d a i) = some (pack 0x54000000 [(d.toNat, 22), (a.toNat, 18), (i.toNat, 0)]) from rfl] at hw
  rw [show Instr.wf (.stB d a i) = (!badReg d.toNat && !badReg a.toNat) from rfl] at hwf
  rw [pack3, Option.some.injEq] at hw
  simp only [Bool.and_eq_true, Bool.not_eq_true'] at hwf
  obtain ⟨hn, e0, e1, e2, e3, e4⟩ := layout7 word 21 d.toNat a.toNat 0 i.toNat (by decide) d.isLt a.isLt (by decide) i.isLt (by omega)
  refine ⟨hn, ?_⟩
  rw [decMajor15 word e0, dec15_0 _ e3, e1, e2, e4]
  simp_all [chk]

theorem stH (d : BitVec 4) (a : BitVec 4) (i : BitVec 14) : Statement (.stH d a i) := by
  intro word hwf hw
  rw [show encodeNat (.stH d a i) = some (pack 0x54004000 [(d.toNat, 22), (a.toNat, 18), (i.toNat, 0)]) from rfl] at hw
  rw [show Instr.wf (.stH d a i) = (!badReg d.toNat && !badReg a.toNat) from rfl] at hwf
  rw [pack3, Option.some.injEq] at hw
  simp only [Bool.and_eq_true, Bool.not_eq_true'] at hwf
  obtain ⟨hn, e0, e1, e2, e3, e4⟩ := layout7 word 21 d.toNat a.toNat 1 i.toNat (by decide) d.isLt a.isLt (by decide) i.isLt (by omega)
  refine ⟨hn, ?_⟩
  rw [decMajor15 word e0, dec15_1 _ e3, e1, e2, e4]
  simp_all [chk]

theorem stW (d : BitVec 4) (a : BitVec 4) (i : BitVec 14) : Statement (.stW d a i) := by
  intro word hwf hw
  rw [show encodeNat (.stW d a i) = some (pack 0x54008000 [(d.toNat, 22), (a.toNat, 18), (i.toNat, 0)]) from rfl] at hw
  rw [show Instr.wf (.stW d a i) = (!badReg d.toNat && !badReg a.toNat) from rfl] at hwf
  rw [pack3, Option.some.injEq] at hw
  simp only [Bool.and_eq_true, Bool.not_eq_true'] at hwf
  obtain ⟨hn, e0, e1, e2, e3, e4⟩ := layout7 word 21 d.toNat a.toNat 2 i.toNat (by decide) d.isLt a.isLt (by decide) i.isLt (by omega)
  refine ⟨hn, ?_⟩
  rw [decMajor15 word e0, dec15_2 _ e3, e1, e2, e4]
  simp_all [chk]

theorem stD (d : BitVec 4) (a : BitVec 4) (i : BitVec 14) : Statement (.stD d a i) := by
  intro word hwf hw
  rw [show encodeNat (.stD d a i) = some (pack 0x5400C000 [(d.toNat, 22), (a.toNat, 18), (i.toNat, 0)]) from rfl] at hw
  rw [show Instr.wf (.stD d a i) = (!badReg d.toNat && !badReg a.toNat) from rfl] at hwf
  rw [pack3, Option.some.injEq] at hw
  simp only [Bool.and_eq_true, Bool.not_eq_true'] at hwf
  obtain ⟨hn, e0, e1, e2, e3, e4⟩ := layout7 word 21 d.toNat a.toNat 3 i.toNat (by decide) d.isLt a.isLt (by decide) i.isLt (by omega)
  refine ⟨hn, ?_⟩
  rw [decMajor15 word e0, dec15_3 _ e3, e1, e2, e4]
  simp_all [chk]

theorem ldq (d : BitVec 4) (a : BitVec 4) (i : BitVec 14) : Statement (.ldq d a i) := by
  intro word hwf hw
  rw [show encodeNat (.ldq d a i) = some (pack 0x58000000 [(d.toNat, 22), (a.toNat, 18), (i.toNat, 0)]) from rfl] at hw
  rw [show Instr.wf (.ldq d a i) = (!badReg d.toNat && !badReg a.toNat && decide (d.toNat ≤ 6)) from rfl] at hwf
  rw [pack3, Option.some.injEq] at hw
  simp only [Bool.and_eq_true, Bool.not_eq_true'] at hwf
  obtain ⟨hn, e0, e1, e2, e3, e4⟩ := layout7 word 22 d.toNat a.toNat 0 i.toNat (by decide) d.isLt a.isLt (by decide) i.isLt (by omega)
  refine ⟨hn, ?_⟩
  rw [decMajor16 word e0, dec16_0 _ e3, e1, e2, e4]
  simp_all [chkQuad]

theorem stq (d : BitVec 4) (a : BitVec 4) (i : BitVec 14) : Statement (.stq d a i) := by
  intro word hwf hw
  rw [show encodeNat (.stq d a i) = some (pack 0x58004000 [(d.toNat, 22), (a.toNat, 18), (i.toNat, 0)]) from rfl] at hw
  rw [show Instr.wf (.stq d a i) = (!badReg d.toNat && !badReg a.toNat && decide (d.toNat ≤ 6)) from rfl] at hwf
  rw [pack3, Option.some.injEq] at hw
  simp only [Bool.and_eq_true, Bool.not_eq_true'] at hwf
  obtain ⟨hn, e0, e1, e2, e3, e4⟩ := layout7 word 22 d.toNat a.toNat 1 i.toNat (by decide) d.isLt a.isLt (by decide) i.isLt (by omega)
  refine ⟨hn, ?_⟩
  rw [decMajor16 word e0, dec16_1 _ e3, e1, e2, e4]
  simp_all [chkQuad]

theorem ldfW (d : BitVec 4) (a : BitVec 4) (i : BitVec 14) : Statement (.ldfW d a i) := by
  intro word hwf hw
  rw [show encodeNat (.ldfW d a i) = some (pack 0x5C000000 [(d.toNat, 22), (a.toNat, 18), (i.toNat, 0)]) from rfl] at hw
  rw [show Instr.wf (.ldfW d a i) = (!badReg d.toNat && !badReg a.toNat) from rfl] at hwf
  rw [pack3, Option.some.injEq] at hw
  simp only [Bool.and_eq_true, Bool.not_eq_true'] at hwf
  obtain ⟨hn, e0, e1, e2, e3, e4⟩ := layout7 word 23 d.toNat a.toNat 0 i.toNat (by decide) d.isLt a.isLt (by decide) i.isLt (by omega)
  refine ⟨hn, ?_⟩
  rw [decMajor17 word e0, dec17_0 _ e3, e1, e2, e4]
  simp_all [chk]

theorem ldfD (d : BitVec 4) (a : BitVec 4) (i : BitVec 14) : Statement (.ldfD d a i) := by
  intro word hwf hw
  rw [show encodeNat (.ldfD d a i) = some (pack 0x5C004000 [(d.toNat, 22), (a.toNat, 18), (i.toNat, 0)]) from rfl] at hw
  rw [show Instr.wf (.ldfD d a i) = (!badReg d.toNat && !badReg a.toNat) from rfl] at hwf
  rw [pack3, Option.some.injEq] at hw
  simp only [Bool.and_eq_true, Bool.not_eq_true'] at hwf
  obtain ⟨hn, e0, e1, e2, e3, e4⟩ := layout7 word 23 d.toNat a.toNat 1 i.toNat (by decide) d.isLt a.isLt (by decide) i.isLt (by omega)
  refine ⟨hn, ?_⟩
  rw [decMajor17 word e0, dec17_1 _ e3, e1, e2, e4]
  simp_all [chk]

theorem ldfeW (d : BitVec 4) (a : BitVec 4) (i : BitVec 14) : Statement (.ldfeW d a i) := by
  intro word hwf hw
  rw [show encodeNat (.ldfeW d a i) = some (pack 0x5C008000 [(d.toNat, 22), (a.toNat, 18), (i.toNat, 0)]) from rfl] at hw
  rw [show Instr.wf (.ldfeW d a i) = (!badReg d.toNat && !badReg a.toNat) from rfl] at hwf
  rw [pack3, Option.some.injEq] at hw
  simp only [Bool.and_eq_true, Bool.not_eq_true'] at hwf
  obtain ⟨hn, e0, e1, e2, e3, e4⟩ := layout7 word 23 d.toNat a.toNat 2 i.toNat (by decide) d.isLt a.isLt (by decide) i.isLt (by omega)
  refine ⟨hn, ?_⟩
  rw [decMajor17 word e0, dec17_2 _ e3, e1, e2, e4]
  simp_all [chk]

theorem ldfeD (d : BitVec 4) (a : BitVec 4) (i : BitVec 14) : Statement (.ldfeD d a i) := by
  intro word hwf hw
  rw [show encodeNat (.ldfeD d a i) = some (pack 0x5C00C000 [(d.toNat, 22), (a.toNat, 18), (i.toNat, 0)]) from rfl] at hw
  rw [show Instr.wf (.ldfeD d a i) = (!badReg d.toNat && !badReg a.toNat) from rfl] at hwf
  rw [pack3, Option.some.injEq] at hw
  simp only [Bool.and_eq_true, Bool.not_eq_true'] at hwf
  obtain ⟨hn, e0, e1, e2, e3, e4⟩ := layout7 word 23 d.toNat a.toNat 3 i.toNat (by decide) d.isLt a.isLt (by decide) i.isLt (by omega)
  refine ⟨hn, ?_⟩
  rw [decMajor17 word e0, dec17_3 _ e3, e1, e2, e4]
  simp_all [chk]

theorem stfW (d : BitVec 4) (a : BitVec 4) (i : BitVec 14) : Statement (.stfW d a i) := by
  intro word hwf hw
  rw [show encodeNat (.stfW d a i) = some (pack 0x5C010000 [(d.toNat, 22), (a.toNat, 18), (i.toNat, 0)]) from rfl] at hw
  rw [show Instr.wf (.stfW d a i) = (!badReg d.toNat && !badReg a.toNat) from rfl] at hwf
  rw [pack3, Option.some.injEq] at hw
  simp only [Bool.and_eq_true, Bool.not_eq_true'] at hwf
  obtain ⟨hn, e0, e1, e2, e3, e4⟩ := layout7 word 23 d.toNat a.toNat 4 i.toNat (by decide) d.isLt a.isLt (by decide) i.isLt (by omega)
  refine ⟨hn, ?_⟩
  rw [decMajor17 word e0, dec17_4 _ e3, e1, e2, e4]
  simp_all [chk]

theorem stfD (d : BitVec 4) (a : BitVec 4) (i : BitVec 14) : Statement (.stfD d a i) := by
  intro word hwf hw
  rw [show encodeNat (.stfD d a i) = some (pack 0x5C014000 [(d.toNat, 22), (a.toNat, 18), (i.toNat, 0)]) from rfl] at hw
  rw [show Instr.wf (.stfD d a i) = (!badReg d.toNat && !badReg a.toNat) from rfl] at hwf
  rw [pack3, Option.some.injEq] at hw
  simp only [Bool.and_eq_true, Bool.not_eq_true'] at hwf
  obtain ⟨hn, e0, e1, e2, e3, e4⟩ := layout7 word 23 d.toNat a.toNat 5 i.toNat (by decide) d.isLt a.isLt (by decide) i.isLt (by omega)
  refine ⟨hn, ?_⟩
  rw [decMajor17 word e0, dec17_5 _ e3, e1, e2, e4]
  simp_all [chk]

theorem stfeW (d : BitVec 4) (a : BitVec 4) (i : BitVec 14) : Statement (.stfeW d a i) := by
  intro word hwf hw
  rw [show encodeNat (.stfeW d a i) = some (pack 0x5C018000 [(d.toNat, 22), (a.toNat, 18), (i.toNat, 0)]) from rfl] at hw
  rw [show Instr.wf (.stfeW d a i) = (!badReg d.toNat && !badReg a.toNat) from rfl] at hwf
  rw [pack3, Option.some.injEq] at hw
  simp only [Bool.and_eq_true, Bool.not_eq_true'] at hwf
  obtain ⟨hn, e0, e1, e2, e3, e4⟩ := layout7 word 23 d.toNat a.toNat 6 i.toNat (by decide) d.isLt a.isLt (by decide) i.isLt (by omega)
  refine ⟨hn, ?_⟩
  rw [decMajor17 word e0, dec17_6 _ e3, e1, e2, e4]
  simp_all [chk]

theorem stfeD (d : BitVec 4) (a : BitVec 4) (i : BitVec 14) : Statement (.stfeD d a i) := by
  intro word hwf hw
  rw [show encodeNat (.stfeD d a i) = some (pack 0x5C01C000 [(d.toNat, 22), (a.toNat, 18), (i.toNat, 0)]) from rfl] at hw
  rw [show Instr.wf (.stfeD d a i) = (!badReg d.toNat && !badReg a.toNat) from rfl] at hwf
  rw [pack3, Option.some.injEq] at hw
  simp only [Bool.and_eq_true, Bool.not_eq_true'] at hwf
  obtain ⟨hn, e0, e1, e2, e3, e4⟩ := layout7 word 23 d.toNat a.toNat 7 i.toNat (by decide) d.isLt a.isLt (by decide) i.isLt (by omega)
  refine ⟨hn, ?_⟩
  rw [decMajor17 word e0, dec17_7 _ e3, e1, e2, e4]
  simp_all [chk]

theorem fck (d : BitVec 4) (a : BitVec 4) (i : BitVec 14) : Statement (.fck d a i) := by
  intro word hwf hw
  rw [show encodeNat (.fck d a i) = some (pack 0x5C020000 [(d.toNat, 22), (a.toNat, 18), (i.toNat, 0)]) from rfl] at hw
  rw [show Instr.wf (.fck d a i) = (!badReg d.toNat && !badReg a.toNat) from rfl] at hwf
  rw [pack3, Option.some.injEq] at hw
  simp only [Bool.and_eq_true, Bool.not_eq_true'] at hwf
  obtain ⟨hn, e0, e1, e2, e3, e4⟩ := layout7 word 23 d.toNat a.toNat 8 i.toNat (by decide) d.isLt a.isLt (by decide) i.isLt (by omega)
  refine ⟨hn, ?_⟩
  rw [decMajor17 word e0, dec17_8 _ e3, e1, e2, e4]
  simp_all [chk]

theorem amoAdd (d : BitVec 4) (a : BitVec 4) (b : BitVec 4) (s : BitVec 1) : Statement (.amoAdd d a b s) := by
  intro word hwf hw
  rw [show encodeNat (.amoAdd d a b s) = some (pack 0x60000000 [(d.toNat, 22), (a.toNat, 18), (b.toNat, 14), (s.toNat, 0)]) from rfl] at hw
  rw [show Instr.wf (.amoAdd d a b s) = (!badReg d.toNat && !badReg a.toNat && !badReg b.toNat) from rfl] at hwf
  rw [pack4, Option.some.injEq] at hw
  simp only [Bool.and_eq_true, Bool.not_eq_true'] at hwf
  obtain ⟨hn, e0, e1, e2, e3, e4, e5, e6⟩ := layout10 word 24 d.toNat a.toNat b.toNat 0 0 s.toNat (by decide) d.isLt a.isLt b.isLt (by decide) (by decide) s.isLt (by omega)
  refine ⟨hn, ?_⟩
  rw [decMajor18 word e0, dec18_0 _ e4, e1, e2, e3, e5, e6]
  simp_all [chk]

theorem amoAnd (d : BitVec 4) (a : BitVec 4) (b : BitVec 4) (s : BitVec 1) : Statement (.amoAnd d a b s) := by
  intro word hwf hw
  rw [show encodeNat (.amoAnd d a b s) = some (pack 0x60000040 [(d.toNat, 22), (a.toNat, 18), (b.toNat, 14), (s.toNat, 0)]) from rfl] at hw
  rw [show Instr.wf (.amoAnd d a b s) = (!badReg d.toNat && !badReg a.toNat && !badReg b.toNat) from rfl] at hwf
  rw [pack4, Option.some.injEq] at hw
  simp only [Bool.and_eq_true, Bool.not_eq_true'] at hwf
  obtain ⟨hn, e0, e1, e2, e3, e4, e5, e6⟩ := layout10 word 24 d.toNat a.toNat b.toNat 1 0 s.toNat (by decide) d.isLt a.isLt b.isLt (by decide) (by decide) s.isLt (by omega)
  refine ⟨hn, ?_⟩
  rw [decMajor18 word e0, dec18_1 _ e4, e1, e2, e3, e5, e6]
  simp_all [chk]

theorem amoOr (d : BitVec 4) (a : BitVec 4) (b : BitVec 4) (s : BitVec 1) : Statement (.amoOr d a b s) := by
  intro word hwf hw
  rw [show encodeNat (.amoOr d a b s) = some (pack 0x60000080 [(d.toNat, 22), (a.toNat, 18), (b.toNat, 14), (s.toNat, 0)]) from rfl] at hw
  rw [show Instr.wf (.amoOr d a b s) = (!badReg d.toNat && !badReg a.toNat && !badReg b.toNat) from rfl] at hwf
  rw [pack4, Option.some.injEq] at hw
  simp only [Bool.and_eq_true, Bool.not_eq_true'] at hwf
  obtain ⟨hn, e0, e1, e2, e3, e4, e5, e6⟩ := layout10 word 24 d.toNat a.toNat b.toNat 2 0 s.toNat (by decide) d.isLt a.isLt b.isLt (by decide) (by decide) s.isLt (by omega)
  refine ⟨hn, ?_⟩
  rw [decMajor18 word e0, dec18_2 _ e4, e1, e2, e3, e5, e6]
  simp_all [chk]

theorem amoXor (d : BitVec 4) (a : BitVec 4) (b : BitVec 4) (s : BitVec 1) : Statement (.amoXor d a b s) := by
  intro word hwf hw
  rw [show encodeNat (.amoXor d a b s) = some (pack 0x600000C0 [(d.toNat, 22), (a.toNat, 18), (b.toNat, 14), (s.toNat, 0)]) from rfl] at hw
  rw [show Instr.wf (.amoXor d a b s) = (!badReg d.toNat && !badReg a.toNat && !badReg b.toNat) from rfl] at hwf
  rw [pack4, Option.some.injEq] at hw
  simp only [Bool.and_eq_true, Bool.not_eq_true'] at hwf
  obtain ⟨hn, e0, e1, e2, e3, e4, e5, e6⟩ := layout10 word 24 d.toNat a.toNat b.toNat 3 0 s.toNat (by decide) d.isLt a.isLt b.isLt (by decide) (by decide) s.isLt (by omega)
  refine ⟨hn, ?_⟩
  rw [decMajor18 word e0, dec18_3 _ e4, e1, e2, e3, e5, e6]
  simp_all [chk]

theorem amoMin (d : BitVec 4) (a : BitVec 4) (b : BitVec 4) (s : BitVec 1) : Statement (.amoMin d a b s) := by
  intro word hwf hw
  rw [show encodeNat (.amoMin d a b s) = some (pack 0x60000100 [(d.toNat, 22), (a.toNat, 18), (b.toNat, 14), (s.toNat, 0)]) from rfl] at hw
  rw [show Instr.wf (.amoMin d a b s) = (!badReg d.toNat && !badReg a.toNat && !badReg b.toNat) from rfl] at hwf
  rw [pack4, Option.some.injEq] at hw
  simp only [Bool.and_eq_true, Bool.not_eq_true'] at hwf
  obtain ⟨hn, e0, e1, e2, e3, e4, e5, e6⟩ := layout10 word 24 d.toNat a.toNat b.toNat 4 0 s.toNat (by decide) d.isLt a.isLt b.isLt (by decide) (by decide) s.isLt (by omega)
  refine ⟨hn, ?_⟩
  rw [decMajor18 word e0, dec18_4 _ e4, e1, e2, e3, e5, e6]
  simp_all [chk]

theorem amoMax (d : BitVec 4) (a : BitVec 4) (b : BitVec 4) (s : BitVec 1) : Statement (.amoMax d a b s) := by
  intro word hwf hw
  rw [show encodeNat (.amoMax d a b s) = some (pack 0x60000140 [(d.toNat, 22), (a.toNat, 18), (b.toNat, 14), (s.toNat, 0)]) from rfl] at hw
  rw [show Instr.wf (.amoMax d a b s) = (!badReg d.toNat && !badReg a.toNat && !badReg b.toNat) from rfl] at hwf
  rw [pack4, Option.some.injEq] at hw
  simp only [Bool.and_eq_true, Bool.not_eq_true'] at hwf
  obtain ⟨hn, e0, e1, e2, e3, e4, e5, e6⟩ := layout10 word 24 d.toNat a.toNat b.toNat 5 0 s.toNat (by decide) d.isLt a.isLt b.isLt (by decide) (by decide) s.isLt (by omega)
  refine ⟨hn, ?_⟩
  rw [decMajor18 word e0, dec18_5 _ e4, e1, e2, e3, e5, e6]
  simp_all [chk]

theorem amoMinu (d : BitVec 4) (a : BitVec 4) (b : BitVec 4) (s : BitVec 1) : Statement (.amoMinu d a b s) := by
  intro word hwf hw
  rw [show encodeNat (.amoMinu d a b s) = some (pack 0x60000180 [(d.toNat, 22), (a.toNat, 18), (b.toNat, 14), (s.toNat, 0)]) from rfl] at hw
  rw [show Instr.wf (.amoMinu d a b s) = (!badReg d.toNat && !badReg a.toNat && !badReg b.toNat) from rfl] at hwf
  rw [pack4, Option.some.injEq] at hw
  simp only [Bool.and_eq_true, Bool.not_eq_true'] at hwf
  obtain ⟨hn, e0, e1, e2, e3, e4, e5, e6⟩ := layout10 word 24 d.toNat a.toNat b.toNat 6 0 s.toNat (by decide) d.isLt a.isLt b.isLt (by decide) (by decide) s.isLt (by omega)
  refine ⟨hn, ?_⟩
  rw [decMajor18 word e0, dec18_6 _ e4, e1, e2, e3, e5, e6]
  simp_all [chk]

theorem amoMaxu (d : BitVec 4) (a : BitVec 4) (b : BitVec 4) (s : BitVec 1) : Statement (.amoMaxu d a b s) := by
  intro word hwf hw
  rw [show encodeNat (.amoMaxu d a b s) = some (pack 0x600001C0 [(d.toNat, 22), (a.toNat, 18), (b.toNat, 14), (s.toNat, 0)]) from rfl] at hw
  rw [show Instr.wf (.amoMaxu d a b s) = (!badReg d.toNat && !badReg a.toNat && !badReg b.toNat) from rfl] at hwf
  rw [pack4, Option.some.injEq] at hw
  simp only [Bool.and_eq_true, Bool.not_eq_true'] at hwf
  obtain ⟨hn, e0, e1, e2, e3, e4, e5, e6⟩ := layout10 word 24 d.toNat a.toNat b.toNat 7 0 s.toNat (by decide) d.isLt a.isLt b.isLt (by decide) (by decide) s.isLt (by omega)
  refine ⟨hn, ?_⟩
  rw [decMajor18 word e0, dec18_7 _ e4, e1, e2, e3, e5, e6]
  simp_all [chk]

theorem amoSwap (d : BitVec 4) (a : BitVec 4) (b : BitVec 4) (s : BitVec 1) : Statement (.amoSwap d a b s) := by
  intro word hwf hw
  rw [show encodeNat (.amoSwap d a b s) = some (pack 0x60000200 [(d.toNat, 22), (a.toNat, 18), (b.toNat, 14), (s.toNat, 0)]) from rfl] at hw
  rw [show Instr.wf (.amoSwap d a b s) = (!badReg d.toNat && !badReg a.toNat && !badReg b.toNat) from rfl] at hwf
  rw [pack4, Option.some.injEq] at hw
  simp only [Bool.and_eq_true, Bool.not_eq_true'] at hwf
  obtain ⟨hn, e0, e1, e2, e3, e4, e5, e6⟩ := layout10 word 24 d.toNat a.toNat b.toNat 8 0 s.toNat (by decide) d.isLt a.isLt b.isLt (by decide) (by decide) s.isLt (by omega)
  refine ⟨hn, ?_⟩
  rw [decMajor18 word e0, dec18_8 _ e4, e1, e2, e3, e5, e6]
  simp_all [chk]

theorem amoCas (d : BitVec 4) (a : BitVec 4) (b : BitVec 4) (s : BitVec 1) : Statement (.amoCas d a b s) := by
  intro word hwf hw
  rw [show encodeNat (.amoCas d a b s) = some (pack 0x60000240 [(d.toNat, 22), (a.toNat, 18), (b.toNat, 14), (s.toNat, 0)]) from rfl] at hw
  rw [show Instr.wf (.amoCas d a b s) = (!badReg d.toNat && !badReg a.toNat && !badReg b.toNat) from rfl] at hwf
  rw [pack4, Option.some.injEq] at hw
  simp only [Bool.and_eq_true, Bool.not_eq_true'] at hwf
  obtain ⟨hn, e0, e1, e2, e3, e4, e5, e6⟩ := layout10 word 24 d.toNat a.toNat b.toNat 9 0 s.toNat (by decide) d.isLt a.isLt b.isLt (by decide) (by decide) s.isLt (by omega)
  refine ⟨hn, ?_⟩
  rw [decMajor18 word e0, dec18_9 _ e4, e1, e2, e3, e5, e6]
  simp_all [chk]

theorem amoFadd (d : BitVec 4) (a : BitVec 4) (b : BitVec 4) (s : BitVec 1) : Statement (.amoFadd d a b s) := by
  intro word hwf hw
  rw [show encodeNat (.amoFadd d a b s) = some (pack 0x60000280 [(d.toNat, 22), (a.toNat, 18), (b.toNat, 14), (s.toNat, 0)]) from rfl] at hw
  rw [show Instr.wf (.amoFadd d a b s) = (!badReg d.toNat && !badReg a.toNat && !badReg b.toNat) from rfl] at hwf
  rw [pack4, Option.some.injEq] at hw
  simp only [Bool.and_eq_true, Bool.not_eq_true'] at hwf
  obtain ⟨hn, e0, e1, e2, e3, e4, e5, e6⟩ := layout10 word 24 d.toNat a.toNat b.toNat 10 0 s.toNat (by decide) d.isLt a.isLt b.isLt (by decide) (by decide) s.isLt (by omega)
  refine ⟨hn, ?_⟩
  rw [decMajor18 word e0, dec18_10 _ e4, e1, e2, e3, e5, e6]
  simp_all [chk]

theorem stcW (d : BitVec 4) (a : BitVec 4) (i : BitVec 14) : Statement (.stcW d a i) := by
  intro word hwf hw
  rw [show encodeNat (.stcW d a i) = some (pack 0x64000000 [(d.toNat, 22), (a.toNat, 18), (i.toNat, 0)]) from rfl] at hw
  rw [show Instr.wf (.stcW d a i) = (!badReg d.toNat && !badReg a.toNat) from rfl] at hwf
  rw [pack3, Option.some.injEq] at hw
  simp only [Bool.and_eq_true, Bool.not_eq_true'] at hwf
  obtain ⟨hn, e0, e1, e2, e3, e4⟩ := layout7 word 25 d.toNat a.toNat 0 i.toNat (by decide) d.isLt a.isLt (by decide) i.isLt (by omega)
  refine ⟨hn, ?_⟩
  rw [decMajor19 word e0, dec19_0 _ e3, e1, e2, e4]
  simp_all [chk]

theorem stcD (d : BitVec 4) (a : BitVec 4) (i : BitVec 14) : Statement (.stcD d a i) := by
  intro word hwf hw
  rw [show encodeNat (.stcD d a i) = some (pack 0x64004000 [(d.toNat, 22), (a.toNat, 18), (i.toNat, 0)]) from rfl] at hw
  rw [show Instr.wf (.stcD d a i) = (!badReg d.toNat && !badReg a.toNat) from rfl] at hwf
  rw [pack3, Option.some.injEq] at hw
  simp only [Bool.and_eq_true, Bool.not_eq_true'] at hwf
  obtain ⟨hn, e0, e1, e2, e3, e4⟩ := layout7 word 25 d.toNat a.toNat 1 i.toNat (by decide) d.isLt a.isLt (by decide) i.isLt (by omega)
  refine ⟨hn, ?_⟩
  rw [decMajor19 word e0, dec19_1 _ e3, e1, e2, e4]
  simp_all [chk]

theorem redAdd (a : BitVec 4) (b : BitVec 4) (s : BitVec 1) : Statement (.redAdd a b s) := by
  intro word hwf hw
  rw [show encodeNat (.redAdd a b s) = some (pack 0x68000000 [(a.toNat, 18), (b.toNat, 14), (s.toNat, 0)]) from rfl] at hw
  rw [show Instr.wf (.redAdd a b s) = (!badReg a.toNat && !badReg b.toNat) from rfl] at hwf
  rw [pack3, Option.some.injEq] at hw
  simp only [Bool.and_eq_true, Bool.not_eq_true'] at hwf
  obtain ⟨hn, e0, e1, e2, e3, e4, e5, e6⟩ := layout10 word 26 0 a.toNat b.toNat 0 0 s.toNat (by decide) (by decide) a.isLt b.isLt (by decide) (by decide) s.isLt (by omega)
  refine ⟨hn, ?_⟩
  rw [decMajor1A word e0, dec1A_0 _ e4, e1, e2, e3, e5, e6]
  simp_all [chk]

theorem redFadd (a : BitVec 4) (b : BitVec 4) (s : BitVec 1) : Statement (.redFadd a b s) := by
  intro word hwf hw
  rw [show encodeNat (.redFadd a b s) = some (pack 0x68000040 [(a.toNat, 18), (b.toNat, 14), (s.toNat, 0)]) from rfl] at hw
  rw [show Instr.wf (.redFadd a b s) = (!badReg a.toNat && !badReg b.toNat) from rfl] at hwf
  rw [pack3, Option.some.injEq] at hw
  simp only [Bool.and_eq_true, Bool.not_eq_true'] at hwf
  obtain ⟨hn, e0, e1, e2, e3, e4, e5, e6⟩ := layout10 word 26 0 a.toNat b.toNat 1 0 s.toNat (by decide) (by decide) a.isLt b.isLt (by decide) (by decide) s.isLt (by omega)
  refine ⟨hn, ?_⟩
  rw [decMajor1A word e0, dec1A_1 _ e4, e1, e2, e3, e5, e6]
  simp_all [chk]

theorem redMin (a : BitVec 4) (b : BitVec 4) (s : BitVec 1) : Statement (.redMin a b s) := by
  intro word hwf hw
  rw [show encodeNat (.redMin a b s) = some (pack 0x68000080 [(a.toNat, 18), (b.toNat, 14), (s.toNat, 0)]) from rfl] at hw
  rw [show Instr.wf (.redMin a b s) = (!badReg a.toNat && !badReg b.toNat) from rfl] at hwf
  rw [pack3, Option.some.injEq] at hw
  simp only [Bool.and_eq_true, Bool.not_eq_true'] at hwf
  obtain ⟨hn, e0, e1, e2, e3, e4, e5, e6⟩ := layout10 word 26 0 a.toNat b.toNat 2 0 s.toNat (by decide) (by decide) a.isLt b.isLt (by decide) (by decide) s.isLt (by omega)
  refine ⟨hn, ?_⟩
  rw [decMajor1A word e0, dec1A_2 _ e4, e1, e2, e3, e5, e6]
  simp_all [chk]

theorem redMax (a : BitVec 4) (b : BitVec 4) (s : BitVec 1) : Statement (.redMax a b s) := by
  intro word hwf hw
  rw [show encodeNat (.redMax a b s) = some (pack 0x680000C0 [(a.toNat, 18), (b.toNat, 14), (s.toNat, 0)]) from rfl] at hw
  rw [show Instr.wf (.redMax a b s) = (!badReg a.toNat && !badReg b.toNat) from rfl] at hwf
  rw [pack3, Option.some.injEq] at hw
  simp only [Bool.and_eq_true, Bool.not_eq_true'] at hwf
  obtain ⟨hn, e0, e1, e2, e3, e4, e5, e6⟩ := layout10 word 26 0 a.toNat b.toNat 3 0 s.toNat (by decide) (by decide) a.isLt b.isLt (by decide) (by decide) s.isLt (by omega)
  refine ⟨hn, ?_⟩
  rw [decMajor1A word e0, dec1A_3 _ e4, e1, e2, e3, e5, e6]
  simp_all [chk]

theorem redOr (a : BitVec 4) (b : BitVec 4) (s : BitVec 1) : Statement (.redOr a b s) := by
  intro word hwf hw
  rw [show encodeNat (.redOr a b s) = some (pack 0x68000100 [(a.toNat, 18), (b.toNat, 14), (s.toNat, 0)]) from rfl] at hw
  rw [show Instr.wf (.redOr a b s) = (!badReg a.toNat && !badReg b.toNat) from rfl] at hwf
  rw [pack3, Option.some.injEq] at hw
  simp only [Bool.and_eq_true, Bool.not_eq_true'] at hwf
  obtain ⟨hn, e0, e1, e2, e3, e4, e5, e6⟩ := layout10 word 26 0 a.toNat b.toNat 4 0 s.toNat (by decide) (by decide) a.isLt b.isLt (by decide) (by decide) s.isLt (by omega)
  refine ⟨hn, ?_⟩
  rw [decMajor1A word e0, dec1A_4 _ e4, e1, e2, e3, e5, e6]
  simp_all [chk]

theorem pf (a : BitVec 4) (i : BitVec 14) : Statement (.pf a i) := by
  intro word hwf hw
  rw [show encodeNat (.pf a i) = some (pack 0x6C000000 [(a.toNat, 18), (i.toNat, 0)]) from rfl] at hw
  rw [show Instr.wf (.pf a i) = (!badReg a.toNat) from rfl] at hwf
  rw [pack2, Option.some.injEq] at hw
  simp only [Bool.and_eq_true, Bool.not_eq_true'] at hwf
  obtain ⟨hn, e0, e1, e2, e3, e4⟩ := layout7 word 27 0 a.toNat 0 i.toNat (by decide) (by decide) a.isLt (by decide) i.isLt (by omega)
  refine ⟨hn, ?_⟩
  rw [decMajor1B word e0, dec1B_0 _ e3, e1, e2, e4]
  simp_all [chk]

theorem cwb (a : BitVec 4) (i : BitVec 14) : Statement (.cwb a i) := by
  intro word hwf hw
  rw [show encodeNat (.cwb a i) = some (pack 0x6C004000 [(a.toNat, 18), (i.toNat, 0)]) from rfl] at hw
  rw [show Instr.wf (.cwb a i) = (!badReg a.toNat) from rfl] at hwf
  rw [pack2, Option.some.injEq] at hw
  simp only [Bool.and_eq_true, Bool.not_eq_true'] at hwf
  obtain ⟨hn, e0, e1, e2, e3, e4⟩ := layout7 word 27 0 a.toNat 1 i.toNat (by decide) (by decide) a.isLt (by decide) i.isLt (by omega)
  refine ⟨hn, ?_⟩
  rw [decMajor1B word e0, dec1B_1 _ e3, e1, e2, e4]
  simp_all [chk]

theorem cdis (a : BitVec 4) (i : BitVec 14) : Statement (.cdis a i) := by
  intro word hwf hw
  rw [show encodeNat (.cdis a i) = some (pack 0x6C008000 [(a.toNat, 18), (i.toNat, 0)]) from rfl] at hw
  rw [show Instr.wf (.cdis a i) = (!badReg a.toNat) from rfl] at hwf
  rw [pack2, Option.some.injEq] at hw
  simp only [Bool.and_eq_true, Bool.not_eq_true'] at hwf
  obtain ⟨hn, e0, e1, e2, e3, e4⟩ := layout7 word 27 0 a.toNat 2 i.toNat (by decide) (by decide) a.isLt (by decide) i.isLt (by omega)
  refine ⟨hn, ?_⟩
  rw [decMajor1B word e0, dec1B_2 _ e3, e1, e2, e4]
  simp_all [chk]

theorem cinvI (a : BitVec 4) (i : BitVec 14) : Statement (.cinvI a i) := by
  intro word hwf hw
  rw [show encodeNat (.cinvI a i) = some (pack 0x6C00C000 [(a.toNat, 18), (i.toNat, 0)]) from rfl] at hw
  rw [show Instr.wf (.cinvI a i) = (!badReg a.toNat) from rfl] at hwf
  rw [pack2, Option.some.injEq] at hw
  simp only [Bool.and_eq_true, Bool.not_eq_true'] at hwf
  obtain ⟨hn, e0, e1, e2, e3, e4⟩ := layout7 word 27 0 a.toNat 3 i.toNat (by decide) (by decide) a.isLt (by decide) i.isLt (by omega)
  refine ⟨hn, ?_⟩
  rw [decMajor1B word e0, dec1B_3 _ e3, e1, e2, e4]
  simp_all [chk]

theorem br (p : BitVec 4) (s : BitVec 1) (d : BitVec 21) : Statement (.br p s d) := by
  intro word hwf hw
  rw [show encodeNat (.br p s d) = some (pack 0x74000000 [(p.toNat, 22), (s.toNat, 21), (d.toNat, 0)]) from rfl] at hw
  rw [show Instr.wf (.br p s d) = (true) from rfl] at hwf
  rw [pack3, Option.some.injEq] at hw
  simp only [Bool.and_eq_true, Bool.not_eq_true'] at hwf
  obtain ⟨hn, e0, e1, e2, e3⟩ := layout11 word 29 p.toNat s.toNat d.toNat (by decide) p.isLt s.isLt d.isLt (by omega)
  refine ⟨hn, ?_⟩
  rw [decMajor1D word e0, dec1D, e1, e2, e3]
  simp_all [chk]

theorem jmp (d : BitVec 26) : Statement (.jmp d) := by
  intro word hwf hw
  rw [show encodeNat (.jmp d) = some (pack 0x78000000 [(d.toNat, 0)]) from rfl] at hw
  rw [show Instr.wf (.jmp d) = (true) from rfl] at hwf
  rw [pack1, Option.some.injEq] at hw
  simp only [Bool.and_eq_true, Bool.not_eq_true'] at hwf
  obtain ⟨hn, e0, e1⟩ := layout12 word 30 d.toNat (by decide) d.isLt (by omega)
  refine ⟨hn, ?_⟩
  rw [decMajor1E word e0, dec1E, e1]
  simp_all [chk]

theorem call (d : BitVec 26) : Statement (.call d) := by
  intro word hwf hw
  rw [show encodeNat (.call d) = some (pack 0x7C000000 [(d.toNat, 0)]) from rfl] at hw
  rw [show Instr.wf (.call d) = (true) from rfl] at hwf
  rw [pack1, Option.some.injEq] at hw
  simp only [Bool.and_eq_true, Bool.not_eq_true'] at hwf
  obtain ⟨hn, e0, e1⟩ := layout12 word 31 d.toNat (by decide) d.isLt (by omega)
  refine ⟨hn, ?_⟩
  rw [decMajor1F word e0, dec1F, e1]
  simp_all [chk]

theorem jr (a : BitVec 4) : Statement (.jr a) := by
  intro word hwf hw
  rw [show encodeNat (.jr a) = some (pack 0x80000000 [(a.toNat, 18)]) from rfl] at hw
  rw [show Instr.wf (.jr a) = (!badReg a.toNat) from rfl] at hwf
  rw [pack1, Option.some.injEq] at hw
  simp only [Bool.and_eq_true, Bool.not_eq_true'] at hwf
  obtain ⟨hn, e0, e1, e2, e3, e4, e5⟩ := layout0 word 32 0 a.toNat 0 0 0 (by decide) (by decide) a.isLt (by decide) (by decide) (by decide) (by omega)
  refine ⟨hn, ?_⟩
  rw [decMajor20 word e0, dec20_0 _ e4, e1, e2, e3, e5]
  simp_all [chk]

theorem callr (a : BitVec 4) : Statement (.callr a) := by
  intro word hwf hw
  rw [show encodeNat (.callr a) = some (pack 0x80000040 [(a.toNat, 18)]) from rfl] at hw
  rw [show Instr.wf (.callr a) = (!badReg a.toNat) from rfl] at hwf
  rw [pack1, Option.some.injEq] at hw
  simp only [Bool.and_eq_true, Bool.not_eq_true'] at hwf
  obtain ⟨hn, e0, e1, e2, e3, e4, e5⟩ := layout0 word 32 0 a.toNat 0 1 0 (by decide) (by decide) a.isLt (by decide) (by decide) (by decide) (by omega)
  refine ⟨hn, ?_⟩
  rw [decMajor20 word e0, dec20_1 _ e4, e1, e2, e3, e5]
  simp_all [chk]

theorem loop (a : BitVec 4) (i : BitVec 18) : Statement (.loop a i) := by
  intro word hwf hw
  rw [show encodeNat (.loop a i) = some (pack 0x84000000 [(a.toNat, 18), (i.toNat, 0)]) from rfl] at hw
  rw [show Instr.wf (.loop a i) = (!badReg a.toNat) from rfl] at hwf
  rw [pack2, Option.some.injEq] at hw
  simp only [Bool.and_eq_true, Bool.not_eq_true'] at hwf
  obtain ⟨hn, e0, e1, e2, e3⟩ := layout2 word 33 0 a.toNat i.toNat (by decide) (by decide) a.isLt i.isLt (by omega)
  refine ⟨hn, ?_⟩
  rw [decMajor21 word e0, dec21, e1, e2, e3]
  simp_all [chk]

theorem go (a : BitVec 4) : Statement (.go a) := by
  intro word hwf hw
  rw [show encodeNat (.go a) = some (pack 0x88000000 [(a.toNat, 18)]) from rfl] at hw
  rw [show Instr.wf (.go a) = (!badReg a.toNat) from rfl] at hwf
  rw [pack1, Option.some.injEq] at hw
  simp only [Bool.and_eq_true, Bool.not_eq_true'] at hwf
  obtain ⟨hn, e0, e1, e2, e3, e4, e5⟩ := layout0 word 34 0 a.toNat 0 0 0 (by decide) (by decide) a.isLt (by decide) (by decide) (by decide) (by omega)
  refine ⟨hn, ?_⟩
  rw [decMajor22 word e0, dec22_0 _ e4, e1, e2, e3, e5]
  simp_all [chk]

theorem gocore (a : BitVec 4) : Statement (.gocore a) := by
  intro word hwf hw
  rw [show encodeNat (.gocore a) = some (pack 0x88000040 [(a.toNat, 18)]) from rfl] at hw
  rw [show Instr.wf (.gocore a) = (!badReg a.toNat) from rfl] at hwf
  rw [pack1, Option.some.injEq] at hw
  simp only [Bool.and_eq_true, Bool.not_eq_true'] at hwf
  obtain ⟨hn, e0, e1, e2, e3, e4, e5⟩ := layout0 word 34 0 a.toNat 0 1 0 (by decide) (by decide) a.isLt (by decide) (by decide) (by decide) (by omega)
  refine ⟨hn, ?_⟩
  rw [decMajor22 word e0, dec22_1 _ e4, e1, e2, e3, e5]
  simp_all [chk]

theorem meet (d : BitVec 4) (a : BitVec 4) (b : BitVec 4) : Statement (.meet d a b) := by
  intro word hwf hw
  rw [show encodeNat (.meet d a b) = some (pack 0x8C000000 [(d.toNat, 22), (a.toNat, 18), (b.toNat, 14)]) from rfl] at hw
  rw [show Instr.wf (.meet d a b) = (!badReg d.toNat && !badReg a.toNat && !badReg b.toNat) from rfl] at hwf
  rw [pack3, Option.some.injEq] at hw
  simp only [Bool.and_eq_true, Bool.not_eq_true'] at hwf
  obtain ⟨hn, e0, e1, e2, e3, e4, e5⟩ := layout0 word 35 d.toNat a.toNat b.toNat 0 0 (by decide) d.isLt a.isLt b.isLt (by decide) (by decide) (by omega)
  refine ⟨hn, ?_⟩
  rw [decMajor23 word e0, dec23_0 _ e4, e1, e2, e3, e5]
  simp_all [chk]

theorem xget (d : BitVec 4) (n : BitVec 4) : Statement (.xget d n) := by
  intro word hwf hw
  rw [show encodeNat (.xget d n) = some (pack 0x8C000040 [(d.toNat, 22), (n.toNat, 0)]) from rfl] at hw
  rw [show Instr.wf (.xget d n) = (!badReg d.toNat) from rfl] at hwf
  rw [pack2, Option.some.injEq] at hw
  simp only [Bool.and_eq_true, Bool.not_eq_true'] at hwf
  obtain ⟨hn, e0, e1, e2, e3, e4, e5⟩ := layout13 word 35 d.toNat 0 1 0 n.toNat (by decide) d.isLt (by decide) (by decide) (by decide) n.isLt (by omega)
  refine ⟨hn, ?_⟩
  rw [decMajor23 word e0, dec23_1 _ e3, e1, e2, e4, e5]
  simp_all [chk]

theorem partgo (a : BitVec 4) : Statement (.partgo a) := by
  intro word hwf hw
  rw [show encodeNat (.partgo a) = some (pack 0x8C0000C0 [(a.toNat, 18)]) from rfl] at hw
  rw [show Instr.wf (.partgo a) = (!badReg a.toNat) from rfl] at hwf
  rw [pack1, Option.some.injEq] at hw
  simp only [Bool.and_eq_true, Bool.not_eq_true'] at hwf
  obtain ⟨hn, e0, e1, e2, e3, e4, e5⟩ := layout0 word 35 0 a.toNat 0 3 0 (by decide) (by decide) a.isLt (by decide) (by decide) (by decide) (by omega)
  refine ⟨hn, ?_⟩
  rw [decMajor23 word e0, dec23_3 _ e4, e1, e2, e3, e5]
  simp_all [chk]

theorem spawn (d : BitVec 4) (a : BitVec 4) (b : BitVec 4) : Statement (.spawn d a b) := by
  intro word hwf hw
  rw [show encodeNat (.spawn d a b) = some (pack 0x90000000 [(d.toNat, 22), (a.toNat, 18), (b.toNat, 14)]) from rfl] at hw
  rw [show Instr.wf (.spawn d a b) = (!badReg d.toNat && !badReg a.toNat && !badReg b.toNat) from rfl] at hwf
  rw [pack3, Option.some.injEq] at hw
  simp only [Bool.and_eq_true, Bool.not_eq_true'] at hwf
  obtain ⟨hn, e0, e1, e2, e3, e4, e5⟩ := layout0 word 36 d.toNat a.toNat b.toNat 0 0 (by decide) d.isLt a.isLt b.isLt (by decide) (by decide) (by omega)
  refine ⟨hn, ?_⟩
  rw [decMajor24 word e0, dec24_0 _ e4, e1, e2, e3, e5]
  simp_all [chk]

theorem alloc (d : BitVec 4) (a : BitVec 4) : Statement (.alloc d a) := by
  intro word hwf hw
  rw [show encodeNat (.alloc d a) = some (pack 0x90000140 [(d.toNat, 22), (a.toNat, 18)]) from rfl] at hw
  rw [show Instr.wf (.alloc d a) = (!badReg d.toNat && !badReg a.toNat) from rfl] at hwf
  rw [pack2, Option.some.injEq] at hw
  simp only [Bool.and_eq_true, Bool.not_eq_true'] at hwf
  obtain ⟨hn, e0, e1, e2, e3, e4, e5⟩ := layout0 word 36 d.toNat a.toNat 0 5 0 (by decide) d.isLt a.isLt (by decide) (by decide) (by decide) (by omega)
  refine ⟨hn, ?_⟩
  rw [decMajor24 word e0, dec24_5 _ e4, e1, e2, e3, e5]
  simp_all [chk]

theorem fork (d : BitVec 4) (a : BitVec 4) (b : BitVec 4) : Statement (.fork d a b) := by
  intro word hwf hw
  rw [show encodeNat (.fork d a b) = some (pack 0x90000180 [(d.toNat, 22), (a.toNat, 18), (b.toNat, 14)]) from rfl] at hw
  rw [show Instr.wf (.fork d a b) = (!badReg d.toNat && !badReg a.toNat && !badReg b.toNat) from rfl] at hwf
  rw [pack3, Option.some.injEq] at hw
  simp only [Bool.and_eq_true, Bool.not_eq_true'] at hwf
  obtain ⟨hn, e0, e1, e2, e3, e4, e5⟩ := layout0 word 36 d.toNat a.toNat b.toNat 6 0 (by decide) d.isLt a.isLt b.isLt (by decide) (by decide) (by omega)
  refine ⟨hn, ?_⟩
  rw [decMajor24 word e0, dec24_6 _ e4, e1, e2, e3, e5]
  simp_all [chk]

theorem join (a : BitVec 4) : Statement (.join a) := by
  intro word hwf hw
  rw [show encodeNat (.join a) = some (pack 0x900001C0 [(a.toNat, 18)]) from rfl] at hw
  rw [show Instr.wf (.join a) = (!badReg a.toNat) from rfl] at hwf
  rw [pack1, Option.some.injEq] at hw
  simp only [Bool.and_eq_true, Bool.not_eq_true'] at hwf
  obtain ⟨hn, e0, e1, e2, e3, e4, e5⟩ := layout0 word 36 0 a.toNat 0 7 0 (by decide) (by decide) a.isLt (by decide) (by decide) (by decide) (by omega)
  refine ⟨hn, ?_⟩
  rw [decMajor24 word e0, dec24_7 _ e4, e1, e2, e3, e5]
  simp_all [chk]

theorem wakePark (a : BitVec 4) : Statement (.wakePark a) := by
  intro word hwf hw
  rw [show encodeNat (.wakePark a) = some (pack 0x90000200 [(a.toNat, 18)]) from rfl] at hw
  rw [show Instr.wf (.wakePark a) = (!badReg a.toNat) from rfl] at hwf
  rw [pack1, Option.some.injEq] at hw
  simp only [Bool.and_eq_true, Bool.not_eq_true'] at hwf
  obtain ⟨hn, e0, e1, e2, e3, e4, e5⟩ := layout0 word 36 0 a.toNat 0 8 0 (by decide) (by decide) a.isLt (by decide) (by decide) (by decide) (by omega)
  refine ⟨hn, ?_⟩
  rw [decMajor24 word e0, dec24_8 _ e4, e1, e2, e3, e5]
  simp_all [chk]

theorem tsk (a : BitVec 4) (b : BitVec 4) : Statement (.tsk a b) := by
  intro word hwf hw
  rw [show encodeNat (.tsk a b) = some (pack 0x90000240 [(a.toNat, 18), (b.toNat, 14)]) from rfl] at hw
  rw [show Instr.wf (.tsk a b) = (!badReg a.toNat && !badReg b.toNat) from rfl] at hwf
  rw [pack2, Option.some.injEq] at hw
  simp only [Bool.and_eq_true, Bool.not_eq_true'] at hwf
  obtain ⟨hn, e0, e1, e2, e3, e4, e5⟩ := layout0 word 36 0 a.toNat b.toNat 9 0 (by decide) (by decide) a.isLt b.isLt (by decide) (by decide) (by omega)
  refine ⟨hn, ?_⟩
  rw [decMajor24 word e0, dec24_9 _ e4, e1, e2, e3, e5]
  simp_all [chk]

theorem qpush (a : BitVec 4) (b : BitVec 4) : Statement (.qpush a b) := by
  intro word hwf hw
  rw [show encodeNat (.qpush a b) = some (pack 0x94000000 [(a.toNat, 18), (b.toNat, 14)]) from rfl] at hw
  rw [show Instr.wf (.qpush a b) = (!badReg a.toNat && !badReg b.toNat) from rfl] at hwf
  rw [pack2, Option.some.injEq] at hw
  simp only [Bool.and_eq_true, Bool.not_eq_true'] at hwf
  obtain ⟨hn, e0, e1, e2, e3, e4, e5⟩ := layout0 word 37 0 a.toNat b.toNat 0 0 (by decide) (by decide) a.isLt b.isLt (by decide) (by decide) (by omega)
  refine ⟨hn, ?_⟩
  rw [decMajor25 word e0, dec25_0 _ e4, e1, e2, e3, e5]
  simp_all [chk]

theorem qpop (d : BitVec 4) : Statement (.qpop d) := by
  intro word hwf hw
  rw [show encodeNat (.qpop d) = some (pack 0x94000040 [(d.toNat, 22)]) from rfl] at hw
  rw [show Instr.wf (.qpop d) = (!badReg d.toNat) from rfl] at hwf
  rw [pack1, Option.some.injEq] at hw
  simp only [Bool.and_eq_true, Bool.not_eq_true'] at hwf
  obtain ⟨hn, e0, e1, e2, e3, e4⟩ := layout14 word 37 d.toNat 0 1 0 (by decide) d.isLt (by decide) (by decide) (by decide) (by omega)
  refine ⟨hn, ?_⟩
  rw [decMajor25 word e0, dec25_1 _ e3, e1, e2, e4]
  simp_all [chk]

theorem qlen (d : BitVec 4) (b : BitVec 4) : Statement (.qlen d b) := by
  intro word hwf hw
  rw [show encodeNat (.qlen d b) = some (pack 0x94000080 [(d.toNat, 22), (b.toNat, 14)]) from rfl] at hw
  rw [show Instr.wf (.qlen d b) = (!badReg d.toNat && !badReg b.toNat) from rfl] at hwf
  rw [pack2, Option.some.injEq] at hw
  simp only [Bool.and_eq_true, Bool.not_eq_true'] at hwf
  obtain ⟨hn, e0, e1, e2, e3, e4, e5⟩ := layout0 word 37 d.toNat 0 b.toNat 2 0 (by decide) d.isLt (by decide) b.isLt (by decide) (by decide) (by omega)
  refine ⟨hn, ?_⟩
  rw [decMajor25 word e0, dec25_2 _ e4, e1, e2, e3, e5]
  simp_all [chk]

theorem recv (d : BitVec 4) (a : BitVec 4) : Statement (.recv d a) := by
  intro word hwf hw
  rw [show encodeNat (.recv d a) = some (pack 0x98000000 [(d.toNat, 22), (a.toNat, 18)]) from rfl] at hw
  rw [show Instr.wf (.recv d a) = (!badReg d.toNat && !badReg a.toNat) from rfl] at hwf
  rw [pack2, Option.some.injEq] at hw
  simp only [Bool.and_eq_true, Bool.not_eq_true'] at hwf
  obtain ⟨hn, e0, e1, e2, e3, e4, e5⟩ := layout0 word 38 d.toNat a.toNat 0 0 0 (by decide) d.isLt a.isLt (by decide) (by decide) (by decide) (by omega)
  refine ⟨hn, ?_⟩
  rw [decMajor26 word e0, dec26_0 _ e4, e1, e2, e3, e5]
  simp_all [chk]

theorem mpoll (d : BitVec 4) (a : BitVec 4) : Statement (.mpoll d a) := by
  intro word hwf hw
  rw [show encodeNat (.mpoll d a) = some (pack 0x98000040 [(d.toNat, 22), (a.toNat, 18)]) from rfl] at hw
  rw [show Instr.wf (.mpoll d a) = (!badReg d.toNat && !badReg a.toNat) from rfl] at hwf
  rw [pack2, Option.some.injEq] at hw
  simp only [Bool.and_eq_true, Bool.not_eq_true'] at hwf
  obtain ⟨hn, e0, e1, e2, e3, e4, e5⟩ := layout0 word 38 d.toNat a.toNat 0 1 0 (by decide) d.isLt a.isLt (by decide) (by decide) (by decide) (by omega)
  refine ⟨hn, ?_⟩
  rw [decMajor26 word e0, dec26_1 _ e4, e1, e2, e3, e5]
  simp_all [chk]

theorem mbind (a : BitVec 4) (b : BitVec 4) : Statement (.mbind a b) := by
  intro word hwf hw
  rw [show encodeNat (.mbind a b) = some (pack 0x98000080 [(a.toNat, 18), (b.toNat, 14)]) from rfl] at hw
  rw [show Instr.wf (.mbind a b) = (!badReg a.toNat && !badReg b.toNat) from rfl] at hwf
  rw [pack2, Option.some.injEq] at hw
  simp only [Bool.and_eq_true, Bool.not_eq_true'] at hwf
  obtain ⟨hn, e0, e1, e2, e3, e4, e5⟩ := layout0 word 38 0 a.toNat b.toNat 2 0 (by decide) (by decide) a.isLt b.isLt (by decide) (by decide) (by omega)
  refine ⟨hn, ?_⟩
  rw [decMajor26 word e0, dec26_2 _ e4, e1, e2, e3, e5]
  simp_all [chk]

theorem bar (s : BitVec 3) (n : BitVec 4) : Statement (.bar s n) := by
  intro word hwf hw
  rw [show encodeNat (.bar s n) = some (pack 0x9C000000 [(s.toNat, 4), (n.toNat, 0)]) from rfl] at hw
  rw [show Instr.wf (.bar s n) = (!badScope s.toNat) from rfl] at hwf
  rw [pack2, Option.some.injEq] at hw
  simp only [Bool.and_eq_true, Bool.not_eq_true'] at hwf
  obtain ⟨hn, e0, e1, e2, e3, e4⟩ := layout15 word 39 0 0 s.toNat n.toNat (by decide) (by decide) (by decide) s.isLt n.isLt (by omega)
  refine ⟨hn, ?_⟩
  rw [decMajor27 word e0, dec27_0 _ e1, e2, e3, e4]
  simp_all [chk]

theorem barn (s : BitVec 3) (n : BitVec 4) : Statement (.barn s n) := by
  intro word hwf hw
  rw [show encodeNat (.barn s n) = some (pack 0x9C010000 [(s.toNat, 4), (n.toNat, 0)]) from rfl] at hw
  rw [show Instr.wf (.barn s n) = (!badScope s.toNat) from rfl] at hwf
  rw [pack2, Option.some.injEq] at hw
  simp only [Bool.and_eq_true, Bool.not_eq_true'] at hwf
  obtain ⟨hn, e0, e1, e2, e3, e4⟩ := layout15 word 39 1 0 s.toNat n.toNat (by decide) (by decide) (by decide) s.isLt n.isLt (by omega)
  refine ⟨hn, ?_⟩
  rw [decMajor27 word e0, dec27_1 _ e1, e2, e3, e4]
  simp_all [chk]

theorem barw (a : BitVec 4) (s : BitVec 3) (n : BitVec 4) : Statement (.barw a s n) := by
  intro word hwf hw
  rw [show encodeNat (.barw a s n) = some (pack 0x9C020000 [(a.toNat, 12), (s.toNat, 4), (n.toNat, 0)]) from rfl] at hw
  rw [show Instr.wf (.barw a s n) = (!badReg a.toNat && !badScope s.toNat) from rfl] at hwf
  rw [pack3, Option.some.injEq] at hw
  simp only [Bool.and_eq_true, Bool.not_eq_true'] at hwf
  obtain ⟨hn, e0, e1, e2, e3, e4, e5⟩ := layout16 word 39 2 a.toNat 0 s.toNat n.toNat (by decide) (by decide) a.isLt (by decide) s.isLt n.isLt (by omega)
  refine ⟨hn, ?_⟩
  rw [decMajor27 word e0, dec27_2 _ e1, e2, e3, e4, e5]
  simp_all [chk]

theorem barg (a : BitVec 4) (s : BitVec 3) (n : BitVec 4) : Statement (.barg a s n) := by
  intro word hwf hw
  rw [show encodeNat (.barg a s n) = some (pack 0x9C030000 [(a.toNat, 12), (s.toNat, 4), (n.toNat, 0)]) from rfl] at hw
  rw [show Instr.wf (.barg a s n) = (!badReg a.toNat && !badScope s.toNat) from rfl] at hwf
  rw [pack3, Option.some.injEq] at hw
  simp only [Bool.and_eq_true, Bool.not_eq_true'] at hwf
  obtain ⟨hn, e0, e1, e2, e3, e4, e5⟩ := layout16 word 39 3 a.toNat 0 s.toNat n.toNat (by decide) (by decide) a.isLt (by decide) s.isLt n.isLt (by omega)
  refine ⟨hn, ?_⟩
  rw [decMajor27 word e0, dec27_3 _ e1, e2, e3, e4, e5]
  simp_all [chk]

theorem barset (a : BitVec 4) (s : BitVec 3) (n : BitVec 4) : Statement (.barset a s n) := by
  intro word hwf hw
  rw [show encodeNat (.barset a s n) = some (pack 0x9C040000 [(a.toNat, 12), (s.toNat, 4), (n.toNat, 0)]) from rfl] at hw
  rw [show Instr.wf (.barset a s n) = (!badReg a.toNat && !badScope s.toNat) from rfl] at hwf
  rw [pack3, Option.some.injEq] at hw
  simp only [Bool.and_eq_true, Bool.not_eq_true'] at hwf
  obtain ⟨hn, e0, e1, e2, e3, e4, e5⟩ := layout16 word 39 4 a.toNat 0 s.toNat n.toNat (by decide) (by decide) a.isLt (by decide) s.isLt n.isLt (by omega)
  refine ⟨hn, ?_⟩
  rw [decMajor27 word e0, dec27_4 _ e1, e2, e3, e4, e5]
  simp_all [chk]

theorem srd (f : BitVec 10) (a : BitVec 4) : Statement (.srd f a) := by
  intro word hwf hw
  rw [show encodeNat (.srd f a) = some (pack 0xA0000000 [(f.toNat, 16), (a.toNat, 12)]) from rfl] at hw
  rw [show Instr.wf (.srd f a) = (!badReg a.toNat && knownSpecial f.toNat) from rfl] at hwf
  rw [pack2, Option.some.injEq] at hw
  simp only [Bool.and_eq_true, Bool.not_eq_true'] at hwf
  obtain ⟨hn, e0, e1, e2, e3⟩ := layout17 word 40 f.toNat a.toNat 0 (by decide) f.isLt a.isLt (by decide) (by omega)
  refine ⟨hn, ?_⟩
  rw [decMajor28 word e0, dec28, e1, e2, e3]
  simp_all [chk]

theorem swr (f : BitVec 10) (a : BitVec 4) : Statement (.swr f a) := by
  intro word hwf hw
  rw [show encodeNat (.swr f a) = some (pack 0xA4000000 [(f.toNat, 16), (a.toNat, 12)]) from rfl] at hw
  rw [show Instr.wf (.swr f a) = (!badReg a.toNat && knownSpecial f.toNat) from rfl] at hwf
  rw [pack2, Option.some.injEq] at hw
  simp only [Bool.and_eq_true, Bool.not_eq_true'] at hwf
  obtain ⟨hn, e0, e1, e2, e3⟩ := layout17 word 41 f.toNat a.toNat 0 (by decide) f.isLt a.isLt (by decide) (by omega)
  refine ⟨hn, ?_⟩
  rw [decMajor29 word e0, dec29, e1, e2, e3]
  simp_all [chk]

theorem trap (k : BitVec 8) : Statement (.trap k) := by
  intro word hwf hw
  rw [show encodeNat (.trap k) = some (pack 0xA8000000 [(k.toNat, 0)]) from rfl] at hw
  rw [show Instr.wf (.trap k) = (true) from rfl] at hwf
  rw [pack1, Option.some.injEq] at hw
  simp only [Bool.and_eq_true, Bool.not_eq_true'] at hwf
  obtain ⟨hn, e0, e1, e2, e3⟩ := layout18 word 42 0 0 k.toNat (by decide) (by decide) (by decide) k.isLt (by omega)
  refine ⟨hn, ?_⟩
  rw [decMajor2A word e0, dec2A_0 _ e1, e2, e3]
  simp_all [chk]

theorem blk (h : BitVec 16) : Statement (.blk h) := by
  intro word hwf hw
  rw [show encodeNat (.blk h) = some (pack 0xA8040000 [(h.toNat, 0)]) from rfl] at hw
  rw [show Instr.wf (.blk h) = (true) from rfl] at hwf
  rw [pack1, Option.some.injEq] at hw
  simp only [Bool.and_eq_true, Bool.not_eq_true'] at hwf
  obtain ⟨hn, e0, e1, e2⟩ := layout19 word 42 4 h.toNat (by decide) (by decide) h.isLt (by omega)
  refine ⟨hn, ?_⟩
  rw [decMajor2A word e0, dec2A_4 _ e1, e2]
  simp_all [chk]

theorem ctxsv (a : BitVec 4) : Statement (.ctxsv a) := by
  intro word hwf hw
  rw [show encodeNat (.ctxsv a) = some (pack 0xA8050000 [(a.toNat, 12)]) from rfl] at hw
  rw [show Instr.wf (.ctxsv a) = (!badReg a.toNat) from rfl] at hwf
  rw [pack1, Option.some.injEq] at hw
  simp only [Bool.and_eq_true, Bool.not_eq_true'] at hwf
  obtain ⟨hn, e0, e1, e2, e3⟩ := layout17 word 42 5 a.toNat 0 (by decide) (by decide) a.isLt (by decide) (by omega)
  refine ⟨hn, ?_⟩
  rw [decMajor2A word e0, dec2A_5 _ e1, e2, e3]
  simp_all [chk]

theorem ctxrs (a : BitVec 4) : Statement (.ctxrs a) := by
  intro word hwf hw
  rw [show encodeNat (.ctxrs a) = some (pack 0xA8060000 [(a.toNat, 12)]) from rfl] at hw
  rw [show Instr.wf (.ctxrs a) = (!badReg a.toNat) from rfl] at hwf
  rw [pack1, Option.some.injEq] at hw
  simp only [Bool.and_eq_true, Bool.not_eq_true'] at hwf
  obtain ⟨hn, e0, e1, e2, e3⟩ := layout17 word 42 6 a.toNat 0 (by decide) (by decide) a.isLt (by decide) (by omega)
  refine ⟨hn, ?_⟩
  rw [decMajor2A word e0, dec2A_6 _ e1, e2, e3]
  simp_all [chk]

theorem cp (a : BitVec 4) (b : BitVec 4) (w : BitVec 1) : Statement (.cp a b w) := by
  intro word hwf hw
  rw [show encodeNat (.cp a b w) = some (pack 0xC0000000 [(a.toNat, 22), (b.toNat, 18), (w.toNat, 11)]) from rfl] at hw
  rw [show Instr.wf (.cp a b w) = (!badReg a.toNat && !badReg b.toNat) from rfl] at hwf
  rw [pack3, Option.some.injEq] at hw
  simp only [Bool.and_eq_true, Bool.not_eq_true'] at hwf
  obtain ⟨hn, e0, e1, e2, e3, e4, e5⟩ := layout20 word 48 a.toNat b.toNat 0 w.toNat 0 (by decide) a.isLt b.isLt (by decide) w.isLt (by decide) (by omega)
  refine ⟨hn, ?_⟩
  rw [decMajor30 word e0, dec30_0 _ e3, e1, e2, e4, e5]
  simp_all [chk]

theorem cpn (a : BitVec 4) (b : BitVec 4) (w : BitVec 1) : Statement (.cpn a b w) := by
  intro word hwf hw
  rw [show encodeNat (.cpn a b w) = some (pack 0xC0001000 [(a.toNat, 22), (b.toNat, 18), (w.toNat, 11)]) from rfl] at hw
  rw [show Instr.wf (.cpn a b w) = (!badReg a.toNat && !badReg b.toNat) from rfl] at hwf
  rw [pack3, Option.some.injEq] at hw
  simp only [Bool.and_eq_true, Bool.not_eq_true'] at hwf
  obtain ⟨hn, e0, e1, e2, e3, e4, e5⟩ := layout20 word 48 a.toNat b.toNat 1 w.toNat 0 (by decide) a.isLt b.isLt (by decide) w.isLt (by decide) (by omega)
  refine ⟨hn, ?_⟩
  rw [decMajor30 word e0, dec30_1 _ e3, e1, e2, e4, e5]
  simp_all [chk]

theorem cpm (a : BitVec 4) (b : BitVec 4) (w : BitVec 1) : Statement (.cpm a b w) := by
  intro word hwf hw
  rw [show encodeNat (.cpm a b w) = some (pack 0xC0002000 [(a.toNat, 22), (b.toNat, 18), (w.toNat, 11)]) from rfl] at hw
  rw [show Instr.wf (.cpm a b w) = (!badReg a.toNat && !badReg b.toNat) from rfl] at hwf
  rw [pack3, Option.some.injEq] at hw
  simp only [Bool.and_eq_true, Bool.not_eq_true'] at hwf
  obtain ⟨hn, e0, e1, e2, e3, e4, e5⟩ := layout20 word 48 a.toNat b.toNat 2 w.toNat 0 (by decide) a.isLt b.isLt (by decide) w.isLt (by decide) (by omega)
  refine ⟨hn, ?_⟩
  rw [decMajor30 word e0, dec30_2 _ e3, e1, e2, e4, e5]
  simp_all [chk]

theorem cps (a : BitVec 4) (b : BitVec 4) (w : BitVec 1) : Statement (.cps a b w) := by
  intro word hwf hw
  rw [show encodeNat (.cps a b w) = some (pack 0xC0003000 [(a.toNat, 22), (b.toNat, 18), (w.toNat, 11)]) from rfl] at hw
  rw [show Instr.wf (.cps a b w) = (!badReg a.toNat && !badReg b.toNat) from rfl] at hwf
  rw [pack3, Option.some.injEq] at hw
  simp only [Bool.and_eq_true, Bool.not_eq_true'] at hwf
  obtain ⟨hn, e0, e1, e2, e3, e4, e5⟩ := layout20 word 48 a.toNat b.toNat 3 w.toNat 0 (by decide) a.isLt b.isLt (by decide) w.isLt (by decide) (by omega)
  refine ⟨hn, ?_⟩
  rw [decMajor30 word e0, dec30_3 _ e3, e1, e2, e4, e5]
  simp_all [chk]

theorem cprFp32 (a : BitVec 4) (b : BitVec 4) (w : BitVec 1) : Statement (.cprFp32 a b w) := by
  intro word hwf hw
  rw [show encodeNat (.cprFp32 a b w) = some (pack 0xC0004000 [(a.toNat, 22), (b.toNat, 18), (w.toNat, 11)]) from rfl] at hw
  rw [show Instr.wf (.cprFp32 a b w) = (!badReg a.toNat && !badReg b.toNat) from rfl] at hwf
  rw [pack3, Option.some.injEq] at hw
  simp only [Bool.and_eq_true, Bool.not_eq_true'] at hwf
  obtain ⟨hn, e0, e1, e2, e3, e4, e5⟩ := layout20 word 48 a.toNat b.toNat 4 w.toNat 0 (by decide) a.isLt b.isLt (by decide) w.isLt (by decide) (by omega)
  refine ⟨hn, ?_⟩
  rw [decMajor30 word e0, dec30_4 _ e3, e1, e2, e4, e5]
  simp_all [chk]

theorem cpsi (a : BitVec 4) (b : BitVec 4) (q : BitVec 1) : Statement (.cpsi a b q) := by
  intro word hwf hw
  rw [show encodeNat (.cpsi a b q) = some (pack 0xC0005000 [(a.toNat, 22), (b.toNat, 18), (q.toNat, 0)]) from rfl] at hw
  rw [show Instr.wf (.cpsi a b q) = (!badReg a.toNat && !badReg b.toNat) from rfl] at hwf
  rw [pack3, Option.some.injEq] at hw
  simp only [Bool.and_eq_true, Bool.not_eq_true'] at hwf
  obtain ⟨hn, e0, e1, e2, e3, e4, e5⟩ := layout21 word 48 a.toNat b.toNat 5 0 q.toNat (by decide) a.isLt b.isLt (by decide) (by decide) q.isLt (by omega)
  refine ⟨hn, ?_⟩
  rw [decMajor30 word e0, dec30_5 _ e3, e1, e2, e4, e5]
  simp_all [chk]

theorem cpso (a : BitVec 4) (b : BitVec 4) (q : BitVec 1) : Statement (.cpso a b q) := by
  intro word hwf hw
  rw [show encodeNat (.cpso a b q) = some (pack 0xC0006000 [(a.toNat, 22), (b.toNat, 18), (q.toNat, 0)]) from rfl] at hw
  rw [show Instr.wf (.cpso a b q) = (!badReg a.toNat && !badReg b.toNat) from rfl] at hwf
  rw [pack3, Option.some.injEq] at hw
  simp only [Bool.and_eq_true, Bool.not_eq_true'] at hwf
  obtain ⟨hn, e0, e1, e2, e3, e4, e5⟩ := layout21 word 48 a.toNat b.toNat 6 0 q.toNat (by decide) a.isLt b.isLt (by decide) (by decide) q.isLt (by omega)
  refine ⟨hn, ?_⟩
  rw [decMajor30 word e0, dec30_6 _ e3, e1, e2, e4, e5]
  simp_all [chk]

theorem cpf (a : BitVec 4) (b : BitVec 4) (w : BitVec 1) (s : BitVec 1) : Statement (.cpf a b w s) := by
  intro word hwf hw
  rw [show encodeNat (.cpf a b w s) = some (pack 0xC0007000 [(a.toNat, 22), (b.toNat, 18), (w.toNat, 11), (s.toNat, 0)]) from rfl] at hw
  rw [show Instr.wf (.cpf a b w s) = (!badReg a.toNat && !badReg b.toNat) from rfl] at hwf
  rw [pack4, Option.some.injEq] at hw
  simp only [Bool.and_eq_true, Bool.not_eq_true'] at hwf
  obtain ⟨hn, e0, e1, e2, e3, e4, e5, e6⟩ := layout22 word 48 a.toNat b.toNat 7 w.toNat 0 s.toNat (by decide) a.isLt b.isLt (by decide) w.isLt (by decide) s.isLt (by omega)
  refine ⟨hn, ?_⟩
  rw [decMajor30 word e0, dec30_7 _ e3, e1, e2, e4, e5, e6]
  simp_all [chk]

theorem cpz (a : BitVec 4) (w : BitVec 1) : Statement (.cpz a w) := by
  intro word hwf hw
  rw [show encodeNat (.cpz a w) = some (pack 0xC0008000 [(a.toNat, 22), (w.toNat, 11)]) from rfl] at hw
  rw [show Instr.wf (.cpz a w) = (!badReg a.toNat) from rfl] at hwf
  rw [pack2, Option.some.injEq] at hw
  simp only [Bool.and_eq_true, Bool.not_eq_true'] at hwf
  obtain ⟨hn, e0, e1, e2, e3, e4, e5⟩ := layout20 word 48 a.toNat 0 8 w.toNat 0 (by decide) a.isLt (by decide) (by decide) w.isLt (by decide) (by omega)
  refine ⟨hn, ?_⟩
  rw [decMajor30 word e0, dec30_8 _ e3, e1, e2, e4, e5]
  simp_all [chk]

theorem cpc (a : BitVec 4) (w : BitVec 1) : Statement (.cpc a w) := by
  intro word hwf hw
  rw [show encodeNat (.cpc a w) = some (pack 0xC0009000 [(a.toNat, 22), (w.toNat, 11)]) from rfl] at hw
  rw [show Instr.wf (.cpc a w) = (!badReg a.toNat) from rfl] at hwf
  rw [pack2, Option.some.injEq] at hw
  simp only [Bool.and_eq_true, Bool.not_eq_true'] at hwf
  obtain ⟨hn, e0, e1, e2, e3, e4, e5⟩ := layout20 word 48 a.toNat 0 9 w.toNat 0 (by decide) a.isLt (by decide) (by decide) w.isLt (by decide) (by omega)
  refine ⟨hn, ?_⟩
  rw [decMajor30 word e0, dec30_9 _ e3, e1, e2, e4, e5]
  simp_all [chk]

theorem cpset (b : BitVec 4) (r : BitVec 6) : Statement (.cpset b r) := by
  intro word hwf hw
  rw [show encodeNat (.cpset b r) = some (pack 0xC4000000 [(b.toNat, 18), (r.toNat, 12)]) from rfl] at hw
  rw [show Instr.wf (.cpset b r) = (!badReg b.toNat && decide (r.toNat < EngineFile.size .copy)) from rfl] at hwf
  rw [pack2, Option.some.injEq] at hw
  simp only [Bool.and_eq_true, Bool.not_eq_true'] at hwf
  obtain ⟨hn, e0, e1, e2, e3, e4, e5⟩ := layout20 word 49 0 b.toNat r.toNat 0 0 (by decide) (by decide) b.isLt r.isLt (by decide) (by decide) (by omega)
  refine ⟨hn, ?_⟩
  rw [decMajor31 word e0, dec31, e1, e2, e3, e4, e5]
  rw [if_neg (show ¬ 12 ≤ r.toNat from Nat.not_le.mpr (of_decide_eq_true hwf.2))]
  simp_all [chk]

theorem cpget (b : BitVec 4) (r : BitVec 6) : Statement (.cpget b r) := by
  intro word hwf hw
  rw [show encodeNat (.cpget b r) = some (pack 0xC4000800 [(b.toNat, 18), (r.toNat, 12)]) from rfl] at hw
  rw [show Instr.wf (.cpget b r) = (!badReg b.toNat && decide (r.toNat < EngineFile.size .copy)) from rfl] at hwf
  rw [pack2, Option.some.injEq] at hw
  simp only [Bool.and_eq_true, Bool.not_eq_true'] at hwf
  obtain ⟨hn, e0, e1, e2, e3, e4, e5⟩ := layout20 word 49 0 b.toNat r.toNat 1 0 (by decide) (by decide) b.isLt r.isLt (by decide) (by decide) (by omega)
  refine ⟨hn, ?_⟩
  rw [decMajor31 word e0, dec31, e1, e2, e3, e4, e5]
  rw [if_neg (show ¬ 12 ≤ r.toNat from Nat.not_le.mpr (of_decide_eq_true hwf.2))]
  simp_all [chk]

theorem vadd (a : BitVec 4) (b : BitVec 4) (w : BitVec 1) (m : BitVec 1) (k : BitVec 1) : Statement (.vadd a b w m k) := by
  intro word hwf hw
  rw [show encodeNat (.vadd a b w m k) = some (pack 0xC8000000 [(a.toNat, 22), (b.toNat, 18), (w.toNat, 11), (m.toNat, 1), (k.toNat, 0)]) from rfl] at hw
  rw [show Instr.wf (.vadd a b w m k) = (!badReg a.toNat && !badReg b.toNat) from rfl] at hwf
  rw [pack5, Option.some.injEq] at hw
  simp only [Bool.and_eq_true, Bool.not_eq_true'] at hwf
  obtain ⟨hn, e0, e1, e2, e3, e4, e5, e6, e7⟩ := layout23 word 50 a.toNat b.toNat 0 w.toNat 0 m.toNat k.toNat (by decide) a.isLt b.isLt (by decide) w.isLt (by decide) m.isLt k.isLt (by omega)
  refine ⟨hn, ?_⟩
  rw [decMajor32 word e0, dec32_0 _ e3, e1, e2, e4, e5, e6, e7]
  simp_all [chk]

theorem vsub (a : BitVec 4) (b : BitVec 4) (w : BitVec 1) (m : BitVec 1) (k : BitVec 1) : Statement (.vsub a b w m k) := by
  intro word hwf hw
  rw [show encodeNat (.vsub a b w m k) = some (pack 0xC8001000 [(a.toNat, 22), (b.toNat, 18), (w.toNat, 11), (m.toNat, 1), (k.toNat, 0)]) from rfl] at hw
  rw [show Instr.wf (.vsub a b w m k) = (!badReg a.toNat && !badReg b.toNat) from rfl] at hwf
  rw [pack5, Option.some.injEq] at hw
  simp only [Bool.and_eq_true, Bool.not_eq_true'] at hwf
  obtain ⟨hn, e0, e1, e2, e3, e4, e5, e6, e7⟩ := layout23 word 50 a.toNat b.toNat 1 w.toNat 0 m.toNat k.toNat (by decide) a.isLt b.isLt (by decide) w.isLt (by decide) m.isLt k.isLt (by omega)
  refine ⟨hn, ?_⟩
  rw [decMajor32 word e0, dec32_1 _ e3, e1, e2, e4, e5, e6, e7]
  simp_all [chk]

theorem vmul (a : BitVec 4) (b : BitVec 4) (w : BitVec 1) (m : BitVec 1) (k : BitVec 1) : Statement (.vmul a b w m k) := by
  intro word hwf hw
  rw [show encodeNat (.vmul a b w m k) = some (pack 0xC8002000 [(a.toNat, 22), (b.toNat, 18), (w.toNat, 11), (m.toNat, 1), (k.toNat, 0)]) from rfl] at hw
  rw [show Instr.wf (.vmul a b w m k) = (!badReg a.toNat && !badReg b.toNat) from rfl] at hwf
  rw [pack5, Option.some.injEq] at hw
  simp only [Bool.and_eq_true, Bool.not_eq_true'] at hwf
  obtain ⟨hn, e0, e1, e2, e3, e4, e5, e6, e7⟩ := layout23 word 50 a.toNat b.toNat 2 w.toNat 0 m.toNat k.toNat (by decide) a.isLt b.isLt (by decide) w.isLt (by decide) m.isLt k.isLt (by omega)
  refine ⟨hn, ?_⟩
  rw [decMajor32 word e0, dec32_2 _ e3, e1, e2, e4, e5, e6, e7]
  simp_all [chk]

theorem vfma (a : BitVec 4) (b : BitVec 4) (w : BitVec 1) (m : BitVec 1) (k : BitVec 1) : Statement (.vfma a b w m k) := by
  intro word hwf hw
  rw [show encodeNat (.vfma a b w m k) = some (pack 0xC8003000 [(a.toNat, 22), (b.toNat, 18), (w.toNat, 11), (m.toNat, 1), (k.toNat, 0)]) from rfl] at hw
  rw [show Instr.wf (.vfma a b w m k) = (!badReg a.toNat && !badReg b.toNat) from rfl] at hwf
  rw [pack5, Option.some.injEq] at hw
  simp only [Bool.and_eq_true, Bool.not_eq_true'] at hwf
  obtain ⟨hn, e0, e1, e2, e3, e4, e5, e6, e7⟩ := layout23 word 50 a.toNat b.toNat 3 w.toNat 0 m.toNat k.toNat (by decide) a.isLt b.isLt (by decide) w.isLt (by decide) m.isLt k.isLt (by omega)
  refine ⟨hn, ?_⟩
  rw [decMajor32 word e0, dec32_3 _ e3, e1, e2, e4, e5, e6, e7]
  simp_all [chk]

theorem vmin (a : BitVec 4) (b : BitVec 4) (w : BitVec 1) (m : BitVec 1) (k : BitVec 1) : Statement (.vmin a b w m k) := by
  intro word hwf hw
  rw [show encodeNat (.vmin a b w m k) = some (pack 0xC8004000 [(a.toNat, 22), (b.toNat, 18), (w.toNat, 11), (m.toNat, 1), (k.toNat, 0)]) from rfl] at hw
  rw [show Instr.wf (.vmin a b w m k) = (!badReg a.toNat && !badReg b.toNat) from rfl] at hwf
  rw [pack5, Option.some.injEq] at hw
  simp only [Bool.and_eq_true, Bool.not_eq_true'] at hwf
  obtain ⟨hn, e0, e1, e2, e3, e4, e5, e6, e7⟩ := layout23 word 50 a.toNat b.toNat 4 w.toNat 0 m.toNat k.toNat (by decide) a.isLt b.isLt (by decide) w.isLt (by decide) m.isLt k.isLt (by omega)
  refine ⟨hn, ?_⟩
  rw [decMajor32 word e0, dec32_4 _ e3, e1, e2, e4, e5, e6, e7]
  simp_all [chk]

theorem vmax (a : BitVec 4) (b : BitVec 4) (w : BitVec 1) (m : BitVec 1) (k : BitVec 1) : Statement (.vmax a b w m k) := by
  intro word hwf hw
  rw [show encodeNat (.vmax a b w m k) = some (pack 0xC8005000 [(a.toNat, 22), (b.toNat, 18), (w.toNat, 11), (m.toNat, 1), (k.toNat, 0)]) from rfl] at hw
  rw [show Instr.wf (.vmax a b w m k) = (!badReg a.toNat && !badReg b.toNat) from rfl] at hwf
  rw [pack5, Option.some.injEq] at hw
  simp only [Bool.and_eq_true, Bool.not_eq_true'] at hwf
  obtain ⟨hn, e0, e1, e2, e3, e4, e5, e6, e7⟩ := layout23 word 50 a.toNat b.toNat 5 w.toNat 0 m.toNat k.toNat (by decide) a.isLt b.isLt (by decide) w.isLt (by decide) m.isLt k.isLt (by omega)
  refine ⟨hn, ?_⟩
  rw [decMajor32 word e0, dec32_5 _ e3, e1, e2, e4, e5, e6, e7]
  simp_all [chk]

theorem vabs (a : BitVec 4) (b : BitVec 4) (w : BitVec 1) (m : BitVec 1) : Statement (.vabs a b w m) := by
  intro word hwf hw
  rw [show encodeNat (.vabs a b w m) = some (pack 0xC8006000 [(a.toNat, 22), (b.toNat, 18), (w.toNat, 11), (m.toNat, 1)]) from rfl] at hw
  rw [show Instr.wf (.vabs a b w m) = (!badReg a.toNat && !badReg b.toNat) from rfl] at hwf
  rw [pack4, Option.some.injEq] at hw
  simp only [Bool.and_eq_true, Bool.not_eq_true'] at hwf
  obtain ⟨hn, e0, e1, e2, e3, e4, e5, e6, e7⟩ := layout23 word 50 a.toNat b.toNat 6 w.toNat 0 m.toNat 0 (by decide) a.isLt b.isLt (by decide) w.isLt (by decide) m.isLt (by decide) (by omega)
  refine ⟨hn, ?_⟩
  rw [decMajor32 word e0, dec32_6 _ e3, e1, e2, e4, e5, e6, e7]
  simp_all [chk]

theorem vneg (a : BitVec 4) (b : BitVec 4) (w : BitVec 1) (m : BitVec 1) : Statement (.vneg a b w m) := by
  intro word hwf hw
  rw [show encodeNat (.vneg a b w m) = some (pack 0xC8007000 [(a.toNat, 22), (b.toNat, 18), (w.toNat, 11), (m.toNat, 1)]) from rfl] at hw
  rw [show Instr.wf (.vneg a b w m) = (!badReg a.toNat && !badReg b.toNat) from rfl] at hwf
  rw [pack4, Option.some.injEq] at hw
  simp only [Bool.and_eq_true, Bool.not_eq_true'] at hwf
  obtain ⟨hn, e0, e1, e2, e3, e4, e5, e6, e7⟩ := layout23 word 50 a.toNat b.toNat 7 w.toNat 0 m.toNat 0 (by decide) a.isLt b.isLt (by decide) w.isLt (by decide) m.isLt (by decide) (by omega)
  refine ⟨hn, ?_⟩
  rw [decMajor32 word e0, dec32_7 _ e3, e1, e2, e4, e5, e6, e7]
  simp_all [chk]

theorem vsqrt (a : BitVec 4) (b : BitVec 4) (w : BitVec 1) (m : BitVec 1) : Statement (.vsqrt a b w m) := by
  intro word hwf hw
  rw [show encodeNat (.vsqrt a b w m) = some (pack 0xC8008000 [(a.toNat, 22), (b.toNat, 18), (w.toNat, 11), (m.toNat, 1)]) from rfl] at hw
  rw [show Instr.wf (.vsqrt a b w m) = (!badReg a.toNat && !badReg b.toNat) from rfl] at hwf
  rw [pack4, Option.some.injEq] at hw
  simp only [Bool.and_eq_true, Bool.not_eq_true'] at hwf
  obtain ⟨hn, e0, e1, e2, e3, e4, e5, e6, e7⟩ := layout23 word 50 a.toNat b.toNat 8 w.toNat 0 m.toNat 0 (by decide) a.isLt b.isLt (by decide) w.isLt (by decide) m.isLt (by decide) (by omega)
  refine ⟨hn, ?_⟩
  rw [decMajor32 word e0, dec32_8 _ e3, e1, e2, e4, e5, e6, e7]
  simp_all [chk]

theorem vexp2 (a : BitVec 4) (b : BitVec 4) (w : BitVec 1) (m : BitVec 1) : Statement (.vexp2 a b w m) := by
  intro word hwf hw
  rw [show encodeNat (.vexp2 a b w m) = some (pack 0xC8009000 [(a.toNat, 22), (b.toNat, 18), (w.toNat, 11), (m.toNat, 1)]) from rfl] at hw
  rw [show Instr.wf (.vexp2 a b w m) = (!badReg a.toNat && !badReg b.toNat) from rfl] at hwf
  rw [pack4, Option.some.injEq] at hw
  simp only [Bool.and_eq_true, Bool.not_eq_true'] at hwf
  obtain ⟨hn, e0, e1, e2, e3, e4, e5, e6, e7⟩ := layout23 word 50 a.toNat b.toNat 9 w.toNat 0 m.toNat 0 (by decide) a.isLt b.isLt (by decide) w.isLt (by decide) m.isLt (by decide) (by omega)
  refine ⟨hn, ?_⟩
  rw [decMajor32 word e0, dec32_9 _ e3, e1, e2, e4, e5, e6, e7]
  simp_all [chk]

theorem vcmp (a : BitVec 4) (b : BitVec 4) (w : BitVec 1) (c : BitVec 4) (k : BitVec 1) : Statement (.vcmp a b w c k) := by
  intro word hwf hw
  rw [show encodeNat (.vcmp a b w c k) = some (pack 0xC800A000 [(a.toNat, 22), (b.toNat, 18), (w.toNat, 11), (c.toNat, 4), (k.toNat, 0)]) from rfl] at hw
  rw [show Instr.wf (.vcmp a b w c k) = (!badReg a.toNat && !badReg b.toNat && !badCc12 c.toNat) from rfl] at hwf
  rw [pack5, Option.some.injEq] at hw
  simp only [Bool.and_eq_true, Bool.not_eq_true'] at hwf
  obtain ⟨hn, e0, e1, e2, e3, e4, e5, e6, e7, e8⟩ := layout24 word 50 a.toNat b.toNat 10 w.toNat 0 c.toNat 0 k.toNat (by decide) a.isLt b.isLt (by decide) w.isLt (by decide) c.isLt (by decide) k.isLt (by omega)
  refine ⟨hn, ?_⟩
  rw [decMajor32 word e0, dec32_10 _ e3, e1, e2, e4, e5, e6, e7, e8]
  simp_all [chk]

theorem vsel (a : BitVec 4) (b : BitVec 4) (w : BitVec 1) (m : BitVec 1) (k : BitVec 1) : Statement (.vsel a b w m k) := by
  intro word hwf hw
  rw [show encodeNat (.vsel a b w m k) = some (pack 0xC800B000 [(a.toNat, 22), (b.toNat, 18), (w.toNat, 11), (m.toNat, 1), (k.toNat, 0)]) from rfl] at hw
  rw [show Instr.wf (.vsel a b w m k) = (!badReg a.toNat && !badReg b.toNat) from rfl] at hwf
  rw [pack5, Option.some.injEq] at hw
  simp only [Bool.and_eq_true, Bool.not_eq_true'] at hwf
  obtain ⟨hn, e0, e1, e2, e3, e4, e5, e6, e7⟩ := layout23 word 50 a.toNat b.toNat 11 w.toNat 0 m.toNat k.toNat (by decide) a.isLt b.isLt (by decide) w.isLt (by decide) m.isLt k.isLt (by omega)
  refine ⟨hn, ?_⟩
  rw [decMajor32 word e0, dec32_11 _ e3, e1, e2, e4, e5, e6, e7]
  simp_all [chk]

theorem vcvt (a : BitVec 4) (b : BitVec 4) (w : BitVec 1) (f : BitVec 4) (m : BitVec 1) : Statement (.vcvt a b w f m) := by
  intro word hwf hw
  rw [show encodeNat (.vcvt a b w f m) = some (pack 0xC800C000 [(a.toNat, 22), (b.toNat, 18), (w.toNat, 11), (f.toNat, 4), (m.toNat, 1)]) from rfl] at hw
  rw [show Instr.wf (.vcvt a b w f m) = (!badReg a.toNat && !badReg b.toNat) from rfl] at hwf
  rw [pack5, Option.some.injEq] at hw
  simp only [Bool.and_eq_true, Bool.not_eq_true'] at hwf
  obtain ⟨hn, e0, e1, e2, e3, e4, e5, e6, e7, e8, e9⟩ := layout25 word 50 a.toNat b.toNat 12 w.toNat 0 f.toNat 0 m.toNat 0 (by decide) a.isLt b.isLt (by decide) w.isLt (by decide) f.isLt (by decide) m.isLt (by decide) (by omega)
  refine ⟨hn, ?_⟩
  rw [decMajor32 word e0, dec32_12 _ e3, e1, e2, e4, e5, e6, e7, e8, e9]
  simp_all [chk]

theorem vred (a : BitVec 4) (b : BitVec 4) (w : BitVec 1) : Statement (.vred a b w) := by
  intro word hwf hw
  rw [show encodeNat (.vred a b w) = some (pack 0xC800D000 [(a.toNat, 22), (b.toNat, 18), (w.toNat, 11)]) from rfl] at hw
  rw [show Instr.wf (.vred a b w) = (!badReg a.toNat && !badReg b.toNat) from rfl] at hwf
  rw [pack3, Option.some.injEq] at hw
  simp only [Bool.and_eq_true, Bool.not_eq_true'] at hwf
  obtain ⟨hn, e0, e1, e2, e3, e4, e5⟩ := layout20 word 50 a.toNat b.toNat 13 w.toNat 0 (by decide) a.isLt b.isLt (by decide) w.isLt (by decide) (by omega)
  refine ⟨hn, ?_⟩
  rw [decMajor32 word e0, dec32_13 _ e3, e1, e2, e4, e5]
  simp_all [chk]

theorem vdot (a : BitVec 4) (b : BitVec 4) (w : BitVec 1) (k : BitVec 1) : Statement (.vdot a b w k) := by
  intro word hwf hw
  rw [show encodeNat (.vdot a b w k) = some (pack 0xC800E000 [(a.toNat, 22), (b.toNat, 18), (w.toNat, 11), (k.toNat, 0)]) from rfl] at hw
  rw [show Instr.wf (.vdot a b w k) = (!badReg a.toNat && !badReg b.toNat) from rfl] at hwf
  rw [pack4, Option.some.injEq] at hw
  simp only [Bool.and_eq_true, Bool.not_eq_true'] at hwf
  obtain ⟨hn, e0, e1, e2, e3, e4, e5, e6⟩ := layout22 word 50 a.toNat b.toNat 14 w.toNat 0 k.toNat (by decide) a.isLt b.isLt (by decide) w.isLt (by decide) k.isLt (by omega)
  refine ⟨hn, ?_⟩
  rw [decMajor32 word e0, dec32_14 _ e3, e1, e2, e4, e5, e6]
  simp_all [chk]

theorem vgat (a : BitVec 4) (b : BitVec 4) (w : BitVec 1) (m : BitVec 1) : Statement (.vgat a b w m) := by
  intro word hwf hw
  rw [show encodeNat (.vgat a b w m) = some (pack 0xC800F000 [(a.toNat, 22), (b.toNat, 18), (w.toNat, 11), (m.toNat, 1)]) from rfl] at hw
  rw [show Instr.wf (.vgat a b w m) = (!badReg a.toNat && !badReg b.toNat) from rfl] at hwf
  rw [pack4, Option.some.injEq] at hw
  simp only [Bool.and_eq_true, Bool.not_eq_true'] at hwf
  obtain ⟨hn, e0, e1, e2, e3, e4, e5, e6, e7⟩ := layout23 word 50 a.toNat b.toNat 15 w.toNat 0 m.toNat 0 (by decide) a.isLt b.isLt (by decide) w.isLt (by decide) m.isLt (by decide) (by omega)
  refine ⟨hn, ?_⟩
  rw [decMajor32 word e0, dec32_15 _ e3, e1, e2, e4, e5, e6, e7]
  simp_all [chk]

theorem vsca (a : BitVec 4) (b : BitVec 4) (w : BitVec 1) (m : BitVec 1) : Statement (.vsca a b w m) := by
  intro word hwf hw
  rw [show encodeNat (.vsca a b w m) = some (pack 0xC8010000 [(a.toNat, 22), (b.toNat, 18), (w.toNat, 11), (m.toNat, 1)]) from rfl] at hw
  rw [show Instr.wf (.vsca a b w m) = (!badReg a.toNat && !badReg b.toNat) from rfl] at hwf
  rw [pack4, Option.some.injEq] at hw
  simp only [Bool.and_eq_true, Bool.not_eq_true'] at hwf
  obtain ⟨hn, e0, e1, e2, e3, e4, e5, e6, e7⟩ := layout23 word 50 a.toNat b.toNat 16 w.toNat 0 m.toNat 0 (by decide) a.isLt b.isLt (by decide) w.isLt (by decide) m.isLt (by decide) (by omega)
  refine ⟨hn, ?_⟩
  rw [decMajor32 word e0, dec32_16 _ e3, e1, e2, e4, e5, e6, e7]
  simp_all [chk]

theorem vscadd (a : BitVec 4) (b : BitVec 4) (w : BitVec 1) (m : BitVec 1) : Statement (.vscadd a b w m) := by
  intro word hwf hw
  rw [show encodeNat (.vscadd a b w m) = some (pack 0xC8011000 [(a.toNat, 22), (b.toNat, 18), (w.toNat, 11), (m.toNat, 1)]) from rfl] at hw
  rw [show Instr.wf (.vscadd a b w m) = (!badReg a.toNat && !badReg b.toNat) from rfl] at hwf
  rw [pack4, Option.some.injEq] at hw
  simp only [Bool.and_eq_true, Bool.not_eq_true'] at hwf
  obtain ⟨hn, e0, e1, e2, e3, e4, e5, e6, e7⟩ := layout23 word 50 a.toNat b.toNat 17 w.toNat 0 m.toNat 0 (by decide) a.isLt b.isLt (by decide) w.isLt (by decide) m.isLt (by decide) (by omega)
  refine ⟨hn, ?_⟩
  rw [decMajor32 word e0, dec32_17 _ e3, e1, e2, e4, e5, e6, e7]
  simp_all [chk]

theorem vrot (a : BitVec 4) (b : BitVec 4) (w : BitVec 1) (r : BitVec 2) : Statement (.vrot a b w r) := by
  intro word hwf hw
  rw [show encodeNat (.vrot a b w r) = some (pack 0xC8012000 [(a.toNat, 22), (b.toNat, 18), (w.toNat, 11), (r.toNat, 4)]) from rfl] at hw
  rw [show Instr.wf (.vrot a b w r) = (!badReg a.toNat && !badReg b.toNat && !isThree r.toNat) from rfl] at hwf
  rw [pack4, Option.some.injEq] at hw
  simp only [Bool.and_eq_true, Bool.not_eq_true'] at hwf
  obtain ⟨hn, e0, e1, e2, e3, e4, e5, e6, e7⟩ := layout26 word 50 a.toNat b.toNat 18 w.toNat 0 r.toNat 0 (by decide) a.isLt b.isLt (by decide) w.isLt (by decide) r.isLt (by decide) (by omega)
  refine ⟨hn, ?_⟩
  rw [decMajor32 word e0, dec32_18 _ e3, e1, e2, e4, e5, e6, e7]
  simp_all [chk]

theorem vquant (a : BitVec 4) (b : BitVec 4) (w : BitVec 1) : Statement (.vquant a b w) := by
  intro word hwf hw
  rw [show encodeNat (.vquant a b w) = some (pack 0xC8013000 [(a.toNat, 22), (b.toNat, 18), (w.toNat, 11)]) from rfl] at hw
  rw [show Instr.wf (.vquant a b w) = (!badReg a.toNat && !badReg b.toNat) from rfl] at hwf
  rw [pack3, Option.some.injEq] at hw
  simp only [Bool.and_eq_true, Bool.not_eq_true'] at hwf
  obtain ⟨hn, e0, e1, e2, e3, e4, e5⟩ := layout20 word 50 a.toNat b.toNat 19 w.toNat 0 (by decide) a.isLt b.isLt (by decide) w.isLt (by decide) (by omega)
  refine ⟨hn, ?_⟩
  rw [decMajor32 word e0, dec32_19 _ e3, e1, e2, e4, e5]
  simp_all [chk]

theorem vdeq (a : BitVec 4) (b : BitVec 4) (w : BitVec 1) : Statement (.vdeq a b w) := by
  intro word hwf hw
  rw [show encodeNat (.vdeq a b w) = some (pack 0xC8014000 [(a.toNat, 22), (b.toNat, 18), (w.toNat, 11)]) from rfl] at hw
  rw [show Instr.wf (.vdeq a b w) = (!badReg a.toNat && !badReg b.toNat) from rfl] at hwf
  rw [pack3, Option.some.injEq] at hw
  simp only [Bool.and_eq_true, Bool.not_eq_true'] at hwf
  obtain ⟨hn, e0, e1, e2, e3, e4, e5⟩ := layout20 word 50 a.toNat b.toNat 20 w.toNat 0 (by decide) a.isLt b.isLt (by decide) w.isLt (by decide) (by omega)
  refine ⟨hn, ?_⟩
  rw [decMajor32 word e0, dec32_20 _ e3, e1, e2, e4, e5]
  simp_all [chk]

theorem vtab (b : BitVec 4) (w : BitVec 1) (t : BitVec 1) : Statement (.vtab b w t) := by
  intro word hwf hw
  rw [show encodeNat (.vtab b w t) = some (pack 0xC8015000 [(b.toNat, 18), (w.toNat, 11), (t.toNat, 4)]) from rfl] at hw
  rw [show Instr.wf (.vtab b w t) = (!badReg b.toNat) from rfl] at hwf
  rw [pack3, Option.some.injEq] at hw
  simp only [Bool.and_eq_true, Bool.not_eq_true'] at hwf
  obtain ⟨hn, e0, e1, e2, e3, e4, e5, e6, e7⟩ := layout27 word 50 0 b.toNat 21 w.toNat 0 t.toNat 0 (by decide) (by decide) b.isLt (by decide) w.isLt (by decide) t.isLt (by decide) (by omega)
  refine ⟨hn, ?_⟩
  rw [decMajor32 word e0, dec32_21 _ e3, e1, e2, e4, e5, e6, e7]
  simp_all [chk]

theorem vfix (a : BitVec 4) (b : BitVec 4) (w : BitVec 1) (m : BitVec 1) : Statement (.vfix a b w m) := by
  intro word hwf hw
  rw [show encodeNat (.vfix a b w m) = some (pack 0xC8016000 [(a.toNat, 22), (b.toNat, 18), (w.toNat, 11), (m.toNat, 1)]) from rfl] at hw
  rw [show Instr.wf (.vfix a b w m) = (!badReg a.toNat && !badReg b.toNat) from rfl] at hwf
  rw [pack4, Option.some.injEq] at hw
  simp only [Bool.and_eq_true, Bool.not_eq_true'] at hwf
  obtain ⟨hn, e0, e1, e2, e3, e4, e5, e6, e7⟩ := layout23 word 50 a.toNat b.toNat 22 w.toNat 0 m.toNat 0 (by decide) a.isLt b.isLt (by decide) w.isLt (by decide) m.isLt (by decide) (by omega)
  refine ⟨hn, ?_⟩
  rw [decMajor32 word e0, dec32_22 _ e3, e1, e2, e4, e5, e6, e7]
  simp_all [chk]

theorem vflt (a : BitVec 4) (b : BitVec 4) (w : BitVec 1) (m : BitVec 1) : Statement (.vflt a b w m) := by
  intro word hwf hw
  rw [show encodeNat (.vflt a b w m) = some (pack 0xC8017000 [(a.toNat, 22), (b.toNat, 18), (w.toNat, 11), (m.toNat, 1)]) from rfl] at hw
  rw [show Instr.wf (.vflt a b w m) = (!badReg a.toNat && !badReg b.toNat) from rfl] at hwf
  rw [pack4, Option.some.injEq] at hw
  simp only [Bool.and_eq_true, Bool.not_eq_true'] at hwf
  obtain ⟨hn, e0, e1, e2, e3, e4, e5, e6, e7⟩ := layout23 word 50 a.toNat b.toNat 23 w.toNat 0 m.toNat 0 (by decide) a.isLt b.isLt (by decide) w.isLt (by decide) m.isLt (by decide) (by omega)
  refine ⟨hn, ?_⟩
  rw [decMajor32 word e0, dec32_23 _ e3, e1, e2, e4, e5, e6, e7]
  simp_all [chk]

theorem vset (b : BitVec 4) (r : BitVec 6) : Statement (.vset b r) := by
  intro word hwf hw
  rw [show encodeNat (.vset b r) = some (pack 0xCC000000 [(b.toNat, 18), (r.toNat, 12)]) from rfl] at hw
  rw [show Instr.wf (.vset b r) = (!badReg b.toNat && decide (r.toNat < EngineFile.size .vector)) from rfl] at hwf
  rw [pack2, Option.some.injEq] at hw
  simp only [Bool.and_eq_true, Bool.not_eq_true'] at hwf
  obtain ⟨hn, e0, e1, e2, e3, e4, e5⟩ := layout20 word 51 0 b.toNat r.toNat 0 0 (by decide) (by decide) b.isLt r.isLt (by decide) (by decide) (by omega)
  refine ⟨hn, ?_⟩
  rw [decMajor33 word e0, dec33, e1, e2, e3, e4, e5]
  rw [if_neg (show ¬ 13 ≤ r.toNat from Nat.not_le.mpr (of_decide_eq_true hwf.2))]
  simp_all [chk]

theorem vget (b : BitVec 4) (r : BitVec 6) : Statement (.vget b r) := by
  intro word hwf hw
  rw [show encodeNat (.vget b r) = some (pack 0xCC000800 [(b.toNat, 18), (r.toNat, 12)]) from rfl] at hw
  rw [show Instr.wf (.vget b r) = (!badReg b.toNat && decide (r.toNat < EngineFile.size .vector)) from rfl] at hwf
  rw [pack2, Option.some.injEq] at hw
  simp only [Bool.and_eq_true, Bool.not_eq_true'] at hwf
  obtain ⟨hn, e0, e1, e2, e3, e4, e5⟩ := layout20 word 51 0 b.toNat r.toNat 1 0 (by decide) (by decide) b.isLt r.isLt (by decide) (by decide) (by omega)
  refine ⟨hn, ?_⟩
  rw [decMajor33 word e0, dec33, e1, e2, e3, e4, e5]
  rw [if_neg (show ¬ 13 ≤ r.toNat from Nat.not_le.mpr (of_decide_eq_true hwf.2))]
  simp_all [chk]

theorem mldb (a : BitVec 4) (b : BitVec 4) (w : BitVec 1) : Statement (.mldb a b w) := by
  intro word hwf hw
  rw [show encodeNat (.mldb a b w) = some (pack 0xD0000000 [(a.toNat, 22), (b.toNat, 18), (w.toNat, 11)]) from rfl] at hw
  rw [show Instr.wf (.mldb a b w) = (!badReg a.toNat && !badReg b.toNat) from rfl] at hwf
  rw [pack3, Option.some.injEq] at hw
  simp only [Bool.and_eq_true, Bool.not_eq_true'] at hwf
  obtain ⟨hn, e0, e1, e2, e3, e4, e5⟩ := layout20 word 52 a.toNat b.toNat 0 w.toNat 0 (by decide) a.isLt b.isLt (by decide) w.isLt (by decide) (by omega)
  refine ⟨hn, ?_⟩
  rw [decMajor34 word e0, dec34_0 _ e3, e1, e2, e4, e5]
  simp_all [chk]

theorem mmac (a : BitVec 4) (b : BitVec 4) (w : BitVec 1) : Statement (.mmac a b w) := by
  intro word hwf hw
  rw [show encodeNat (.mmac a b w) = some (pack 0xD0001000 [(a.toNat, 22), (b.toNat, 18), (w.toNat, 11)]) from rfl] at hw
  rw [show Instr.wf (.mmac a b w) = (!badReg a.toNat && !badReg b.toNat) from rfl] at hwf
  rw [pack3, Option.some.injEq] at hw
  simp only [Bool.and_eq_true, Bool.not_eq_true'] at hwf
  obtain ⟨hn, e0, e1, e2, e3, e4, e5⟩ := layout20 word 52 a.toNat b.toNat 1 w.toNat 0 (by decide) a.isLt b.isLt (by decide) w.isLt (by decide) (by omega)
  refine ⟨hn, ?_⟩
  rw [decMajor34 word e0, dec34_1 _ e3, e1, e2, e4, e5]
  simp_all [chk]

theorem mpass (w : BitVec 1) : Statement (.mpass w) := by
  intro word hwf hw
  rw [show encodeNat (.mpass w) = some (pack 0xD0002000 [(w.toNat, 11)]) from rfl] at hw
  rw [show Instr.wf (.mpass w) = (true) from rfl] at hwf
  rw [pack1, Option.some.injEq] at hw
  simp only [Bool.and_eq_true, Bool.not_eq_true'] at hwf
  obtain ⟨hn, e0, e1, e2, e3, e4⟩ := layout28 word 52 0 2 w.toNat 0 (by decide) (by decide) (by decide) w.isLt (by decide) (by omega)
  refine ⟨hn, ?_⟩
  rw [decMajor34 word e0, dec34_2 _ e2, e1, e3, e4]
  simp_all [chk]

theorem mzero (a : BitVec 4) (w : BitVec 1) : Statement (.mzero a w) := by
  intro word hwf hw
  rw [show encodeNat (.mzero a w) = some (pack 0xD0003000 [(a.toNat, 22), (w.toNat, 11)]) from rfl] at hw
  rw [show Instr.wf (.mzero a w) = (!badReg a.toNat) from rfl] at hwf
  rw [pack2, Option.some.injEq] at hw
  simp only [Bool.and_eq_true, Bool.not_eq_true'] at hwf
  obtain ⟨hn, e0, e1, e2, e3, e4, e5⟩ := layout20 word 52 a.toNat 0 3 w.toNat 0 (by decide) a.isLt (by decide) (by decide) w.isLt (by decide) (by omega)
  refine ⟨hn, ?_⟩
  rw [decMajor34 word e0, dec34_3 _ e3, e1, e2, e4, e5]
  simp_all [chk]

theorem mdrain (a : BitVec 4) (b : BitVec 4) (w : BitVec 1) (c : BitVec 1) (f : BitVec 2) : Statement (.mdrain a b w c f) := by
  intro word hwf hw
  rw [show encodeNat (.mdrain a b w c f) = some (pack 0xD0004000 [(a.toNat, 22), (b.toNat, 18), (w.toNat, 11), (c.toNat, 6), (f.toNat, 4)]) from rfl] at hw
  rw [show Instr.wf (.mdrain a b w c f) = (!badReg a.toNat && !badReg b.toNat && !isThree f.toNat) from rfl] at hwf
  rw [pack5, Option.some.injEq] at hw
  simp only [Bool.and_eq_true, Bool.not_eq_true'] at hwf
  obtain ⟨hn, e0, e1, e2, e3, e4, e5, e6, e7, e8⟩ := layout29 word 52 a.toNat b.toNat 4 w.toNat 0 c.toNat f.toNat 0 (by decide) a.isLt b.isLt (by decide) w.isLt (by decide) c.isLt f.isLt (by decide) (by omega)
  refine ⟨hn, ?_⟩
  rw [decMajor34 word e0, dec34_4 _ e3, e1, e2, e4, e5, e6, e7, e8]
  simp_all [chk]

theorem mdrainx (a : BitVec 4) (w : BitVec 1) (c : BitVec 1) : Statement (.mdrainx a w c) := by
  intro word hwf hw
  rw [show encodeNat (.mdrainx a w c) = some (pack 0xD0005000 [(a.toNat, 22), (w.toNat, 11), (c.toNat, 6)]) from rfl] at hw
  rw [show Instr.wf (.mdrainx a w c) = (!badReg a.toNat) from rfl] at hwf
  rw [pack3, Option.some.injEq] at hw
  simp only [Bool.and_eq_true, Bool.not_eq_true'] at hwf
  obtain ⟨hn, e0, e1, e2, e3, e4, e5, e6, e7⟩ := layout30 word 52 a.toNat 0 5 w.toNat 0 c.toNat 0 (by decide) a.isLt (by decide) (by decide) w.isLt (by decide) c.isLt (by decide) (by omega)
  refine ⟨hn, ?_⟩
  rw [decMajor34 word e0, dec34_5 _ e3, e1, e2, e4, e5, e6, e7]
  simp_all [chk]

theorem maddx (a : BitVec 4) (w : BitVec 1) : Statement (.maddx a w) := by
  intro word hwf hw
  rw [show encodeNat (.maddx a w) = some (pack 0xD0006000 [(a.toNat, 22), (w.toNat, 11)]) from rfl] at hw
  rw [show Instr.wf (.maddx a w) = (!badReg a.toNat) from rfl] at hwf
  rw [pack2, Option.some.injEq] at hw
  simp only [Bool.and_eq_true, Bool.not_eq_true'] at hwf
  obtain ⟨hn, e0, e1, e2, e3, e4, e5⟩ := layout20 word 52 a.toNat 0 6 w.toNat 0 (by decide) a.isLt (by decide) (by decide) w.isLt (by decide) (by omega)
  refine ⟨hn, ?_⟩
  rw [decMajor34 word e0, dec34_6 _ e3, e1, e2, e4, e5]
  simp_all [chk]

theorem mset (b : BitVec 4) (r : BitVec 6) : Statement (.mset b r) := by
  intro word hwf hw
  rw [show encodeNat (.mset b r) = some (pack 0xD4000000 [(b.toNat, 18), (r.toNat, 12)]) from rfl] at hw
  rw [show Instr.wf (.mset b r) = (!badReg b.toNat && decide (r.toNat < EngineFile.size .matrix)) from rfl] at hwf
  rw [pack2, Option.some.injEq] at hw
  simp only [Bool.and_eq_true, Bool.not_eq_true'] at hwf
  obtain ⟨hn, e0, e1, e2, e3, e4, e5⟩ := layout20 word 53 0 b.toNat r.toNat 0 0 (by decide) (by decide) b.isLt r.isLt (by decide) (by decide) (by omega)
  refine ⟨hn, ?_⟩
  rw [decMajor35 word e0, dec35, e1, e2, e3, e4, e5]
  rw [if_neg (show ¬ 8 ≤ r.toNat from Nat.not_le.mpr (of_decide_eq_true hwf.2))]
  simp_all [chk]

theorem mget (b : BitVec 4) (r : BitVec 6) : Statement (.mget b r) := by
  intro word hwf hw
  rw [show encodeNat (.mget b r) = some (pack 0xD4000800 [(b.toNat, 18), (r.toNat, 12)]) from rfl] at hw
  rw [show Instr.wf (.mget b r) = (!badReg b.toNat && decide (r.toNat < EngineFile.size .matrix)) from rfl] at hwf
  rw [pack2, Option.some.injEq] at hw
  simp only [Bool.and_eq_true, Bool.not_eq_true'] at hwf
  obtain ⟨hn, e0, e1, e2, e3, e4, e5⟩ := layout20 word 53 0 b.toNat r.toNat 1 0 (by decide) (by decide) b.isLt r.isLt (by decide) (by decide) (by omega)
  refine ⟨hn, ?_⟩
  rw [decMajor35 word e0, dec35, e1, e2, e3, e4, e5]
  rw [if_neg (show ¬ 8 ≤ r.toNat from Nat.not_le.mpr (of_decide_eq_true hwf.2))]
  simp_all [chk]

theorem pool (a : BitVec 4) (b : BitVec 4) (w : BitVec 1) : Statement (.pool a b w) := by
  intro word hwf hw
  rw [show encodeNat (.pool a b w) = some (pack 0xD8000000 [(a.toNat, 22), (b.toNat, 18), (w.toNat, 11)]) from rfl] at hw
  rw [show Instr.wf (.pool a b w) = (!badReg a.toNat && !badReg b.toNat) from rfl] at hwf
  rw [pack3, Option.some.injEq] at hw
  simp only [Bool.and_eq_true, Bool.not_eq_true'] at hwf
  obtain ⟨hn, e0, e1, e2, e3, e4, e5⟩ := layout20 word 54 a.toNat b.toNat 0 w.toNat 0 (by decide) a.isLt b.isLt (by decide) w.isLt (by decide) (by omega)
  refine ⟨hn, ?_⟩
  rw [decMajor36 word e0, dec36_0 _ e3, e1, e2, e4, e5]
  simp_all [chk]

theorem poset (b : BitVec 4) (r : BitVec 6) : Statement (.poset b r) := by
  intro word hwf hw
  rw [show encodeNat (.poset b r) = some (pack 0xDC000000 [(b.toNat, 18), (r.toNat, 12)]) from rfl] at hw
  rw [show Instr.wf (.poset b r) = (!badReg b.toNat && decide (r.toNat < EngineFile.size .pool)) from rfl] at hwf
  rw [pack2, Option.some.injEq] at hw
  simp only [Bool.and_eq_true, Bool.not_eq_true'] at hwf
  obtain ⟨hn, e0, e1, e2, e3, e4, e5⟩ := layout20 word 55 0 b.toNat r.toNat 0 0 (by decide) (by decide) b.isLt r.isLt (by decide) (by decide) (by omega)
  refine ⟨hn, ?_⟩
  rw [decMajor37 word e0, dec37, e1, e2, e3, e4, e5]
  rw [if_neg (show ¬ 8 ≤ r.toNat from Nat.not_le.mpr (of_decide_eq_true hwf.2))]
  simp_all [chk]

theorem poget (b : BitVec 4) (r : BitVec 6) : Statement (.poget b r) := by
  intro word hwf hw
  rw [show encodeNat (.poget b r) = some (pack 0xDC000800 [(b.toNat, 18), (r.toNat, 12)]) from rfl] at hw
  rw [show Instr.wf (.poget b r) = (!badReg b.toNat && decide (r.toNat < EngineFile.size .pool)) from rfl] at hwf
  rw [pack2, Option.some.injEq] at hw
  simp only [Bool.and_eq_true, Bool.not_eq_true'] at hwf
  obtain ⟨hn, e0, e1, e2, e3, e4, e5⟩ := layout20 word 55 0 b.toNat r.toNat 1 0 (by decide) (by decide) b.isLt r.isLt (by decide) (by decide) (by omega)
  refine ⟨hn, ?_⟩
  rw [decMajor37 word e0, dec37, e1, e2, e3, e4, e5]
  rw [if_neg (show ¬ 8 ≤ r.toNat from Nat.not_le.mpr (of_decide_eq_true hwf.2))]
  simp_all [chk]

theorem binapp (a : BitVec 4) (b : BitVec 4) (w : BitVec 1) : Statement (.binapp a b w) := by
  intro word hwf hw
  rw [show encodeNat (.binapp a b w) = some (pack 0xE0000000 [(a.toNat, 22), (b.toNat, 18), (w.toNat, 11)]) from rfl] at hw
  rw [show Instr.wf (.binapp a b w) = (!badReg a.toNat && !badReg b.toNat) from rfl] at hwf
  rw [pack3, Option.some.injEq] at hw
  simp only [Bool.and_eq_true, Bool.not_eq_true'] at hwf
  obtain ⟨hn, e0, e1, e2, e3, e4, e5⟩ := layout20 word 56 a.toNat b.toNat 0 w.toNat 0 (by decide) a.isLt b.isLt (by decide) w.isLt (by decide) (by omega)
  refine ⟨hn, ?_⟩
  rw [decMajor38 word e0, dec38_0 _ e3, e1, e2, e4, e5]
  simp_all [chk]

theorem binplayFp32 (a : BitVec 4) (b : BitVec 4) (w : BitVec 1) : Statement (.binplayFp32 a b w) := by
  intro word hwf hw
  rw [show encodeNat (.binplayFp32 a b w) = some (pack 0xE0001000 [(a.toNat, 22), (b.toNat, 18), (w.toNat, 11)]) from rfl] at hw
  rw [show Instr.wf (.binplayFp32 a b w) = (!badReg a.toNat && !badReg b.toNat) from rfl] at hwf
  rw [pack3, Option.some.injEq] at hw
  simp only [Bool.and_eq_true, Bool.not_eq_true'] at hwf
  obtain ⟨hn, e0, e1, e2, e3, e4, e5⟩ := layout20 word 56 a.toNat b.toNat 1 w.toNat 0 (by decide) a.isLt b.isLt (by decide) w.isLt (by decide) (by omega)
  refine ⟨hn, ?_⟩
  rw [decMajor38 word e0, dec38_1 _ e3, e1, e2, e4, e5]
  simp_all [chk]

theorem binflush (w : BitVec 1) : Statement (.binflush w) := by
  intro word hwf hw
  rw [show encodeNat (.binflush w) = some (pack 0xE0002000 [(w.toNat, 11)]) from rfl] at hw
  rw [show Instr.wf (.binflush w) = (true) from rfl] at hwf
  rw [pack1, Option.some.injEq] at hw
  simp only [Bool.and_eq_true, Bool.not_eq_true'] at hwf
  obtain ⟨hn, e0, e1, e2, e3, e4⟩ := layout28 word 56 0 2 w.toNat 0 (by decide) (by decide) (by decide) w.isLt (by decide) (by omega)
  refine ⟨hn, ?_⟩
  rw [decMajor38 word e0, dec38_2 _ e2, e1, e3, e4]
  simp_all [chk]

theorem bnset (b : BitVec 4) (r : BitVec 6) : Statement (.bnset b r) := by
  intro word hwf hw
  rw [show encodeNat (.bnset b r) = some (pack 0xE4000000 [(b.toNat, 18), (r.toNat, 12)]) from rfl] at hw
  rw [show Instr.wf (.bnset b r) = (!badReg b.toNat && decide (r.toNat < EngineFile.size .bin)) from rfl] at hwf
  rw [pack2, Option.some.injEq] at hw
  simp only [Bool.and_eq_true, Bool.not_eq_true'] at hwf
  obtain ⟨hn, e0, e1, e2, e3, e4, e5⟩ := layout20 word 57 0 b.toNat r.toNat 0 0 (by decide) (by decide) b.isLt r.isLt (by decide) (by decide) (by omega)
  refine ⟨hn, ?_⟩
  rw [decMajor39 word e0, dec39, e1, e2, e3, e4, e5]
  rw [if_neg (show ¬ 7 ≤ r.toNat from Nat.not_le.mpr (of_decide_eq_true hwf.2))]
  simp_all [chk]

theorem bnget (b : BitVec 4) (r : BitVec 6) : Statement (.bnget b r) := by
  intro word hwf hw
  rw [show encodeNat (.bnget b r) = some (pack 0xE4000800 [(b.toNat, 18), (r.toNat, 12)]) from rfl] at hw
  rw [show Instr.wf (.bnget b r) = (!badReg b.toNat && decide (r.toNat < EngineFile.size .bin)) from rfl] at hwf
  rw [pack2, Option.some.injEq] at hw
  simp only [Bool.and_eq_true, Bool.not_eq_true'] at hwf
  obtain ⟨hn, e0, e1, e2, e3, e4, e5⟩ := layout20 word 57 0 b.toNat r.toNat 1 0 (by decide) (by decide) b.isLt r.isLt (by decide) (by decide) (by omega)
  refine ⟨hn, ?_⟩
  rw [decMajor39 word e0, dec39, e1, e2, e3, e4, e5]
  rw [if_neg (show ¬ 7 ≤ r.toNat from Nat.not_le.mpr (of_decide_eq_true hwf.2))]
  simp_all [chk]

theorem fenceQ : Statement (.fenceQ) := by
  intro word hwf hw
  rw [show encodeNat (.fenceQ) = some (pack 0x70000000 []) from rfl] at hw
  rw [show Instr.wf (.fenceQ) = (true) from rfl] at hwf
  rw [pack0, Option.some.injEq] at hw
  simp only [Bool.and_eq_true, Bool.not_eq_true'] at hwf
  obtain ⟨hn, e0, e1, e2⟩ := layout19 word 28 0 0 (by decide) (by decide) (by decide) (by omega)
  refine ⟨hn, ?_⟩
  rw [decMajor1C word e0, dec1C_0 _ e1, e2]
  simp_all [chk]

theorem fenceE : Statement (.fenceE) := by
  intro word hwf hw
  rw [show encodeNat (.fenceE) = some (pack 0x70010000 []) from rfl] at hw
  rw [show Instr.wf (.fenceE) = (true) from rfl] at hwf
  rw [pack0, Option.some.injEq] at hw
  simp only [Bool.and_eq_true, Bool.not_eq_true'] at hwf
  obtain ⟨hn, e0, e1, e2⟩ := layout19 word 28 1 0 (by decide) (by decide) (by decide) (by omega)
  refine ⟨hn, ?_⟩
  rw [decMajor1C word e0, dec1C_1 _ e1, e2]
  simp_all [chk]

theorem fenceA : Statement (.fenceA) := by
  intro word hwf hw
  rw [show encodeNat (.fenceA) = some (pack 0x70020000 []) from rfl] at hw
  rw [show Instr.wf (.fenceA) = (true) from rfl] at hwf
  rw [pack0, Option.some.injEq] at hw
  simp only [Bool.and_eq_true, Bool.not_eq_true'] at hwf
  obtain ⟨hn, e0, e1, e2⟩ := layout19 word 28 2 0 (by decide) (by decide) (by decide) (by omega)
  refine ⟨hn, ?_⟩
  rw [decMajor1C word e0, dec1C_2 _ e1, e2]
  simp_all [chk]

theorem back : Statement (.back) := by
  intro word hwf hw
  rw [show encodeNat (.back) = some (pack 0x88000080 []) from rfl] at hw
  rw [show Instr.wf (.back) = (true) from rfl] at hwf
  rw [pack0, Option.some.injEq] at hw
  simp only [Bool.and_eq_true, Bool.not_eq_true'] at hwf
  obtain ⟨hn, e0, e1, e2, e3⟩ := layout31 word 34 0 2 0 (by decide) (by decide) (by decide) (by decide) (by omega)
  refine ⟨hn, ?_⟩
  rw [decMajor22 word e0, dec22_2 _ e2, e1, e3]
  simp_all [chk]

theorem part : Statement (.part) := by
  intro word hwf hw
  rw [show encodeNat (.part) = some (pack 0x8C000080 []) from rfl] at hw
  rw [show Instr.wf (.part) = (true) from rfl] at hwf
  rw [pack0, Option.some.injEq] at hw
  simp only [Bool.and_eq_true, Bool.not_eq_true'] at hwf
  obtain ⟨hn, e0, e1, e2, e3⟩ := layout31 word 35 0 2 0 (by decide) (by decide) (by decide) (by decide) (by omega)
  refine ⟨hn, ?_⟩
  rw [decMajor23 word e0, dec23_2 _ e2, e1, e3]
  simp_all [chk]

theorem quit : Statement (.quit) := by
  intro word hwf hw
  rw [show encodeNat (.quit) = some (pack 0x90000040 []) from rfl] at hw
  rw [show Instr.wf (.quit) = (true) from rfl] at hwf
  rw [pack0, Option.some.injEq] at hw
  simp only [Bool.and_eq_true, Bool.not_eq_true'] at hwf
  obtain ⟨hn, e0, e1, e2, e3⟩ := layout31 word 36 0 1 0 (by decide) (by decide) (by decide) (by decide) (by omega)
  refine ⟨hn, ?_⟩
  rw [decMajor24 word e0, dec24_1 _ e2, e1, e3]
  simp_all [chk]

theorem yield : Statement (.yield) := by
  intro word hwf hw
  rw [show encodeNat (.yield) = some (pack 0x90000080 []) from rfl] at hw
  rw [show Instr.wf (.yield) = (true) from rfl] at hwf
  rw [pack0, Option.some.injEq] at hw
  simp only [Bool.and_eq_true, Bool.not_eq_true'] at hwf
  obtain ⟨hn, e0, e1, e2, e3⟩ := layout31 word 36 0 2 0 (by decide) (by decide) (by decide) (by decide) (by omega)
  refine ⟨hn, ?_⟩
  rw [decMajor24 word e0, dec24_2 _ e2, e1, e3]
  simp_all [chk]

theorem done : Statement (.done) := by
  intro word hwf hw
  rw [show encodeNat (.done) = some (pack 0x900000C0 []) from rfl] at hw
  rw [show Instr.wf (.done) = (true) from rfl] at hwf
  rw [pack0, Option.some.injEq] at hw
  simp only [Bool.and_eq_true, Bool.not_eq_true'] at hwf
  obtain ⟨hn, e0, e1, e2, e3⟩ := layout31 word 36 0 3 0 (by decide) (by decide) (by decide) (by decide) (by omega)
  refine ⟨hn, ?_⟩
  rw [decMajor24 word e0, dec24_3 _ e2, e1, e3]
  simp_all [chk]

theorem abort : Statement (.abort) := by
  intro word hwf hw
  rw [show encodeNat (.abort) = some (pack 0x90000100 []) from rfl] at hw
  rw [show Instr.wf (.abort) = (true) from rfl] at hwf
  rw [pack0, Option.some.injEq] at hw
  simp only [Bool.and_eq_true, Bool.not_eq_true'] at hwf
  obtain ⟨hn, e0, e1, e2, e3⟩ := layout31 word 36 0 4 0 (by decide) (by decide) (by decide) (by decide) (by omega)
  refine ⟨hn, ?_⟩
  rw [decMajor24 word e0, dec24_4 _ e2, e1, e3]
  simp_all [chk]

theorem rte : Statement (.rte) := by
  intro word hwf hw
  rw [show encodeNat (.rte) = some (pack 0xA8010000 []) from rfl] at hw
  rw [show Instr.wf (.rte) = (true) from rfl] at hwf
  rw [pack0, Option.some.injEq] at hw
  simp only [Bool.and_eq_true, Bool.not_eq_true'] at hwf
  obtain ⟨hn, e0, e1, e2⟩ := layout19 word 42 1 0 (by decide) (by decide) (by decide) (by omega)
  refine ⟨hn, ?_⟩
  rw [decMajor2A word e0, dec2A_1 _ e1, e2]
  simp_all [chk]

theorem brk : Statement (.brk) := by
  intro word hwf hw
  rw [show encodeNat (.brk) = some (pack 0xA8020000 []) from rfl] at hw
  rw [show Instr.wf (.brk) = (true) from rfl] at hwf
  rw [pack0, Option.some.injEq] at hw
  simp only [Bool.and_eq_true, Bool.not_eq_true'] at hwf
  obtain ⟨hn, e0, e1, e2⟩ := layout19 word 42 2 0 (by decide) (by decide) (by decide) (by omega)
  refine ⟨hn, ?_⟩
  rw [decMajor2A word e0, dec2A_2 _ e1, e2]
  simp_all [chk]

theorem isync : Statement (.isync) := by
  intro word hwf hw
  rw [show encodeNat (.isync) = some (pack 0xA8030000 []) from rfl] at hw
  rw [show Instr.wf (.isync) = (true) from rfl] at hwf
  rw [pack0, Option.some.injEq] at hw
  simp only [Bool.and_eq_true, Bool.not_eq_true'] at hwf
  obtain ⟨hn, e0, e1, e2⟩ := layout19 word 42 3 0 (by decide) (by decide) (by decide) (by omega)
  refine ⟨hn, ?_⟩
  rw [decMajor2A word e0, dec2A_3 _ e1, e2]
  simp_all [chk]

theorem wakeNotice : Statement .wakeNotice := by
  intro _ _ hw
  cases hw

theorem wakeCopyResume : Statement .wakeCopyResume := by
  intro _ _ hw
  cases hw

theorem wakeCopyAbandon : Statement .wakeCopyAbandon := by
  intro _ _ hw
  cases hw

theorem cprFp64 : Statement .cprFp64 := by
  intro _ _ hw
  cases hw

theorem cprRaw : Statement .cprRaw := by
  intro _ _ hw
  cases hw

theorem cprInt64 : Statement .cprInt64 := by
  intro _ _ hw
  cases hw

theorem binplayAnchored : Statement .binplayAnchored := by
  intro _ _ hw
  cases hw

theorem moduleReset : Statement .moduleReset := by
  intro _ _ hw
  cases hw

theorem laneFailure : Statement .laneFailure := by
  intro _ _ hw
  cases hw

theorem linkRetrainingComplete : Statement .linkRetrainingComplete := by
  intro _ _ hw
  cases hw

theorem linkTrainingRetry : Statement .linkTrainingRetry := by
  intro _ _ hw
  cases hw

theorem lanifyPacketSend : Statement .lanifyPacketSend := by
  intro _ _ hw
  cases hw

theorem lanifyFlitReceive : Statement .lanifyFlitReceive := by
  intro _ _ hw
  cases hw

theorem ackTimeout : Statement .ackTimeout := by
  intro _ _ hw
  cases hw

theorem lanifyAcknowledgement : Statement .lanifyAcknowledgement := by
  intro _ _ hw
  cases hw

theorem replayRequest : Statement .replayRequest := by
  intro _ _ hw
  cases hw

theorem dieTemperatureChange : Statement .dieTemperatureChange := by
  intro _ _ hw
  cases hw

theorem thermalStepDown : Statement .thermalStepDown := by
  intro _ _ hw
  cases hw

theorem thermalStepUp : Statement .thermalStepUp := by
  intro _ _ hw
  cases hw

theorem relockRestart : Statement .relockRestart := by
  intro _ _ hw
  cases hw

theorem powerGrant : Statement .powerGrant := by
  intro _ _ hw
  cases hw

theorem powerGrantArrival : Statement .powerGrantArrival := by
  intro _ _ hw
  cases hw

theorem allowanceExceeded : Statement .allowanceExceeded := by
  intro _ _ hw
  cases hw

theorem dramRowRemap : Statement .dramRowRemap := by
  intro _ _ hw
  cases hw

theorem spareRankBringIn : Statement .spareRankBringIn := by
  intro _ _ hw
  cases hw

theorem spareRankCopyDone : Statement .spareRankCopyDone := by
  intro _ _ hw
  cases hw

theorem commandPost : Statement .commandPost := by
  intro _ _ hw
  cases hw

theorem commandAccept : Statement .commandAccept := by
  intro _ _ hw
  cases hw

theorem commandComplete : Statement .commandComplete := by
  intro _ _ hw
  cases hw

theorem functionLevelReset : Statement .functionLevelReset := by
  intro _ _ hw
  cases hw

theorem fnstWrite : Statement .fnstWrite := by
  intro _ _ hw
  cases hw

theorem queryModule : Statement .queryModule := by
  intro _ _ hw
  cases hw

theorem queryPartition : Statement .queryPartition := by
  intro _ _ hw
  cases hw

theorem partCreate : Statement .partCreate := by
  intro _ _ hw
  cases hw

theorem partDestroy : Statement .partDestroy := by
  intro _ _ hw
  cases hw

theorem keySet : Statement .keySet := by
  intro _ _ hw
  cases hw

theorem imageLoad : Statement .imageLoad := by
  intro _ _ hw
  cases hw

theorem boot : Statement .boot := by
  intro _ _ hw
  cases hw

theorem launch : Statement .launch := by
  intro _ _ hw
  cases hw

theorem launchSeed : Statement .launchSeed := by
  intro _ _ hw
  cases hw

theorem launchComplete : Statement .launchComplete := by
  intro _ _ hw
  cases hw

theorem hostCopy : Statement .hostCopy := by
  intro _ _ hw
  cases hw

theorem attestQuote : Statement .attestQuote := by
  intro _ _ hw
  cases hw

theorem attestChain : Statement .attestChain := by
  intro _ _ hw
  cases hw

theorem dump : Statement .dump := by
  intro _ _ hw
  cases hw

theorem stop : Statement .stop := by
  intro _ _ hw
  cases hw

theorem stopEdge : Statement .stopEdge := by
  intro _ _ hw
  cases hw

theorem resume : Statement .resume := by
  intro _ _ hw
  cases hw

theorem censusCfgOff : Statement .censusCfgOff := by
  intro _ _ hw
  cases hw

theorem censusCfgOn : Statement .censusCfgOn := by
  intro _ _ hw
  cases hw

theorem censusCfgClear : Statement .censusCfgClear := by
  intro _ _ hw
  cases hw

theorem censusCfgRetrain : Statement .censusCfgRetrain := by
  intro _ _ hw
  cases hw

theorem powerSet : Statement .powerSet := by
  intro _ _ hw
  cases hw

theorem healthReport : Statement .healthReport := by
  intro _ _ hw
  cases hw

theorem healthRetrain : Statement .healthRetrain := by
  intro _ _ hw
  cases hw

theorem dispatch : Statement .dispatch := by
  intro _ _ hw
  cases hw

theorem overflowRefill : Statement .overflowRefill := by
  intro _ _ hw
  cases hw

theorem stealIdle : Statement .stealIdle := by
  intro _ _ hw
  cases hw

theorem stealWaitEnd : Statement .stealWaitEnd := by
  intro _ _ hw
  cases hw

theorem stealProbeArrival : Statement .stealProbeArrival := by
  intro _ _ hw
  cases hw

theorem stolenTaskRecordArrival : Statement .stolenTaskRecordArrival := by
  intro _ _ hw
  cases hw

theorem emptyReplyArrival : Statement .emptyReplyArrival := by
  intro _ _ hw
  cases hw

theorem periodExpiry : Statement .periodExpiry := by
  intro _ _ hw
  cases hw

theorem accountIncrementArrival : Statement .accountIncrementArrival := by
  intro _ _ hw
  cases hw

theorem accountAckArrival : Statement .accountAckArrival := by
  intro _ _ hw
  cases hw

theorem accountDecrementArrival : Statement .accountDecrementArrival := by
  intro _ _ hw
  cases hw

theorem quitNoticeArrival : Statement .quitNoticeArrival := by
  intro _ _ hw
  cases hw

theorem retirementDecrementSend : Statement .retirementDecrementSend := by
  intro _ _ hw
  cases hw

theorem commitLogHandoff : Statement .commitLogHandoff := by
  intro _ _ hw
  cases hw

theorem commitEntry : Statement .commitEntry := by
  intro _ _ hw
  cases hw

theorem commitEnd : Statement .commitEnd := by
  intro _ _ hw
  cases hw

theorem seededRecordArrival : Statement .seededRecordArrival := by
  intro _ _ hw
  cases hw

theorem forkChildArrival : Statement .forkChildArrival := by
  intro _ _ hw
  cases hw

theorem taskTokenArrival : Statement .taskTokenArrival := by
  intro _ _ hw
  cases hw

theorem spawnTokenArrival : Statement .spawnTokenArrival := by
  intro _ _ hw
  cases hw

theorem spawnDeadline : Statement .spawnDeadline := by
  intro _ _ hw
  cases hw

theorem spawnReplyArrival : Statement .spawnReplyArrival := by
  intro _ _ hw
  cases hw

theorem wakeTokenArrival : Statement .wakeTokenArrival := by
  intro _ _ hw
  cases hw

theorem storeBufferDrain : Statement .storeBufferDrain := by
  intro _ _ hw
  cases hw

theorem loopbackPerform : Statement .loopbackPerform := by
  intro _ _ hw
  cases hw

theorem tableWalkComplete : Statement .tableWalkComplete := by
  intro _ _ hw
  cases hw

theorem tlbinvComplete : Statement .tlbinvComplete := by
  intro _ _ hw
  cases hw

theorem lmsplitTakeEffect : Statement .lmsplitTakeEffect := by
  intro _ _ hw
  cases hw

theorem engineCommandStart : Statement .engineCommandStart := by
  intro _ _ hw
  cases hw

theorem engineRead : Statement .engineRead := by
  intro _ _ hw
  cases hw

theorem engineWritePerform : Statement .engineWritePerform := by
  intro _ _ hw
  cases hw

theorem engineCommandComplete : Statement .engineCommandComplete := by
  intro _ _ hw
  cases hw

theorem latchTileArrival : Statement .latchTileArrival := by
  intro _ _ hw
  cases hw

theorem ringStall : Statement .ringStall := by
  intro _ _ hw
  cases hw

theorem timerExpiry : Statement .timerExpiry := by
  intro _ _ hw
  cases hw

theorem interruptEntry : Statement .interruptEntry := by
  intro _ _ hw
  cases hw

theorem noticeArrival : Statement .noticeArrival := by
  intro _ _ hw
  cases hw

theorem mailboxRingRefill : Statement .mailboxRingRefill := by
  intro _ _ hw
  cases hw

theorem contextArrival : Statement .contextArrival := by
  intro _ _ hw
  cases hw

theorem arrivalQueueRefill : Statement .arrivalQueueRefill := by
  intro _ _ hw
  cases hw

theorem contextTake : Statement .contextTake := by
  intro _ _ hw
  cases hw

theorem partyArrival : Statement .partyArrival := by
  intro _ _ hw
  cases hw

theorem pairPlacement : Statement .pairPlacement := by
  intro _ _ hw
  cases hw

theorem meetingDeadline : Statement .meetingDeadline := by
  intro _ _ hw
  cases hw

theorem partyReturnArrival : Statement .partyReturnArrival := by
  intro _ _ hw
  cases hw

theorem luggageWriteArrival : Statement .luggageWriteArrival := by
  intro _ _ hw
  cases hw

theorem dumpWrite : Statement .dumpWrite := by
  intro _ _ hw
  cases hw

theorem testSlice : Statement .testSlice := by
  intro _ _ hw
  cases hw

theorem forcedTestGap : Statement .forcedTestGap := by
  intro _ _ hw
  cases hw

theorem testSliceComplete : Statement .testSliceComplete := by
  intro _ _ hw
  cases hw

theorem censusRecordWrite : Statement .censusRecordWrite := by
  intro _ _ hw
  cases hw

theorem sampleRecord : Statement .sampleRecord := by
  intro _ _ hw
  cases hw

theorem barrierArrivalAtRoot : Statement .barrierArrivalAtRoot := by
  intro _ _ hw
  cases hw

theorem barrierReleaseArrival : Statement .barrierReleaseArrival := by
  intro _ _ hw
  cases hw

theorem podRelayForward : Statement .podRelayForward := by
  intro _ _ hw
  cases hw

theorem barsetRootTake : Statement .barsetRootTake := by
  intro _ _ hw
  cases hw

theorem registerWrite : Statement .registerWrite := by
  intro _ _ hw
  cases hw

theorem lmsplitWrite : Statement .lmsplitWrite := by
  intro _ _ hw
  cases hw

theorem tlbinvPage : Statement .tlbinvPage := by
  intro _ _ hw
  cases hw

theorem tlbinvAsid : Statement .tlbinvAsid := by
  intro _ _ hw
  cases hw

theorem tlbinvPartition : Statement .tlbinvPartition := by
  intro _ _ hw
  cases hw

theorem ptbaseWrite : Statement .ptbaseWrite := by
  intro _ _ hw
  cases hw

theorem fcsrWrite : Statement .fcsrWrite := by
  intro _ _ hw
  cases hw

theorem mbstWrite : Statement .mbstWrite := by
  intro _ _ hw
  cases hw

theorem engineStatusWrite : Statement .engineStatusWrite := by
  intro _ _ hw
  cases hw

theorem illegalEncoding : Statement .illegalEncoding := by
  intro _ _ hw
  cases hw

theorem luggageWriteAcknowledgement : Statement .luggageWriteAcknowledgement := by
  intro _ _ hw
  cases hw

theorem monitorSlotStop : Statement .monitorSlotStop := by
  intro _ _ hw
  cases hw

theorem columnCopyComplete : Statement .columnCopyComplete := by
  intro _ _ hw
  cases hw

theorem rowCopyComplete : Statement .rowCopyComplete := by
  intro _ _ hw
  cases hw

end Sys2Proof.Laws.RoundTrip
end

