-- ==== Sys2Proof/Laws/Place.lean ====
section
/-! SUPPORT. What translations, travellers, notices and pushes keep: the turn and every slot. -/
namespace Sys2Proof.Machine

/-- A change of a core that keeps its slots keeps every slot. -/
theorem State.slot_modCore_keep (s : State) (c : Nat) {f : Core → Core} (hf : ∀ o, (f o).slots = o.slots) (d k : Nat) :
    (s.modCore c f).slot d k = s.slot d k := by
  have hf' : ∀ o : Core, (f o).slot k = o.slot k := by intro o; unfold Core.slot; rw [hf]
  show ((s.modCore c f).core d).slot k = _
  by_cases h : d = c
  · rw [h, State.core_modCore, hf']; rfl
  · rw [State.core_modCore_ne _ _ h]; rfl

/-- Two states with the same turn and the same slots. -/
structure SameSlots (s s1 : State) : Prop where
  turn : s1.cur = s.cur
  slots : ∀ c k, s1.slot c k = s.slot c k

theorem SameSlots.refl (s : State) : SameSlots s s := ⟨rfl, fun _ _ => rfl⟩

theorem SameSlots.runs {s s1 : State} (h : SameSlots s s1) {t : Thread} (r : s.Runs t) : s1.Runs t := by
  unfold State.Runs State.running; rw [h.turn, h.slots]; exact r

theorem State.tlbInstall_same (s : State) (c : Nat) (fetch : Bool) (e : TlbEntry) : SameSlots s (s.tlbInstall c fetch e) := by
  have h := State.slot_modCore_keep s c (f := fun o =>
    if fetch then { o with itlb := tlbAdd o.itlb 8 (if o.itlb.length < 8 then 0 else Config.freeNat s.free) e }
    else { o with dtlb := tlbAdd o.dtlb 32 (if o.dtlb.length < 32 then 0 else Config.freeNat s.free) e })
    (by intro o; cases fetch <;> rfl)
  unfold State.tlbInstall
  dsimp only
  split <;> exact ⟨rfl, h⟩

theorem SameSlots.trans {s s1 s2 : State} (h : SameSlots s s1) (g : SameSlots s1 s2) : SameSlots s s2 :=
  ⟨g.turn.trans h.turn, fun c k => (g.slots c k).trans (h.slots c k)⟩

theorem State.countRead_same (s : State) (a n : Nat) : SameSlots s (s.countRead a n) := by
  unfold State.countRead
  split <;> exact ⟨rfl, fun _ _ => rfl⟩

theorem State.countWalk_same (s : State) (root va : Nat) : SameSlots s (s.countWalk root va) := by
  have h := fun a b => (State.countRead_same s a 8).trans (State.countRead_same (s.countRead a 8) b 8)
  unfold State.countWalk
  dsimp only
  split
  · exact h ..
  · exact (h ..).trans (State.countRead_same ..)

theorem State.addMiss_same (s : State) (c va : Nat) (fetch : Bool) : SameSlots s (s.addMiss c va fetch) := by
  unfold State.addMiss
  split <;> exact ⟨rfl, fun _ _ => rfl⟩

theorem State.lookup_same (s : State) (c va : Nat) (fetch : Bool) : SameSlots s (s.lookup c va fetch).1 := by
  unfold State.lookup
  dsimp only
  split
  · exact SameSlots.refl s
  · split
    · exact State.tlbInstall_same ..
    · split
      · exact SameSlots.refl s
      · split
        · exact ((State.countWalk_same ..).trans (State.tlbInstall_same ..)).trans (State.addMiss_same ..)
        · exact State.addMiss_same ..

theorem State.lookupNow_same (s : State) (c va : Nat) : SameSlots s (s.lookupNow c va).1 := by
  have := State.lookup_same s c va false
  unfold State.lookupNow
  split
  · rename_i h; rw [h] at this; exact this
  · exact this

theorem State.place_same (s : State) (c : Nat) (t : Thread) (m : Option Meet) (va n : Nat) (kind : AccKind) :
    SameSlots s (s.place c t m va n kind).1 := by
  have hb : SameSlots s (s.bulkPlace c t va kind).1 := State.lookup_same s c va (kind == .fetch)
  unfold State.place
  repeat' split
  all_goals first | exact SameSlots.refl s | exact hb

theorem State.modCore_same (s : State) (c : Nat) {f : Core → Core} (hf : ∀ o, (f o).slots = o.slots) : SameSlots s (s.modCore c f) :=
  ⟨rfl, State.slot_modCore_keep s c hf⟩

theorem State.send_same (s : State) (t : Traveller) : SameSlots s (s.send t) := by
  have h : SameSlots s { s with net := s.net ++ [{ t with key := s.stamp, stands := t.src }], stamp := s.stamp + 1 } :=
    ⟨rfl, fun _ _ => rfl⟩
  unfold State.send
  dsimp only
  split
  · exact h.trans (State.modCore_same _ t.src (fun _ => rfl))
  · exact h

theorem State.netKey_same (s : State) (c va n : Nat) (st : Bool) : SameSlots s (s.netKey c va n st).1 := by
  have := State.place_same s c netThread none va n (if st then .store else .load)
  unfold State.netKey
  split <;> rename_i h <;> rw [h] at this <;> exact this

theorem State.modPart_same (s : State) (m p : Nat) (f) : SameSlots s (s.modPart m p f) := ⟨rfl, fun _ _ => rfl⟩

theorem State.tellSupervisor_same (s : State) (c w a) : SameSlots s (s.tellSupervisor c w a) := by
  unfold State.tellSupervisor
  split
  · exact SameSlots.refl s
  · exact State.send_same ..

theorem State.raiseFatal_same (s : State) (c f) : SameSlots s (s.raiseFatal c f) := by
  unfold State.raiseFatal
  split
  · exact SameSlots.refl s
  · exact (State.modPart_same s _ _ _).trans (State.tellSupervisor_same ..)

theorem State.haltPartition_same (s : State) (c) : SameSlots s (s.haltPartition c) := by
  unfold State.haltPartition
  split
  · exact SameSlots.refl s
  · exact State.modPart_same ..

theorem State.fatalPartition_same (s : State) (c k) : SameSlots s (s.fatalPartition c k) :=
  (State.raiseFatal_same ..).trans (State.haltPartition_same ..)

theorem State.putBytes_same (s : State) (k l) : SameSlots s (s.putBytes k l) := ⟨rfl, fun _ _ => rfl⟩

theorem State.writeRing_same (s : State) (c r p bs) : SameSlots s (s.writeRing c r p bs).1 := by
  unfold State.writeRing
  split
  · exact SameSlots.refl s
  · have := State.netKey_same s c ((s.core c).ringAddr r p) 1 true
    split <;> rename_i h <;> rw [h] at this
    · exact this.trans (State.putBytes_same ..)
    · exact this

theorem State.spill_same (s : State) (c p e ctx head) : SameSlots s (s.spill c p e ctx head) := by
  unfold State.spill
  dsimp only
  split
  · exact State.fatalPartition_same ..
  · have := State.writeRing_same s c p (((s.core c).ring p).spillPos head) e.bytes
    split <;> rename_i h <;> rw [h] at this
    · exact this.trans (State.fatalPartition_same ..)
    · exact this.trans (State.modCore_same _ c (fun _ => rfl))

theorem Core.putQueue_slots (o : Core) (p l) : (o.putQueue p l).slots = o.slots := by
  unfold Core.putQueue; repeat' split
  all_goals rfl

theorem State.pushTail_same (s : State) (c p : Nat) (e : QEntry) : SameSlots s (s.pushTail c p e) := by
  unfold State.pushTail
  dsimp only
  split
  · exact (State.spill_same ..).trans (State.modCore_same _ c (fun _ => rfl))
  · exact State.modCore_same s c (fun o => Core.putQueue_slots ..)

end Sys2Proof.Machine
end

