-- ==== Sys2Proof/Tests/Slice0.lean ====
section
/-! SUPPORT. Tests: words of the spec decoded, ill-formed terms refused, single steps, and a state that meets the hypotheses of each
statement. The expected values are the spec's, or worked out by hand from its tables. -/
namespace Sys2Proof.Machine
set_option Elab.async false

/-! ## Decoding: the words of R312's neighbourhood and the tables of R294 and R301 to R305 -/

/-- The error with which a word is refused. -/
def refusedBy (w : Nat) : Option DecodeError := match decodeNat w with
  | .error e => some e
  | .ok _ => none

/-- The worked encodings of 14_isa_encoding.md. -/
theorem test_spec_words :
    decodeTableWord 32 0x34A05000 = some (.cmp 2 8 1 4) ∧ decodeTableWord 32 0x385C00FB = some (.cmpi 1 7 0 251) ∧
    decodeTableWord 32 0x74600001 = some (.br 1 1 1) ∧ decodeTableWord 32 0x24581020 = some (.shri 1 6 32) ∧
    decodeTableWord 32 0x51998000 = some (.ldD 6 6 0) ∧ decodeTableWord 32 0x5440C080 = some (.stD 1 0 128) ∧
    decodeTableWord 32 0x4048C001 = some (.faddS 1 2 3 1) ∧ decodeTableWord 32 0x6104C001 = some (.amoAdd 4 1 3 1) ∧
    decodeTableWord 32 0xA0116000 = some (.srd 0x011 6) ∧ decodeTableWord 32 0x9C000033 = some (.bar 3 3) ∧
    decodeTableWord 32 0xC0600000 = some (.cp 1 8 0) ∧ decodeTableWord 32 0xC4040000 = some (.cpset 1 0) ∧
    decodeTableWord 32 0xC850D800 = some (.vred 1 4 1) ∧ decodeTableWord 32 0x3480C800 = some (.cmp 2 0 3 2) := by decide

/-- The words that trap, of the same file, with the check that refuses each. -/
theorem test_spec_traps :
    refusedBy 0 = some .badMajor ∧ refusedBy 0xFFFFFFFF = some .badMajor ∧ refusedBy 0xAC000000 = some .badMajor ∧
    refusedBy 0x0448C001 = some .reservedBits ∧ refusedBy 0x0478C000 = some .reservedRegister ∧ refusedBy 0x4C40A000 = some .badModifier ∧
    refusedBy 0x24407001 = some .badFunction ∧ refusedBy 0x59C00000 = some .badQuadRegister ∧ refusedBy 0x9C000053 = some .badModifier := by
  decide

theorem test_decode_lsa : decodeTableWord 32 0b000001_0001_0010_0011_00010000_000101 = some (.lsa 1 2 3 5) := by decide
theorem test_decode_subw : decodeTableWord 32 0b000010_0100_0101_0110_00000001_000000 = some (.subw 4 5 6) := by decide
theorem test_decode_remw : decodeTableWord 32 0b000011_0001_0010_1101_00001001_000000 = some (.remw 1 2 13) := by decide
theorem test_decode_bfi : decodeTableWord 32 0b000100_0111_1000_1001_00001101_000000 = some (.bfi 7 8 9) := by decide
theorem test_decode_xori : decodeTableWord 32 0b001000_1010_0011_100000000000000001 = some (.xori 10 3 0x20001) := by decide
theorem test_decode_sariw : decodeTableWord 32 0b001001_0001_0010_000110_000000011111 = some (.sariw 1 2 31) := by decide
theorem test_decode_ipa : decodeTableWord 32 0b001011_0010_1111111111111111111111 = some (.ipa 2 0x3FFFFF) := by decide
theorem test_decode_hops : decodeTableWord 32 0b001100_0001_0010_0011_00000010_000000 = some (.hops 1 2 3) := by decide
theorem test_decode_cmpw : decodeTableWord 32 0b001101_1111_0001_0010_0101_0000000001 = some (.cmpw 15 1 2 5) := by decide
theorem test_decode_sel : decodeTableWord 32 0b001111_0001_0010_0011_0100_0000000111 = some (.sel 1 2 3 4) := by decide
theorem test_decode_ffmaS : decodeTableWord 32 0b010000_0001_0010_0011_00000011_000111 = some (.ffmaS 1 2 3 7) := by decide
theorem test_decode_fsqrtD : decodeTableWord 32 0b010001_0001_0010_0000_00001001_000010 = some (.fsqrtD 1 2 2) := by decide
theorem test_decode_fcvtLD : decodeTableWord 32 0b010010_0001_0010_0000_00000101_000001 = some (.fcvtLD 1 2 1) := by decide
theorem test_decode_fcmpD : decodeTableWord 32 0b010011_0011_0100_0101_0111_0000000001 = some (.fcmpD 3 4 5 7) := by decide
theorem test_decode_stq : decodeTableWord 32 0b010110_0110_1000_0001_11111111100000 = some (.stq 6 8 0x3FE0) := by decide
theorem test_decode_fck : decodeTableWord 32 0b010111_0001_0010_1000_00000000000100 = some (.fck 1 2 4) := by decide
theorem test_decode_stcD : decodeTableWord 32 0b011001_0001_0010_0001_00000000001000 = some (.stcD 1 2 8) := by decide
theorem test_decode_redOr : decodeTableWord 32 0b011010_0000_0001_0010_00000100_000001 = some (.redOr 1 2 1) := by decide
theorem test_decode_cinvI : decodeTableWord 32 0b011011_0000_1001_0011_00000001000000 = some (.cinvI 9 64) := by decide
theorem test_decode_fenceA : decodeTableWord 32 0b011100_0000000010_0000_0000_00000000 = some (.fenceA) := by decide
theorem test_decode_call : decodeTableWord 32 0b011111_00000000000000000000000001 = some (.call 1) := by decide
theorem test_decode_callr : decodeTableWord 32 0b100000_0000_1001_0000_00000001_000000 = some (.callr 9) := by decide
theorem test_decode_loop : decodeTableWord 32 0b100001_0000_0001_111111111111111111 = some (.loop 1 0x3FFFF) := by decide
theorem test_decode_back : decodeTableWord 32 0b100010_0000_0000_0000_00000010_000000 = some (.back) := by decide
theorem test_decode_xget : decodeTableWord 32 0b100011_0011_0000_0000_00000001_001001 = some (.xget 3 9) := by decide
theorem test_decode_tsk : decodeTableWord 32 0b100100_0000_0001_0010_00001001_000000 = some (.tsk 1 2) := by decide
theorem test_decode_qlen : decodeTableWord 32 0b100101_0001_0000_0010_00000010_000000 = some (.qlen 1 2) := by decide
theorem test_decode_mpoll : decodeTableWord 32 0b100110_0001_0010_0000_00000001_000000 = some (.mpoll 1 2) := by decide
theorem test_decode_barset : decodeTableWord 32 0b100111_0000000100_0001_0000_01001111 = some (.barset 1 4 15) := by decide
theorem test_decode_swr : decodeTableWord 32 0b101001_0001001000_0010_0000_00000000 = some (.swr 0x48 2) := by decide
theorem test_decode_trap : decodeTableWord 32 0b101010_0000000000_0000_0000_11001000 = some (.trap 200) := by decide
theorem test_decode_cpfFull : decodeTableWord 32 0b110000_0001_0010_000111_100000000001 = some (.cpf 1 2 1 1) := by decide
theorem test_decode_cpget : decodeTableWord 32 0b110001_0000_0011_001011_100000000000 = some (.cpget 3 11) := by decide
theorem test_decode_vcmp : decodeTableWord 32 0b110010_0001_0010_001010_000010110001 = some (.vcmp 1 2 0 11 1) := by decide
theorem test_decode_vset : decodeTableWord 32 0b110011_0000_0101_000011_000000000000 = some (.vset 5 3) := by decide
theorem test_decode_mdrain : decodeTableWord 32 0b110100_0001_0010_000100_000001100000 = some (.mdrain 1 2 0 1 2) := by decide
theorem test_decode_pool : decodeTableWord 32 0b110110_0001_0010_000000_100000000000 = some (.pool 1 2 1) := by decide
theorem test_decode_binflush : decodeTableWord 32 0b111000_0000_0000_000010_000000000000 = some (.binflush 0) := by decide

/-! ## Ill-formed terms -/

theorem test_wf_register : (Instr.add 1 2 14).wf = false ∧ (Instr.add 15 2 3).wf = false ∧ (Instr.add 13 12 11).wf = true := by decide
theorem test_wf_round : (Instr.faddS 1 2 3 4).wf = false ∧ (Instr.faddD 1 2 3 6).wf = false ∧ (Instr.faddS 1 2 3 7).wf = true := by decide
theorem test_wf_condition : (Instr.cmp 1 2 3 12).wf = false ∧ (Instr.cmpi 1 2 13 0).wf = false ∧ (Instr.vcmp 1 2 0 12 0).wf = false := by decide
theorem test_wf_float_condition : (Instr.fcmpS 1 2 3 8).wf = false ∧ (Instr.fcmpD 1 2 3 7).wf = true := by decide
theorem test_wf_scope : (Instr.bar 5 0).wf = false ∧ (Instr.barset 1 7 0).wf = false ∧ (Instr.barn 4 15).wf = true := by decide
theorem test_wf_option : (Instr.vrot 1 2 0 3).wf = false ∧ (Instr.mdrain 1 2 0 0 3).wf = false := by decide
theorem test_wf_quad_register : (Instr.ldq 7 1 0).wf = false ∧ (Instr.stq 7 1 0).wf = false ∧ (Instr.ldq 6 1 0).wf = true := by decide
theorem test_wf_special : (Instr.srd 0x001 1).wf = false ∧ (Instr.swr 0x071 1).wf = false ∧ (Instr.srd 0x070 1).wf = true := by decide
theorem test_wf_engine_register : (Instr.cpset 1 12).wf = false ∧ (Instr.vget 1 13).wf = false ∧ (Instr.mset 1 8).wf = false ∧
    (Instr.poget 1 8).wf = false ∧ (Instr.bnset 1 7).wf = false ∧ (Instr.bnget 1 6).wf = true := by decide

/-! ## Single steps -/

/-- What a function of the next state gives, of an outcome that goes on. -/
def after (o : Outcome) (f : State → α) : Option α := match o with
  | .next s => some (f s)
  | _ => none

/-- The context of the thread in slot 0 of core 0. -/
def ctx0 (s : State) : Option Ctx := (s.slot 0 0).thread.map (·.ctx)

/-- Machine after reset with a word to issue next, and registers set. -/
def placed (w : Nat) (x : Ctx) : State :=
  (State.reset.withFetchWord 32 w).modSlot 0 0 (fun l => { l with thread := some { ctx := { x with status := { sup := true } } } })

/-- A register after one step of a word. -/
def stepReg (w : Nat) (x : Ctx) (f : Reg) : Option Word := (after (step (placed w x)) (fun u => (ctx0 u).map (·.get f))).join

/-- `add x1, x2, x3` wraps (R317). -/
theorem test_add_wraps : stepReg 0b000001_0001_0010_0011_00000000_000000 { x2 := 0xFFFFFFFFFFFFFFFF, x3 := 2 } 1 = some 1 := by decide
/-- `div x1, x2, x3` by zero gives all ones (R319). -/
theorem test_div_zero : stepReg 0b000011_0001_0010_0011_00000100_000000 { x2 := 5 } 1 = some 0xFFFFFFFFFFFFFFFF := by decide
/-- `addi x10, x10, −8` (R321). -/
theorem test_addi_negative : stepReg 0b000101_1010_1010_111111111111111000 { fp := 8 } 10 = some 0 := by decide
/-- `st.b` then the byte at its home (R331): x1 is the datum, x2 the address of the last private byte. -/
theorem test_store_last_byte : after (step (placed 0b010101_0001_0010_0000_00000000000000 { x1 := 0x1FF, x2 := 0xBFFF }))
    (fun u => u.byte (localKey 0 0xBFFF)) = some 0xFF := by decide
/-- A word that is not an instruction traps with cause 1, or 12 for a register field of 14 (R306): at supervisor level it is fatal. -/
theorem test_illegal_word : after (step (placed 0 {})) (fun u => (ctx0 u).map (·.ip)) ≠ some (some 4) := by decide
/-- A jump of −2 words from 0 lands at −4 (R340). -/
theorem test_jmp_back : after (step (placed 0b011110_11111111111111111111111110 {})) (fun u => (ctx0 u).map (·.ip)) =
    some (some 0xFFFFFFFFFFFFFFFC) := by decide
/-- The first step after reset is the module reset (R97). -/
theorem test_reset_step : after (step State.reset) (fun u => u.sched) = some [] := by decide
/-- `remw x1, x2, x3` of −7 by 2 gives −1 (R319). -/
theorem test_remw_sign : stepReg 0b000011_0001_0010_0011_00001001_000000 { x2 := 0xFFFFFFF9, x3 := 2 } 1 = some 0xFFFFFFFFFFFFFFFF := by decide
/-- `rol x1, x2, x3` by 68 turns by 4 (R317). -/
theorem test_rol : stepReg 0b000001_0001_0010_0011_00001010_000000 { x2 := 0x8000000000000001, x3 := 68 } 1 = some 0x18 := by decide
/-- `bfx x1, x2, x3` of position 60 and length 8 reads the bits above 63 as 0 (R320). -/
theorem test_bfx_top : stepReg 0b000100_0001_0010_0011_00001011_000000 { x2 := 0xA000000000000000, x3 := 0x083C } 1 = some 0xA := by decide
/-- `fadd.s x1, x2, x3` of 1.5 and 2.25 (R327). -/
theorem test_fadd : stepReg 0b010000_0001_0010_0011_00000000_000000 { x2 := 0x3FC00000, x3 := 0x40100000 } 1 = some 0x40700000 := by decide
/-- `fdiv.d x1, x2, x3` of 1 by 0 gives +∞ (R267, R327). -/
theorem test_fdiv_zero : stepReg 0b010001_0001_0010_0011_00001000_000000 { x2 := 0x3FF0000000000000 } 1 = some 0x7FF0000000000000 := by
  decide +kernel
/-- `fcvt.l.s x1, x2` of −2.5 towards zero (R328; m = 1). -/
theorem test_fcvt : stepReg 0b010010_0001_0010_0000_00000100_000001 { x2 := 0xC0200000 } 1 = some 0xFFFFFFFFFFFFFFFE := by decide +kernel
/-- `srd 0x024, x6` gives `capnet` (R309). -/
theorem test_srd_capnet : stepReg 0b101000_0000100100_0110_0000_00000000 {} 6 = some 0x40402020 := by decide
/-- `trap 200` at user level: the handler, cause 13 and the next address (R226, R372). -/
theorem test_trap_entry : after (exec (.trap 200) ({ cores := [(0, { ivec := 0x2000, slots := [(0, { thread := some { ctx := { ip := 8 } } })] })] }))
    (fun u => ((u.slot 0 0).eip, (u.slot 0 0).ecause, (u.slot 0 0).eaddr, (ctx0 u).map (·.ip))) = some (12, 13, 200, some 0x2000) := by decide
/-- `amo.add.d x1, x2, x3` at 0x100 gives the old value 0 and leaves 5 in memory (R334). -/
theorem test_amo : after (step (placed 0b011000_0001_0010_0011_00000000_000001 { x2 := 0x100, x3 := 5 }))
    (fun u => (u.word (localKey 0 0x100), (ctx0 u).map (·.x1))) = some (5, some 0) := by decide +kernel
/-- `loop x1, −1` from 1 falls through (R342). -/
theorem test_loop_end : after (step (placed 0b100001_0000_0001_111111111111111111 { x1 := 1 })) (fun u => (ctx0 u).map (·.ip)) =
    some (some 4) := by decide


/-- R389: a copy of two runs is delivered only under one range that contains both: the second run's last byte decides. -/
theorem test_subscription_contains_every_run :
    ({ subs := [{ tag := 7, base := 0x100, length := 0x40 }] } : Core).subscribes 7 [(0x100, 0x20), (0x130, 0x10)] = true ∧
    ({ subs := [{ tag := 7, base := 0x100, length := 0x40 }] } : Core).subscribes 7 [(0x100, 0x20), (0x130, 0x11)] = false := by decide

/-- The substitution of 0x53 is 0xED (FIPS 197, 5.1.1). -/
theorem test_sub_byte : subByte 0x53 = 0xED := by decide +kernel

/-! ## States that meet the hypotheses of the statements -/

/-- A user-level thread born on core 0. -/
def user : Thread :=
  { ctx := { x0 := 128, x1 := 0xBFF8, x2 := 0xBFE0, x3 := 0xBF80, x4 := 3, x5 := 0x8000, x6 := 0xBFFC, x7 := 2, x8 := 0xBFFF, x9 := 1, ip := 0x1000 } }
/-- The same at supervisor level. -/
def super : Thread := { user with ctx := { user.ctx with status := { sup := true } } }
/-- A founder of a split task, in seat 0. -/
def founder : Thread :=
  { user with ctx := { user.ctx with status := { spl := true, fnd := true } }, task := some { seatCore := 0, seat := 0 } }
/-- A thread that visits core 0 from core 1. -/
def visitor : Thread := { user with tid := 256 }

/-- Module 0 with partition 0, which owns district 0 and head core 0 of die 0, and whose supervisor is core 0. -/
def oneModule : Module := { parts := [(0, { state := .running, districts := [0], head := 2 ^ 24, supervisor := 0 })] }

/-- Core 0 with a thread in slot 0, whose turn it is. -/
def onCore (t : Thread) (l : Slot := {}) (o : Core := {}) (m : Module := oneModule) : State :=
  { cores := [(0, { o with ivec := 0x2000, slots := [(0, { l with thread := some t })] })], modules := [(0, m)] }

/-- Core 0 without a thread, and an event to come. -/
def idle (a : Args) (o : Core := {}) (m : Module := oneModule) : State := { cores := [(0, o)], modules := [(0, m)], args := a }

/-- One traveller of partition 0 on its way to core 0. -/
def sent (p : Payload) : Traveller := { src := 0, dst := 0, vc := 2, load := p }
def coming (p : Payload) (o : Core := {}) : State := { idle {} o with net := [sent p] }

/-- A store of slot 0 in the buffer: step 8 does not allow a departure. -/
def buffering (t : Thread) (o : Core := {}) : State := onCore t {} { o with buffer := [{ slot := 0, home := 0, bytes := [1] }] }

/-! What the premises of the statements ask, as tests. -/

theorem free_of {s : State} {t : Thread}
    (h : (decide (s.running.thread = some t) && !t.ctx.status.spl && !t.ctx.status.met) = true) : s.Free t := by
  simp only [Bool.and_eq_true, decide_eq_true_eq, Bool.not_eq_true'] at h
  exact ⟨h.1.1, h.1.2, h.2⟩
theorem traps_of {s : State} {t : Thread} (h : (decide (s.running.thread = some t) && !t.ctx.status.sup && decide (s.running.meet = none) &&
    decide ((s.core s.here).ivec ≠ 0)) = true) : s.Traps t := by
  simp only [Bool.and_eq_true, decide_eq_true_eq, Bool.not_eq_true'] at h
  exact ⟨h.1.1.1, h.1.1.2, h.1.2, h.2⟩
theorem resides_of {s : State} {t : Thread} (h : (decide (s.running.thread = some t) && decide (s.running.carried = none) && !s.running.torn &&
    activeCore s.here && !t.bounded s.here && !t.ctx.status.spl && !t.ctx.status.met) = true) : s.Resides t := by
  simp only [Bool.and_eq_true, decide_eq_true_eq, Bool.not_eq_true'] at h
  exact ⟨h.1.1.1.1.1.1, h.1.1.1.1.1.2, h.1.1.1.1.2, h.1.1.1.2, h.1.1.2, h.1.2, h.2⟩
theorem private_of {s : State} {va : Word} {n : Nat}
    (h : (decide (va.toNat + n ≤ s.privSize s.here) && !s.hasBad (localKey s.here va.toNat) n) = true) : s.Private va n := by
  simp only [Bool.and_eq_true, decide_eq_true_eq, Bool.not_eq_true'] at h
  exact ⟨h.1, h.2⟩
theorem reaches_of {s : State} {t : Thread} {v : Word}
    (h : (decide (v.toNat < 2 ^ 25) && (!isHead v.toNat || t.ctx.status.sup) && s.inGroup s.here v.toNat) = true) : s.Reaches t v := by
  simp only [Bool.and_eq_true, decide_eq_true_eq, Bool.or_eq_true, Bool.not_eq_true'] at h
  exact ⟨h.1.1, fun g => h.1.2.resolve_left (by simp [g]), h.2⟩
theorem roomy_of {s : State} {c p : Nat}
    (h : (decide (((s.core c).ring p).records = 0) && decide ((s.core c).queueCount < 64)) = true) : s.RoomAt c p := by
  simp only [Bool.and_eq_true, decide_eq_true_eq] at h
  exact h
theorem accepts_of {s : State} {t : Thread} {d : Cmd} (h : (decide (s.running.thread = some t) && !t.ctx.status.spl && !t.ctx.status.met &&
      s.drained && decide ((s.core s.here).queued d.engine < 2) && !s.coreHalted s.here && decide ((s.core s.here).err d.op.file = 0) &&
      !t.bounded s.here) = true) {e : Cmd} (w : s.withHeader t d = (s, e, true)) (g : s.acceptError s.here t e true = 0)
    (o : e.op = d.op) : s.Accepts s t d e := by
  simp only [Bool.and_eq_true, decide_eq_true_eq, Bool.not_eq_true'] at h
  exact ⟨⟨h.1.1.1.1.1.1.1, h.1.1.1.1.1.1.2, h.1.1.1.1.1.2⟩, h.1.1.1.1.2, h.1.1.1.2, w, rfl, h.1.1.1.1.1.1.1, h.1.1.2, g, o ▸ h.1.2, h.2⟩

/-- A thread that runs, with plain registers: the integer, predicate, floating, control and system statements. -/
theorem witness_runs : (onCore user).Runs user ∧ plain [1, 2, 3] = true ∧ plain [13, 10, 0] = true := ⟨rfl, rfl, rfl⟩
theorem witness_free : (onCore user).Free user := free_of rfl
theorem witness_traps : (onCore user).Traps user ∧ (onCore founder).Traps founder ∧ founder.ctx.status.spl = true :=
  ⟨traps_of rfl, traps_of rfl, rfl⟩

theorem witness_IntegerArithmeticWritesItsResult : ∃ s t, State.Runs s t ∧ plain [1, 2, 3] = true := ⟨_, _, witness_runs.1, rfl⟩
theorem witness_Major04BitOperations : (onCore user).Runs user ∧ plain [1, 2, 3] = true := ⟨rfl, rfl⟩
theorem witness_ImmediateFormsWriteTheirResult : (onCore user).Runs user ∧ plain [1, 2] = true := ⟨rfl, rfl⟩
theorem witness_PredicatesAreComparedAndCombined : (onCore user).Runs user ∧ plain [1, 2] = true := ⟨rfl, rfl⟩
theorem witness_FloatArithmeticWritesResultAndFlags : (onCore user).Runs user ∧ plain [1, 2, 3] = true := ⟨rfl, rfl⟩
theorem witness_FloatConversionsAndCompares : (onCore user).Runs user ∧ plain [1, 2] = true := ⟨rfl, rfl⟩
theorem witness_NanOperandsGiveTheCanonicalNan : ((fp32.decode 0x7FC00000).isNan || (fp32.decode 0).isNan) = true := by decide
theorem witness_RepresentableValuesRoundToThemselves :
    0x7F800000 < 2 ^ (1 + fp32.ebits + fp32.mbits) ∧ (fp32.decode 0x7F800000).isNan = false := by decide
theorem witness_PlacesOfAddressesAndCores : (onCore user).Runs user ∧ plain [1, 2, 8] = true ∧
    (user.ctx.get 8).toNat < (onCore user).privSize 0 ∧ user.bounded 0 = false := ⟨rfl, rfl, by decide, rfl⟩

/-- The last bytes of the private portion, up to a boundary of 32 bytes; four bytes across one. -/
theorem witness_LoadsReadPrivateMemory : (onCore user).Resides user ∧ plain [6, 2] = true ∧
    (onCore user).Private (user.ctx.address 1 0) 8 ∧ roomAt (user.ctx.address 1 0) = 8 ∧
    (onCore user).Private (user.ctx.address 0 30) 4 ∧ roomAt (user.ctx.address 0 30) < 4 ∧
    (onCore user).Private (user.ctx.address 2 0) 32 ∧ (user.ctx.address 2 0).toNat % 32 = 0 ∧ (6 : Reg).toNat ≤ 6 := by
  refine ⟨resides_of ?_, ?_, private_of ?_, ?_, private_of ?_, ?_, private_of ?_, ?_, ?_⟩ <;> decide +kernel
theorem witness_StoresWritePrivateMemory : (onCore user).Resides user ∧ Memory.wf (onCore user).mem = true ∧
    (user.ctx.address 1 0).toNat + 8 ≤ (onCore user).privSize 0 ∧ (user.ctx.address 1 0).toNat % 8 = 0 ∧ 8 ≤ roomAt (user.ctx.address 1 0) ∧
    (user.ctx.address 0 30).toNat + 4 ≤ (onCore user).privSize 0 ∧ roomAt (user.ctx.address 0 30) < 4 := by
  refine ⟨witness_LoadsReadPrivateMemory.1, ?_, ?_, ?_, ?_, ?_, ?_⟩ <;> decide +kernel
theorem witness_AtomicsAndReductionsUpdateMemory : (onCore user).Resides user ∧ (onCore user).Private (user.ctx.get 1) (amoSize 1) ∧
    (user.ctx.get 1).toNat % amoSize 1 = 0 ∧ (onCore user).Private (user.ctx.get 6) (amoSize 0) ∧ (user.ctx.get 6).toNat % amoSize 0 = 0 := by
  refine ⟨witness_LoadsReadPrivateMemory.1, private_of ?_, ?_, private_of ?_, ?_⟩ <;> decide +kernel

/-- The words of an 8-byte full/empty access at 0xBFF8, full. -/
def filled : State := { onCore user with full := [localKey 0 0xBFF8 / 4, localKey 0 0xBFF8 / 4 + 1] }
theorem witness_FullEmptyAccessesStepOrWait : filled.Resides user ∧ filled.Private (user.ctx.address 1 0) 8 ∧
    (user.ctx.address 1 0).toNat % 8 = 0 ∧ filled.Unwatched (filled.homeKey (user.ctx.address 1 0)) ∧
    filled.allBits (filled.homeKey (user.ctx.address 1 0)) 8 true = true ∧
    (onCore user).Resides user ∧ (onCore user).Unwatched ((onCore user).homeKey (user.ctx.address 1 0)) ∧
    (onCore user).allBits ((onCore user).homeKey (user.ctx.address 1 0)) 8 false = true ∧
    (onCore user).allBits ((onCore user).homeKey (user.ctx.address 1 0)) 8 true = false ∧
    filled.allBits (filled.homeKey (user.ctx.address 1 0)) 8 false = false := by
  refine ⟨resides_of ?_, private_of ?_, ?_, ?_, ?_, resides_of ?_, ?_, ?_, ?_, ?_⟩
  all_goals first | decide +kernel | (unfold State.Unwatched; decide +kernel)
theorem witness_MisalignedAccessesTrap : (onCore user).Traps user ∧ user.ctx.status.spl = false ∧ (user.ctx.address 8 0).toNat % 32 ≠ 0 ∧
    (user.ctx.address 8 0).toNat % 4 ≠ 0 ∧ (user.ctx.address 6 0).toNat % 8 ≠ 0 ∧ (∀ m : BitVec 1, (user.ctx.get 8).toNat % amoSize m ≠ 0) :=
  ⟨witness_traps.1, rfl, by decide, by decide, by decide, by decide⟩

/-- A bulk page of core 0's own quad, in its data TLB; a dirty line of it; no page; and a miss queue that is full. -/
def bulkPage : TlbEntry := { part := 0, asid := 0, glob := false, vpn := 16, size := 1, pa := 0, u := true, x := true, w := true, r := true }
def bulkUser : Thread := { user with ctx := { user.ctx with x0 := 0x100000 } }
def bulkState : State := { onCore bulkUser {} { dtlb := [bulkPage] } with dirty := [(0, [1])] }
def clean : State := onCore bulkUser {} { dtlb := [bulkPage] }
def crowded : State := { onCore bulkUser with quads := [(0, { misses := List.replicate 18 (1, 0, false) })] }
theorem witness_CacheOperationsFencesAndDiscards : bulkState.Runs bulkUser ∧ bulkVa 0 (bulkUser.ctx.address 0 0).toNat = true ∧
    bulkState.lookup 0 (bulkUser.ctx.address 0 0).toNat false = (bulkState, .page bulkPage) ∧
    isBulkKey (bulkPage.phys (bulkUser.ctx.address 0 0).toNat) = true ∧
    bulkState.pathOf 0 (bulkPage.phys (bulkUser.ctx.address 0 0).toNat) = .quad ∧
    ((onCore bulkUser).lookup 0 (bulkUser.ctx.address 0 0).toNat false).2 = .fault 0 ∧
    crowded.Runs bulkUser ∧ crowded.lookup 0 (bulkUser.ctx.address 0 0).toNat false = (crowded, .full) ∧
    bulkState.place 0 bulkUser none (bulkUser.ctx.address 0 0).toNat 1 .store = (bulkState, .quad 0) ∧ isLocalKey 0 = false ∧
    bulkUser.ctx.status.spl = false ∧ bulkState.drained = true ∧ bulkState.dirty.get (0 / 64) = some [1] ∧
    clean.place 0 bulkUser none (bulkUser.ctx.address 0 0).toNat 1 .store = (clean, .quad 0) ∧ clean.dirty.get (0 / 64) = none ∧
    (onCore user).drained = true ∧ (buffering user).drained = false ∧ ((onCore user).drained && (onCore user).enginesDone) = true ∧
    ((onCore user).mayDepart && (onCore user).enginesDone) = true ∧ ((buffering user).mayDepart && (buffering user).enginesDone) = false ∧
    bulkVa 0 (user.ctx.address 0 0).toNat = false ∧ user.bounded 0 = false ∧ (user.ctx.address 8 0).toNat < (onCore user).privSize 0 := by
  refine ⟨rfl, ?_, ?_, ?_, ?_, ?_, rfl, ?_, ?_, ?_, ?_, ?_, ?_, ?_, ?_, ?_, ?_, ?_, ?_, ?_, ?_, ?_, ?_⟩ <;> decide +kernel

theorem witness_BranchesAndJumps : (onCore user).Traps user ∧ (user.ctx.get 0).toNat % 4 = 0 ∧ (user.ctx.get 8).toNat % 4 ≠ 0 :=
  ⟨witness_traps.1, by decide, by decide⟩

/-- `go` to an own private address, `go` refused, and `gocore` to core 1. -/
theorem witness_TravelMovesTheThread : (onCore user).Free user ∧
    (onCore user).place 0 user none (user.ctx.get 8).toNat 1 .load = (onCore user, .priv (localKey 0 0xBFFF)) ∧
    (Place.priv (localKey 0 0xBFFF)).core 0 = some 0 ∧ (onCore visitor).Free visitor ∧
    (onCore visitor).place 0 visitor none (visitor.ctx.get 8).toNat 1 .load = (onCore visitor, .refused 0xBFFF) ∧
    (onCore user).Reaches user (user.ctx.get 9) ∧ (onCore user).mayDepart = true ∧ (buffering user).mayDepart = false ∧
    (user.ctx.get 9).toNat ≠ (onCore user).here := by
  refine ⟨witness_free, ?_, rfl, free_of rfl, ?_, reaches_of ?_, ?_, ?_, ?_⟩ <;> decide +kernel

/-- A thread with a pennant of its own quad and eight bytes of luggage at the end of its private portion. -/
def traveller : Thread := { user with ctx := { user.ctx with x0 := 0x4000000000000000, x1 := 0x000800000000BFF8 } }
/-- Two met threads in slots 0 and 1, and one whose partner has not entered its slot. -/
def met : Thread := { user with ctx := { user.ctx with status := { met := true } } }
def meeting (dest : Option (Option PartDest)) : State :=
  { cores := [(0, { slots := [(0, { thread := some met, meet := some ⟨0, 0, 1, 1, true, false⟩ }),
      (1, { thread := some met, park := dest.map .part, meet := some ⟨0, 1, 0, 0, false, false⟩ })] })], modules := [(0, oneModule)] }
def partner : CloakEntry :=
  { party := { thread := met, came := met, d := 1, pennant := 0, la := 0, len := 0, luggage := [], deadline := 5, origin := 0, tag := 1 }, met := some met }
def early : State :=
  { onCore met { meet := some ⟨0, 0, 1, 1, true, false⟩ } with quads := [(0, { cloak := [(1, partner)] })] }
/-- A founder on its core, a visitor, and a met thread whose cloakroom entry stands, with and without a store in the buffer. -/
def departing (t : Thread) (o : Core := {}) : State :=
  { onCore t { meet := some ⟨0, 0, 1, 1, true, false⟩ } o with quads := [(0, { cloak := [(0, partner), (1, partner)] })] }
def metSuper : Thread := { met with ctx := { met.ctx with status := { met := true, sup := true } } }
theorem witness_BarredInstructionsTrap : (onCore founder).Traps founder ∧ founder.ctx.status.spl = true ∧ (onCore visitor).Traps visitor ∧
    visitor.ctx.status.spl = false ∧ visitor.ctx.status.met = false ∧ visitor.birth ≠ (onCore visitor).here ∧ (onCore user).Traps user ∧
    (departing met).Runs met ∧ met.ctx.status.spl = false ∧ met.ctx.status.met = true ∧
    (departing met).running.meet = some ⟨0, 0, 1, 1, true, false⟩ ∧ ((departing met).quad 0).cloak.get 0 = some partner ∧
    (departing met).mayDepart = true ∧ (departing met { buffer := [{ slot := 0, home := 0, bytes := [1] }] }).mayDepart = false ∧
    (departing metSuper).Runs metSuper ∧ metSuper.ctx.status.sup = true := by
  refine ⟨traps_of rfl, rfl, traps_of rfl, rfl, rfl, by decide, traps_of rfl, rfl, rfl, rfl, rfl, rfl, ?_, ?_, rfl, rfl⟩ <;> decide +kernel
theorem witness_MeetingsSendReadAndPart :
    (onCore traveller).Free traveller ∧ (onCore traveller).pennantQuad 0 (traveller.ctx.get 0) = some 0 ∧
    (traveller.ctx.get 1).toNat % 2 ^ 48 + (traveller.ctx.get 1).toNat / 2 ^ 48 = (onCore traveller).privSize 0 ∧
    (onCore traveller).refusal 0 traveller 0xBFF8 8 = none ∧ (onCore traveller).mayDepart = true ∧
    (buffering traveller).Free traveller ∧ (buffering traveller).mayDepart = false ∧ (meeting none).Runs met ∧ met.ctx.status.spl = false ∧
    (meeting none).running.meet = some ⟨0, 0, 1, 1, true, false⟩ ∧ ((meeting none).slot 0 1).thread = some met ∧
    early.Runs met ∧ early.running.meet = some ⟨0, 0, 1, 1, true, false⟩ ∧ (early.slot 0 1).thread = none ∧ (early.quad 0).cloak.get 1 = some partner ∧
    ((meeting none).slot 0 1).parting = none ∧ (meeting (some none)).Runs met ∧ ((meeting (some none)).slot 0 1).parting = some none ∧
    ((meeting (some none)).slot 0 1).meet = some ⟨0, 1, 0, 0, false, false⟩ ∧ (meeting none).mayDepart = true ∧ (meeting (some none)).mayDepart = true ∧
    (meeting none).place 0 met (meeting none).running.meet (met.ctx.get 8).toNat 1 .load = (meeting none, .priv (localKey 0 0xBFFF)) ∧
    (onCore user).Traps user := by
  refine ⟨free_of rfl, ?_, ?_, ?_, ?_, free_of rfl, ?_, rfl, rfl, rfl, rfl, rfl, rfl, ?_, ?_, ?_, rfl, ?_, ?_, ?_, ?_, ?_, witness_traps.1⟩ <;>
    decide +kernel

/-- Threads of tasks: of a plain task, not its founder; the founder of a plain task with a frame; and a founder whose record, of one grain
or of two, stands at the scratch base. -/
def member : Thread := { user with task := some { seatCore := 0, seat := 0 } }
def framed : Thread := { user with ctx := { user.ctx with status := { fnd := true } }, task := some { seatCore := 0, seat := 0 } }
def frameCore : Core := { seats := [(0, { state := 1, live := 1, frame := 0xBF00 })] }
def splitTask (dom : List (Nat × Byte)) : State :=
  { onCore founder {} { seats := [(0, { state := 1, scratchUnits := 1, logEnd := 256, lowRes := 256, image := { flags := 0x11 } })] } with
    mem := dom }
def twoGrains : List (Nat × Byte) := [(localKey 0 8, 0x11), (localKey 0 20, 2), (localKey 0 40, 1)]
theorem witness_ThreadsEnd :
    (onCore user).Free user ∧ (onCore user).Unbound user.tid ∧ (onCore user).mayDepart = true ∧ user.task = none ∧
    (buffering user).mayDepart = false ∧
    (onCore member).Traps member ∧ member.task = some { seatCore := 0, seat := 0 } ∧ member.ctx.status.fnd = false ∧
    (onCore user).yieldFrame user = none ∧
    (onCore framed {} frameCore).Resides framed ∧ framed.ctx.status.fnd = true ∧ (onCore framed {} frameCore).Unbound framed.tid ∧
    ((onCore framed {} frameCore).seatOf { seatCore := 0, seat := 0 }).frame.toNat + 256 = (onCore framed {} frameCore).privSize 0 ∧
    (onCore framed {} frameCore).Roomy 0 ∧ (onCore framed {} frameCore).mayDepart = true ∧ (buffering framed frameCore).mayDepart = false ∧
    (splitTask twoGrains).Runs founder ∧ (splitTask twoGrains).incsDone 0 0 = true ∧
    (Rec.ofWords (wordsOf ((splitTask []).bytes (localKey 0 0) 128))).halves = none ∧
    ((Rec.ofWords (wordsOf ((splitTask twoGrains).bytes (localKey 0 0) 128))).halves).isSome = true := by
  refine ⟨free_of rfl, ?_, ?_, rfl, ?_, traps_of rfl, rfl, rfl, rfl, resides_of ?_, rfl, ?_, ?_, roomy_of ?_, ?_, ?_, rfl, rfl, ?_, ?_⟩
  all_goals first | decide +kernel | (unfold State.Unbound; decide +kernel)

theorem witness_HalvesCoverTheDomain : ((Rec.ofWords (wordsOf ((splitTask twoGrains).bytes (localKey 0 0) 128))).halves).isSome = true := by
  decide +kernel

/-- A task with scratch; a roll-call cell that counts 1, or 2, at 0xBFF0; a record with a grain at 0xBF80, without a cell and with one at
0x100. -/
def scratchTask : State :=
  onCore member {} { seats := [(0, { state := 1, live := 1, scratchUnits := 1, lowRes := 256 })] }
def joiner : Thread := { user with ctx := { user.ctx with x0 := 0xBFF0 } }
def joining (n : Byte) : State := { onCore joiner with mem := [(localKey 0 0xBFF0, n)] }
def forking (cell : List (Nat × Byte)) : State := { onCore user {} {} {} with mem := (localKey 0 0xBFA8, 1) :: cell }
def withCell : State := forking [(localKey 0 0xBFD1, 1)]
theorem witness_TasksSpawnAllocJoinAndFork :
    (onCore user).Free user ∧ (user.ctx.get 0).toNat % 4 = 0 ∧ (onCore user).Reaches user (user.ctx.get 9) ∧
    (onCore user).mayDepart = true ∧ (buffering user).mayDepart = false ∧
    scratchTask.Runs member ∧ member.task = some { seatCore := 0, seat := 0 } ∧
    (scratchTask.seatOf { seatCore := 0, seat := 0 }).scratchUnits ≠ 0 ∧
    (member.ctx.get 0).toNat ≤ (scratchTask.seatOf { seatCore := 0, seat := 0 }).lowRes ∧
    (scratchTask.seatOf { seatCore := 0, seat := 0 }).lowRes < (member.ctx.get 8).toNat ∧
    (scratchTask.seatOf { seatCore := 0, seat := 0 }).image.isSplit = false ∧
    ((onCore member).seatOf { seatCore := 0, seat := 0 }).scratchUnits = 0 ∧
    (joining 1).Resides joiner ∧ (joining 1).Private (joiner.ctx.get 0) 16 ∧ (joiner.ctx.get 0).toNat % 16 = 0 ∧
    ofBytes ((joining 1).bytes ((joining 1).homeKey (joiner.ctx.get 0)) 8) = 1 ∧
    ofBytes ((joining 2).bytes ((joining 2).homeKey (joiner.ctx.get 0)) 8) = 2 ∧ (joining 2).mayDepart = true ∧ (joining 2).Unbound joiner.tid ∧
    (forking []).Resides user ∧ (forking []).Private (user.ctx.get 3) 128 ∧ (user.ctx.get 3).toNat % 128 = 0 ∧ (forking []).mayDepart = true ∧
    ((forking []).recordHere (user.ctx.get 3)).grain 0 = 1 ∧ ((forking []).recordHere (user.ctx.get 3)).isSplit = false ∧
    (forking []).forkCores 0 = [0] ∧ ((forking []).recordHere (user.ctx.get 3)).cell = 0 ∧ (user.ctx.get 13).toNat = 0 ∧
    withCell.Resides user ∧ withCell.Private (user.ctx.get 3) 128 ∧ (withCell.recordHere (user.ctx.get 3)).grain 0 = 1 ∧
    (withCell.recordHere (user.ctx.get 3)).cell = 0x100 := by
  refine ⟨witness_free, ?_, reaches_of ?_, ?_, ?_, rfl, rfl, ?_, ?_, ?_, ?_, ?_, resides_of ?_, private_of ?_, ?_, ?_, ?_, ?_, ?_,
    resides_of ?_, private_of ?_, ?_, ?_, ?_, ?_, ?_, ?_, ?_, resides_of ?_, private_of ?_, ?_, ?_⟩
  all_goals first | decide +kernel | (unfold State.Unbound; decide +kernel)

/-- A supervisor whose registers hold a parked thread's id, a notice to mailbox 2 of core 1, and a copy to resume and to abandon; a
user-level one. -/
def waker : Thread := { super with ctx := { super.ctx with x0 := 7, x1 := 0x0000000500000103, x2 := 0x8000000000000001, x3 := 0xC000000000000001 } }
def wakes : State := onCore waker {} { parkUsed := [0], parked := [(0, { user with tid := 7 })] }
theorem witness_WakeForms : wakes.Runs waker ∧ (waker.ctx.get 0).toNat % 2 ^ 32 ≠ 0 ∧ (waker.ctx.get 0).toNat / 2 ^ 32 = 0 ∧
    waker.ctx.status.sup = true ∧ (onCore waker).Runs waker ∧ ((onCore waker).core 0).parkOf ((waker.ctx.get 0).truncate 32) = none ∧
    (wakes.core 0).parkOf ((waker.ctx.get 0).truncate 32) = some (0, { user with tid := 7 }) ∧ user.task = none ∧
    wakes.running.park = none ∧ (wakes.core 0).arrivals = [] ∧
    ((wakes.core 0).ring 0).items = [] ∧ (∀ k < 8, ∀ va cls kind, (wakes.slot 0 k).park ≠ some (.fault va cls kind)) ∧
    (waker.ctx.get 1).getLsbD 63 = false ∧ (waker.ctx.get 1).getLsbD 32 = true ∧ (waker.ctx.get 1).toNat % 2 ^ 32 ≠ 0 ∧
    (waker.ctx.get 1).toNat / 2 ^ 37 = 0 ∧ waker.ctx.status.spl = false ∧
    wakes.inGroup 0 ((waker.ctx.get 1).toNat / 2 ^ 8 % 2 ^ 24) = true ∧ wakes.mayDepart = true ∧
    (waker.ctx.get 2).getLsbD 63 = true ∧ (waker.ctx.get 2).getLsbD 62 = false ∧ (waker.ctx.get 3).getLsbD 62 = true ∧
    ({ wakes with ir := 1 <<< 18 } : State).irA = 1 ∧ plain [({ wakes with ir := 1 <<< 18 } : State).irA] = true ∧
    ({ wakes with ir := 1 <<< 18 } : State).Runs waker := by
  have q : ∀ k < 8, (wakes.slot 0 k).park = none := by decide +kernel
  refine ⟨rfl, ?_, ?_, rfl, rfl, ?_, ?_, rfl, rfl, rfl, rfl, fun k hk va cls kind h => by simp [q k hk] at h, ?_, ?_, ?_, ?_, rfl, ?_, ?_, ?_,
    ?_, ?_, ?_, ?_, rfl⟩ <;> decide +kernel

/-- Queues and mailboxes: the record of 32 bytes that ends the private portion; an entry, and one in a ring; a notice in mailbox 0; empty
mailboxes. -/
def queueUser : Thread := { user with ctx := { user.ctx with x0 := 0xBF80, x1 := 1 } }
def queued : State :=
  onCore queueUser {} { q0 := [{ frame := 0xBF80 }], mailboxes := [(0, { fifo := [5] })] }
/-- Queue and mailbox rings in bulk pages of the core's column; the entry of ring 1 has frame 0x80. -/
def spilled : Traveller := { src := 0, dst := 0, vc := 0, load := .context user none none }
def ringCore : Core :=
  { dtlb := [{ bulkPage with size := 16 }], qovf := 0x100001, mbovf := 0x100001, mailboxes := [(2, { fifo := [1, 2, 3], ringCount := 1 })]
    rings := [(1, { next := 1, items := [{ pos := 0 }] }), (0, { next := 1, items := [{ pos := 0, context := some spilled }] })] }
def ringed : State := { onCore user {} ringCore with mem := [(0x10080, 0x80)] }
theorem witness_QueueAndMailboxInstructions : queued.Resides queueUser ∧ (queueUser.ctx.get 0).toNat + 32 ≤ queued.privSize 0 ∧
    (queueUser.ctx.get 0).toNat % 128 = 0 ∧ (queueUser.ctx.get 1).toNat ≤ 3 ∧ queued.mayDepart = true ∧ (buffering queueUser).mayDepart = false ∧
    (queued.core 0).isRing5 (queueUser.ctx.get 0).toNat = false ∧ (queued.recordHere (queueUser.ctx.get 0)).isSplit = false ∧
    queued.Roomy 1 ∧ queued.Free queueUser ∧ queueUser.bounded 0 = false ∧ (queued.core 0).topPrio = some 0 ∧ queued.ringsRead 0 = true ∧
    (queued.core 0).queue 0 = [{ frame := 0xBF80 }] ∧ ((onCore user).core 0).topPrio = none ∧
    ringed.Free user ∧ (ringed.core 0).topPrio = some 1 ∧ ringed.ringsRead 0 = true ∧ (ringed.core 0).queue 1 = [] ∧
    ringed.spilled 0 1 = [({ pos := 0 }, { frame := 0x80 })] ∧ queued.RinglessMail ∧ ((queued.core 0).mailbox 0).fifo = [5] ∧
    (queueUser.ctx.get 9) = 1 ∧ (onCore user).RinglessMail ∧ (∀ j < 16, ((onCore user).core 0 |>.mailbox j).fifo = []) ∧
    (onCore user).Traps user ∧ (user.ctx.get 13) = 0 ∧ (traveller.ctx.get 0).toNat = 2 ^ 62 ∧
    (user.ctx.get 4).toNat ≤ 15 ∧ (user.ctx.get 3) ≠ 0 ∧ (user.ctx.get 3).toNat % 128 = 0 ∧
    (user.ctx.get 3).toNat + 128 = (onCore user).privSize 0 := by
  refine ⟨resides_of ?_, ?_, ?_, ?_, ?_, ?_, ?_, ?_, roomy_of ?_, free_of rfl, ?_, ?_, ?_, ?_, ?_, free_of rfl, ?_, ?_, ?_, ?_, ?_, ?_, ?_, ?_, ?_,
    witness_traps.1, ?_, ?_, ?_, ?_, ?_, ?_⟩
  all_goals first | decide +kernel | (unfold State.RinglessMail; decide +kernel)

/-- Core barriers with a participant, and a supervisor in a partition. -/
def barred : Core := { barriers := [(0, { count := 1 })] }
theorem witness_BarrierInstructions : (onCore user {} barred).Runs user ∧ user.ctx.status.met = false ∧
    (onCore user {} barred).barCount 0 0 0 ≠ 0 ∧ (onCore user {} barred).drained = true ∧
    (buffering user barred).Runs user ∧ (buffering user barred).barCount 0 0 0 ≠ 0 ∧ (buffering user barred).drained = false ∧
    (onCore user).Traps user ∧ (onCore user).barCount 0 0 0 = 0 ∧ (user.ctx.get 9).toNat = 1 ∧ (onCore super).Runs super ∧
    super.ctx.status.sup = true ∧ super.ctx.status.met = false ∧ (onCore super).partOf 0 = some 0 ∧ (2 : BitVec 3).toNat = 2 := by
  refine ⟨rfl, rfl, ?_, ?_, rfl, ?_, ?_, witness_traps.1, ?_, ?_, rfl, rfl, rfl, ?_, ?_⟩ <;> decide +kernel

/-- A traveller from a module with a partition 0 to another with one, from which the first is routed: the pod root is module 0. -/
def pod (p : Payload) : Traveller := { src := 0, dst := barRoot 1 0 4, vc := 3, stands := barRoot 1 0 4, load := p }
def relayed (p : Payload) (ok : Bool := true) : State :=
  { modules := [(0, { oneModule with routes := [(1, 0)] }), (1, { oneModule with routes := [(0, 0)] })]
    net := [pod p], args := { ok } }
/-- Slot 0 of core 0 waits for the root of a die barrier to take its count, or not. -/
def setting (p : Option Park) : State := coming (.barSet 2 0 0 5 0) { slots := [(0, { thread := some super, park := p })] }
theorem witness_BarrierRounds : ({ count := 2 } : Barrier).arrived < ({ count := 2 } : Barrier).count ∧
    ((onCore user { park := some (.barrier 0 3 5 []) }).slot 0 0).waitsBar 0 3 = some (5, []) ∧
    ((Barrier.arrive { count := 1 } 1).gen ≠ ({ count := 1 } : Barrier).gen ∧ (Barrier.arrive { count := 2 } 1).gen = ({ count := 2 } : Barrier).gen) ∧
    (coming (.barArrive 2 0 0 1)).arriving 0 = some (sent (.barArrive 2 0 0 1)) ∧
    (coming (.barRelease 3 0 0 1)).arriving 0 = some (sent (.barRelease 3 0 0 1)) ∧
    (relayed (.barArrive 4 0 0 1) false).arriving 0 = some (pod (.barArrive 4 0 0 1)) ∧
    (relayed (.barArrive 4 0 0 1)).arriving 0 = some (pod (.barArrive 4 0 0 1)) ∧
    (relayed (.barRelease 4 0 0 1)).arriving 0 = some (pod (.barRelease 4 0 0 1)) ∧
    (relayed (.barSet 4 0 0 5 0)).arriving 0 = some (pod (.barSet 4 0 0 5 0)) ∧
    moduleOf (barRoot 1 0 4) = 1 ∧ moduleOf 0 = 0 ∧
    ((relayed .probe).landed 0 (pod .probe)).podRoot 1 0 = 0 ∧
    (setting (some .barset)).arriving 0 = some (sent (.barSet 2 0 0 5 0)) ∧
    ((((setting (some .barset)).landed 0 (sent (.barSet 2 0 0 5 0))).rootChange 0 0 2 0 0 (·.take 5)).slot 0 0).park =
      some .barset ∧
    ((((setting none).landed 0 (sent (.barSet 2 0 0 5 0))).rootChange 0 0 2 0 0 (·.take 5)).slot 0 0).park ≠
      some .barset := by
  refine ⟨?_, ?_, ?_, ?_, ?_, ?_, ?_, ?_, ?_, ?_, ?_, ?_, ?_, ?_, ?_⟩ <;> decide +kernel

/-- Supervisors whose registers hold an aligned address of space 0, the largest division that `lmsplit` takes, and a whole `tlbinv`. -/
theorem witness_SpecialRegisterReadsAndWrites : (onCore super).Runs super ∧ super.ctx.status.sup = true ∧ super.bounded 0 = false ∧
    isHead 0 = false ∧ (onCore user).Traps user ∧ (∃ e ∈ tableSreg, e.1 = 0x040 ∧ e.2.1 = true) ∧ (∀ e ∈ tableSreg, e.1 ≠ 0x001) ∧
    (super.ctx.get 5).toNat % 2 ^ 14 = 0 ∧ (super.ctx.get 5).toNat < 2 ^ 52 ∧ spaceOf (super.ctx.get 5).toNat = 0 ∧
    (0x840 : Word).toNat / 16 % 16 = 4 ∧ (0x840 : Word).toNat / 16 % 16 + (0x840 : Word).toNat / 256 % 16 = 12 ∧
    (super.ctx.get 5).toNat / 2 ^ 61 % 4 ≠ 3 ∧
    (onCore super).drained = true ∧ (onCore visitor).Traps visitor ∧ visitor.birth ≠ 0 ∧ (super.ctx.get 13).toNat % 2 ^ 8 < 128 := by
  refine ⟨rfl, rfl, ?_, ?_, witness_traps.1, ⟨(0x040, true, fun s _ => s.running.eip), by simp [tableSreg], rfl, rfl⟩,
    by simp [tableSreg], ?_, ?_, ?_, ?_, ?_, ?_, ?_, traps_of rfl, ?_, ?_⟩
  all_goals decide +kernel

/-- Signatures that differ, and that agree. -/
theorem witness_SystemInstructions : (onCore user { sigst := 0x100010000 }).Traps user ∧
    (onCore user { sigst := 0x100010000 }).running.sigst.getLsbD 32 = true ∧
    (onCore user { sigst := 0x100010000 }).running.sigst.extractLsb' 0 16 ≠
      (onCore user { sigst := 0x100010000 }).running.sigst.extractLsb' 16 16 ∧
    (onCore user { sigst := 0x100010001 }).running.sigst.extractLsb' 0 16 =
      (onCore user { sigst := 0x100010001 }).running.sigst.extractLsb' 16 16 ∧
    (onCore user).running.sigst.getLsbD 32 = false ∧ (onCore super).Runs super ∧ super.ctx.status.sup = true ∧ super.ctx.status.met = false ∧
    (onCore super).running.estat.getLsbD 16 = false :=
  ⟨traps_of rfl, by decide, by decide, by decide, by decide, rfl, rfl, rfl, by decide⟩

theorem witness_TrapThenReturnRestoresTheThread : (onCore user).Traps user ∧ user.ctx.status.met = false ∧ user.ctx.p.getLsbD 0 = true ∧
    user.ctx.ip.toNat % 4 = 0 := by
  refine ⟨witness_traps.1, rfl, ?_, ?_⟩ <;> decide +kernel

/-- A supervisor with a record in a bulk page of its column: of 4096 bytes to save into, and one saved under tag 7. -/
def switcher : Thread := { bulkUser with ctx := { bulkUser.ctx with status := { sup := true } } }
def saving : State := { onCore switcher {} { dtlb := [bulkPage] } with mem := [(9, 16)] }
def restoring : State :=
  { onCore switcher {} { dtlb := [bulkPage] } with mem := [(0, 0x43), (1, 0x58), (2, 0x53), (3, 0x56), (16, 7)] }
theorem witness_ContextSwitch : saving.Runs switcher ∧ switcher.ctx.status.sup = true ∧ switcher.ctx.status.met = false ∧
    saving.recordAt switcher (switcher.ctx.get 0) .store = (saving, .places [(.quad 0, 32)]) ∧
    (saving.word ((Place.quad 0).key + 8)).toNat = 4096 ∧ (saving.core 0).held.length < 8 ∧
    restoring.recordAt switcher (switcher.ctx.get 0) .load = (restoring, .places [(.quad 0, 32)]) ∧
    ((wordsOf (restoring.bytes (Place.quad 0).key 32768)).getD 0 0).toNat % 2 ^ 32 = 0x56535843 ∧
    (∀ k < 8, slotMet (wordsOf (restoring.bytes (Place.quad 0).key 32768)) k = false) ∧
    slotUsed (wordsOf (restoring.bytes (Place.quad 0).key 32768)) 0 = false ∧
    restoring.Runs switcher ∧ restoring.slotNo < 8 ∧ (restoring.core 0).held = [] := by
  refine ⟨rfl, rfl, rfl, ?_, ?_, ?_, ?_, ?_, ?_, ?_, rfl, ?_, rfl⟩ <;> decide +kernel

theorem witness_EngineRegisters : (onCore user).Runs user ∧ (fileWidths .vector)[1]? = some (32, true) ∧ 1 + 1 ≠ EngineFile.size .vector ∧
    1 < ({} : Core).vecRegs.length ∧ 12 + 1 = EngineFile.size .vector ∧ 12 < ({} : Core).vecRegs.length := by
  refine ⟨rfl, ?_, ?_, ?_, ?_, ?_⟩ <;> decide

/-- A core that takes every command, with a tensor header of format 8 and blocks of 32. -/
def taker : Thread := { bulkUser with ctx := { bulkUser.ctx with fmta := 0x200, fmtb := 0x200 } }
def taking : State :=
  { onCore taker {} { dtlb := [bulkPage], vecRegs := [64, 1, 1, 1, 0, 0, 0, 0, 0, 0, 0, 0, 0], poolRegs := [0, 1, 0, 0, 0, 0, 16, 0],
                      binRegs := [0x100000, 1, 4, 0, 0, 16, 0] } with
    mem := [(0, 8), (1, 5), (18, 0x80), (19, 0x3F)].map (fun x => (localKey 0 0x200 + x.1, x.2)) }
/-- A command with registers of zeros, as it is asked for. -/
def ask (op : CmdOp) (ef : Nat) (xb : Word) (regs : List Word) : Cmd := taking.asked taker op ef 0 xb 0 regs
/-- Every test of `State.Accepts`. -/
def takes (d : Cmd) : Bool :=
  decide (taking.running.thread = some taker) && !taker.ctx.status.spl && !taker.ctx.status.met &&
    taking.drained && decide ((taking.core taking.here).queued d.engine < 2) && !taking.coreHalted taking.here &&
    decide ((taking.core taking.here).err d.op.file = 0) && !taker.bounded taking.here
def taken (d : Cmd) : Bool :=
  let e := (taking.withHeader taker d).2.1
  takes d && decide (taking.withHeader taker d = (taking, e, true)) && decide (taking.acceptError taking.here taker e true = 0) &&
    decide (e.op = d.op)
theorem accepts_of_taken {d : Cmd} (h : taken d = true) : taking.Accepts taking taker d (taking.withHeader taker d).2.1 := by
  simp only [taken, Bool.and_eq_true, decide_eq_true_eq] at h
  exact accepts_of h.1.1.1 h.1.1.2 h.1.2 h.2
theorem witness_EngineCommandsAreAccepted :
    (∀ op ∈ (tableCopy ++ tableVector 0 0 0 0 0 ++ tableMatrix 0 0 ++ tablePoolBin).map (fun e => (e.op, e.ef)),
      taken (ask op.1 op.2 0 ((taking.core 0).file op.1.file)) = true) ∧
    (∀ e ∈ [(CmdOp.cpr, 10, (1 : Word)), (.cpr, 10, 2), (.cpr, 10, 3), (.binplay, 3, 1)],
      taken (ask e.1 0 0 (((taking.core 0).file e.1.file).set e.2.1 e.2.2)) = true) ∧ taking.irTop = 0 ∧ taking.irB = 0 ∧ taking.irW = false ∧
    taken (ask .cpsi 0 1 (taking.core 0).copyRegs) = true ∧ taken (ask .cpso 1 1 (taking.core 0).copyRegs) = true ∧
    taken (ask .cpc 0 0 (taking.core 0).copyRegs) = true := by
  refine ⟨?_, ?_, ?_, ?_, ?_, ?_, ?_, ?_⟩ <;> decide +kernel

/-- A store in the buffer, two commands in a queue, and a flag copy of a length that is no multiple of 4. -/
def twoCopies : State :=
  onCore user {} { cmds := [{ id := 1, engine := .copy, op := .cp }, { id := 2, engine := .copy, op := .cp }] }
theorem witness_EngineCommandsWaitOrTrap : (buffering user).Runs user ∧ (buffering user).drained = false ∧
    twoCopies.Runs user ∧ twoCopies.drained = true ∧ 2 ≤ (twoCopies.core 0).queued .copy ∧ (onCore user).Traps user ∧
    user.ctx.status.spl = false ∧ (onCore user).drained = true ∧ ((onCore user).core 0).queued .copy < 2 ∧
    (onCore user).coreHalted 0 = false ∧ ((onCore user).asked user .cpf 0 0 (user.ctx.get 8) 0 ({} : Core).copyRegs).wantsHeader = false ∧
    (onCore user).acceptError 0 user ((onCore user).asked user .cpf 0 0 (user.ctx.get 8) 0 ({} : Core).copyRegs) true ≠ 0 := by
  refine ⟨rfl, ?_, rfl, ?_, ?_, witness_traps.1, rfl, ?_, ?_, ?_, ?_, ?_⟩ <;> decide +kernel

/-- A stream bound to the thread: an input with an element, one without, and an output with room. -/
def streaming (b : Bool) (l : List Word) : State :=
  onCore user {} { streams := [{ q := 0, tid := 0, input := b, cmd := 1, base := 0, count := 4, elems := l }] }
theorem witness_StreamOperands :
    (onCore user).Traps user ∧ operandsReady ((onCore user).core 0) 0 [11, 1] [1] = .unbound ∧
    (streaming true []).Runs user ∧ operandsReady ((streaming true []).core 0) 0 [11, 1] [1] = .wait ∧
    isStream 11 = true ∧ (streaming true [7]).Runs user ∧
    ((streaming true [7]).core 0).stream 0 11 = some ⟨0, 0, true, 1, 0, 4, [7], 0, 0⟩ ∧ (streaming false []).Runs user ∧
    ((streaming false []).core 0).stream 0 11 = some ⟨0, 0, false, 1, 0, 4, [], 0, 0⟩ := by
  refine ⟨witness_traps.1, ?_, rfl, ?_, ?_, rfl, ?_, rfl, ?_⟩ <;> decide +kernel


/-- Any payload may be that of a traveller that arrives. -/
theorem witness_arrives (p : Payload) (o : Core) (h : o.lost = false) : (coming p o).Arrives (sent p) := by
  have st : (coming p o).legStalled 0 0 = (idle {}).legStalled 0 0 := rfl
  have sf : (idle {}).legStalled 0 0 = false := by decide +kernel
  have hf : headsFifo (coming p o).net 0 = true := rfl
  refine ⟨?_, h, Eq.trans (b := (idle {}).partTag 0) rfl ((by decide +kernel : (idle {}).partTag 0 = 0)), .inl rfl⟩
  show (if headsFifo (coming p o).net 0 && true && true && (moduleOf 0 == moduleOf 0) && (false || (true && !(coming p o).legStalled 0 0))
    then some (sent p) else none) = some (sent p)
  rw [hf, st, sf]
  rfl

theorem arrives_of {s : State} {x : Traveller} (h : (decide (s.arriving s.args.n = some x) && !(s.core x.dst).lost && decide (s.partTag x.dst = x.part) &&
    decide (x.tag = 0)) = true) : s.Arrives x := by
  simp only [Bool.and_eq_true, decide_eq_true_eq, Bool.not_eq_true'] at h
  exact ⟨h.1.1.1, h.1.1.2, h.1.2, .inl h.2⟩

/-- A core with two entries of which the last may be stolen; one with a probe out; a full mailbox with a ring; a monitor slot that waits. -/
def workers : Core := { q1 := [{}, { image := { flags := 8 } }], steal := .probing 0, seats := [(0, { state := 1, live := 1, tids := [5] })] }
def lastProbe (n : Nat) : Core := { steal := .probing n }
def holder : Core := { holds := [{ key := 4, who := some 0, releases := [] }, { key := 5, who := none, releases := [] }] }
def binder : Core := { mailboxes := [(2, { bound := some {} })] }
def fullMail : Core := { mailboxes := [(2, { fifo := [1, 2, 3, 4] })] }
def monitor : State := { idle {} with cores := [(2 ^ 24, { slots := [(7, { park := some (.recv 1 2 14 0) })] })] }
/-- A stopped copy, reported. -/
def stoppedCopy : Cmd := { id := 1, engine := .copy, op := .cp, fault := some (0, 0, 0), reported := true }
theorem witness_TravellersOfWorkArrive :
    (coming (.probe)).Arrives (sent .probe) ∧ ((coming .probe).core 0).topPrio = none ∧
    ((coming .probe workers).core 0).topPrio = some 1 ∧ (∀ j < 4, (((coming .probe workers).core 0).ring j).items = []) ∧
    ((coming .probe workers).core 0).queue 1 = [({} : QEntry)] ++ [{ image := { flags := 8 } }] ∧
    ((coming .emptyReply workers).core 0).steal = .probing 0 ∧
    ((coming .emptyReply workers).probeList 0)[1]?.isSome = true ∧
    ((coming .emptyReply (lastProbe 57)).probeList 0)[58]?.isSome = true ∧ ((coming .emptyReply (lastProbe 58)).probeList 0)[59]? = none ∧
    (coming .probe).RoomAt 0 1 ∧ ¬ ringed.RoomAt 0 1 ∧ ((ringed.core 0).ring 1).items.length < 256 ∧
    (ringed.writeRing 0 1 (((ringed.core 0).ring 1).spillPos false) ({} : QEntry).bytes).2 = true ∧
    ((coming (.incAck 4) holder).core 0).holds.find? (fun g => g.key == 4) = some { key := 4, who := some 0, releases := [] } ∧
    ((coming (.incAck 5) holder).core 0).holds.find? (fun g => g.key == 5) = some { key := 5, who := none, releases := [] } ∧
    (((coming (.quit 0 5) workers).core 0).seat 0).state ≠ 0 ∧ 5 ∈ (((coming (.quit 0 5) workers).core 0).seat 0).tids ∧
    (((coming (.quit 0 5)).core 0).seat 0).state = 0 ∧
    ({ coming (.spawn 0 0 0 0 0 9 user 0) with now := 72 } : State).Arrives (sent (.spawn 0 0 0 0 0 9 user 0)) ∧
    9 < ({ coming (.spawn 0 0 0 0 0 9 user 0) with now := 72 } : State).refNs (moduleOf 0) ∧
    (coming (.spawn 0 0 0 0 0 0 user 0)).refNs (moduleOf 0) ≤ 0 ∧ (coming (.spawn 0 0 0 0 0 0 user 0)).RoomForContext 0 ∧
    ((coming (.spawnReply 0 0 9 0) { slots := [(0, { thread := some user, park := some (.spawn 1) })] }).slot 0 0).thread = some user ∧
    ((coming (.spawnReply 0 0 9 0) { slots := [(0, { thread := some user, park := some (.spawn 1) })] }).slot 0 0).park = some (.spawn 1) ∧
    monitor.monitorWaits (2 ^ 24) = true ∧ (idle {}).monitorWaits 0 = false ∧
    ({ slots := [(0, { park := some (.recv 1 2 4 0) })] } : Core).recvWaiter 2 = some (0, 1, 2) ∧ (ringed.core 0).recvWaiter 2 = none ∧
    binder.recvWaiter 2 = none ∧ (binder.mailbox 2).bound = some {} ∧ ({} : Core).recvWaiter 2 = none ∧
    (({} : Core).mailbox 2).fifo.length < 4 ∧ (({} : Core).mailbox 2).ringCount = 0 ∧ (({} : Core).mailbox 2).bound = none ∧
    4 ≤ (fullMail.mailbox 2).fifo.length ∧ fullMail.recvWaiter 2 = none ∧ (fullMail.mailbox 2).bound = none ∧
    fullMail.mbovf.getLsbD 0 = false ∧ ((ringed.core 0).mailbox 2).bound = none ∧ (ringed.core 0).mbovf.getLsbD 0 = true ∧
    ((ringed.core 0).mailbox 2).ringCount ≠ 0 ∧ ((ringed.core 0).mailbox 2).ringCount < 256 ∧
    (ringed.netKey 0 ((ringed.core 0).mbRingAddr 2 1) 8 true).2 = some 0x1008 ∧ ((ringed.core 0).mailbox 2).fifo.length < 4 ∧
    (ringed.netKey 0 ((ringed.core 0).mbRingAddr 2 0) 8 false).2 = some 0x1000 ∧
    ({ cmds := [stoppedCopy] } : Core).cmds.find? (fun e => e.id == 1 && e.fault.isSome) = some stoppedCopy ∧
    (∀ e ∈ ({ cmds := [stoppedCopy] } : Core).cmds, e.id ≠ 1 → e.fault.isSome = true → e.reported = true) := by
  refine ⟨witness_arrives _ _ rfl, ?_, ?_, ?_, ?_, ?_, ?_, ?_, ?_, ?_, ?_, ?_, ?_, ?_, ?_, ?_, ?_, ?_, arrives_of ?_, ?_, ?_, ?_, ?_, ?_, ?_, ?_, ?_, ?_,
    ?_, ?_, ?_, ?_, ?_, ?_, ?_, ?_, ?_, ?_, ?_, ?_, ?_, ?_, ?_, ?_, ?_, ?_, ?_⟩
  all_goals first | decide +kernel | (unfold State.RoomAt; decide +kernel) | (unfold State.RoomForContext; decide +kernel)

/-- Parties of one pennant, the first of them waiting, matched or placed, and its traveller. -/
def party : Party := { thread := user, d := 1, pennant := 0x4000000000000000, la := 0, len := 0, luggage := [], deadline := 5, origin := 0, tag := 1, came := user }
def partyIn (p : Party) : Traveller := (sent (.party p))
def cloakroom (s : CloakState) (s1 : CloakState := .matched 0) : State :=
  { coming (.party party) with quads := [(0, { cloak := [(0, { party, state := s }), (1, { party, state := s1 })] })] }
/-- A party of another pennant, and a cloakroom that has one entry left. -/
def other : Party := { party with pennant := 0x4000000000000001 }
def crowd (s : CloakState) : State :=
  { coming (.party other) with quads := [(0, { cloak := (List.range 14).map (fun i => (i, { party, state := if i = 0 then s else .matched 0 })) })] }
def queuedContext (p : Payload) : Core := { arrivals := [{ src := 0, dst := 0, vc := 0, load := p }] }
def reservedSlot : State :=
  { cloakroom (.placed 0 0 1 1) (.placed 0 1 0 0) with cores := [(0, { slots := [(0, { reserved := some (0, 0) })] })] }
def bearer : Core := { slots := [(0, { thread := some user, carried := some (.luggage 0 []) })] }
theorem witness_ContextsAndPartiesArrive :
    (coming (.context user none none)).Arrives (sent (.context user none none)) ∧
    ((coming (.context user none none)).landed 0 (sent (.context user none none))).contextFate 0 user none = none ∧
    (coming (.context user none none)).RoomForContext 0 ∧ isHead (2 ^ 24) = true ∧
    ({ net := [{ src := 0, dst := 2 ^ 24, vc := 0, part := 16, load := .context user none none }] } : State).Arrives
      { src := 0, dst := 2 ^ 24, vc := 0, part := 16, load := .context user none none } ∧
    (idle {} (queuedContext (.context user none none))).TakesTurn 0 0 ∧
    (((idle {} (queuedContext (.context user none none))).turned 0).slot 0 0).reserved = none ∧
    (((idle {} (queuedContext (.context user none none))).turned 0).core 0).arrivals =
      [{ src := 0, dst := 0, vc := 0, load := .context user none none }] ∧
    (idle {} (queuedContext (.spawn 0 0 0 0 0 0 user 0))).TakesTurn 0 0 ∧
    (idle {} (queuedContext (.spawn 0 0 0 0 0 0 user 0))).refNs (moduleOf 0) ≤ 0 ∧
    ({ idle {} (queuedContext (.spawn 0 0 0 0 0 9 user 0)) with now := 72 } : State).TakesTurn 0 0 ∧
    9 < ({ idle {} (queuedContext (.spawn 0 0 0 0 0 9 user 0)) with now := 72 } : State).refNs (moduleOf 0) ∧ user.task = none ∧
    (onCore user).hasTurn 0 1 = false ∧ ((onCore user).cycleStart 0).takesWork 0 0 = false ∧
    (ringed.core 0).arrivals.length < 8 ∧
    ((ringed.core 0).ring 0).items.find? (fun i => i.context.isSome) = some { pos := 0, context := some spilled } ∧
    (ringed.netKey 0 ((ringed.core 0).ringAddr 0 0) 1 false).2 = some 0 ∧
    (∀ i ∈ (((onCore user).core 0).ring 0).items, i.context = none) ∧
    ((idle {} (queuedContext (.spawn 0 0 0 0 0 0 user 0))).core 0).waitingArrivals[0]? =
      some { src := 0, dst := 0, vc := 0, load := .spawn 0 0 0 0 0 0 user 0 } ∧
    (ringed.core 0).waitingArrivals[(ringed.core 0).arrivals.length]? = some spilled ∧ ringed.relocking (moduleOf 0) (dieOf 0) = false ∧
    0 < (queuedContext (.context user none none)).arrivals.length ∧
    (coming (.party { party with tag := 7 })).arriving 0 = some (partyIn { party with tag := 7 }) ∧
    (coming (.party party)).arriving 0 = some (partyIn party) := by
  refine ⟨witness_arrives _ _ rfl, ?_, ?_, ?_, ⟨?_, ?_, ?_, .inl rfl⟩, ⟨?_, ?_⟩, ?_, ?_, ⟨?_, ?_⟩, ?_, ⟨?_, ?_⟩, ?_, ?_, ?_, ?_, ?_, ?_, ?_, ?_, ?_, ?_, ?_, ?_, ?_, ?_⟩
  all_goals first | decide +kernel | (unfold State.RoomForContext; decide +kernel)

/-- The arrival of a party: no core takes it, it comes too late, with a full cloakroom, alone, or to its match; a matched pair to place; a
pair that its slots take; parties whose deadline comes; a party that returns, and luggage. -/
theorem witness_PartiesArrive :
    (coming (.party party)).arriving 0 = some (sent (.party party)) ∧
    ((coming (.party party) { lost := true }).landed 0 (sent (.party party))).takesParty (sent (.party party)) = true ∧
    ({ coming (.party party) with net := [{ sent (.party party) with part := 3 }] } : State).arriving 0 =
      some { sent (.party party) with part := 3 } ∧
    (({ coming (.party party) with net := [{ sent (.party party) with part := 3 }] } : State).landed 0
      { sent (.party party) with part := 3 }).takesParty { sent (.party party) with part := 3 } = false ∧
    (let s := (coming (.party party)).landed 0 (sent (.party party))
     s.takesParty (sent (.party party)) = true ∧ (s.quad 0).waitingParties = [] ∧ 2 ≤ (s.quad 0).freeEntries ∧
     s.expired 0 party.deadline = false ∧ s.expired 0 0 = true) ∧
    (let s := (crowd .waiting).landed 0 (sent (.party other))
     (crowd .waiting).arriving 0 = some (sent (.party other)) ∧ s.takesParty (sent (.party other)) = true ∧
     (s.quad 0).waitingParties.find? (fun e => e.2.party.pennant == other.pennant && e.2.party.tag == other.tag) = none ∧
     (s.quad 0).freeEntries < 2 ∧ s.expired 0 other.deadline = false) ∧
    (let s := (cloakroom .waiting).landed 0 (sent (.party party))
     (cloakroom .waiting).arriving 0 = some (sent (.party party)) ∧ s.takesParty (sent (.party party)) = true ∧
     (s.quad 0).waitingParties.find? (fun e => e.2.party.pennant == party.pennant && e.2.party.tag == party.tag) = some (0, { party })) ∧
    (let s := cloakroom (.matched 1)
     (s.quad 0).cloak.get 0 = some { party, state := .matched 1 } ∧ (s.quad 0).cloak.get 1 = some { party, state := .matched 0 } ∧
     0 = coreOfQuad 0 0 ∧ s.coreHalted 0 = false ∧ s.tagOf 0 = party.tag ∧ s.emptySlots 0 = [0, 1, 2, 3, 4, 5, 6, 7] ∧
     s.expired 0 party.deadline = false) ∧
    (reservedSlot.TakesTurn 0 0 ∧ ((reservedSlot.turned 0).slot 0 0).reserved = some (0, 0) ∧
     ((reservedSlot.turned 0).quad 0).cloak.get 0 = some { party, state := .placed 0 0 1 1 } ∧ isStream party.d = false) ∧
    (let s : State := { cloakroom .waiting with now := 10 ^ 6 }
     (s.quad 0).cloak.get 0 = some { party } ∧ s.expired 0 party.deadline = true ∧ (cloakroom .waiting).expired 0 party.deadline = false) ∧
    (let s : State := { cloakroom (.matched 1) with now := 10 ^ 6 }
     (s.quad 0).cloak.get 0 = some { party, state := .matched 1 } ∧ s.expired 0 party.deadline = true ∧ 1 ≠ 0 ∧
     (s.quad 0).cloak.get 1 = some { party, state := .matched 0 }) ∧
    (coming (.partyReturn party (some 3) true)).Arrives (sent (.partyReturn party (some 3) true)) ∧
    (coming (.luggageWrite 0 [1] 0 0)).Arrives (sent (.luggageWrite 0 [1] 0 0)) ∧ (coming (.luggageAck 0)).Arrives (sent (.luggageAck 0)) ∧
    ((idle {} bearer).slot 0 7).thread = none ∧ ((idle {} bearer).slot 0 0).thread = some user ∧
    user.tid = 0 ∧ ((idle {} bearer).slot 0 0).carried = some (.luggage 0 []) := by
  refine ⟨?_, ?_, ?_, ?_, ?_, ?_, ?_, ?_, ⟨⟨?_, ?_⟩, ?_, ?_, ?_⟩, ?_, ?_, witness_arrives _ _ rfl, witness_arrives _ _ rfl, witness_arrives _ _ rfl,
    ?_, ?_, ?_, ?_⟩
  all_goals decide +kernel

/-- A die that relocks. -/
def relocked : State := { idle {} {} { oneModule with dies := [(0, { relock := some (1, 10800) })] } with args := {} }
/-- A core with one plain entry to dispatch, and one whose entries stand in a ring; idle thieves; a split task whose period is over; a task
that retires; the steps of a commit. -/
def plainEntry : QEntry := { image := { entry := 0x1000, budget := 1 } }
def ready : Core := { q2 := [plainEntry] }
def thief (f : Steal) (w : Nat) : Core := { steal := f, idleFor := 256, waited := w }
def expired (dom : List (Nat × Byte)) : State :=
  { idle {} { seats := [(0, { state := 1, image := { flags := 0x11 } })] } with mem := dom }
def retiring (l : List (Nat × Thread)) : State := idle {} { seats := [(0, { retiring := true })], leaving := l }
def atStep (n : Nat) (l : List (Nat × MemLog)) (m : List (Nat × Cmd) := []) : State :=
  onCore founder {} { seats := [(0, { state := 2, step := n, live := 1, memLog := l, cmdLog := m, logAt := [(0, 256, 24)] })] }
def hurt : State := { atStep 4 [(0, .store 0 0 8 5)] with bad := [localKey 0 256 / 4] }
def binned : Cmd := { id := 0, engine := CmdOp.binapp.engineOf, op := .binapp }
theorem witness_SchedulerEventsAndCommits :
    ((idle {} ready).TakesTurn 0 0 ∧ (((idle {} ready).turned 0).slot 0 0).reserved = none ∧ (((idle {} ready).turned 0).core 0).arrivals = [] ∧
     ((idle {} ready).turned 0).ringsRead 0 = true ∧ (∀ j < 2, ((idle {} ready).turned 0).entries 0 j = []) ∧
     ((idle {} ready).turned 0).entries 0 2 = plainEntry :: [] ∧ (((idle {} ready).turned 0).core 0).fair.getD 2 0 ≠ 15 ∧
     (((idle {} ready).turned 0).core 0).freeSeat = some 0 ∧ plainEntry.image.malformed = false ∧ plainEntry.image.isSplit = false ∧
     plainEntry.image.saved = false ∧ plainEntry.image.scr = 0) ∧
    ((∀ j < 2, ready.queue j = []) ∧ ready.queue 2 = plainEntry :: [] ∧ ready.fair.getD 2 0 ≠ 15 ∧ ready.fitEntry plainEntry = .run 0 0) ∧
    ((onCore user).hasTurn 0 1 = false ∧ ((onCore user).cycleStart 0).takesWork 0 0 = false ∧
     (reservedSlot.cycleStart 0 |>.slot 0 0).reserved ≠ none ∧
     ((idle {} (queuedContext (.context user none none))).cycleStart 0 |>.core 0).arrivals ≠ []) ∧
    ((∀ p < 4, (({} : Core).ring p).records = 0) ∧ (ringed.core 0).queueCount < 64 ∧ (∀ j < 1, ((ringed.core 0).ring j).records = 0) ∧
     ((ringed.core 0).ring 1).records ≠ 0 ∧ ((ringed.core 0).ring 1).items.find? (fun i => i.context.isNone) = some { pos := 0 } ∧
     (ringed.netKey 0 ((ringed.core 0).ringAddr 1 0) 1 false).2 = some 0x10000) ∧
    ((idle {} (thief .busy 0)).runs 0 = true ∧ (idle {} (thief .busy 0)).isIdle 0 = true ∧ ((idle {} (thief .busy 0)).core 0).steal = .busy ∧
     ((idle {} (thief .busy 0)).probeList 0)[0]? = some 1 ∧ (idle {} (thief .waiting 1024)).isIdle 0 = true ∧
     ((idle {} (thief .waiting 1024)).core 0).steal = .waiting ∧ 1024 ≤ ((idle {} (thief .waiting 1024)).core 0).waited ∧
     (idle {} { thief .waiting 1024 with idleFor := 255 }).isIdle 0 = false ∧ (idle {}).isIdle 0 = false) ∧
    (((expired []).core 0).seat 0 = { state := 1, image := { flags := 0x11 } } ∧
     (Rec.ofWords (wordsOf ((expired []).bytes (localKey 0 0) 128))).halves = none ∧
     ((Rec.ofWords (wordsOf ((expired twoGrains).bytes (localKey 0 0) 128))).halves).isSome = true) ∧
    ((((retiring []).core 0).seat 0).retiring = true ∧ (∀ e ∈ (retiring []).cores, ∀ l ∈ e.2.leaving, l.2.inSeat 0 0 = false) ∧
     member.inSeat 0 0 = true) ∧
    (((atStep 1 []).core 0).drainedSlot 0 = true ∧ ((atStep 4 [(0, .store 0 0 8 5)]).core 0).cmds = [] ∧
     (((atStep 4 [(0, .store 0 0 8 5)]).core 0).seat 0).memLog = (0, .store 0 0 8 5) :: [] ∧
     (atStep 4 [(0, .store 0 0 8 5)]).logBad (((atStep 4 [(0, .store 0 0 8 5)]).core 0).seat 0) 0 = false ∧
     (∃ e, (0, e) ∈ (((atStep 4 [(0, .store 0 0 8 5)]).core 0).seat 0).memLog) ∧
     hurt.logBad ((hurt.core 0).seat 0) 0 = true ∧ (((atStep 4 []).core 0).seat 0).away = [] ∧ (atStep 4 []).relocking (moduleOf 0) (dieOf 0) = false ∧
     (MemLog.store 0 (2 ^ 25) 8 5).near 0 = false ∧ nearHome 0 0 = true ∧ relocked.relocking (moduleOf 0) (dieOf 0) = true ∧
     CmdOp.cpsi.writesMemory = false ∧
     (atStep 4 [(0, .red .add 0 0 8 5)]).health 0 8 = .sound ∧ amoNew .add 8 0 5 0 = some 5 ∧
     (atStep 4 [(0, .join 0 0)]).health 0 16 = .sound ∧ ofBytes ((atStep 4 [(0, .join 0 0)]).bytes 0 8) ≠ 1 ∧
     ({ atStep 4 [(0, .red .add 0 0 8 5)] with bad := [0] } : State).health 0 8 = .media ∧
     ({ atStep 4 [(0, .red .add 0 0 8 5)] with bad := [0] } : State).logBad
      (((atStep 4 [(0, .red .add 0 0 8 5)]).core 0).seat 0) 0 = false ∧
     (∀ h ∈ ((atStep 4 []).core 0).holds, h.who ≠ some founder.tid) ∧ ((atStep 4 []).slot 0 0).thread = some founder ∧
     founder.tid = (((atStep 4 []).core 0).seat 0).founderTid ∧ (((atStep 4 []).core 0).seat 0).founder = 0 ∧
     (((atStep 4 [] [(0, binned)]).core 0).seat 0).cmdLog = (0, binned) :: [] ∧
     (atStep 4 [] [(0, binned)]).logBad (((atStep 4 [] [(0, binned)]).core 0).seat 0) 0 = false) := by
  refine ⟨⟨⟨?_, ?_⟩, ?_, ?_, ?_, ?_, ?_, ?_, ?_, ?_, ?_, ?_, ?_⟩, ?_, ?_, ?_, ?_, ?_, ?_,
    ?_, ?_, ?_, ?_, ⟨_, .head _⟩, ?_, ?_, ?_, ?_, ?_, ?_, ?_, ?_, ?_, ?_, ?_, ?_, ?_, ?_, ?_, ?_, ?_, ?_, ?_⟩
  all_goals decide +kernel

/-- A core with a page table of one page at 0x100000; a store to the commons before a new division; an access of the
loop-back port. -/
def paged : State :=
  { onCore user {} { ptbase := 0x4000 } with mem := [(0x4000, 1), (0x4001, 0x80), (0x8000, 1), (0x8001, 0xA0), (0xA080, 0x3F)] }
def splitting : State := onCore user { park := some (.lmsplit 0x840) }
  { lmsplitCom := 4, buffer := [{ slot := 0, home := localKey 0 0xBFFF, bytes := [1] }] }
def looping (op : AccOp) (parts : List (Nat × Nat)) : State :=
  onCore user { park := some .loopback } { loopq := [(0, { op, va := 0x10000000000, parts })] }
theorem witness_MemoryEvents :
    (((idle {} { buffer := [⟨0, 0, [1], none⟩] }).core 0).buffer = ⟨0, 0, [1], none⟩ :: [] ∧ (idle {}).relocking (moduleOf 0) (dieOf 0) = false ∧
     relocked.relocking (moduleOf 0) (dieOf 0) = true) ∧
    (((looping (.load 8 false 1) [(localKey 0 0, 8)]).core 0).loopq = (0, { op := .load 8 false 1, va := 0x10000000000, parts := [(localKey 0 0, 8)] }) :: [] ∧
     ((looping (.load 8 false 1) [(localKey 0 0, 8)]).slot 0 0).park = some .loopback ∧
     (looping (.load 8 false 1) [(localKey 0 0, 8)]).pathOf 0 (localKey 0 0) = .direct ∧ isLocalKey (localKey 0 0) = true ∧
     (looping (.load 8 false 1) [(localKey 0 0, 8)]).health (localKey 0 0) 8 = .sound ∧
     ((looping (.store 8 5) [(localKey 0 28, 4), (localKey 0 32, 4)]).core 0).loopq =
      (0, { op := .store 8 5, va := 0x10000000000, parts := [(localKey 0 28, 8 - 4), (localKey 0 32, 4)] }) :: []) ∧
    Memory.wf (onCore user).mem = true ∧
    ((0, (0x100000 : Word).toNat / 2 ^ 16, false) ∉ ((idle { va := 0x100000 }).quad 0).misses.take 2 ∧ isHead 0 = false ∧ isHead (2 ^ 24) = true ∧
     (0, (0x100000 : Word).toNat / 2 ^ 16, false) ∈
      (({ idle { va := 0x100000 } with quads := [(0, { misses := [(1, 0, false), (0, 16, false)] })] } : State).quad 0).misses.take 2) ∧
    (((onCore user).core 0).dtlb = [] ∧ ((onCore user).quad (quadOf 0)).tlb = [] ∧ 18 ≤ (crowded.quad (quadOf 0)).misses.length ∧
     ((onCore user).quad (quadOf 0)).misses.length < 18 ∧
     (onCore user).walk ((onCore user).core 0).ptbase.toNat ((onCore user).partTag 0) 0 0x100000 = .fault 0 ∧
     (match paged.walk (paged.core 0).ptbase.toNat (paged.partTag 0) 0 0x100000 with | .page _ => true | _ => false) = true) ∧
    (((onCore user { park := some (.tlbinv 0) }).slot 0 0).park = some (.tlbinv 0) ∧
     ((onCore user { park := some (.tlbinv 0x2000000000000000) }).slot 0 0).park = some (.tlbinv 0x2000000000000000) ∧
     ((onCore user { park := some (.tlbinv 0x4000000000000000) }).slot 0 0).park = some (.tlbinv 0x4000000000000000) ∧
     (0 : Word).toNat / 2 ^ 61 % 4 = 0 ∧ (0x2000000000000000 : Word).toNat / 2 ^ 61 % 4 = 1 ∧
     (0x4000000000000000 : Word).toNat / 2 ^ 61 % 4 = 2) ∧
    ((((onCore user { park := some (.lmsplit 0x840) }).slot 0 0).park = some (.lmsplit 0x840)) ∧ (onCore user).commonsPending (quadOf 0) = false ∧
     (0x840 : Word).toNat / 16 % 16 + (0x840 : Word).toNat / 256 % 16 ≤ 12 ∧
     (onCore user).relocking (moduleOf 0) (dieOf 0) = false ∧ (onCore user).waiters (localKey (coreOfQuad (quadOf 0) 0) 0) = [] ∧
     splitting.commonsPending (quadOf 0) = true) := by
  refine ⟨?_, ?_, ?_, ?_, ?_, ?_, ?_⟩ <;> decide +kernel

/-- A thread with a bulk address and a park area, whose page is missing, or may not be written; no record, one, or all are in use. -/
def parking (used : List Nat) (l : List TlbEntry) (t : Thread := bulkUser) : State := onCore t {} { upv := 0x1001, parkUsed := used, dtlb := l }
def bulkSuper : Thread := { bulkUser with ctx := { bulkUser.ctx with status := { sup := true } } }
def readOnly : TlbEntry := { bulkPage with w := false }
theorem witness_PageFaultsPark :
    0x30000 ≤ 0x100000 ∧ 0x100000 < 2 ^ 40 ∧ isHead 0 = false ∧ ((parking [] []).lookup 0 0x100000 false).2 = .fault 0 ∧
    (parking [] [readOnly] bulkSuper).lookup 0 0x100000 false = (parking [] [readOnly] bulkSuper, .page readOnly) ∧
    bulkSuper.ctx.status.sup = true ∧ spaceOf (readOnly.phys 0x100000) ≠ 1 ∧ readOnly.w = false ∧
    (parking [] []).Runs bulkUser ∧ plain [0, 1, 2] = true ∧ bulkUser.ctx.status.spl = false ∧ (parking [] []).running.meet = none ∧
    8 ≤ roomAt (bulkUser.ctx.address 0 0) ∧ (bulkUser.ctx.address 0 0).toNat % 8 = 0 ∧ (bulkUser.ctx.get 0).toNat % amoSize 1 = 0 ∧
    (∀ kind ∈ [AccKind.load, .store, .atomic], ((parking [] []).place 0 bulkUser none (bulkUser.ctx.address 0 0).toNat 8 kind).2 = .fault 0 ∧
      ((parking [] []).place 0 bulkUser none (bulkUser.ctx.address 0 0).toNat 8 kind).1.cur = (parking [] []).cur ∧
      ((parking [] []).place 0 bulkUser none (bulkUser.ctx.address 0 0).toNat 8 kind).1.running.thread = some bulkUser ∧
      ((parking [] []).place 0 bulkUser none (bulkUser.ctx.address 0 0).toNat 8 kind).1.running.meet = none ∧
      ((parking [] []).place 0 bulkUser none (bulkUser.ctx.address 0 0).toNat 8 kind).1.parkArea 0 = some 0x1000) ∧
    ((parking [] [readOnly]).place 0 bulkUser none (bulkUser.ctx.address 0 0).toNat 8 .store).2 = .fault 1 ∧
    0 ∉ ((parking [] []).core 0).parkUsed ∧ (∀ j < 7, j ∈ ((parking (List.range 7) []).core 0).parkUsed) ∧
    7 ∉ ((parking (List.range 7) []).core 0).parkUsed ∧ (∀ j < 8, j ∈ ((parking (List.range 8) []).core 0).parkUsed) := by
  refine ⟨?_, ?_, ?_, ?_, ?_, ?_, ?_, ?_, rfl, ?_, ?_, ?_, ?_, ?_, ?_, ?_, ?_, ?_, ?_, ?_, ?_⟩ <;> decide +kernel

/-- A core that takes interrupts in slot 0, for a pending mailbox notice; and the same with the slot empty. -/
def interrupted : Core := { ivslot := 8, mbie := 1, mailboxes := [(0, { fifo := [1] })] }
def timed (w : Word) : Core := { tcmp := w, ivslot := 0x40 }
theorem witness_RegisterEvents : (onCore super).inSlot.Runs super ∧ super.ctx.status.sup = true ∧ super.bounded (onCore super).inSlot.here = false ∧
    isHead (onCore super).inSlot.here = false ∧
    (∃ e ∈ tableSwr, ({ onCore super with args := { reg := .special 0x032 } } : State).args.reg = .special e.1.toNat) ∧
    (∃ e ∈ tableSwrSlot, ({ onCore super with args := { reg := .special 0x020 } } : State).args.reg = .special e.1.toNat) ∧
    ({ onCore super with args := { reg := .engine .copy 3 } } : State).args.reg = .engine .copy 3 ∧
    (0x7F : Word).toNat % 2 ^ 8 < 128 ∧ (0x4000 : Word).toNat % 2 ^ 14 = 0 ∧ (0x4000 : Word).toNat < 2 ^ 52 ∧ spaceOf (0x4000 : Word).toNat = 0 ∧
    (0x840 : Word).toNat / 16 % 16 ≤ 4 ∧ (0x840 : Word).toNat / 16 % 16 + (0x840 : Word).toNat / 256 % 16 ≤ 12 ∧
    (let s : State := { idle {} (timed 1) with now := 10 }
     (s.core 0).tcmp ≠ 0 ∧ (s.core 0).tcmp.toNat ≤ s.cycOf (moduleOf 0) (dieOf 0) ∧ (s.core 0).ivslot.getLsbD 4 = false) ∧
    (let s := onCore user {} interrupted
     s.hasTurn 0 0 = true ∧ ((s.cycleStart 0).core 0).ivslot.getLsbD 3 = true ∧ ((s.cycleStart 0).core 0).ivslot.toNat % 8 = 0 ∧
     ((s.cycleStart 0).core 0).dbgh.getLsbD 0 = false ∧ (s.cycleStart 0).coreHalted 0 = false ∧ isHead 0 = false ∧
     (s.cycleStart 0).level 0 = some 2 ∧ (s.turned 0).level 0 = some 2 ∧ (s.turned 0).coreHalted 0 = false ∧
     ((s.turned 0).slot 0 0).thread = some user ∧ user.ctx.status.sup = false ∧ ((s.turned 0).slot 0 0).interruptible ((s.turned 0).walksOpen 0) = true) ∧
    (let s := idle {} interrupted
     s.hasTurn 0 0 = true ∧ ((s.cycleStart 0).core 0).ivslot.getLsbD 3 = true ∧ (s.cycleStart 0).level 0 = some 2 ∧ (s.turned 0).level 0 = some 2 ∧
     (s.cycleStart 0).coreHalted 0 = false ∧ (s.turned 0).coreHalted 0 = false ∧
     ((s.turned 0).slot 0 0).thread = none ∧ ((s.turned 0).slot 0 0).reserved = none) ∧
    ((idle {}).cycleStart 0 |>.core 0).ivslot.getLsbD 3 = false ∧
    (onCore user).Traps user ∧ refusedBy (onCore user).ir.toNat = some .badMajor := by
  refine ⟨rfl, ?_, ?_, ?_, ⟨(0x032, false, 0x1FFFFFFFF, fun o v => { o with win0 := v }), by simp [tableSwr], rfl⟩,
    ⟨(0x020, false, 0xFFFFFFFFFFFFFFFF, fun l v => { l with mdl := v }), by simp [tableSwrSlot], rfl⟩,
    ?_, ?_, ?_, ?_, ?_, ?_, ?_, ?_, ?_, ?_, ?_, witness_traps.1, ?_⟩
  all_goals decide +kernel

/-- A copy of 8 bytes from 0 to 0x100: accepted, started, with a write to perform here, or at core 0x100, and done. -/
def eight : Cmd := { id := 1, engine := .copy, op := .cp, xa := 0, xb := 0x100, regs := [8, 0, 0, 1, 0, 0, 1, 16, 0, 0, 0, 0] }
def copying (d : Cmd) : State := idle { id := 1, len := 8 } { cmds := [d] }
def begun : Cmd := { eight with started := true }
def writing : PWrite := { va := 0x100, home := localKey 0 0x100, bytes := [1, 2, 3, 4, 5, 6, 7, 8] }
def written (w : PWrite) : Cmd := { begun with reads := [(0, 8)], pending := [w] }
/-- Data of the copy that come to core 0. -/
def inbound (w : PWrite) (o : Core) : State := { coming (.copyData 1 w) o with args := { k := 1 } }
def tile : Latch := { fmt := 0, bytes := [], scales := none }
def zeroing : Cmd := { begun with op := .cpz }
def faulting : Cmd := { begun with xa := 0x100000 }
def subscribing : Cmd := { eight with op := .cps }
def finished : Cmd := { begun with reads := [(0, 8)], performed := 8 }
def distant : PWrite := { writing with home := localKey 256 0x100 }
def ringing : Cmd := { begun with engine := .matrix, op := .mpass }
def waited : Cmd := { ringing with ringWait := 1 }
theorem witness_EngineEvents :
    (((copying eight).core 0).nextToStart .copy = some eight ∧ (copying eight).engineOff 0 eight = false ∧
     ((copying eight).core 0).mayStart eight = true ∧ ((copying subscribing).core 0).nextToStart .copy = some subscribing ∧
     (copying subscribing).engineOff 0 subscribing = false ∧
     ((copying subscribing).core 0).mayStart subscribing = true ∧ ((idle {}).core 0).nextToStart .copy = none) ∧
    ((copying begun).activeCmd 0 1 = some begun ∧ begun.fe = false ∧ 0 < begun.total ∧ (∀ r ∈ begun.reads, rangesMeet (0, 8) r = false) ∧
     (copying zeroing).activeCmd 0 1 = some zeroing ∧
     (copying faulting).activeCmd 0 1 = some faulting ∧
     (match ((copying faulting).modCmd 0 1 (fun _ => faulting)).engineBytes 0 false 0x100000 8 with
      | (_, .fault _ _) => true
      | _ => false) = true) ∧
    (let u := (copying begun).modCmd 0 1 (fun _ => begun)
     u.engineBytes 0 false 0 8 = (u, .bytes (List.replicate 8 0)) ∧ u.engineKey 0 false 0x100 false true = (u, .ok (localKey 0 0x100))) ∧
    (∀ w ∈ [writing, { writing with sent := true }, { writing with full := true }, distant],
      (copying (written w)).args.k = 0 ∧ (copying (written w)).activeCmd 0 1 = some (written w) ∧ (written w).pending[0]? = some w ∧
      w.held = false ∧ w.append = false ∧ w.bits = none ∧ w.red = none) ∧
    writing.near 0 = true ∧ distant.near 0 = false ∧
    homeCore (localKey 256 0x100) = some 256 ∧
    (inbound writing { cmds := [written writing] }).Arrives (sent (.copyData 1 writing)) ∧
    (((inbound writing { cmds := [written writing] }).landed 0 (sent (.copyData 1 writing))).core 0).cmd 1 = some (written writing) ∧
    (((inbound writing { cmds := [begun] }).landed 0 (sent (.copyData 1 writing))).core 0).cmd 1 = some begun ∧
    ((inbound writing { lost := true }).landed 0 (sent (.copyData 1 writing)) |>.core 0).lost = true ∧
    (copying finished).cmdDone 0 finished = true ∧
    (copying begun).cmdDone 0 begun = false ∧ ((idle {}).slot 0 0).park ≠ some (.engine 1) ∧
    ((onCore user { park := some (.engine 1) }).slot 0 0).park = some (.engine 1) ∧
    (coming (.latch tile)).arriving 0 = some (sent (.latch tile)) ∧
    (copying ringing).activeCmd 0 1 = some ringing ∧ (copying ringing).ringStalled 0 ringing = false ∧
    (idle { id := 1 } { cmds := [waited], cycle := 2 ^ 20 + 1 }).ringStalled 0 waited = true := by
  refine ⟨?_, ?_, ⟨rfl, rfl⟩, ?_, ?_, ?_, ?_, ⟨?_, rfl, ?_, .inl rfl⟩, ?_, ?_, ?_, ?_, ?_, ?_, ?_, ?_, ?_, ?_, ?_⟩
  all_goals decide +kernel

/-- A subscription, taken, changed or one too many; a copy from a page of another quad; its read at that home, and back at its core; a part of a
write. -/
def subscribed (n : Nat) : State := idle { id := 1 } { cmds := [{ subscribing with xa := 0x80000 }], subs := (List.range n).map (fun i => { tag := i + 1, base := 0, length := 8 }) }
def farPage : TlbEntry := { bulkPage with pa := 2 ^ 25 }
def afar : Cmd := { begun with xa := 0x100000 }
def reading (l : List TlbEntry) : State := idle { id := 1, len := 8 } { cmds := [afar], dtlb := l }
def farRead (core : Nat) (todo : List (Nat × Nat × Nat)) (err : Option (Nat × Nat)) : Payload := .copyRead { core, id := 1, key := 3, pos := 0, todo, err }
def reaching (p : Payload) (o : Core := {}) : State := { coming p o with args := { k := 1 } }
theorem witness_DistantEngineTraffic :
    (({ subscribing with xa := 0x80000 } : Cmd).xa.toNat / 2 ^ 16 % 2 ^ 32 ≠ 0) ∧
    (((subscribed 1).core 0).subs.any (fun b => b.tag == 1) = true ∧ ((subscribed 15).core 0).subs.length < 16 ∧
     ((subscribed 16).core 0).subs.any (fun b => b.tag == 0) = false ∧ 16 ≤ ((subscribed 16).core 0).subs.length ∧
     ((subscribed 16).core 0).nextToStart .copy = some { subscribing with xa := 0x80000 } ∧
     (subscribed 16).engineOff 0 { subscribing with xa := 0x80000 } = false ∧ ((subscribed 16).core 0).mayStart { subscribing with xa := 0x80000 } = true) ∧
    ((reading [farPage]).args.k = 0 ∧ (reading [farPage]).activeCmd 0 1 = some afar ∧ afar.fe = false ∧ 0 < afar.total ∧
     (((reading [farPage]).modCmd 0 1 (fun _ => afar)).engineKeys 0 false (unitPieces 2 0x100000 8) []).2.toOption = some [(0x100000, 2 ^ 25, 8)] ∧
     nearHome 0 (2 ^ 25) = false ∧
     (((reading [bulkPage]).modCmd 0 1 (fun _ => afar)).engineKeys 0 false (unitPieces 2 0x100000 8) []).2.toOption = some [(0x100000, 0, 8)] ∧
     nearHome 0 0 = true ∧ (((reading []).modCmd 0 1 (fun _ => afar)).engineKeys 0 false (unitPieces 2 0x100000 8) []).2.toOption = none) ∧
    ((reaching (farRead 4 [(0x100000, 0, 8)] none)).Arrives (sent (farRead 4 [(0x100000, 0, 8)] none)) ∧ homeCore 0 = some 0 ∧
     ((reaching (farRead 4 [(0x100000, 0, 8)] none)).landed 0 (sent (farRead 4 [(0x100000, 0, 8)] none))).health 0 8 = .sound ∧
     (({ reaching (farRead 4 [(0x100000, 0, 8)] none) with bad := [0] } : State).landed 0 (sent (farRead 4 [(0x100000, 0, 8)] none))).health 0 8 = .media) ∧
    ((∀ e ∈ [none, some (5, 0x100000)], (reaching (farRead 0 [] e) { cmds := [{ afar with asked := [(3, 0, 8)] }] }).Arrives (sent (farRead 0 [] e))) ∧
     (((reaching (farRead 0 [] none) { cmds := [{ afar with asked := [(3, 0, 8)] }] }).landed 0 (sent (farRead 0 [] none))).core 0).cmd 1 =
      some { afar with asked := [(3, 0, 8)] } ∧ ([(3, 0, 8)] : List (Nat × Nat × Nat)).find? (fun b => b.1 == 3) = some (3, 0, 8)) ∧
    (2 + 4 ≤ writing.bytes.length ∧ nearHome 0 (writing.home + 2) = true ∧ writing.sub = none ∧ writing.full = false) := by
  refine ⟨?_, ?_, ?_, ⟨arrives_of ?_, ?_, ?_, ?_⟩, ⟨fun e he => arrives_of ?_, ?_, ?_⟩, ?_⟩
  case refine_8 => revert e; decide +kernel
  all_goals decide +kernel

/-- A vector command of `len` elements in a format, at a group; with the header of a quantised tensor. -/
def vectorOf (op : CmdOp) (fmt len phase : Nat) : Cmd :=
  { id := 1, engine := .vector, op, xa := 0, xb := 0x40, started := true, phase
    regs := [BitVec.ofNat 64 len, 1, 1, 1, 0x400, 0, BitVec.ofNat 64 fmt, 0, 0, 0x800, 0x900, 0, 0]
    header := [0x20508, 0x600, 0x3F800000, 0] }
/-- The next group of a vector command is read, in a format that the function takes. -/
def vreads (d : Cmd) : Bool :=
  decide ((copying d).args.k = 0) && decide ((copying d).activeCmd 0 1 = some d) && d.pending.isEmpty && decide (d.phase < d.groups) &&
    ((copying d).readGroup 0 d (d.groupIs d.phase)).2.isSome && [0, 1, 2, 3, 5, 6, 7].contains d.vfmt
/-- Two elements of a scatter, at one target. -/
def pair : Group := { is := [0, 1], idx := [3, 3], a := [5, 6], e := [7, 7] }
theorem witness_VectorElementsAreComputed :
    (∀ op ∈ [CmdOp.vadd, .vsub, .vmul, .vfma, .vmin, .vmax, .vabs, .vneg, .vsqrt, .vexp2, .vsel, .vcvt, .vfix, .vflt, .vcmp, .vgat, .vsca,
      .vscadd, .vquant, .vred, .vdot], vreads (vectorOf op 0 32 0) = true) ∧
    (∀ op ∈ [CmdOp.vred, .vdot], vreads (vectorOf op 7 32 0) = true ∧ vreads (vectorOf op 7 17 1) = true ∧ 1 < (vectorOf op 7 17 0).groups ∧
      (vectorOf op 7 17 1).groups = 2) ∧
    (fmtOf 0).isSome = true ∧ fmtOf 7 = none ∧ (fp32.decode 0x3F800000).isNan = false ∧ (fp32.decode 0x7F800001).isNan = true ∧
    intWidth 7 ∈ [8, 16, 32, 64] ∧ 2 * 1 + 1 = [5, 6, 7].length ∧ 2 * 0 + 1 < [5, 6, 7].length ∧ 8 * 0 + 1 < pair.is.length ∧ 0 < (pair.is.length + 7) / 8 ∧
    (∀ op ∈ [CmdOp.vsca, .vscadd], (∀ p ∈ [0, 1], (vectorOf op 7 2 0).writes pair p = true ∧
      (copying (vectorOf op 7 2 0)).scatterOk 0 (vectorOf op 7 2 0) (((vectorOf op 7 2 0).indexedElem 0 3).1, 8) = true)) ∧
    (vectorOf .vquant 0 32 0).hdrScale = 0x3F800000 ∧ (vectorOf .vquant 0 32 0).hdrScl = true ∧
    (∃ x m e, fp32.decode (vectorOf .vquant 0 32 0).hdrScale = .fin x m e) ∧ ([.inf false, .nan false] : List Fl).any Fl.isNan = true ∧
    [Fl.fin true 3 0].foldl Fl.maxMag (.fin false 0 0) = .fin false 3 0 ∧ [Fl.fin true 0 0].foldl Fl.maxMag (.fin false 0 0) = .fin false 0 0 := by
  refine ⟨?_, ?_, ?_, ?_, ?_, ?_, ?_, ?_, ?_, ?_, ?_, ?_, ?_, ?_, ⟨false, 2 ^ 23, -23, ?_⟩, ?_, ?_, ?_⟩
  all_goals decide +kernel

/-- A command of the matrix engine in some phase, beside a working tile of bf16; a tile at 0, as raw elements with an anchor. -/
def workTile : Latch := { fmt := 2, bytes := List.replicate 512 0, scales := none }
def matrixOf (op : CmdOp) (phase : Nat) (gathered : List Word := []) : Cmd :=
  { id := 1, engine := .matrix, op, xa := 0, regs := [2, 2, 0, 0, 0, 2, 0, 0], started := true, phase, gathered }
def matrixed (d : Cmd) (anc : BitVec 16 := 0) (raw : Byte := 0) : State :=
  { idle { id := 1 } { working := some workTile, acc := [{ anc }, {}, {}, {}], cmds := [d] } with
    mem := if raw = 0 then [] else (List.range 64).map (fun i => (localKey 0 (16 * i + 14), raw)) }
def active (d : Cmd) : Bool := decide ((matrixed d).args.k = 0) && decide ((matrixed d).activeCmd 0 1 = some d)
/-- A pool of one bag of two rows of a capacity page, with a count of indices that is in range or not; its job, and what stands at the hub. -/
def pooling : Cmd := { id := 1, engine := .copy, op := .pool, xa := 0x100, xb := 0x200, regs := [0x100000, 1, 0, 0, 0, 4, 0, 0], started := true }
def capacityPage : TlbEntry := { bulkPage with pa := 2 ^ 42 }
def pooled (count : Byte) : State :=
  { idle { id := 1 } { cmds := [pooling], dtlb := [capacityPage] } with
    mem := [(0, 1), (4, 2), (12, count), (20, 1)].map (fun x => (localKey 0 0x100 + x.1, x.2)) }
def block (count : Byte) : List Byte := [1, 0, 0, 0, 2, 0, 0, 0, 0, 0, 0, 0, count, 0, 0, 0, 0, 0, 0, 0, 1, 0, 0, 0]
def job : PoolJob := { core := 0, cmd := pooling, key := 3, table := 2 ^ 42 }
def bagSum : BagSum := { acc := [{}] }
def hubbed (p : Payload) : State :=
  { coming p { cmds := [{ pooling with asked := [(3, 0, 0)] }] } with
    args := { k := 1 }
    modules := [(0, { oneModule with hub := [(job, List.replicate 15 [bagSum])] })] }
/-- A `binapp` of two records, a bin with `n` of them, and a `binplay` with one record taken. -/
def binPage : TlbEntry := { bulkPage with vpn := 0x10 }
def appending (n : Nat) (l : List PWrite) : Cmd :=
  { id := 1, engine := .copy, op := .binapp, xa := 0x100, xb := 2, regs := [0x100000, 1, 4, 0, 0, 0, 0], started := true, pending := l, reads := (List.range n).map (fun i => (i, 1)) }
def binState (d : Cmd) (n : Nat) (r : Byte) : State :=
  { idle { id := 1 } { cmds := [d], dtlb := [bulkPage] } with
    mem := ([(0, BitVec.ofNat 8 n), (1, BitVec.ofNat 8 (n / 256)), (localKey 0 0x100, r)]).filter (fun x => x.2 != 0) }
def record : PWrite := { pos := 0, va := 0x100000, home := 0, bytes := [1, 0, 0, 0, 5, 0, 0, 0], append := true }
def playing (mode : Word) (phase : Nat) (l : List Word) : Cmd :=
  { id := 1, engine := .copy, op := .binplay, xa := 0, xb := 0x100, regs := [0x100000, 1, 4, mode, 0, 0, 0], phase, gathered := l, started := decide (phase ≠ 0) }
theorem witness_MatrixPoolAndBinResults :
    ((∀ d ∈ [matrixOf .mmac 0, matrixOf .mmac 2 (List.replicate 64 0), matrixOf .mpass 1, matrixOf .mldb 0, matrixOf .mzero 0, matrixOf .mdrain 0,
        matrixOf .mdrainx 0, matrixOf .maddx 0], active d = true) ∧
     ((matrixed (matrixOf .mmac 0) 5).activeCmd 0 1 = some (matrixOf .mmac 0) ∧ ((matrixed (matrixOf .mmac 0) 5).core 0).working = some workTile ∧
      (((matrixed (matrixOf .mmac 0) 5).core 0).tile 0).anc ≠ (matrixOf .mmac 0).matAnchor) ∧
     (matrixed (matrixOf .mmac 2)).latchGoing 0 = false ∧ (matrixOf .mmac 2).tileNo < ((matrixed (matrixOf .mmac 2)).core 0).acc.length ∧
     ((matrixed (matrixOf .mpass 1)).ringPeer 0 2 = some 1 ∧ (matrixOf .mpass 1).ringDir = 2 ∧ ((matrixed (matrixOf .mpass 1)).core 1).incoming = none ∧
      (matrixed (matrixOf .mpass 1)).latchComing 1 = false ∧ (matrixed (matrixOf .mpass 1)).stalledPath 0 1 = false)) ∧
    ((matrixed (matrixOf .mldb 0)).localRun 0 0 512 = true ∧ (matrixOf .mldb 0).tileB = (0, 512) ∧ (matrixOf .mldb 0).scalesB = [] ∧
     (matrixed (matrixOf .mldb 0)).localRead 0 0 512 = (matrixed (matrixOf .mldb 0), some (List.replicate 512 0)) ∧
     ((matrixed (matrixOf .mzero 0)).core 0).acc.length = 4 ∧ (({} : AccTile).elems.map (fun e => e.raw 0)).length = 64 ∧
     (({} : AccTile).elems.flatMap (fun e => toBytes (e.drain fp32 0 (fp32.decode 0)).1 4)).length = 256 ∧
     (∀ raw ∈ [(0 : Byte), 5], ((matrixed (matrixOf .maddx 0) 0 raw).localRead 0 0 1024).1 = matrixed (matrixOf .maddx 0) 0 raw ∧
       ((matrixed (matrixOf .maddx 0) 0 raw).localRead 0 0 1024).2.map (fun l => (rawOf ((l.drop 0).take 16)).2) = some (BitVec.zeroExtend 16 raw))) ∧
    (∀ count ∈ [(2 : Byte), 3], (pooled count).args.k = 0 ∧ (pooled count).activeCmd 0 1 = some pooling ∧
      (pooled count).engineBytes 0 false 0x100 8 = (pooled count, .bytes [1, 0, 0, 0, 2, 0, 0, 0]) ∧ pooling.blockBytes 1 2 = 24 ∧
      (pooled count).localRun 0 0x100 24 = true ∧ (pooled count).localRun 0 0x200 (pooling.poolBytes 1) = true ∧
      (pooled count).engineBytes 0 false 0x100 24 = (pooled count, .bytes (block count))) ∧
    (legalBags 1 2 = true ∧ bagsMalformed 1 2 (block 2) = false ∧ bagsMalformed 1 2 (block 3) = true ∧
     ((pooled 2).poolTable 0 pooling).2.toOption = some (2 ^ 42)) ∧
    ((∀ p ∈ [Payload.poolAsk job [[(0, none)]], .poolShare job [[(0, none)]], .poolPart job [bagSum], .poolSum 1 3 [[0, 0, 0, 0]] true false none],
       (hubbed p).args.k ≠ 0 ∧ (hubbed p).arriving 0 = some (sent p) ∧
       (((hubbed p).landed 0 (sent p)).module 0).hub.find? (fun y => y.1 == job) = some (job, List.replicate 15 [bagSum]) ∧
       (((hubbed p).landed 0 (sent p)).core 0).cmd 1 = some { pooling with asked := [(3, 0, 0)] })) ∧
    (pooling.rowBad (2 ^ 42) 0 = false ∧ pooling.rowBad (2 ^ 42) 4 = true ∧ (pooled 2).hasBad (pooling.rowKey (2 ^ 42) 0) 4 = false ∧
     0 < pooling.poolLen ∧ bagSum.acc.length = pooling.poolLen) ∧
    ((binState (appending 0 []) 0 1).args.k = 0 ∧ (binState (appending 0 []) 0 1).activeCmd 0 1 = some (appending 0 []) ∧ 0 < (appending 0 []).xb.toNat ∧
     (∀ r ∈ [(1 : Byte), 8], (binState (appending 0 []) 0 r).engineBytes 0 false 0x100 8 = (binState (appending 0 []) 0 r, .bytes [r, 0, 0, 0, 0, 0, 0, 0])) ∧
     (appending 0 []).binRegions ≤ 8 / 2 ^ (appending 0 []).binShift ∧ 1 / 2 ^ (appending 0 []).binShift < (appending 0 []).binRegions ∧
     ((binState (appending 0 []) 0 1).binKey 0 (appending 0 []) 0).2.toOption = some 0) ∧
    (∀ n ∈ [8190, 8191], let s := binState (appending 1 [record]) n 0
     s.num 0 4 = n ∧ s.args.k = 0 ∧ s.activeCmd 0 1 = some (appending 1 [record]) ∧ record.near 0 = true ∧ s.health 0 8 = .sound) ∧
    (let s := binState (playing 0 0 []) 3 0
     (s.core 0).nextToStart .copy = some (playing 0 0 []) ∧ s.engineOff 0 (playing 0 0 []) = false ∧ (s.core 0).mayStart (playing 0 0 []) = true ∧
     ((s.modCmd 0 1 (fun x => { x with started := true })).binKey 0 { playing 0 0 [] with started := true } 0).2.toOption = some 0 ∧ nearHome 0 0 = true ∧ s.health 0 8 = .sound ∧ s.num 0 4 = 3 ∧
     s.health (0 + 8) 24 = .sound) ∧
    (∀ x ∈ [(playing 0 1 [0x3F80000000000000], false, 4), (playing 1 1 [0x3F80000000000000], true, 8)],
      (binState x.1 0 0).args.k = 0 ∧ (binState x.1 0 0).activeCmd 0 1 = some x.1 ∧ x.1.binMode = x.2.1 ∧ x.1.binElem = x.2.2 ∧
      (binState x.1 0 0).engineBytes 0 false 0x100 x.2.2 = (binState x.1 0 0, .bytes (List.replicate x.2.2 0))) ∧
    fp32.decode 0x3F800000 = .fin false (2 ^ 23) (-23) ∧
    (sextInt 64 0 + (roundInt .rne false (2 ^ 23) (-23 - 0)).1 = 1) ∧ 2 ^ 63 - 1 < sextInt 64 (2 ^ 63 - 1) + (roundInt .rne false (2 ^ 23) (-23 - 0)).1 ∧
    sextInt 64 (2 ^ 63) + (roundInt .rne true (2 ^ 23) (-23 - 0)).1 < -2 ^ 63 := by
  refine ⟨⟨?_, ?_, ?_, ?_, ?_⟩, ⟨?_, ?_, ?_, ?_, ?_, ?_, ?_, ?_⟩, ?_, ⟨?_, ?_, ?_, ?_⟩, ?_, ?_, ⟨?_, ?_, ?_, ?_, ?_, ?_, ?_⟩, ?_, ?_, ?_, ?_, ?_, ?_, ?_⟩
  all_goals decide +kernel

theorem witness_AccumulatorsAddInAnyOrder : [Fl.fin true 1 0, .fin false 1 0].Perm [.fin false 1 0, .fin true 1 0] ∧
    ([Fl.fin true 1 0, .fin false 1 0].foldl (AccElem.term 0) {}).sat = false ∧
    ([Fl.fin false 1 0, .fin true 1 0].foldl (AccElem.term 0) {}).sat = false ∧ Fl.inf false ∈ [Fl.inf true, .inf false] ∧
    Fl.inf true ∈ [Fl.inf true, .inf false] ∧ ({ sat := true } : AccElem).sat = true :=
  ⟨List.Perm.swap _ _ _, by decide, by decide, .tail _ (.head _), .head _, rfl⟩

/-- A capacity link of module 0 and its far end; a traveller that stands before it, of plain data, or of a copy; flits, good and bad. -/
def linked (a b : Link) (x : Args := {}) (l : List Traveller := []) : State :=
  { modules := [(0, { oneModule with census := true, links := [(16, a), (32, b)] })], args := { x with link := 16 }, net := l }
def boarding (p : Payload) : Traveller := { src := 0, dst := 0, vc := 1, load := p, port := some 0, key := 1 }
def packet : Packet := { cls := 1, seq := 0 }
def flit (n : Nat) (last : Bool) : LinkFlit := LinkFlit.seal { seq := n, tc := 1, last, payload := payload64 [] }
def full : List Packet := List.replicate 512 packet
theorem witness_LinkPacketsAndLanes :
    (({ seq := 65535, fidx := 31, tc := 3, kind := 15, strm := 15 } : LinkFlit).kind > 4) ∧
    (({} : LinkDir).expected.length = 4 ∧ ({} : LinkDir).expected[3]? = some 0 ∧
     ({ valid := [true, true, true, true] } : LinkDir).valid.getD 3 false = true) ∧
    (((linked {} {}).link 0 16).tx.down = false ∧ ((linked {} {}).link 0 16).tx.retraining = false ∧ ((linked {} {}).module 0).census = true ∧
     ((linked { tx := { resend := [packet], replay := [packet] } } {}).link 0 16).tx.resend = packet :: [] ∧
     512 ≤ ((linked { tx := { replay := full } } {}).link 0 16).tx.replay.length ∧ ((linked {} {}).link 0 16).tx.replay.length < 512 ∧
     (linked {} {}).waitingAt 0 16 1 = [] ∧ (linked {} {} {} [boarding .probe]).waitingAt 0 16 1 = [boarding .probe] ∧
     (boarding .probe).copyId = none ∧ (linked {} {} {} [boarding (.copyData 7 writing)]).waitingAt 0 16 1 = [boarding (.copyData 7 writing)] ∧
     (boarding (.copyData 7 writing)).copyId = some 7 ∧ ({} : LinkDir).streamOf 7 = none ∧
     (linked {} {} {} [boarding (.copyData 7 writing)]).freeStream {} = some 0) ∧
    ((linked {} { tx := { wire := [flit 0 true], replay := [packet] } }).farEnd 0 16 = some (0, 32) ∧
     ((linked {} { tx := { wire := [flit 0 true], replay := [packet] } }).link 0 32).tx.wire = flit 0 true :: [] ∧
     (({} : LinkDir).receive 0 (flit 0 true)).2 = true ∧ (({} : LinkDir).receive 0 (flit 1 true)).2 = false ∧
     ([packet].find? (fun p => p.cls == (flit 0 true).tc && p.seq == (flit 0 true).seq)) = some packet) ∧
    ((flit 0 true).bad = false ∧ (flit 0 true).kind = 0 ∧ (flit 1 true).seq ≠ ({} : LinkDir).expected.getD 1 0 ∧
     (flit 0 false).fidx = ({} : LinkDir).got.getD 1 0 ∧ (flit 0 false).bad = false ∧ ({ unacked := 6 } : LinkDir).unacked < 7 ∧
     7 ≤ ({ unacked := 7 } : LinkDir).unacked ∧ ({ flit 0 true with kind := 5 } : LinkFlit).bad = true) ∧
    ((({ linked { rx := { oldest := some 0 } } {} with now := 3600 } : State).link 0 16).rx.oldest = some 0) ∧
    (((linked {} { rx := { acks := [({} : LinkDir).answer 1], requests := [({} : LinkDir).answer 2] } }).link 0 32).rx.acks =
      ({} : LinkDir).answer 1 :: [] ∧
     ((linked {} { rx := { acks := [({} : LinkDir).answer 1], requests := [({} : LinkDir).answer 2] } }).link 0 32).rx.requests =
      ({} : LinkDir).answer 2 :: [] ∧ (({} : LinkDir).answer 1).bad = false ∧ (({} : LinkDir).answer 2).bad = false) ∧
    (7 < laneCount 16 ∧ ¬ (8 < laneCount 16 ∨ 8 = 16 ∧ 16 < 16) ∧ 15 < laneCount 0) ∧
    (let s := linked { tx := { down := true } } { rx := { down := true } }
     (((s.modBoth 0 16 .tx (fun d => d.fail 16 0 7)).link 0 16).side .tx).down = true ∧
     (((s.modBoth 0 16 .tx (fun d => d.fail 16 0 7)).link 0 16).side .tx).retraining = false) ∧
    (cleanGroup 8 [0] = some (4, 4) ∧ cleanGroup 16 [] = some (16, 0) ∧ cleanGroup 8 [0, 1, 2, 3, 4, 5, 6, 7] = none) ∧
    (let s := linked { tx := { retraining := true } } { rx := { retraining := true } } { ok := false }
     ((s.link 0 16).side .tx).retraining = true ∧ (((s.modBoth 0 16 .tx LinkDir.missed).link 0 16).side .tx).retraining = true) ∧
    (let s := linked { tx := { retraining := true, tries := 2 } } { rx := { retraining := true, tries := 2 } } { ok := false }
     (((s.modBoth 0 16 .tx LinkDir.missed).link 0 16).side .tx).retraining = false) ∧
    (let s := linked { tx := { retraining := true } } { rx := { retraining := true } }
     (((s.modBoth 0 16 .tx (fun e => e.trained 16)).link 0 16).side .tx).down = false ∧ s.farEnd 0 16 = some (0, 32)) ∧
    (let d : LinkDir := { retraining := true, failed := [0, 1, 2, 3, 4, 5, 6, 7] }
     let s := linked { tx := d } { rx := d }
     (((s.modBoth 0 16 .tx (fun e => e.trained 16)).link 0 16).side .tx).down = true) ∧
    (({ down := true } : LinkDir).down = true ∧ ({} : LinkDir).first < 16 ∧ ({} : LinkDir).replayFrom .tx < 2 ^ 16 ∧
     (2 ≤ ({ tries := 2 } : LinkDir).tries)) := by
  refine ⟨?_, ?_, ?_, ?_, ?_, ?_, ?_, ?_, ?_, ?_, ?_, ?_, ?_, ?_, ?_⟩ <;> decide +kernel

def hot (n : Nat) : State :=
  { now := n, modules := [(0, { dies := [(0, { hotSince := some 0, coolSince := some 0, relock := some (1, 10800) })] })] }
theorem witness_ClocksAndPower : ((hot 7200000).die 0 0).hotSince = some 0 ∧ ((hot 72000000).die 0 0).coolSince = some 0 ∧
    ((hot 10800).die 0 0).relock = some (1, 10800) ∧ 10800 ≤ (hot 10800).now ∧ (hot 10799).now < 10800 ∧ ((hot 10800).die 0 0).heldTarget = none ∧
    ((idle {}).die 0 0).hotSince = none ∧ ((idle {}).die 0 0).coolSince = none ∧ ({} : Die).relock = none ∧ 1 ≠ ({} : Die).clock ∧
    (coming (.grant 0 32)).arriving 0 = some (sent (.grant 0 32)) ∧ ((idle { draw := 65 }).district 0 0).allow < 65 := by
  refine ⟨?_, ?_, ?_, ?_, ?_, ?_, ?_, ?_, ?_, ?_, ?_, ?_⟩ <;> decide +kernel

/-- A row and a rank that are copied, a slice that has run its time, a district that moves; a column with corrected reads. -/
def tested (n : Nat) : State :=
  { now := n, quads := [(0, { remapping := some (0, 0, some 1) })]
    modules := [(0, { channels := [(0, { copying := some 1 })], districts := [(0, { slice := some (0, false), moving := some (0, 1, 0) })] })] }
def failing : State := { idle {} with quads := [(0, { corrected := 1 })] }
theorem witness_SparesAndTests : (idle { site := none }).args.site = none ∧ (idle { site := some (1, 0) }).args.site = some (1, 0) ∧
    ((tested 0).quad 0).remapping = some (0, 0, some 1) ∧ ((idle {}).quad 0).remapping = none ∧
    ((tested 0).channel 0 0).copying = some 1 ∧ ((idle {}).channel 0 0).copying = none ∧
    ((tested 144000).district 0 0).slice = some (0, false) ∧ 144000 ≤ (tested 144000).now - 0 ∧ (tested 143999).now - 0 < 144000 ∧
    ((tested 0).district 0 0).moving = some (0, 1, 0) ∧ 0 ∈ movingDistricts (0, 1, 0) ∧ 0 < 128 ∧
    (∀ e < 128, e ≠ 0 → ((tested 0).district 0 e).moving = none) ∧ (idle {}).spareSite 0 0 (0, 1, 0) = true ∧
    siteQuad 0 (0, 1, 0) = some 0 ∧ ((idle {}).district 0 0).slice = none ∧ ((idle {}).district 0 0).moving = none ∧
    (idle {}).quadFails 0 = false ∧ failing.quadFails 0 = true ∧ failing.spareSite 0 0 (0, 1, 0) = true ∧
    (failing.district 0 0).slice = none ∧ (failing.district 0 0).moving = none := by
  refine ⟨?_, ?_, ?_, ?_, ?_, ?_, ?_, ?_, ?_, ?_, ?_, ?_, ?_, ?_, ?_, ?_, ?_, ?_, ?_, ?_, ?_, ?_⟩
  all_goals decide +kernel

/-- Function 0 with a command accepted in slot 0, whose partition 0 is in state `p`. -/
def calling (code : Nat) (l : List Word) (p : PState) (o : Part := {}) (f : Func := {}) : State :=
  let parts := if p = .absent then [] else [(0, { o with state := p })]
  { modules := [(0, { parts, funcs := [(0, { f with ready := true, accepted := [(0, { words := BitVec.ofNat 64 code :: l })] })] })] }
def theCall (code : Nat) (l : List Word) : Call :=
  let d : HostCmd := { words := BitVec.ofNat 64 code :: l }
  { m := 0, fn := 0, slot := 0, cmd := d, p := d.partNo 0 }
/-- What `State.Calls` asks. -/
def callable (code : Nat) (l : List Word) (s : State) : Bool :=
  let k := theCall code l
  decide (0 = s.args.m) && decide (0 = s.args.fn) && decide (0 = s.args.slot) &&
    decide ((s.func 0 0).accepted.get 0 = some k.cmd) && k.cmd.code == code && !(s.func 0 0).fwfault && !s.monitorStill 0 0 && !s.mustWait 0 0 k.cmd
theorem calls_of_callable {code : Nat} {l : List Word} {s : State} (h : callable code l s = true) : s.Calls code (theCall code l) := by
  simp only [callable, Bool.and_eq_true, decide_eq_true_eq, Bool.not_eq_true', beq_iff_eq] at h
  exact ⟨h.1.1.1.1.1.1.1, h.1.1.1.1.1.1.2, h.1.1.1.1.1.2, h.1.1.1.1.2, h.1.1.1.2, rfl, h.1.1.2, h.1.2, h.2, rfl⟩
/-- The codes with their listed arguments at 0, in every state. -/
theorem witness_calls : ∀ code ∈ [0x0001, 0x0002, 0x0003, 0x0004, 0x0010, 0x0011, 0x0020, 0x0030, 0x0040, 0x0050, 0x0051, 0x0052, 0x0060,
      0x0070, 0x0080], ∀ p ∈ [PState.absent, .created, .loaded, .running, .stopped, .halted],
    callable code [] (calling code [] p) = true ∧ (theCall code []).p < 16 ∧ (theCall code []).cmd.started = false ∧
      (theCall code []).cmd.suspended = false := by decide +kernel

/-- A posted command of function 0, its slot free, and one with an outcome. -/
def posted (ready : Bool) : State :=
  { modules := [(0, { parts := [(0, { state := .running })], funcs := [(0, { ready, posted := [3] })] })] }
def ended (slot : Nat) (head : Word) : State :=
  { modules := [(0, { funcs := [(0, { accepted := [(slot, { words := [head], outcome := some { args := [(0, 7)], code := 1 } })] })] })] , args := { slot } }
def asking (l : List Word) : HostCmd := { words := l }
def vectored : State := { modules := [(0, { funcs := [(1, { vectors := [(127, 0x100000000)], pending := [63] })] })] }
theorem witness_CommandWindow : ((posted true).func 0 0).slotState 63 = 0 ∧ 63 < 64 ∧
    ({ words := [(63 * 16 + 14, 2)] } : Func).slotState 63 = 2 ∧ ({ words := [(63 * 16 + 14, 3)] } : Func).slotState 63 = 3 ∧
    ((posted true).func 0 0).posted = 3 :: [] ∧ ((posted true).func 0 0).fwfault = false ∧ ((posted true).func 0 0).ready = true ∧
    ((posted false).func 0 0).ready = false ∧ ((posted true).part 0 (1 - 1)).state ≠ .absent ∧ ((posted true).part 0 (2 - 1)).state = .absent ∧
    listedArgs (asking [0x0005]).code = none ∧ listedArgs (asking [0x0051]).code = some [0] ∧ (asking [0x0002]).allowed = false ∧
    (asking [0x0051]).allowed = true ∧ (asking [0x00800051]).head.toNat / 2 ^ 23 % 2 ^ 9 ≠ 0 ∧ (asking [0x0051]).head.toNat / 2 ^ 23 % 2 ^ 9 = 0 ∧
    (∃ i < 12, i ∉ [0] ∧ (asking [0x0051, 0, 1]).arg i ≠ 0) ∧ (∀ i < 12, i ∉ [0] → (asking [0x0051]).arg i = 0) ∧
    ((ended 64 0).func 0 0).accepted.get 64 = some { words := [0], outcome := some { args := [(0, 7)], code := 1 } } ∧
    ((ended 63 0x400000).func 0 0).accepted.get 63 = some { words := [0x400000], outcome := some { args := [(0, 7)], code := 1 } } ∧
    (asking [0x400000]).raises = true ∧ ((ended 63 0x400000).func 0 0).masked 0 = true ∧ ({ vectors := [(1, 0)] } : Func).masked 0 = false ∧
    127 / 2 ∈ (vectored.func 0 1).pending ∧ 126 / 2 ∈ (vectored.func 0 1).pending ∧ 1 / 2 ∉ (vectored.func 0 1).pending ∧ 127 % 2 = 1 ∧
    (0 : Word).getLsbD 32 = false ∧ 127 < 128 ∧ (posted true).ownerOf 0 0 = (posted true).ownerOf 0 16 ∧
    (posted true).ownerOf 0 1 ≠ (posted true).ownerOf 0 0 := by
  refine ⟨?_, ?_, ?_, ?_, ?_, ?_, ?_, ?_, ?_, ?_, ?_, ?_, ?_, ?_, ?_, ?_, ⟨1, ?_, ?_, ?_⟩, ?_, ?_, ?_, ?_, ?_, ?_, ?_, ?_, ?_, ?_, ?_, ?_, ?_, ?_⟩ <;>
    decide +kernel

/-- An earlier STOP of partition 0 is accepted. -/
def later : HostCmd := { words := [0x0051], order := 1 }
def waitingTurn : State :=
  { modules := [(0, { parts := [(0, { state := .running })], funcs := [(0, { ready := true, accepted := [(0, later), (1, { words := [0x0051] })] })] })] }
theorem witness_PartitionStates : (calling 0x0051 [] .absent).Calls 0x0051 (theCall 0x0051 []) ∧ (theCall 0x0051 []).p < 16 ∧
    ((calling 0x0051 [] .absent).part 0 0).state = .absent ∧ ((calling 0x0051 [] .loaded).part 0 0).state = .loaded ∧
    (calling 0x0051 [] .loaded).Calls 0x0051 (theCall 0x0051 []) ∧
    16 ≤ (theCall 0x0051 [16]).p ∧ (calling 0x0051 [16] .absent).Calls 0x0051 (theCall 0x0051 [16]) ∧
    (calling 0x0002 [] .created).Calls 0x0002 (theCall 0x0002 []) ∧ ((calling 0x0002 [] .created).part 0 0).state ≠ .absent ∧
    (calling 0x0001 [1] .absent).Calls 0x0001 (theCall 0x0001 [1]) ∧ (theCall 0x0001 [1]).cmd.arg 0 = 1 ∧
    (calling 0x0040 [1] .absent).Calls 0x0040 (theCall 0x0040 [1]) ∧ (theCall 0x0040 [1]).cmd.arg 0 = 1 ∧ (theCall 0x0040 [1]).p < 16 ∧
    (waitingTurn.func 0 0).accepted.get 0 = some later ∧ waitingTurn.mustWait 0 0 later = true ∧ (waitingTurn.func 0 1).accepted.get 0 = none :=
  ⟨calls_of_callable (by decide +kernel), by decide, rfl, rfl, calls_of_callable (by decide +kernel), by decide,
    calls_of_callable (by decide +kernel), calls_of_callable (by decide +kernel), by decide +kernel, calls_of_callable (by decide +kernel), by decide,
    calls_of_callable (by decide +kernel), by decide, by decide, by decide +kernel, by decide +kernel, by decide +kernel⟩

/-! Images (R32, R98). The signatures are sound: with r = s = e, verification adds G and the key Q, and Q is R − G for a point R of
abscissa e. -/

/-- An image whose sections are empty, but for a `.bss` of a load address and a size. -/
def emptyImage (load size : Nat) : List Byte :=
  toBytes 0x51534953 4 ++ [1, 0, 1, 0] ++ List.replicate 8 0 ++ [7, 0, 0, 0] ++ List.replicate 12 0 ++ [64] ++ List.replicate 31 0 ++
    List.replicate 160 0 ++ List.replicate 8 0 ++ toBytes load 8 ++ toBytes size 8 ++ List.replicate 8 0 ++ List.replicate 32 0
def signedPart (version : Nat) (img : List Byte) : List Byte :=
  toBytes 0x4D495841 4 ++ [1, 0, 0, 0] ++ toBytes 288 8 ++ List.replicate 8 0 ++ toBytes version 8 ++ sha512 img
def envelope (version : Nat) (img : List Byte) : List Byte :=
  let half := [0, 0] ++ sha512 (signedPart version img)
  signedPart version img ++ half ++ half ++ List.replicate 28 0 ++ img
def pointKey (x y : Nat) : List Byte := 4 :: (toBigEndian x 66 ++ toBigEndian y 66)
def keySmall : List Byte := pointKey
  5452600015874684336610673305909848455169124160725728107497309618151242395740818601492199495110931310859107630150334343607181880430603919278552927768843036002
  5384519235781481044200049768490859437175192080616070392009191275790930243583414165816372471713242478827449173312716487774987091974416153843831103235799260607
def keyLarge : List Byte := pointKey
  5090031754314474802912663744182254571009867360307031143853006723569232521442959171800807442647133388982624736503952082781558066163528711411072136757008609591
  4701784575477792576252453499728478860812116287191727741719088599839255532375132458339763153920375778995845381807236056315890014336098355841996150002407419138
def small : List Byte := emptyImage 0 0
def large : List Byte := emptyImage (2 ^ 32) (2 ^ 32)
theorem test_small : envelopeGood (envelope 1 small) 544 = true ∧ sha512 small = ((envelope 1 small).drop 32).take 64 ∧
    ecdsaVerify keySmall (sha512 ((envelope 1 small).take 96)) (((envelope 1 small).drop 96).take 132) = true ∧
    ecdsaVerify keyLarge (sha512 ((envelope 1 small).take 96)) (((envelope 1 small).drop 96).take 132) = false := by decide +kernel
theorem test_large : envelopeGood (envelope 1 large) 544 = true ∧ sha512 large = ((envelope 1 large).drop 32).take 64 ∧
    ecdsaVerify keyLarge (sha512 ((envelope 1 large).take 96)) (((envelope 1 large).drop 96).take 132) = true := by decide +kernel

/-- A PART_CREATE of district 0 with head core 0 of die 0; an IMAGE_LOAD of 544 bytes of host memory; a partition that stops; and one
that has come to its stop edge. -/
def createArgs : List Word := [0, 1, 0, 0x1000000, 0x1000000, 14, 0, 0]
/-- Host memory that holds bytes from an address on; they read back. -/
def hostOf (a : Nat) : List Byte → List Host.Cell
  | [] => []
  | b :: l => (a, b) :: hostOf (a + 1) l
theorem readList_above {m : List Host.Cell} {b : Byte} : ∀ {n a j : Nat}, j < a → Memory.readList ((j, b) :: m) a n = Memory.readList m a n
  | 0, _, _, _ => rfl
  | n + 1, a, j, h => by simp [Memory.readList, Memory.read, Nat.ne_of_lt h, readList_above (n := n) (Nat.lt_succ_of_lt h)]
theorem readList_hostOf : ∀ (l : List Byte) (a : Nat), Memory.readList (hostOf a l) a l.length = l
  | [], _ => rfl
  | b :: l, a => by simp [hostOf, Memory.readList, Memory.read, readList_above (Nat.lt_succ_self a), readList_hostOf l (a + 1)]
def loadArgs : List Word := [0, 0, 544]
def loading (key env : List Byte) (floor : Nat) : State :=
  { calling 0x0010 loadArgs .created { districts := [0], owner := key, floor } with host := hostOf 0 env }
def edged : State := { calling 0x0051 [] .running { edge := some 0, stopFn := some (0, 0) } with args := {} }
theorem hostBytes_loading {key env : List Byte} {floor : Nat} (h : env.length = 544) : (loading key env floor).hostBytes 0 544 = env := by
  simpa [State.hostBytes, loading, h] using readList_hostOf env 0
/-- Images that check 2 refuses, whose digest differs, and whose checks pass. -/
theorem witness_images : (envelope 1 small).length = 544 ∧ (envelope 1 large).length = 544 ∧ ((envelope 1 small).set 300 1).length = 544 ∧
    ((envelope 1 small).set 0 0).length = 544 ∧ envelopeGood ((envelope 1 small).set 0 0) 544 = false ∧
    envelopeGood ((envelope 1 small).set 300 1) 544 = true ∧
    sha512 (((envelope 1 small).set 300 1).drop 256) ≠ (((envelope 1 small).set 300 1).drop 32).take 64 ∧
    ofBytes (((envelope 1 small).drop 24).take 8) = 1 := by
  refine ⟨?_, ?_, ?_, ?_, ?_, ?_, ?_, ?_⟩ <;> decide +kernel
theorem witness_PartitionCommands : (calling 0x0002 createArgs .absent).Calls 0x0002 (theCall 0x0002 createArgs) ∧
    ((calling 0x0002 createArgs .absent).createBad (theCall 0x0002 createArgs) (maskDistricts 1 0) = false) ∧
    (calling 0x0002 [] .absent).createBad (theCall 0x0002 []) [] = true ∧
    (calling 0x0003 [] .running).Calls 0x0003 (theCall 0x0003 []) ∧ (calling 0x0004 [] .created).Calls 0x0004 (theCall 0x0004 []) ∧
    (calling 0x0004 [] .created).args.ok = true ∧ (loading keySmall (envelope 1 small) 1).Calls 0x0010 (theCall 0x0010 loadArgs) ∧
    ((loading keySmall (envelope 1 small) 1).part 0 0).state = .created ∧ ((loading keySmall (envelope 1 small) 1).part 0 0).floor ≤ 1 ∧
    1 < ((loading keySmall (envelope 1 small) 2).part 0 0).floor ∧
    ((imagePages small).length + (partQuads 0 ((loading keySmall (envelope 1 small) 1).part 0 0)).length - 1) /
      (partQuads 0 ((loading keySmall (envelope 1 small) 1).part 0 0)).length * 2 ^ 16 ≤
      (tablesFor ((partQuads 0 ((loading keySmall (envelope 1 small) 1).part 0 0)).getD 0 0) ((imagePages small).map (·.2))).low ∧
    (loading keyLarge (envelope 1 large) 0).Calls 0x0010 (theCall 0x0010 loadArgs) ∧
    (calling 0x0011 [] .loaded).Calls 0x0011 (theCall 0x0011 []) ∧ (calling 0x0051 [] .running).Calls 0x0051 (theCall 0x0051 []) ∧
    ((calling 0x0051 [] .running).part 0 0).edge = none ∧
    (edged.part 0 0).edge = some 0 ∧ 0 ≤ edged.refNs 0 ∧ edged.refNs 0 < 1 ∧ (edged.func 0 0).accepted.get 0 = some { words := [0x0051] } ∧
    (calling 0x0052 [] .stopped).Calls 0x0052 (theCall 0x0052 []) := by
  refine ⟨calls_of_callable ?_, ?_, ?_, calls_of_callable ?_, calls_of_callable ?_, ?_, calls_of_callable ?_, ?_, ?_, ?_, ?_, calls_of_callable ?_,
    calls_of_callable ?_, calls_of_callable ?_, ?_, ?_, ?_, ?_, ?_, calls_of_callable ?_⟩
  all_goals decide +kernel
/-- 65,536 pages do not fit below the tables of 128 columns. -/
theorem witness_image_too_large : let quads := partQuads 0 ((loading keyLarge (envelope 1 large) 0).part 0 0)
    (tablesFor (quads.getD 0 0) ((imagePages large).map (·.2))).low < ((imagePages large).length + quads.length - 1) / quads.length * 2 ^ 16 := by
  have n : (partQuads 0 ((loading keyLarge (envelope 1 large) 0).part 0 0)).length = 128 :=
    Eq.trans (b := (partQuads 0 { districts := [0] }).length) rfl (by decide +kernel)
  have a : (imageSection large 0).size = 0 ∧ (imageSection large 2).size = 0 ∧ (imageSection large 5).size = 2 ^ 32 ∧
      (imageSection large 5).load = 2 ^ 32 ∧ (imageSection large 6).size = 0 := by decide +kernel
  have m : (imagePages large).length = 65536 := by simp [imagePages, bulkSections, Section.pages, a]
  intro quads
  show 2 ^ 25 - 2 ^ 14 * (1 + _) - _ < (_ + quads.length - 1) / quads.length * 2 ^ 16
  rw [show quads.length = 128 from n, m]
  omega
/-- A serial command of partition 0 that a PART_DESTROY cancels. -/
theorem witness_cancelled : let s := { waitingTurn with modules := [(0, { waitingTurn.module 0 with
      funcs := [(0, { ready := true, accepted := [(0, { words := [0x0003] }), (1, later)] })] })] }
    s.Calls 0x0003 (theCall 0x0003 []) ∧ (s.func 0 0).accepted.get 1 = some later ∧ later.outcome = none ∧ later.names 0 = some 0 := by
  refine ⟨calls_of_callable ?_, ?_, ?_, ?_⟩ <;> decide +kernel

/-- A launch of one record over one dimension, from a window of core 0, or of none; its account, before and after it has been seeded; host
copies. -/
def launchArgs (range : Word) : List Word := [0x10000000000, 1, range, 0, 0, 0, 0]
def owning : Part := { districts := [0] }
def template : List (Nat × Byte) := [(localKey 0 1, 1), (localKey 0 8, 0x11), (localKey 0 40, 1), (localKey 0 48, 0x11)]
def launching (range : Word) (l : List (Nat × Byte)) : State := { calling 0x0020 (launchArgs range) .running owning with mem := l }
def accounted (b : Bool) (n : Nat) : State := calling 0x0020 (launchArgs 0) .running { accounts := [{ launch := 1, seeded := b, count := n }] }
def copyArgs (dir va n : Word) : List Word := [dir, 0, va, n]
def hostCopying (dir va n : Word) : State := calling 0x0030 (copyArgs dir va n) .running owning
theorem witness_LaunchesAndHostCopies : (launching 0x100000000 template).Calls 0x0020 (theCall 0x0020 (launchArgs 0x100000000)) ∧
    (theCall 0x0020 (launchArgs 0x100000000)).p = 0 ∧ ((launching 0x100000000 template).part 0 0).state = .running ∧
    ((theCall 0x0020 (launchArgs 0x100000000)).cmd.arg 0).toNat % 128 = 0 ∧
    ((launching 0x100000000 template).spaceRead 0 0 0x10000000000 128 false).toOption = some ((launching 0x100000000 template).bytes (localKey 0 0) 128) ∧
    (launching 0x100000000 template).launchStatus (theCall 0x0020 (launchArgs 0x100000000))
      (Rec.ofWords (wordsOf ((launching 0x100000000 template).bytes (localKey 0 0) 128))) = 0 ∧
    (theCall 0x0020 (launchArgs 0x100000000)).cmd.ranges = [0x100000000] ∧ domLo 0x100000000 ≠ domHi 0x100000000 ∧
    (launching 0 template).launchStatus (theCall 0x0020 (launchArgs 0))
      (Rec.ofWords (wordsOf ((launching 0 template).bytes (localKey 0 0) 128))) = 0 ∧
    (launching 0 template).Calls 0x0020 (theCall 0x0020 (launchArgs 0)) ∧
    (theCall 0x0020 (launchArgs 0)).cmd.ranges = [0] ∧ domLo 0 = domHi 0 ∧
    (launching 0 []).launchStatus (theCall 0x0020 (launchArgs 0)) (Rec.ofWords (wordsOf ((launching 0 []).bytes (localKey 0 0) 128))) ≠ 0 ∧
    ((calling 0x0020 (launchArgs 0) .running).spaceRead 0 0 0x10000000000 128 false).toOption = none ∧
    ((accounted false 0).accountOf 0 0 0 = some (0, { launch := 1 }) ∧ (accounted true 0).accountOf 0 0 0 = some (0, { launch := 1, seeded := true }) ∧
     (accounted true 1).accountOf 0 0 0 = some (0, { launch := 1, seeded := true, count := 1 })) ∧
    ((accounted true 0).func 0 0).accepted.get 0 = some (theCall 0x0020 (launchArgs 0)).cmd ∧
    (hostCopying 0 0x10000000000 8).Calls 0x0030 (theCall 0x0030 (copyArgs 0 0x10000000000 8)) ∧
    ((hostCopying 0 0x10000000000 8).spaceKey 0 0 0x10000000000 true true).toOption = some (localKey 0 0) ∧
    ((hostCopying 0 0 8).spaceKey 0 0 0 true true).toOption = none ∧
    (hostCopying 1 0x10000000000 8).Calls 0x0030 (theCall 0x0030 (copyArgs 1 0x10000000000 8)) ∧
    ((hostCopying 1 0x10000000000 8).spaceRead 0 0 0x10000000000 8 true).toOption = some (List.replicate 8 0) ∧
    ((hostCopying 1 0 8).spaceRead 0 0 0 8 true).toOption = none ∧ (hostCopying 0 0x10000000000 8).copyStep 0x10000000000 8 8 = 8 ∧
    (hostCopying 0 0x10000000000 8).copyStep 0x10000000000 8 7 = 7 := by
  refine ⟨calls_of_callable ?_, ?_, ?_, ?_, ?_, ?_, ?_, ?_, ?_, calls_of_callable ?_, ?_, ?_, ?_, ?_, ?_, ?_, calls_of_callable ?_, ?_, ?_,
    calls_of_callable ?_, ?_, ?_, ?_, ?_⟩
  all_goals decide +kernel
theorem witness_SeedingStopsAtTheCount : 1 ≤ 128 ∧ (seedRecords 2 128 [{ flags := 0x11, dom0 := 0x400000000, grains := 1 }]).length = 2 ∧
    (seedRecords 2 128 [{ flags := 0x11, dom0 := 0x100000000, grains := 1 }]).length < 2 := by
  decide +kernel

/-- A dump in progress at a supervisor core whose area lies in a page; a core with a record to write. -/
def dumps (o : Core) : State :=
  { calling 0x0050 [] .stopped { districts := [0], dumping := some { seq := 1, fault := {} }, dumpCount := 1 } with cores := [(0, o)] }
def tracer : State := idle {} { samples := [(0, 0, 0)], smpc := 0x200000 }
def counting (n last : Nat) : State :=
  { now := n, modules := [(0, { census := true, censusLen := 1, dies := [(7, { censusLast := last })] })], args := { die := 7 } }
theorem witness_ReportsAndSettings : (calling 0x0001 [] .running).Calls 0x0001 (theCall 0x0001 []) ∧
    (calling 0x0001 [1] .running).Calls 0x0001 (theCall 0x0001 [1]) ∧ ((calling 0x0001 [1] .running).part 0 0).state ≠ .absent ∧
    (calling 0x0080 [] .running).Calls 0x0080 (theCall 0x0080 []) ∧ (calling 0x0080 [0, 0, 8, 8] .running).Calls 0x0080 (theCall 0x0080 [0, 0, 8, 8]) ∧
    (calling 0x0080 [1, 0x10FFF] .running).Calls 0x0080 (theCall 0x0080 [1, 0x10FFF]) ∧ (0x10FFF : Word).toNat / 2 ^ 12 % 16 = 0 ∧
    (calling 0x0040 [0, 0, 0, 0, 0, 0, 0, 255] .absent).Calls 0x0040 (theCall 0x0040 [0, 0, 0, 0, 0, 0, 0, 255]) ∧
    (theCall 0x0040 [0, 0, 0, 0, 0, 0, 0, 255]).p = 255 ∧ (List.replicate 32 (0 : Byte)).length = 32 ∧
    (calling 0x0050 [] .stopped).Calls 0x0050 (theCall 0x0050 []) ∧ ((calling 0x0050 [] .stopped).part 0 0).dumpCount ≤ 0 ∧
    (dumps {}).Calls 0x0050 (theCall 0x0050 []) ∧ 0 < ((dumps {}).part 0 0).dumpCount ∧
    (calling 0x0060 [] .running).Calls 0x0060 (theCall 0x0060 []) ∧ (calling 0x0060 [1] .running).Calls 0x0060 (theCall 0x0060 [1]) ∧
    (calling 0x0060 [4] .running).Calls 0x0060 (theCall 0x0060 [4]) ∧ 3 < (4 : Word).toNat ∧
    (calling 0x0070 [500, 0] .absent).Calls 0x0070 (theCall 0x0070 [500, 0]) ∧ (calling 0x0070 [4501, 0] .absent).Calls 0x0070 (theCall 0x0070 [4501, 0]) ∧
    (∀ d < 8, (0xFFFFFF : Word).toNat / 8 ^ d % 8 ∉ [4, 5, 6]) ∧ ({} : Die).hotSince = none ∧ ({} : Die).target ≤ ({} : Die).wanted ∧
    ((dumps {}).part 0 0).dumping = some { seq := 1, fault := {} } ∧ ((dumps {}).core 0).dumpa.getLsbD 0 = false ∧
    ((dumps { dumpa := 0x40001, dtlb := [{ bulkPage with vpn := 4, size := 16 }] }).core 0).dumpa.getLsbD 0 = true ∧
    ((dumps { dumpa := 0x40001, dtlb := [{ bulkPage with vpn := 4, size := 16 }] }).netKey 0 (dumpEntry 0x40001 0) 1 true).2 = some 0 ∧
    ((dumps { dumpa := 0x40001 }).netKey 0 (dumpEntry 0x40001 0) 1 true).2 = none ∧
    ((counting 4718592 0).module 0).census = true ∧ ((counting 4718592 0).die 0 7).censusLast < (counting 4718592 0).refNs 0 / 655360 ∧
    (counting 4718591 0).refNs 0 / 655360 ≤ ((counting 4718591 0).die 0 7).censusLast ∧
    (tracer.core 0).samples = [(0, 0, 0)] ∧ 16 ≤ (tracer.core 0).smpc.toNat / 2 ^ 16 % 2 ^ 16 ∧ 16 ≤ tracer.privSize 0 ∧
    ((idle {}).core 0).samples = [] := by
  refine ⟨calls_of_callable ?_, calls_of_callable ?_, ?_, calls_of_callable ?_, calls_of_callable ?_, calls_of_callable ?_, ?_, calls_of_callable ?_,
    ?_, ?_, calls_of_callable ?_, ?_, calls_of_callable ?_, ?_, calls_of_callable ?_, calls_of_callable ?_, calls_of_callable ?_, ?_,
    calls_of_callable ?_, calls_of_callable ?_, ?_, ?_, ?_, ?_, ?_, ?_, ?_, ?_, ?_, ?_, ?_, ?_, ?_, ?_, ?_⟩
  all_goals decide +kernel

/-! The ends of a link, launches and host copies that go on, and what comes back to a monitor or an endpoint. -/

/-- A traveller longer than a packet; a damaged packet whose replay has not come; bad flits on the way back; a link that was down. -/
def longOne : Traveller := boarding (.census 0 (List.replicate 2049 0))
def bad : LinkFlit := { LinkFlit.seal { kind := 1 } with kind := 5 }
theorem witness_LinkEnds :
    ((boarding .probe).rest.length ≤ 2048 ∧ 2048 < longOne.rest.length ∧ longOne.copyId = none ∧
     (linked {} {} {} [longOne]).waitingAt 0 16 1 = [longOne]) ∧
    (let s := { linked { rx := { discarding := [1] } } {} with now := 3600 }
     (s.link 0 16).rx.discarding ≠ [] ∧ (s.link 0 16).rx.requests = [] ∧ 3600 ≤ s.now - (s.link 0 16).rx.requested ∧
     (s.link 0 16).rx.oldest = none) ∧
    (((linked {} { rx := { acks := [bad], requests := [bad] } }).link 0 32).rx.acks = bad :: [] ∧
     ((linked {} { rx := { acks := [bad], requests := [bad] } }).link 0 32).rx.requests = bad :: [] ∧ bad.bad = true ∧
     (linked {} { rx := { acks := [bad], requests := [bad] } }).farEnd 0 16 = some (0, 32) ∧
     (linked {} { rx := { acks := [bad], requests := [bad] } }).args.damaged = false) ∧
    (let s := { linked { tx := { down := true } } {} with now := 7200000 }
     ((s.link 0 16).side .tx).down = true ∧ ((s.link 0 16).side .tx).retraining = false ∧ ((s.link 0 16).side .tx).barred = false ∧
     7200000 ≤ s.now - ((s.link 0 16).side .tx).since) := by
  refine ⟨?_, ?_, ?_, ?_⟩ <;> decide +kernel

theorem witness_askClock : (hot 0).relocking 0 0 = true ∧ (idle {}).relocking 0 0 = false ∧ ((idle {}).die 0 0).clock = 0 := by decide +kernel

theorem witness_monitorStill : (posted true).monitorStill 0 0 = false ∧ ((posted true).args.equalIds = []) ∧
    (ended 63 0).monitorStill 0 0 = false := by decide +kernel

theorem goesOn_of {s : State} {k : Call} (h : (!k.cmd.suspended && !s.stopPending k.m k.p k.cmd.order &&
    !s.relocking k.m (dieOf (s.part k.m k.p).head)) = true) : s.GoesOn k := by
  simp only [Bool.and_eq_true, Bool.not_eq_true'] at h
  exact ⟨h.1.1, h.1.2, h.2⟩
theorem witness_GoesOn : (launching 0 template).GoesOn (theCall 0x0020 (launchArgs 0)) ∧
    (launching 0x100000000 template).GoesOn (theCall 0x0020 (launchArgs 0x100000000)) ∧
    (hostCopying 0 0x10000000000 8).GoesOn (theCall 0x0030 (copyArgs 0 0x10000000000 8)) ∧ (hostCopying 0 0x10000000000 8).args.k = 0 ∧
    (∀ e ∈ tablePartCommand, ∀ p ∈ [PState.absent, .created, .loaded, .running, .stopped, .halted],
      (!(theCall e.2.1 []).cmd.suspended && !(calling e.2.1 [] p).stopPending 0 0 (theCall e.2.1 []).cmd.order &&
        !(calling e.2.1 [] p).relocking 0 (dieOf ((calling e.2.1 [] p).part 0 0).head)) = true) ∧
    (accounted false 0).launchHeld 0 0 { launch := 1 } = false ∧ (accounted false 0).stopPending 0 0 0 = false := by
  refine ⟨goesOn_of ?_, goesOn_of ?_, goesOn_of ?_, ?_, ?_, ?_, ?_⟩ <;> decide +kernel
/-- A host copy with a piece on its way, or whose last piece failed; and a piece that arrives. -/
def piece (home : Nat) (toHost : Bool) (data : Option (List Byte)) : HostMove := { m := 0, key := 3, home, host := 0, n := 8, toHost, data }
def copyCmd (x : Option HostMove) (e : Option Nat) : HostCmd := { (theCall 0x0030 (copyArgs 0 0x10000000000 8)).cmd with started := true, moving := x, failed := e }
def pieceState (x : Option HostMove) (e : Option Nat) (links : Tbl Link := []) : State :=
  { hostCopying 0 0x10000000000 8 with
    modules := [(0, { oneModule with links, parts := [(0, { owning with state := .running })], funcs := [(0, { ready := true, accepted := [(0, copyCmd x e)] })] })] }
def pieceCall (x : Option HostMove) (e : Option Nat) : Call := { m := 0, fn := 0, slot := 0, cmd := copyCmd x e, p := 0 }
def pieceGoes (x : Option HostMove) (e : Option Nat) (links : Tbl Link := []) : Bool :=
  let s := pieceState x e links
  decide ((s.func 0 0).accepted.get 0 = some (copyCmd x e)) && !(s.func 0 0).fwfault && !s.monitorStill 0 0 && !s.mustWait 0 0 (copyCmd x e) &&
    !s.stopPending 0 0 0 && !s.relocking 0 (dieOf (s.part 0 0).head) && decide ((s.part 0 0).state = .running)
def downLink : Tbl Link := [(16, { tx := { down := true } })]
def pieceIn (x : HostMove) (ok : Bool := true) (o : Core := {}) : State :=
  { pieceState (some x) none with args := { k := 1, ok }, cores := [(0, o)], net := [sent (.hostMove x)] }
theorem witness_HostMoves :
    (pieceGoes none (some 12) = true ∧ pieceGoes (some (piece 0 false none)) none = true ∧
     (pieceState (some (piece 0 false none)) none).moveDown (piece 0 false none) = false ∧
     pieceGoes (some (piece (2 ^ 42) false none)) none downLink = true ∧
     (pieceState (some (piece (2 ^ 42) false none)) none downLink).moveDown (piece (2 ^ 42) false none) = true) ∧
    ((pieceIn (piece 0 false none)).arriving 0 = some (sent (.hostMove (piece 0 false none))) ∧ (pieceIn (piece 0 false none)).args.k ≠ 0) ∧
    (∀ x ∈ [piece 0 false none, piece 0 false (some [1]), piece 0 true none, piece 0 true (some [1])], ∀ ok ∈ [true, false],
      ((pieceIn x ok).allCommands 0).find? (fun e => e.2.2.outcome.isNone && (e.2.2.moving.map (·.key)) == some 3) = some (0, 0, copyCmd (some x) none)) ∧
    (homeCore 0 = some 0 ∧ ((pieceIn (piece 0 true none) true { lost := true }).core 0).lost = true ∧ ((pieceIn (piece 0 true none)).core 0).lost = false ∧
     (pieceIn (piece 0 true none)).partTag 0 = (sent .probe).part ∧ (pieceIn (piece 0 true none)).hasBad 0 8 = false ∧
     (pieceIn (piece 0 true none)).hasUntagged 0 8 = false ∧ ({ pieceIn (piece 0 true none) with bad := [0] } : State).hasBad 0 8 = true) := by
  refine ⟨?_, ?_, ?_, ?_⟩ <;> decide +kernel

theorem witness_arrivals_of_the_bell_and_the_census :
    (∀ p ∈ [Payload.bell 0 400, .census 0 [1]], (reaching p).args.k ≠ 0 ∧ (reaching p).arriving 0 = some (sent p)) ∧
    homeCore 0 = some 0 ∧ ((reaching (.census 0 [1])).core 0).lost = false ∧ (reaching (.census 0 [1])).partTag 0 = (sent .probe).part ∧
    edged.args.k = 0 ∧ (counting 4718592 0).args.k = 0 ∧ (counting 4718592 0).relocking 0 7 = false := by
  refine ⟨?_, ?_, ?_, ?_, ?_, ?_, ?_⟩ <;> decide +kernel

/-- A thread at a private address whose bytes are a word, with its turn next; a block that closes with another signature. -/
def fetching (w : Byte) (sig : Word) : State :=
  { onCore user { sigst := sig } with sched := [.issue 0 0], mem := [(localKey 0 0x1003, w)] }
theorem witness_StepRunsTheDecodedInstruction :
    (let s := fetching 4 0
     let v := State.turned { s with sched := [] } 0
     s.sched = .issue 0 0 :: [] ∧ State.coreHalted { s with sched := [] } 0 = false ∧ State.hasTurn { s with sched := [] } 0 0 = true ∧
     (v.slot 0 0).thread = some user ∧ (v.slot 0 0).busy = 0 ∧ (v.slot 0 0).park = none ∧ (v.slot 0 0).carried = none ∧ (v.slot 0 0).torn = false ∧
     v.mayInterrupt 0 0 = none ∧ (v.rolledTurn 0 0).isNone = true ∧ (match (v.fetchFor 0 0 user).2 with | .word w => w == 0x04000000 | _ => false) = true ∧
     decodeTableWord 32 0x04000000 = some (.add 0 0 0) ∧
     bufferWord (v.slot 0 0).fetch user.ctx.ip = none ∧ activeCore 0 = true ∧ user.ctx.ip.toNat % 4 = 0 ∧ user.ctx.ip.toNat + 4 ≤ v.privSize 0 ∧
     v.hasBad (localKey 0 0x1000) 4 = false ∧ (v.slot 0 0).sigst.getLsbD 32 = false) ∧
    refusedBy 0xFC000000 = some .badMajor ∧
    bufferWord [(0, 5)] 0 = some 5 ∧
    (State.turnOf { fetching 4 0 with sched := [] } 0 1 = false) ∧ isEventRow .moduleReset = true ∧
    (State.sigFor (fetching 4 0) user 0x100000001 .quit 0x90040000).2 = false := by
  refine ⟨?_, ?_, ?_, ?_, ?_, ?_⟩ <;> decide +kernel
theorem witness_EncodedInstructionsDecode : (Instr.add 13 12 11).wf = true ∧ encodeNat (.add 13 12 11) = some 0x0772c000 := by decide
theorem witness_StoredValuesAreLoaded : (onCore user).Resides user ∧ Memory.wf (onCore user).mem = true ∧
    (onCore user).Private (user.ctx.address 1 0) 8 ∧ (user.ctx.address 1 0).toNat % 8 = 0 ∧ (onCore user).Private (user.ctx.address 2 0) 8 ∧
    (user.ctx.address 2 0).toNat + 8 ≤ (user.ctx.address 1 0).toNat ∧ (onCore user).Private (user.ctx.address 0 30) 4 := by
  refine ⟨witness_LoadsReadPrivateMemory.1, ?_, private_of ?_, ?_, private_of ?_, ?_, private_of ?_⟩ <;> decide +kernel
theorem witness_MemoryStaysCanonical : Memory.wf State.reset.mem = true ∧ (after (step State.reset) (fun u => u.mem)) = some [] := by
  decide +kernel

end Sys2Proof.Machine
end

section
/-! SUPPORT. Modules and their parts after an update: what a change of a module puts there, and which tables of which modules it leaves
alone. -/
namespace Sys2Proof.Machine

/-- What no step of a fold changes, the fold does not change. -/
theorem foldl_keeps {σ α β : Type} (g : σ → β) {f : σ → α → σ} (l : List α) (u : σ)
    (h : ∀ u a, g (f u a) = g u := by intros; rfl) : g (l.foldl f u) = g u := by
  induction l generalizing u with
  | nil => rfl
  | cons a l ih => exact (ih (f u a)).trans (h u a)

/-- Two folds whose steps agree wherever `g` is as at the beginning, and whose second leaves `g` alone. -/
theorem foldl_congr_of_keeps {σ α β : Type} {g : σ → β} {f f' : σ → α → σ} {b : β} (hk : ∀ u a, g (f' u a) = g u)
    (h : ∀ u a, g u = b → f u a = f' u a) (l : List α) {u : σ} (hu : g u = b) : l.foldl f u = l.foldl f' u := by
  induction l generalizing u with
  | nil => rfl
  | cons a l ih =>
    rw [List.foldl_cons, List.foldl_cons, h u a hu]
    exact ih ((hk u a).trans hu)

/-- What one step of a fold brings about and no step undoes holds after the fold; `I` is what every step keeps. -/
theorem foldl_reaches {σ α : Type} {I P : σ → Prop} {f : σ → α → σ} {l : List α} {a : α} (ha : a ∈ l)
    (hI : ∀ u b, I u → I (f u b)) (hset : ∀ u, I u → P (f u a)) (hkeep : ∀ u b, I u → P u → P (f u b)) {u : σ} (hu : I u) :
    P (l.foldl f u) := by
  have later : ∀ (l : List α) (u : σ), I u → P u → P (l.foldl f u) := by
    intro l
    induction l with
    | nil => exact fun _ _ hp => hp
    | cons b l ih => exact fun u hu hp => ih _ (hI u b hu) (hkeep u b hu hp)
  induction l generalizing u with
  | nil => cases ha
  | cons b l ih =>
    rcases List.mem_cons.mp ha with rfl | h
    · exact later l _ (hI u a hu) (hset u hu)
    · exact ih h (hI u b hu)

/-- An alternative with its branches the other way round. -/
theorem ite_swap_of_iff {α : Type} {p q : Prop} [Decidable p] [Decidable q] (h : p ↔ ¬ q) (a b : α) :
    (if p then a else b) = if q then b else a := by
  by_cases hq : q <;> simp [h, hq]

/-! ## Modules -/

@[simp] theorem State.module_modModule (s : State) (m : Nat) (f : Module → Module) : (s.modModule m f).module m = f (s.module m) := by
  simp only [State.module, State.modModule, Tbl.get_set, Option.getD_some]

theorem State.module_modModule_ne (s : State) {m k : Nat} (f : Module → Module) (h : k ≠ m) :
    (s.modModule m f).module k = s.module k := by
  simp only [State.module, State.modModule, Tbl.get_set_ne _ _ h]

/-- A field of every module that a change of one module keeps. -/
theorem State.modModule_keeps {β : Type} (g : Module → β) (s : State) (m : Nat) {f : Module → Module} (k : Nat)
    (hf : ∀ o, g (f o) = g o := by intro o; rfl) : g ((s.modModule m f).module k) = g (s.module k) := by
  by_cases h : k = m
  · rw [h, State.module_modModule, hf]
  · rw [State.module_modModule_ne s f h]

/-! ## Dies, districts, quads -/

theorem State.die_congr {s r : State} {m : Nat} (h : (r.module m).dies = (s.module m).dies) (d : Nat) : r.die m d = s.die m d := by
  simp only [State.die, h]

theorem State.district_congr {s r : State} {m : Nat} (h : (r.module m).districts = (s.module m).districts) (d : Nat) :
    r.district m d = s.district m d := by
  simp only [State.district, h]

@[simp] theorem State.die_modDie (s : State) (m d : Nat) (f : Die → Die) : (s.modDie m d f).die m d = f (s.die m d) := by
  simp only [State.die, State.modDie, State.module_modModule, Tbl.get_set, Option.getD_some]

@[simp] theorem State.district_modDistrict (s : State) (m d : Nat) (f : District → District) :
    (s.modDistrict m d f).district m d = f (s.district m d) := by
  simp only [State.district, State.modDistrict, State.module_modModule, Tbl.get_set, Option.getD_some]

theorem State.district_modDistrict_ne (s : State) {m d e : Nat} (f : District → District) (h : e ≠ d) :
    (s.modDistrict m d f).district m e = s.district m e := by
  simp only [State.district, State.modDistrict, State.module_modModule, Tbl.get_set_ne _ _ h]

/-- A field of every district of a module that a change of one district keeps. -/
theorem State.modDistrict_keeps {β : Type} (g : District → β) (s : State) (m d : Nat) {f : District → District} (e : Nat)
    (hf : ∀ o, g (f o) = g o := by intro o; rfl) : g ((s.modDistrict m d f).district m e) = g (s.district m e) := by
  by_cases h : e = d
  · rw [h, State.district_modDistrict, hf]
  · rw [State.district_modDistrict_ne s f h]

/-- Updates that agree on the district as it stands are one update. -/
theorem State.modDistrict_congr (s : State) (m d : Nat) {f g : District → District} (h : f (s.district m d) = g (s.district m d)) :
    s.modDistrict m d f = s.modDistrict m d g := by
  simp only [State.modDistrict, h]

end Sys2Proof.Machine
end

section
/-! SUPPORT. Clocks, temperatures and power (R41, R70, R73, R75, R76). -/
namespace Sys2Proof.Machine

/-! ## Asking a die for a clock (R70) -/

theorem Die.ask_relocking {o : Die} (h : o.relock ≠ none) (now cyc state : Nat) :
    o.ask now cyc state = { o with heldTarget := some state } := by
  rw [Die.ask, if_pos (Option.isSome_iff_ne_none.mpr h)]

theorem Die.ask_other {o : Die} (h : o.relock = none) {state : Nat} (hs : state ≠ o.clock) (now cyc : Nat) :
    o.ask now cyc state = { o with relock := some (state, now + 10800), cycBase := cyc, since := now } := by
  simp [Die.ask, h, hs, ticksRelock]

theorem Die.ask_same {o : Die} (h : o.relock = none) (now cyc : Nat) : o.ask now cyc o.clock = o := by
  simp [Die.ask, h]

/-- A traveller that has come to a router of its way, and its flits, leave every die as it is. -/
theorem State.dies_countFlits (s : State) (t : Traveller) (dst m : Nat) : ((s.countFlits t dst).module m).dies = (s.module m).dies := by
  unfold State.countFlits
  dsimp only
  split
  · exact State.modModule_keeps (·.dies) s _ m
  · rfl

theorem State.dies_strew (s : State) (t : Traveller) (m : Nat) : ((s.strew t).module m).dies = (s.module m).dies := by
  unfold State.strew
  dsimp only
  split
  · rfl
  · exact State.dies_countFlits s t _ m

/-- The die takes the order as it stood; what the order makes of the travellers of its module does not reach it. -/
theorem State.die_askClock (s : State) (m d state : Nat) : (s.askClock m d state).die m d = (s.die m d).ask s.now (s.cycOf m d) state := by
  unfold State.askClock
  dsimp only
  rw [State.die_modDie]
  split
  · rfl
  · exact congrArg (Die.ask · s.now (s.cycOf m d) state) (State.die_congr
      (foldl_keeps (fun u : State => (u.module m).dies) _ s (fun u t => State.dies_strew u t m)) d)

/-- An order that begins no relock moves no traveller. -/
theorem State.askClock_still {s : State} {m d state : Nat} (h : s.relocking m d = true ∨ state = (s.die m d).clock) :
    s.askClock m d state = s.modDie m d (fun o => o.ask s.now (s.cycOf m d) state) := by
  have h' : (s.relocking m d || decide (state = (s.die m d).clock)) = true := by simpa using h
  unfold State.askClock
  rw [if_pos h']

/-! ## The restart of a die (R70) -/

theorem State.dies_endCommand (s : State) (m fn slot : Nat) (r : HostResult) (k : Nat) :
    ((s.endCommand m fn slot r).module k).dies = (s.module k).dies :=
  State.modModule_keeps (·.dies) s m k

/-- The commands that waited for a relock end without a change of a die. -/
theorem State.die_endPowerSet (s : State) (m d : Nat) : (s.endPowerSet m).die m d = s.die m d := by
  refine State.die_congr ?_ d
  unfold State.endPowerSet
  split
  · rfl
  · exact (foldl_keeps (fun u : State => (u.module m).dies) _ _ (fun u (w : Nat × Nat) => State.dies_endCommand u m w.1 w.2 {} m)).trans
      (State.modModule_keeps (·.dies) s m m)

theorem Die.takeHeld_none {o : Die} (h : o.heldTarget = none) (now : Nat) : o.takeHeld now = o := by
  simp [Die.takeHeld, h]

theorem Die.restart_relocking {o : Die} {state t : Nat} (h : o.relock = some (state, t)) (now : Nat) :
    o.restart now = { o with
      relock := none, clock := state, since := now
      cycBase := o.cycBase * freqOf state / freqOf o.clock + 10800 / periodOf state } := by
  simp [Die.restart, h, ticksRelock]

theorem exec_relockRestart_early {s : State} {state t : Nat} (h : (s.die s.args.m s.args.die).relock = some (state, t)) (ht : s.now < t) :
    exec .relockRestart s = .next s := by
  simp [exec_relockRestart, execRelockRestart, h, ht]

/-- At its time the die runs at the clock asked for, when no other order is held for it. -/
theorem exec_relockRestart_due {s : State} {state t : Nat} (h : (s.die s.args.m s.args.die).relock = some (state, t)) (ht : t ≤ s.now)
    (hn : (s.die s.args.m s.args.die).heldTarget = none) :
    ∃ u, exec .relockRestart s = .next u ∧
      u.die s.args.m s.args.die = (s.die s.args.m s.args.die).restart s.now := by
  refine ⟨(s.modDie s.args.m s.args.die (fun o => (o.restart s.now).takeHeld s.now)).endPowerSet s.args.m, ?_, ?_⟩
  · simp [exec_relockRestart, execRelockRestart, h, Nat.not_lt.mpr ht]
  · rw [State.die_endPowerSet, State.die_modDie, Die.takeHeld_none]
    rw [Die.restart_relocking h]
    exact hn

/-! ## Temperatures (R41, R76) -/

theorem exec_dieTemperatureChange_eq (s : State) :
    exec .dieTemperatureChange s = .next (s.modDie s.args.m s.args.die (fun o =>
      { o with
        temp := s.args.temp, refresh := decide (85 < s.args.temp), allowHalved := decide (95 < s.args.temp)
        hotSince := if 95 < s.args.temp then some (o.hotSince.getD s.now) else none
        coolSince := if s.args.temp < 90 then some (o.coolSince.getD s.now) else none })) := by
  simp only [exec_dieTemperatureChange, execDieTemperatureChange, heldSince, decide_eq_true_eq]

/-- A die that has been too hot for 1 ms is asked for the next lower clock. -/
theorem exec_thermalStepDown_hot {s : State} {t : Nat} (h : (s.die s.args.m s.args.die).hotSince = some t) :
    exec .thermalStepDown s = .next (if 7200000 ≤ s.now - t ∧ (s.die s.args.m s.args.die).target < 3 then
      (s.modDie s.args.m s.args.die (fun o => { o with hotSince := some s.now })).askClock s.args.m s.args.die
        ((s.die s.args.m s.args.die).target + 1) else s) := by
  simp only [exec_thermalStepDown, execThermalStepDown, h]
  exact congrArg Host.Outcome.next (ite_swap_of_iff (by simp only [Bool.or_eq_true, decide_eq_true_eq]; unfold ticksMs; omega) _ _)

/-- A die that has been cool for 10 ms is asked for the next higher clock, up to the one that POWER_SET gave. -/
theorem exec_thermalStepUp_cool {s : State} {t : Nat} (h : (s.die s.args.m s.args.die).coolSince = some t) :
    exec .thermalStepUp s = .next (if 72000000 ≤ s.now - t ∧ (s.die s.args.m s.args.die).wanted < (s.die s.args.m s.args.die).target then
      (s.modDie s.args.m s.args.die (fun o => { o with coolSince := some s.now })).askClock s.args.m s.args.die
        ((s.die s.args.m s.args.die).target - 1) else s) := by
  simp only [exec_thermalStepUp, execThermalStepUp, h]
  exact congrArg Host.Outcome.next (ite_swap_of_iff (by simp only [Bool.or_eq_true, decide_eq_true_eq]; unfold ticksCool; omega) _ _)

theorem exec_thermalStepDown_none {s : State} (h : (s.die s.args.m s.args.die).hotSince = none) : exec .thermalStepDown s = .next s := by
  simp [exec_thermalStepDown, execThermalStepDown, h]

theorem exec_thermalStepUp_none {s : State} (h : (s.die s.args.m s.args.die).coolSince = none) : exec .thermalStepUp s = .next s := by
  simp [exec_thermalStepUp, execThermalStepUp, h]

/-! ## Allowances (R73, R75) -/

theorem foldl_add_eq_sum (l : List Nat) : l.foldl (· + ·) 0 = l.sum := by
  rw [List.sum_eq_foldl]

/-- The allowances as the arbiter would set them, without the limit. -/
theorem allowances_cases (limit : Nat) (asked : List Nat) :
    ((allowances limit asked = (List.range 128).map (fun d => min 64 (asked.getD d 64))) ∧
      (allowances limit asked).sum ≤ allowTotal limit) ∨
    allowances limit asked = (List.range 128).map (fun d => min (allowTotal limit / 128) (min 64 (asked.getD d 64))) := by
  unfold allowances
  dsimp only
  split
  · next h => exact .inl ⟨rfl, by rwa [← foldl_add_eq_sum]⟩
  · exact .inr (by rw [List.map_map]; rfl)

theorem allowances_length (limit : Nat) (asked : List Nat) : (allowances limit asked).length = 128 := by
  rcases allowances_cases limit asked with ⟨h, -⟩ | h <;> simp [h]

theorem getD_map_range (f : Nat → Nat) {n d : Nat} (h : d < n) : ((List.range n).map f).getD d 0 = f d := by
  rw [List.getD_eq_getElem?_getD, List.getElem?_map, List.getElem?_range h]
  rfl

theorem allowances_getD (limit : Nat) (asked : List Nat) {d : Nat} (hd : d < 128) :
    (allowances limit asked).getD d 0 ≤ min 64 (asked.getD d 64) := by
  rcases allowances_cases limit asked with ⟨h, -⟩ | h
  · exact Nat.le_of_eq (by rw [h, getD_map_range _ hd])
  · rw [h, getD_map_range _ hd]
    exact Nat.min_le_right _ _

/-- A sum of numbers none of which is above a bound. -/
theorem sum_le_length_mul {l : List Nat} {b : Nat} (h : ∀ x ∈ l, x ≤ b) : l.sum ≤ l.length * b := by
  induction l with
  | nil => exact Nat.zero_le _
  | cons x l ih =>
    have hx := h x (List.mem_cons_self ..)
    have hl := ih (fun y hy => h y (List.mem_cons_of_mem x hy))
    rw [List.sum_cons, List.length_cons, Nat.succ_mul]
    omega

theorem allowances_sum (limit : Nat) (asked : List Nat) : (allowances limit asked).sum ≤ allowTotal limit := by
  rcases allowances_cases limit asked with ⟨-, h⟩ | h
  · exact h
  · have hle : (allowances limit asked).sum ≤ (allowances limit asked).length * (allowTotal limit / 128) := by
      refine sum_le_length_mul (fun x hx => ?_)
      rw [h] at hx
      obtain ⟨d, -, rfl⟩ := List.mem_map.mp hx
      exact Nat.min_le_left _ _
    rw [allowances_length] at hle
    omega

/-- What the grant of a district is taken from: the limit and the dies of its module, and what the event asks for. -/
def State.grantBasis (s : State) (m : Nat) : Args × Nat × Tbl Die := (s.args, (s.module m).limit, (s.module m).dies)

/-- The allowance that district `d` is granted. -/
def State.granted (s : State) (m d : Nat) : Nat :=
  if (s.die m (d / 16)).allowHalved then (allowances (s.module m).limit s.args.allow).getD d 0 / 2
  else (allowances (s.module m).limit s.args.allow).getD d 0

theorem State.granted_congr {s r : State} {m : Nat} (h : r.grantBasis m = s.grantBasis m) (d : Nat) : r.granted m d = s.granted m d := by
  simp only [State.grantBasis, Prod.mk.injEq] at h
  obtain ⟨ha, hl, hd⟩ := h
  simp only [State.granted, State.die_congr hd, ha, hl]

theorem State.grantBasis_send (s : State) (t : Traveller) (m : Nat) : (s.send t).grantBasis m = s.grantBasis m := by
  unfold State.send
  dsimp only
  split <;> rfl

/-- The grants of every district leave die 0, at most every 5 µs; no grant changes what the next is taken from. -/
theorem exec_powerGrant_eq (s : State) :
    exec .powerGrant s = .next (if s.now - (s.module s.args.m).lastGrant < 36000 then s else
      (List.range 128).foldl (fun u d => u.send
        { src := rootCore s.args.m 0, dst := rootCore s.args.m d, vc := 3, load := .grant d (s.granted s.args.m d) })
        (s.modModule s.args.m (fun o => { o with lastGrant := s.now }))) := by
  refine congrArg (fun u => Host.Outcome.next (if s.now - (s.module s.args.m).lastGrant < 36000 then s else u)) ?_
  refine foldl_congr_of_keeps (g := (State.grantBasis · s.args.m)) (b := s.grantBasis s.args.m)
    (fun u d => State.grantBasis_send u _ _) (fun u d hu => ?_) _ ?_
  · show u.send { src := _, dst := _, vc := 3, load := .grant d (u.granted s.args.m d) } = _
    rw [State.granted_congr hu]
  · simp only [State.grantBasis, State.module_modModule, State.modModule_args]

theorem State.onArrival_of {s : State} {x : Traveller} (h : s.arriving s.args.n = some x) {f : State → Traveller → Option State}
    {u : State} (hf : f (s.landed s.args.n x) x = some u) : s.onArrival f = .next u := by
  simp only [State.onArrival, h, hf, Option.getD_some]

theorem exec_powerGrantArrival_grant {s : State} {x : Traveller} {d a : Nat} (h : s.arriving s.args.n = some x) (hl : x.load = .grant d a) :
    exec .powerGrantArrival s = .next ((s.landed s.args.n x).modDistrict (moduleOf x.dst) d (fun o =>
      { o with allow := a, throttled := false })) := by
  rw [exec_powerGrantArrival, execPowerGrantArrival]
  exact State.onArrival_of h (by simp only [hl])

/-- Settles O45, clause by clause: what each event does, the die that an order reaches (`State.die_askClock`), and the sum of the
allowances (`allowances_sum`). -/
theorem clocksAndPower : Obligations.ClocksAndPower := by
  unfold Obligations.ClocksAndPower
  refine ⟨exec_dieTemperatureChange_eq, ?_,
    fun o now cyc state => ⟨fun h hs => Die.ask_other h hs now cyc, fun h => Die.ask_same h now cyc,
      fun h => Die.ask_relocking h now cyc state⟩,
    fun s m d state => ⟨State.die_askClock s m d state, State.askClock_still⟩, ?_, exec_powerGrant_eq, ?_,
    fun s x d a => exec_powerGrantArrival_grant, fun s => rfl⟩
  · intro s t m d o next
    have hnext : next = o.target := by
      show (match o.relock with | some r => r.1 | none => o.clock) = o.target
      cases h : o.relock <;> simp only [Die.target, h]
    rw [hnext]
    exact ⟨exec_thermalStepDown_hot, exec_thermalStepUp_cool, exec_thermalStepDown_none, exec_thermalStepUp_none⟩
  · intro s state t m d h
    refine ⟨exec_relockRestart_early h, fun ht hn => ?_⟩
    obtain ⟨u, hu, hd⟩ := exec_relockRestart_due h ht hn
    rw [Die.restart_relocking h] at hd
    exact ⟨u, hu, by rw [hd], by rw [hd], by rw [hd], by rw [hd]⟩
  · intro limit asked l
    have hle := fun {d : Nat} (hd : d < 128) => allowances_getD limit asked hd
    refine ⟨allowances_length limit asked, fun a ha => ?_, fun d hd => hle hd, ?_⟩
    · obtain ⟨d, hd, rfl⟩ := List.getElem_of_mem ha
      have h := hle (d := d) (by rwa [← allowances_length limit asked])
      rw [List.getD_eq_getElem?_getD, List.getElem?_eq_getElem hd, Option.getD_some] at h
      exact Nat.le_trans h (Nat.min_le_left ..)
    · rw [foldl_add_eq_sum]
      exact allowances_sum limit asked

end Sys2Proof.Machine
end

section
/-! SUPPORT. Spares of the DRAM and of the capacity tier, the in-field test, and the retirement of sites (R78 to R81, R84, R251, R252). -/
namespace Sys2Proof.Machine

/-! ## Rows, banks and ranks (R81, R84) -/

theorem Quad.spareFor_iff (q : Quad) (layer : Nat) (row : Option Nat) :
    q.spareFor layer row = true ↔ row ≠ none ∨ ∀ r ∈ q.remaps, ¬ (r.1 = layer ∧ r.2.2 = none) := by
  simp [Quad.spareFor, Option.isSome_iff_ne_none]

theorem exec_dramRowRemap_copy {s : State} (h : s.args.site = none) :
    exec .dramRowRemap s = .next (
      if (s.quad s.args.quad).remapping = none ∧ s.args.layer < 4 ∧ s.args.bank < 4 ∧
          (s.args.row ≠ none ∨ ∀ r ∈ (s.quad s.args.quad).remaps, ¬ (r.1 = s.args.layer ∧ r.2.2 = none)) then
        s.modQuad s.args.quad (fun q => { q with remapping := some (s.args.layer, s.args.bank, s.args.row) })
      else s) := by
  simp only [exec_dramRowRemap, execDramRowRemap, h, ← Quad.spareFor_iff]
  refine congrArg Host.Outcome.next (ite_swap_of_iff ?_ _ _)
  cases (s.quad s.args.quad).remapping with
  | some r => simp
  | none =>
    cases (s.quad s.args.quad).spareFor s.args.layer s.args.row with
    | false => simp
    | true => simp; omega

theorem exec_dramRowRemap_site {s : State} {x : Nat × Nat} (h : s.args.site = some x) :
    exec .dramRowRemap s = .next (s.retireFailing s.args.m s.args.district (s.args.district / 16, x.1, x.2)) := by
  simp only [exec_dramRowRemap, execDramRowRemap, h]

theorem exec_rowCopyComplete_none {s : State} (h : (s.quad s.args.quad).remapping = none) : exec .rowCopyComplete s = .next s := by
  simp only [exec_rowCopyComplete, execRowCopyComplete, h]

theorem exec_rowCopyComplete_some {s : State} {r : Nat × Nat × Option Nat} (h : (s.quad s.args.quad).remapping = some r) :
    exec .rowCopyComplete s = .next ((s.modQuad s.args.quad (fun q =>
      { q with remapping := none, remaps := q.remaps ++ [r] })).modModule (s.args.quad / 2 ^ 14) (fun o =>
      { o with remapTotal := o.remapTotal + 1 })) := by
  simp only [exec_rowCopyComplete, execRowCopyComplete, h]

theorem exec_spareRankBringIn_eq (s : State) :
    exec .spareRankBringIn s = .next (
      if (s.channel s.args.m s.args.channel).copying = none ∧ (s.channel s.args.m s.args.channel).replaced = none ∧ s.args.rank < 4 then
        s.modModule s.args.m (fun o => { o with
          channels := o.channels.set s.args.channel { s.channel s.args.m s.args.channel with copying := some s.args.rank } })
      else s) := by
  refine congrArg Host.Outcome.next (ite_swap_of_iff ?_ _ _)
  cases (s.channel s.args.m s.args.channel).copying <;> cases (s.channel s.args.m s.args.channel).replaced <;> simp

theorem exec_spareRankCopyDone_some {s : State} {r : Nat} (h : (s.channel s.args.m s.args.channel).copying = some r) :
    exec .spareRankCopyDone s = .next (s.modModule s.args.m (fun o =>
      { o with channels := o.channels.set s.args.channel { copying := none, replaced := some r } })) := by
  simp only [exec_spareRankCopyDone, execSpareRankCopyDone, h]

theorem exec_spareRankCopyDone_none {s : State} (h : (s.channel s.args.m s.args.channel).copying = none) :
    exec .spareRankCopyDone s = .next s := by
  simp only [exec_spareRankCopyDone, execSpareRankCopyDone, h]

/-! ## Slices of the in-field test (R251, R252) -/

theorem exec_testSlice_eq (s : State) :
    exec .testSlice s = .next (
      if (s.district s.args.m s.args.district).testable ∧ s.inGap s.args.m s.args.district then
        s.modDistrict s.args.m s.args.district (fun o => { o with slice := some (s.now, false) })
      else s) := by
  simp only [exec_testSlice, execTestSlice, Bool.and_eq_true]

theorem exec_forcedTestGap_eq (s : State) :
    exec .forcedTestGap s = .next (
      if (s.district s.args.m s.args.district).testable ∧
          720000000 ≤ s.now - max (s.district s.args.m s.args.district).lastSlice (s.module s.args.m).resetAt then
        s.modDistrict s.args.m s.args.district (fun o => { o with slice := some (s.now, !s.inGap s.args.m s.args.district) })
      else s) := by
  simp only [exec_forcedTestGap, execForcedTestGap, Bool.and_eq_true, decide_eq_true_eq]
  rfl

/-- A slice that passes takes the next pattern. -/
theorem State.slicePassed_next {s : State} {m d : Nat} (h : (s.district m d).pattern ≠ Config.patternsLessOne) :
    s.slicePassed m d = s.modDistrict m d (fun o =>
      { o with slice := none, lastSlice := s.now, passed := o.passed.set o.pattern (s.refNs m), pattern := o.pattern + 1 }) := by
  unfold State.slicePassed
  dsimp only
  rw [if_neg h]
  exact State.modDistrict_congr s m d (by simp only [if_neg h])

/-- After the last pattern the set begins again and is reported. -/
theorem State.slicePassed_last {s : State} {m d : Nat} (h : (s.district m d).pattern = Config.patternsLessOne) :
    s.slicePassed m d = (s.modDistrict m d (fun o =>
      { o with slice := none, lastSlice := s.now, passed := o.passed.set o.pattern (s.refNs m), pattern := 0 })).tellSupervisor
        (rootCore m d) (noticeWord 11 0 (d + (s.district m d).pattern * 2 ^ 8)) none := by
  unfold State.slicePassed
  dsimp only
  rw [if_pos h]
  exact congrArg (State.tellSupervisor · _ _ none) (State.modDistrict_congr s m d (by simp only [if_pos h]))

/-- A slice ends when it has run for 20 µs. -/
theorem exec_testSliceComplete_slice {s : State} {t : Nat} {f : Bool} (h : (s.district s.args.m s.args.district).slice = some (t, f)) :
    exec .testSliceComplete s = .next (
      if s.now - t < 144000 then s
      else if s.args.ok then s.slicePassed s.args.m s.args.district
      else s.sliceFailed s.args.m s.args.district s.args.site) := by
  simp only [exec_testSliceComplete, execTestSliceComplete, h]
  rfl

/-! ## The districts that a retirement fences (R78, R79) -/

theorem mem_movingDistricts {site : Nat × Nat × Nat} {d : Nat} :
    d ∈ movingDistricts site ↔ ∃ x < 8, (if leftHalf site.2.1 then x ≤ siteX site.2.1 else siteX site.2.1 ≤ x) ∧
      site.1 * 16 + site.2.2 / 16 * 8 + x = d := by
  obtain ⟨die, col, row⟩ := site
  cases h : leftHalf col <;> simp [movingDistricts, h, and_assoc]

/-- What makes a site of a district fit to be retired. -/
theorem State.spareSite_spec {s : State} {m d : Nat} {site : Nat × Nat × Nat} (h : s.spareSite m d site = true) :
    site.1 = d / 16 ∧ site.2.2 / 16 = d % 16 / 8 ∧ siteX site.2.1 = d % 8 ∧
      ∀ x ∈ (s.module m).sites ++ s.retiring m, x.1 = site.1 → x.2.2 = site.2.2 → leftHalf x.2.1 ≠ leftHalf site.2.1 := by
  obtain ⟨die, col, row⟩ := site
  simp only [State.spareSite, Bool.and_eq_true, beq_iff_eq, decide_eq_true_eq, Bool.not_eq_true'] at h
  obtain ⟨⟨⟨⟨⟨⟨hd, -⟩, -⟩, hr⟩, hx⟩, hall⟩, -⟩ := h
  refine ⟨hd, hr, hx, fun x hxm h1 h2 h3 => ?_⟩
  rw [List.any_eq_false] at hall
  exact hall x hxm (by simp [h1, h2, h3])

/-- The district of a site that is retired is among those that are fenced. -/
theorem State.spareSite_moves {s : State} {m d : Nat} {site : Nat × Nat × Nat} (h : s.spareSite m d site = true) :
    d ∈ movingDistricts site := by
  obtain ⟨hd, hr, hx, -⟩ := State.spareSite_spec h
  refine mem_movingDistricts.mpr ⟨d % 8, by omega, by simp [hx], by omega⟩

/-! ## A retirement begins (R79) -/

/-- The districts of a list, fenced. -/
def State.fenceAll (s : State) (m : Nat) (l : List Nat) : State :=
  l.foldl (fun s e => s.modDistrict m e (fun o => { o with fenced := true })) s

theorem State.moving_fenceAll (s : State) (m : Nat) (l : List Nat) (d : Nat) :
    ((s.fenceAll m l).district m d).moving = (s.district m d).moving :=
  foldl_keeps (fun u : State => (u.district m d).moving) l s (fun u e => State.modDistrict_keeps (·.moving) u m e d)

theorem State.fenced_fenceAll (s : State) (m : Nat) {l : List Nat} {e : Nat} (he : e ∈ l) :
    ((s.fenceAll m l).district m e).fenced = true := by
  refine foldl_reaches (I := fun _ => True) (P := fun u : State => (u.district m e).fenced = true) he (fun _ _ _ => trivial)
    (fun u _ => by rw [State.district_modDistrict]) (fun u b _ hu => ?_) trivial
  by_cases hb : e = b
  · rw [hb, State.district_modDistrict]
  · rwa [State.district_modDistrict_ne _ _ hb]

theorem State.beginRetire_eq (s : State) (m d : Nat) (site : Nat × Nat × Nat) :
    s.beginRetire m d site = (s.modDistrict m d (fun o => { o with moving := some site })).fenceAll m (movingDistricts site) := rfl

theorem State.retireFailing_eq {s : State} {m d q : Nat} {site : Nat × Nat × Nat} (hs : s.spareSite m d site = true)
    (hq : siteQuad m site = some q) (hl : (s.district m d).slice = none) (hm : (s.district m d).moving = none) :
    s.retireFailing m d site = if s.quadFails q then s.beginRetire m d site else s := by
  simp [State.retireFailing, hs, hq, hl, hm]

/-! ## The copies of a column end (R79, R80, R252) -/

theorem State.retiring_congr {s r : State} {m : Nat} (h : ∀ d, (r.district m d).moving = (s.district m d).moving) :
    r.retiring m = s.retiring m := by
  simp only [State.retiring, h]

theorem State.mem_retiring {s : State} {m : Nat} {x : Nat × Nat × Nat} :
    x ∈ s.retiring m ↔ ∃ d < 128, (s.district m d).moving = some x := by
  simp [State.retiring]

theorem State.moving_unfence (s : State) (m e d : Nat) : ((s.unfence m e).district m d).moving = (s.district m d).moving :=
  State.modDistrict_keeps (·.moving) s m e d

/-- A district that no retirement moves is fenced no more. -/
theorem State.fenced_unfence {s : State} {m d : Nat} (h : ∀ x ∈ s.retiring m, d ∉ movingDistricts x) :
    ((s.unfence m d).district m d).fenced = false := by
  have hany : (s.retiring m).any (fun x => (movingDistricts x).contains d) = false :=
    List.any_eq_false.mpr (fun x hx => by simpa using h x hx)
  unfold State.unfence
  rw [State.district_modDistrict]
  exact hany

/-- The districts of a list, each fenced no more unless a retirement moves it. -/
def State.unfenceAll (s : State) (m : Nat) (l : List Nat) : State := l.foldl (fun s e => s.unfence m e) s

theorem State.sites_unfenceAll (s : State) (m : Nat) (l : List Nat) : ((s.unfenceAll m l).module m).sites = (s.module m).sites :=
  foldl_keeps (fun u : State => (u.module m).sites) l s (fun u _ => State.modModule_keeps (·.sites) u m m)

theorem State.moving_unfenceAll (s : State) (m : Nat) (l : List Nat) (d : Nat) :
    ((s.unfenceAll m l).district m d).moving = (s.district m d).moving :=
  foldl_keeps (fun u : State => (u.district m d).moving) l s (fun u e => State.moving_unfence u m e d)

theorem State.mem_unfenceAll (s : State) (m : Nat) (l : List Nat) : (s.unfenceAll m l).mem = s.mem :=
  foldl_keeps State.mem l s

theorem State.fenced_unfenceAll {s : State} {m d : Nat} {l : List Nat} (hd : d ∈ l) (h : ∀ x ∈ s.retiring m, d ∉ movingDistricts x) :
    ((s.unfenceAll m l).district m d).fenced = false := by
  refine foldl_reaches (I := fun u : State => ∀ x ∈ u.retiring m, d ∉ movingDistricts x)
    (P := fun u : State => (u.district m d).fenced = false) hd (fun u e hu => ?_) (fun u hu => State.fenced_unfence hu)
    (fun u e hu hp => ?_) h
  · rwa [State.retiring_congr (State.moving_unfence u m e)]
  · by_cases he : d = e
    · rw [← he]
      exact State.fenced_unfence hu
    · unfold State.unfence
      rwa [State.district_modDistrict_ne _ _ he]

theorem State.modules_shiftQuads (s : State) (m : Nat) (site : Nat × Nat × Nat) : (s.shiftQuads m site).modules = s.modules :=
  foldl_keeps State.modules (shiftedQuads m site) s

theorem State.mem_shiftQuads (s : State) (m : Nat) (site : Nat × Nat × Nat) : (s.shiftQuads m site).mem = s.mem :=
  foldl_keeps State.mem (shiftedQuads m site) s

/-- The cores of a quad are lost no more. -/
def State.regainQuad (s : State) (q : Nat) : State :=
  (List.range 4).foldl (fun s i => s.modCore (coreOfQuad q i) (fun o => { o with lost := false })) s

theorem State.modules_regainQuad (s : State) (q : Nat) : (s.regainQuad q).modules = s.modules :=
  foldl_keeps State.modules (List.range 4) s

theorem State.mem_regainQuad (s : State) (q : Nat) : (s.regainQuad q).mem = s.mem :=
  foldl_keeps State.mem (List.range 4) s

theorem State.lost_regainQuad (s : State) (q : Nat) {i : Nat} (hi : i < 4) : ((s.regainQuad q).core (coreOfQuad q i)).lost = false := by
  refine foldl_reaches (I := fun _ => True) (P := fun u : State => (u.core (coreOfQuad q i)).lost = false) (List.mem_range.mpr hi)
    (fun _ _ _ => trivial) (fun u _ => by rw [State.core_modCore]) (fun u j _ hu => ?_) trivial
  by_cases hj : coreOfQuad q i = coreOfQuad q j
  · rw [hj, State.core_modCore]
  · rwa [State.core_modCore_ne _ _ hj]

/-- The site of a retirement is noted, and the retirement is over. -/
def State.noteSite (s : State) (m d : Nat) (site : Nat × Nat × Nat) : State :=
  (s.modModule m (fun o => { o with sites := o.sites ++ [site] })).modDistrict m d (fun o => { o with moving := none })

theorem State.sites_noteSite (s : State) (m d : Nat) (site : Nat × Nat × Nat) :
    ((s.noteSite m d site).module m).sites = (s.module m).sites ++ [site] := by
  simp only [State.noteSite, State.modDistrict, State.module_modModule]

theorem State.moving_noteSite (s : State) (m d : Nat) (site : Nat × Nat × Nat) :
    ((s.noteSite m d site).district m d).moving = none := by
  simp only [State.noteSite, State.district_modDistrict]

theorem State.moving_noteSite_ne (s : State) {m d e : Nat} (site : Nat × Nat × Nat) (h : e ≠ d) :
    ((s.noteSite m d site).district m e).moving = (s.district m e).moving := by
  rw [State.noteSite, State.district_modDistrict_ne _ _ h]
  simp only [State.district, State.module_modModule]

/-- When the copies end, the quads stand on their new sites and the districts are fenced no more. -/
def State.copiesEnd (s : State) (m d : Nat) (site : Nat × Nat × Nat) : State :=
  ((s.noteSite m d site).shiftQuads m site).unfenceAll m (movingDistricts site)

theorem State.district_shiftQuads (s : State) (m : Nat) (site : Nat × Nat × Nat) (k e : Nat) :
    (s.shiftQuads m site).district k e = s.district k e := by
  simp only [State.district, State.module, State.modules_shiftQuads]

theorem State.sites_copiesEnd (s : State) (m d : Nat) (site : Nat × Nat × Nat) :
    ((s.copiesEnd m d site).module m).sites = (s.module m).sites ++ [site] := by
  rw [State.copiesEnd, State.sites_unfenceAll, State.module, State.modules_shiftQuads]
  exact State.sites_noteSite s m d site

theorem State.moving_copiesEnd (s : State) (m d : Nat) (site : Nat × Nat × Nat) :
    ((s.copiesEnd m d site).district m d).moving = none := by
  rw [State.copiesEnd, State.moving_unfenceAll, State.district_shiftQuads, State.moving_noteSite]

theorem State.mem_copiesEnd (s : State) (m d : Nat) (site : Nat × Nat × Nat) : (s.copiesEnd m d site).mem = s.mem := by
  rw [State.copiesEnd, State.mem_unfenceAll, State.mem_shiftQuads]
  rfl

/-- The district of the site is fenced no more, when no other retirement moves it. -/
theorem State.fenced_copiesEnd {s : State} {m d : Nat} {site : Nat × Nat × Nat} (hd : d ∈ movingDistricts site)
    (h : ∀ e < 128, e ≠ d → ∀ x, (s.district m e).moving = some x → d ∉ movingDistricts x) :
    ((s.copiesEnd m d site).district m d).fenced = false := by
  refine State.fenced_unfenceAll hd (fun x hx => ?_)
  obtain ⟨e, he, hm⟩ := State.mem_retiring.mp hx
  rw [State.district_shiftQuads] at hm
  by_cases hed : e = d
  · rw [hed, State.moving_noteSite] at hm
    cases hm
  · rw [State.moving_noteSite_ne s site hed] at hm
    exact h e he hed x hm

theorem exec_columnCopyComplete_none {s : State} (h : (s.district s.args.m s.args.district).moving = none) :
    exec .columnCopyComplete s = .next s := by
  simp only [exec_columnCopyComplete, execColumnCopyComplete, h]

theorem exec_columnCopyComplete_some {s : State} {site : Nat × Nat × Nat} (h : (s.district s.args.m s.args.district).moving = some site) :
    exec .columnCopyComplete s = .next ((siteQuad s.args.m site).elim (s.copiesEnd s.args.m s.args.district site)
      (s.copiesEnd s.args.m s.args.district site).regainQuad) := by
  simp only [exec_columnCopyComplete, execColumnCopyComplete, h]
  cases siteQuad s.args.m site <;> rfl

/-- Settles O46, clause by clause; what a retirement leaves when its copies end stands in the lemmas about `State.copiesEnd` and
`State.regainQuad`. -/
theorem sparesAndTests : Obligations.SparesAndTests := by
  unfold Obligations.SparesAndTests
  refine ⟨fun s => ⟨exec_dramRowRemap_copy, fun x => exec_dramRowRemap_site, exec_rowCopyComplete_none,
      fun r => exec_rowCopyComplete_some⟩,
    fun s => ⟨exec_spareRankBringIn_eq s, fun r => exec_spareRankCopyDone_some, exec_spareRankCopyDone_none⟩,
    ?slices, ?begins, fun s => exec_columnCopyComplete_none, ?ends⟩
  case slices =>
    intro s m d o
    refine ⟨exec_testSlice_eq s, exec_forcedTestGap_eq s, fun t f h => ?_⟩
    rw [exec_testSliceComplete_slice h]
    refine ⟨fun ht => by rw [if_pos ht], fun ht hok hp => ?_, fun ht hok hp => ?_, fun ht hok => ?_⟩
    · rw [if_neg (by omega), if_pos hok, State.slicePassed_next hp]
    · rw [if_neg (by omega), if_pos hok, State.slicePassed_last hp]
    · rw [if_neg (by omega), if_neg (by simp [hok])]
  case begins =>
    intro s m d site _ hs
    obtain ⟨-, -, -, hother⟩ := State.spareSite_spec hs
    refine ⟨State.spareSite_moves hs, hother, fun q hq hl hm => ?_⟩
    rw [State.retireFailing_eq hs hq hl hm]
    refine ⟨fun hf => by rw [hf]; rfl, fun hf => ?_⟩
    rw [if_pos hf, State.beginRetire_eq]
    exact ⟨by rw [State.moving_fenceAll, State.district_modDistrict], fun e he => State.fenced_fenceAll _ m he⟩
  case ends =>
    intro s site m d h hd hother
    have hfacts : ∀ u : State, u.modules = (s.copiesEnd m d site).modules → u.mem = (s.copiesEnd m d site).mem →
        (u.module m).sites = (s.module m).sites ++ [site] ∧ (u.district m d).moving = none ∧ (u.district m d).fenced = false ∧
          u.mem = s.mem := by
      intro u hu hmem
      have hmod : u.module m = (s.copiesEnd m d site).module m := by rw [State.module, hu]; rfl
      rw [State.district_congr (congrArg _ hmod), hmod, hmem]
      exact ⟨State.sites_copiesEnd s m d site, State.moving_copiesEnd s m d site, State.fenced_copiesEnd hd hother,
        State.mem_copiesEnd s m d site⟩
    rw [exec_columnCopyComplete_some h]
    cases hq : siteQuad m site with
    | none =>
      obtain ⟨hsites, hmoving, hfenced, hmem⟩ := hfacts _ rfl rfl
      exact ⟨_, rfl, hsites, hmoving, hfenced, hmem, fun q i h => by cases h⟩
    | some q =>
      obtain ⟨hsites, hmoving, hfenced, hmem⟩ := hfacts _ (State.modules_regainQuad (s.copiesEnd m d site) q) (State.mem_regainQuad _ q)
      refine ⟨_, rfl, hsites, hmoving, hfenced, hmem, fun q' i h hi => ?_⟩
      obtain rfl : q = q' := Option.some.inj h
      exact State.lost_regainQuad _ q hi

end Sys2Proof.Machine
end

section
/-! SUPPORT. Flits, packets, receivers, lanes and notices of a link, apart from the state that holds it (R52 to R61). -/
namespace Sys2Proof.Machine

/-! ## Flits (R52) -/

/-- The fields of a header word, when each fits. -/
theorem LinkFlit.ofWord_word {f : LinkFlit} (hs : f.seq < 2 ^ 16) (hi : f.fidx < 2 ^ 5) (hc : f.tc < 4) (hk : f.kind < 16)
    (hm : f.strm < 16) : LinkFlit.ofWord f.word f.payload = f := by
  obtain ⟨seq, fidx, last, tc, kind, strm, payload, crc⟩ := f
  have hcrc := crc.isLt
  have hw : BitVec.ofNat 32 (LinkFlit.head { seq, fidx, last, tc, kind, strm, payload, crc } * 2 ^ 32 + crc.toNat) = crc :=
    BitVec.eq_of_toNat_eq (by rw [BitVec.toNat_ofNat]; omega)
  simp only [LinkFlit.ofWord, LinkFlit.word, hw]
  simp only [LinkFlit.head, LinkFlit.mk.injEq] at *
  cases last <;> simp <;> omega

/-- A seal holds whatever the CRC was before, for the CRC covers only the other fields. -/
theorem LinkFlit.seal_bad {f : LinkFlit} (h : f.kind ≤ 4) : f.seal.bad = false := by
  have hs : f.seal.crc = f.seal.sum := rfl
  have hk : ¬ 4 < f.seal.kind := Nat.not_lt.mpr h
  simp [LinkFlit.bad, hs, hk]

theorem LinkFlit.bad_of_reserved {f : LinkFlit} (h : 4 < f.kind) : f.bad = true := by
  simp [LinkFlit.bad, h]

/-! ## Acknowledgements (R54) -/

theorem length_flatMap_toBytes (l : List Nat) (g : Nat → Nat) (n : Nat) :
    (l.flatMap (fun e => toBytes (g e) n)).length = n * l.length := by
  induction l with
  | nil => rfl
  | cons e l ih => simp [ih, toBytes_length, Nat.mul_succ, Nat.add_comm]

/-- Entry `c` of numbers laid out `n` bytes each. -/
theorem take_drop_flatMap_toBytes (l : List Nat) (g : Nat → Nat) (n c : Nat) {e : Nat} (h : l[c]? = some e) (r : List Byte) :
    ((l.flatMap (fun e => toBytes (g e) n) ++ r).drop (n * c)).take n = toBytes (g e) n := by
  induction l generalizing c with
  | nil => simp at h
  | cons a l ih =>
    cases c with
    | zero =>
      obtain rfl : a = e := by simpa using h
      simp [toBytes_length]
    | succ c =>
      rw [List.flatMap_cons, List.append_assoc, Nat.mul_succ, Nat.add_comm, ← List.drop_drop]
      simp only [List.drop_append_of_le_length, toBytes_length, Nat.le_refl, List.drop_of_length_le]
      exact ih c (by simpa using h)

theorem testBit_validBits (f : Nat → Bool) {c : Nat} (hc : c < 4) :
    ((List.range 4).foldl (fun a i => a + (f i).toNat * 2 ^ i) 0).testBit c = f c := by
  have h : ∀ b0 b1 b2 b3 : Bool, ∀ c < 4, (0 + b0.toNat * 2 ^ 0 + b1.toNat * 2 ^ 1 + b2.toNat * 2 ^ 2 + b3.toNat * 2 ^ 3).testBit c =
      [b0, b1, b2, b3].getD c false := by decide
  refine (h (f 0) (f 1) (f 2) (f 3) c hc).trans ?_
  match c, hc with
  | 0, _ => rfl
  | 1, _ => rfl
  | 2, _ => rfl
  | 3, _ => rfl

/-- The numbers and the valid bits of an answer, in the order in which its payload holds them. -/
theorem LinkDir.answer_payload {d : LinkDir} (h : d.expected.length = 4) (k : Nat) :
    (d.answer k).payload = d.expected.flatMap (fun e => toBytes ((e + 2 ^ 16 - 1) % 2 ^ 16) 2) ++
      (toBytes ((List.range 4).foldl (fun a i => a + (d.valid.getD i false).toNat * 2 ^ i) 0) 1 ++ List.replicate 55 0) := by
  have hl := length_flatMap_toBytes d.expected (fun e => (e + 2 ^ 16 - 1) % 2 ^ 16) 2
  rw [h] at hl
  simp only [LinkDir.answer, LinkFlit.seal, payload64, List.length_append, hl, toBytes_length]
  rw [List.take_of_length_le (by simp only [List.length_append, hl, toBytes_length]; omega), List.append_assoc]

/-- An answer gives the last in-order number of a class that has one. -/
theorem LinkDir.lastOf_answer {d : LinkDir} {c n : Nat} (hc : c < 4) (hl : d.expected.length = 4) (hn : d.expected[c]? = some n)
    (hv : d.valid.getD c false = true) (k : Nat) : (d.answer k).lastOf c = some ((n + 2 ^ 16 - 1) % 2 ^ 16) := by
  have hlen := length_flatMap_toBytes d.expected (fun e => (e + 2 ^ 16 - 1) % 2 ^ 16) 2
  rw [hl] at hlen
  have hbyte : (d.answer k).payload.getD 8 0 =
      BitVec.ofNat 8 ((List.range 4).foldl (fun a i => a + (d.valid.getD i false).toNat * 2 ^ i) 0) := by
    rw [LinkDir.answer_payload hl, List.getD_eq_getElem?_getD, List.getElem?_append_right (Nat.le_of_eq hlen), hlen]
    rfl
  have hbit : bit (BitVec.ofNat 64 ((d.answer k).payload.getD 8 0).toNat) c = true := by
    have h := testBit_validBits (fun i => d.valid.getD i false) hc
    rw [hbyte, bit, BitVec.getLsbD_ofNat, BitVec.toNat_ofNat, Nat.testBit_mod_two_pow, h, hv]
    simp; omega
  rw [LinkFlit.lastOf, if_pos hbit, LinkDir.answer_payload hl, take_drop_flatMap_toBytes _ _ _ _ hn, ofBytes_toBytes]
  simp

/-! ## The receiver (R52, R54, R56) -/

theorem LinkDir.receive_bad {f : LinkFlit} (h : f.bad = true) (d : LinkDir) (now : Nat) :
    d.receive now f = ({ d with crcErrors := d.crcErrors + 1, discarding := insertNat d.discarding f.tc, got := d.got.set f.tc 0
                                requests := d.requests ++ [d.answer 2], requested := now }, false) := by
  rw [LinkDir.receive, if_pos h]

theorem LinkDir.receive_other {f : LinkFlit} {d : LinkDir} (hb : f.bad = false) (h : f.seq ≠ d.expected.getD f.tc 0) (now : Nat) :
    d.receive now f = (d, false) := by
  rw [LinkDir.receive, if_neg (by simp [hb]),
    if_pos (by rw [Bool.or_eq_true]; exact .inr (decide_eq_true h))]

/-- The flit that the receiver expects next. -/
structure LinkDir.Expects (d : LinkDir) (f : LinkFlit) : Prop where
  good : f.bad = false
  kind : f.kind = 0
  seq : f.seq = d.expected.getD f.tc 0
  fidx : f.fidx = d.got.getD f.tc 0

theorem LinkDir.receive_part {d : LinkDir} {f : LinkFlit} (h : d.Expects f) (hl : f.last = false) (now : Nat) :
    d.receive now f = ({ d with got := d.got.set f.tc (f.fidx + 1) }, false) := by
  obtain ⟨hb, hk, hs, hi⟩ := h
  rw [LinkDir.receive, if_neg (by simp [hb]), if_neg (by simp [hk, hs]), if_neg (by simp [hi]), if_pos (by simp [hl])]

/-- The receiver after the last flit of a packet, before it counts the packet. -/
def LinkDir.took (d : LinkDir) (f : LinkFlit) : LinkDir :=
  { d with
    expected := d.expected.set f.tc ((d.expected.getD f.tc 0 + 1) % 2 ^ 16), valid := d.valid.set f.tc true, got := d.got.set f.tc 0
    discarding := eraseNat d.discarding f.tc }

theorem LinkDir.receive_last {d : LinkDir} {f : LinkFlit} (h : d.Expects f) (hl : f.last = true) (now : Nat) :
    d.receive now f = (if 7 ≤ d.unacked then { d.took f with unacked := 0, oldest := none, acks := d.acks ++ [(d.took f).answer 1] }
      else { d.took f with unacked := d.unacked + 1, oldest := some (d.oldest.getD now) }, true) := by
  obtain ⟨hb, hk, hs, hi⟩ := h
  rw [LinkDir.receive, if_neg (by simp [hb]), if_neg (by simp [hk, hs]), if_neg (by simp [hi]), if_neg (by simp [hl])]
  simp only [hs, LinkDir.took, seqNext, LinkDir.ack, LinkDir.answer, Nat.reduceLeDiff]

/-! ## Lanes (R57 to R60) -/

/-- The spare has a number of its own. -/
theorem ne_spare_of_lt_laneCount {l x : Nat} (h : x < laneCount l) : x ≠ 16 := by
  unfold laneCount at h
  split at h <;> omega

/-- A lane that fails with the spare free is covered by it. -/
theorem LinkDir.fail_covered {d : LinkDir} {l x : Nat} (hx : x < laneCount l) (hf : d.failed.contains x = false) (hl : l < 16)
    (hs : d.spare = none) (h16 : 16 ∉ d.failed) (now : Nat) : d.fail l now x =
      { d with spare := some x, retraining := !d.down || d.retraining, since := now, lane := x
               events := d.events ++ [(1, x)], wire := [] } := by
  have hx16 := ne_spare_of_lt_laneCount hx
  have hfree : (decide (l < 16) && d.spare.isNone && !d.failed.contains 16) = true := by simp [hl, hs, h16]
  rw [LinkDir.fail, if_neg (by simpa [hx16] using hf), if_neg hx16, if_neg (by simp [hs]), if_pos hfree]
  rfl

/-- Without a free spare the lane is lost. -/
theorem LinkDir.fail_lost {d : LinkDir} {l x : Nat} (hx : x < laneCount l) (hf : d.failed.contains x = false) (hs : d.spare ≠ some x)
    (h : 16 ≤ l ∨ d.spare ≠ none ∨ 16 ∈ d.failed) (now : Nat) : d.fail l now x =
      { d with failed := d.failed ++ [x], retraining := !d.down || d.retraining, since := now, lane := x
               events := d.events ++ [(2, x)], wire := [] } := by
  have hx16 := ne_spare_of_lt_laneCount hx
  have hfree : (decide (l < 16) && d.spare.isNone && !d.failed.contains 16) = false := by
    rcases h with h | h | h
    · rw [decide_eq_false (Nat.not_lt.mpr h), Bool.false_and, Bool.false_and]
    · obtain ⟨y, hy⟩ := Option.ne_none_iff_exists'.mp h
      rw [hy, Option.isNone_some, Bool.and_false, Bool.false_and]
    · rw [List.contains_iff_mem.mpr h, Bool.not_true, Bool.and_false]
  rw [LinkDir.fail, if_neg (by simpa [hx16] using hf), if_neg hx16, if_neg hs, if_neg (by rw [hfree]; exact Bool.false_ne_true)]
  rfl

/-- A group of `w` lanes from `f` on that is aligned, within `n` lanes, and holds no failed one. -/
def CleanLanes (n : Nat) (failed : List Nat) (w f : Nat) : Prop := f % w = 0 ∧ f + w ≤ n ∧ ∀ x ∈ failed, ¬ (f ≤ x ∧ x < f + w)

theorem mem_laneGroups {n : Nat} (hn : n = 16 ∨ n = 8) {w f : Nat} :
    (w, f) ∈ laneGroups n ↔ w ∈ [16, 8, 4, 2, 1] ∧ f % w = 0 ∧ f + w ≤ n := by
  constructor
  · have h : ∀ n ∈ [16, 8], ∀ g ∈ laneGroups n, g.1 ∈ [16, 8, 4, 2, 1] ∧ g.2 % g.1 = 0 ∧ g.2 + g.1 ≤ n := by decide
    exact h n (by simpa using hn) (w, f)
  · have h : ∀ n ∈ [16, 8], ∀ w ∈ [16, 8, 4, 2, 1], ∀ f < 17, f % w = 0 ∧ f + w ≤ n → (w, f) ∈ laneGroups n := by decide
    exact fun ⟨hw, hf, hle⟩ => h n (by simpa using hn) w hw f (by omega) ⟨hf, hle⟩

/-- The groups stand in the order of preference: the wider first, and of one width the lower first. -/
theorem laneGroups_sorted {n : Nat} (hn : n = 16 ∨ n = 8) :
    (laneGroups n).Pairwise (fun a b => b.1 < a.1 ∨ b.1 = a.1 ∧ a.2 < b.2) := by
  rcases hn with rfl | rfl <;> decide

/-- The clean groups are those that `cleanGroup` looks for. -/
theorem mem_laneGroups_clean {n : Nat} (hn : n = 16 ∨ n = 8) {failed : List Nat} {w f : Nat} :
    (w, f) ∈ laneGroups n ∧ (!failed.any (fun x => f ≤ x && x < f + w)) = true ↔ w ∈ [16, 8, 4, 2, 1] ∧ CleanLanes n failed w f := by
  rw [mem_laneGroups hn, CleanLanes]
  simp only [Bool.not_eq_true', List.any_eq_false, Bool.and_eq_true, decide_eq_true_eq]
  exact ⟨fun ⟨⟨hw, ha, hle⟩, hx⟩ => ⟨hw, ha, hle, hx⟩, fun ⟨hw, ha, hle, hx⟩ => ⟨⟨hw, ha, hle⟩, hx⟩⟩

/-- What comes first in a sorted list precedes every other element that passes the test. -/
theorem find?_first {α : Type} {r : α → α → Prop} {p : α → Bool} {l : List α} (hl : l.Pairwise r) {a b : α}
    (ha : l.find? p = some a) (hb : b ∈ l) (hp : p b = true) : b = a ∨ r a b := by
  induction l with
  | nil => cases hb
  | cons c l ih =>
    obtain ⟨hc, hl⟩ := List.pairwise_cons.mp hl
    rw [List.find?_cons] at ha
    split at ha
    · obtain rfl := Option.some.inj ha
      exact (List.mem_cons.mp hb).imp id (hc b)
    · next hpc =>
      rcases List.mem_cons.mp hb with rfl | hb
      · rw [hp] at hpc; cases hpc
      · exact ih hl ha hb

/-- The group chosen is clean, none wider is, and none of its width below it is. -/
theorem cleanGroup_some {n : Nat} (hn : n = 16 ∨ n = 8) {failed : List Nat} {w f : Nat} (h : cleanGroup n failed = some (w, f)) :
    w ∈ [16, 8, 4, 2, 1] ∧ CleanLanes n failed w f ∧ (∀ v ∈ [16, 8, 4, 2, 1], w < v → ∀ g, ¬ CleanLanes n failed v g) ∧
      ∀ g < f, ¬ CleanLanes n failed w g := by
  have hfirst := fun {v g : Nat} (hv : v ∈ [16, 8, 4, 2, 1]) (hc : CleanLanes n failed v g) =>
    let ⟨hmem, hp⟩ := (mem_laneGroups_clean hn).mpr ⟨hv, hc⟩
    find?_first (laneGroups_sorted hn) h hmem hp
  have htest := List.find?_some h
  obtain ⟨hw, hc⟩ := (mem_laneGroups_clean hn).mp ⟨List.mem_of_find?_eq_some h, htest⟩
  refine ⟨hw, hc, fun v hv hlt g hg => ?_, fun g hlt hg => ?_⟩
  · rcases hfirst hv hg with h | h | h
    · obtain ⟨rfl, rfl⟩ := Prod.mk.inj h; omega
    · simp only at h; omega
    · simp only at h; omega
  · rcases hfirst hw hg with h | h | h
    · obtain ⟨-, rfl⟩ := Prod.mk.inj h; omega
    · simp only at h; omega
    · simp only at h; omega

theorem cleanGroup_none {n : Nat} (hn : n = 16 ∨ n = 8) {failed : List Nat} (h : cleanGroup n failed = none) (f : Nat) :
    ¬ CleanLanes n failed 1 f := by
  intro hc
  obtain ⟨hmem, hp⟩ := (mem_laneGroups_clean hn).mpr ⟨by decide, hc⟩
  exact List.find?_eq_none.mp h _ hmem hp

/-! ## The end of a retraining (R58 to R60) -/

theorem LinkDir.trained_clean {d : LinkDir} {l w f : Nat} (h : cleanGroup (laneCount l) d.failed = some (w, f)) :
    d.trained l = { d with
      retraining := false, restoring := false, tries := 0, wire := [], down := false, width := w, first := f, resend := d.replay
      events := d.events ++ (if d.restoring then [(3, d.lane)] else []) } := by
  simp only [LinkDir.trained, h]

theorem LinkDir.trained_down {d : LinkDir} {l : Nat} (h : cleanGroup (laneCount l) d.failed = none) :
    d.trained l = { d with
      retraining := false, restoring := false, tries := 0, wire := [], down := true
      events := d.events ++ (if d.down then [] else [(4, d.lane)]) } := by
  simp only [LinkDir.trained, h]

theorem LinkDir.missed_down {d : LinkDir} (h : d.down = true) : d.missed = { d with retraining := false, restoring := false } := by
  rw [LinkDir.missed, if_pos h]

theorem LinkDir.missed_third {d : LinkDir} (h : d.down = false) (ht : 2 ≤ d.tries) :
    d.missed = { d with retraining := false, restoring := false, tries := 0, down := true, events := d.events ++ [(4, d.lane)] } := by
  rw [LinkDir.missed, if_neg (by simp [h]), if_pos ht]

theorem LinkDir.missed_again {d : LinkDir} (h : d.down = false) (ht : d.tries < 2) : d.missed = { d with tries := d.tries + 1 } := by
  rw [LinkDir.missed, if_neg (by simp [h]), if_neg (by omega)]

/-! ## The notice word (R61) -/

theorem widthCode_lt (w : Nat) : widthCode w < 8 := by
  unfold widthCode
  repeat' split
  all_goals decide

/-- The word of a direction that is up, with a status other than 1, is the sum of its fields at their places. -/
theorem linkWord_up (now l : Nat) (side : LinkSide) {d : LinkDir} {status : Nat} (ev : Nat × Nat) (hd : d.down = false) (hs : status ≠ 1) :
    linkWord now l side d status ev = BitVec.ofNat 64 (10 * 2 ^ 58 + status * 2 ^ 48 + l * 2 ^ 43 + (if side = .tx then 0 else 1) * 2 ^ 42 +
      ev.1 * 2 ^ 39 + ev.2 * 2 ^ 34 + widthCode d.width * 2 ^ 31 + d.first * 2 ^ 27 + d.replayFrom side * 2 ^ 11 +
      min 2047 ((now - d.since) / 72)) := by
  have hdown : (d.down || decide (status = 1)) = false := by rw [hd, Bool.false_or, decide_eq_false hs]
  have hside : (if side = .tx then 0 else 2 ^ 42) = (if side = .tx then 0 else 1) * 2 ^ 42 := by
    cases side with
    | tx => rw [if_pos rfl, if_pos rfl, Nat.zero_mul]
    | rx => rw [if_neg (by decide), if_neg (by decide), Nat.one_mul]
  simp only [linkWord, hdown, hside, Bool.false_eq_true, if_false, ticks10ns]

/-- Fields that fit their places are read back from the sum. -/
theorem bits_noticeFields {status l side event lane width first seq time : Nat} (hs : status < 2 ^ 10) (hl : l < 32) (hside : side < 2)
    (he : event < 8) (hlane : lane < 32) (hw : width < 8) (hf : first < 16) (hq : seq < 2 ^ 16) (ht : time < 2 ^ 11) :
    let w : Word := BitVec.ofNat 64 (10 * 2 ^ 58 + status * 2 ^ 48 + l * 2 ^ 43 + side * 2 ^ 42 + event * 2 ^ 39 + lane * 2 ^ 34 +
      width * 2 ^ 31 + first * 2 ^ 27 + seq * 2 ^ 11 + time)
    bits w 63 58 = 10 ∧ bits w 57 48 = status ∧ bits w 47 43 = l ∧ bits w 42 42 = side ∧ bits w 41 39 = event ∧ bits w 38 34 = lane ∧
      bits w 33 31 = width ∧ bits w 30 27 = first ∧ bits w 26 11 = seq ∧ bits w 10 0 = time := by
  simp only [bits, BitVec.toNat_ofNat]
  refine ⟨?_, ?_, ?_, ?_, ?_, ?_, ?_, ?_, ?_, ?_⟩ <;> omega

end Sys2Proof.Machine
end

section
/-! SUPPORT. The events of a link in the state of its modules (R52 to R61). -/
namespace Sys2Proof.Machine

theorem State.link_modLink (s : State) (m l : Nat) (f : Link → Link) : (s.modLink m l f).link m l = f (s.link m l) := by
  simp only [State.link, State.modLink, State.module_modModule, Tbl.get_set, Option.getD_some]

theorem State.tx_modDir (s : State) (m l : Nat) (f : LinkDir → LinkDir) :
    ((s.modDir m l .tx f).link m l).tx = f (s.link m l).tx := by
  simp only [State.modDir, State.link_modLink]

/-- Updates that agree on the direction as it stands are one update. -/
theorem State.modDir_congr (s : State) (m l : Nat) {f g : LinkDir → LinkDir} (h : f (s.link m l).tx = g (s.link m l).tx) :
    s.modDir m l .tx f = s.modDir m l .tx g := by
  simp only [State.modDir, State.modLink, h]

/-! ## Packets (R53, R55) -/

/-- With nothing that waits for the class, and no copy of class 1 to open, no packet is made. -/
theorem State.newPacket_empty {s : State} {m l cls : Nat} (h : s.waitingAt m l cls = []) (h1 : ∀ t ∈ s.waitingAt m l 1, t.copyId = none)
    (n : Nat) : s.newPacket m l cls n = s := by
  have hopen : (s.waitingAt m l 1).findSome? (fun t => t.copyId.bind (fun id =>
      if ((s.link m l).tx.streamOf id).isNone then some (t, id) else none)) = none :=
    List.findSome?_eq_none_iff.mpr (fun t ht => by rw [h1 t ht]; rfl)
  simp only [State.newPacket, hopen, h, List.filter_nil]

/-- The first traveller that waits, alone: the packet holds all of it, or its next 2,048 bytes. -/
theorem State.newPacket_one {s : State} {m l cls : Nat} {t : Traveller} {r : List Traveller} (h2 : cls ≠ 2)
    (h : s.waitingAt m l cls = t :: r) (hc : t.copyId = none) :
    s.newPacket m l cls 1 =
      if 2048 < t.rest.length then (s.cutFrom t).modDir m l .tx (fun d => d.put { cls, seq := 0, payload := t.rest.take 2048 })
      else (s.board m l [t]).modDir m l .tx (fun d => d.put { cls, seq := 0, travellers := [t.key], payload := t.rest }) := by
  unfold State.newPacket
  dsimp only
  split
  · exact absurd rfl h2
  · rw [h, List.filter_cons_of_pos (by simp [hc])]
    by_cases hlong : 2048 < t.rest.length
    · simp [hc, hlong]
    · simp [hc, hlong, packetLoad]

/-- A copy of class 1 that has no stream yet is opened first, on class 2. -/
theorem State.newPacket_opens {s : State} {m l id k : Nat} {t : Traveller} {r : List Traveller} (h : s.waitingAt m l 1 = t :: r)
    (hc : t.copyId = some id) (hs : (s.link m l).tx.streamOf id = none) (hk : s.freeStream (s.link m l).tx = some k) (n : Nat) :
    s.newPacket m l 2 n = s.modDir m l .tx (fun d => LinkDir.put { d with streams := d.streams.filter (fun x => x.1 != k) ++ [(k, id)] }
      { cls := 2, seq := 0, opens := some id, strm := k, payload := s.descriptor t id k }) := by
  have hopen : (s.waitingAt m l 1).findSome? (fun t => t.copyId.bind (fun id =>
      if ((s.link m l).tx.streamOf id).isNone then some (t, id) else none)) = some (t, id) := by
    rw [h, List.findSome?_cons_of_isSome (by simp [hc, hs])]
    simp [hc, hs]
  simp only [State.newPacket, hopen, hk]

/-- A stream that a copy takes is the copy's. -/
theorem LinkDir.streamOf_append {d : LinkDir} {id k : Nat} (h : d.streamOf id = none) (d' : LinkDir)
    (hd : d'.streams = d.streams.filter (fun x => x.1 != k) ++ [(k, id)]) : d'.streamOf id = some k := by
  have hnone : ∀ x ∈ d.streams, ¬ (x.2 == id) = true := by
    simpa only [LinkDir.streamOf, Option.map_eq_none_iff, List.find?_eq_none] using h
  have hfilter : (d.streams.filter (fun x => x.1 != k)).find? (fun x => x.2 == id) = none :=
    List.find?_eq_none.mpr (fun x hx => hnone x ((List.mem_filter.mp hx).1))
  simp [LinkDir.streamOf, hd, List.find?_append, hfilter]

theorem exec_lanifyPacketSend_held {s : State} (h : (s.link s.args.m s.args.link).tx.down = true ∨
    (s.link s.args.m s.args.link).tx.retraining = true) : exec .lanifyPacketSend s = .next s := by
  simp only [exec_lanifyPacketSend, execLanifyPacketSend, if_pos (Bool.or_eq_true _ _ ▸ h)]

section

variable {s : State} (hd : (s.link s.args.m s.args.link).tx.down = false) (hr : (s.link s.args.m s.args.link).tx.retraining = false)
  (hc : (s.module s.args.m).census = true)
include hd hr hc

/-- A direction that carries: what must go again first, then a new packet, if the replay buffer has a place for it. -/
theorem exec_lanifyPacketSend_open :
    exec .lanifyPacketSend s = .next (
      if !(s.link s.args.m s.args.link).tx.resend.isEmpty then s.modDir s.args.m s.args.link .tx LinkDir.putAgain
      else if 512 ≤ (s.link s.args.m s.args.link).tx.replay.length || 4 ≤ s.args.cls then s
      else s.newPacket s.args.m s.args.link s.args.cls (s.args.n + 1)) := by
  simp only [exec_lanifyPacketSend, execLanifyPacketSend, hd, hr, hc, Bool.or_self, Bool.false_eq_true, if_false, if_true]

theorem exec_lanifyPacketSend_again {p : Packet} {r : List Packet}
    (h : (s.link s.args.m s.args.link).tx.resend = p :: r) :
    exec .lanifyPacketSend s = .next (s.modDir s.args.m s.args.link .tx (fun d =>
      { d with resend := r, wire := d.wire ++ p.flits, replayed := bump d.replayed p.cls })) := by
  rw [exec_lanifyPacketSend_open hd hr hc, h]
  exact congrArg Host.Outcome.next (State.modDir_congr s _ _ (by simp only [LinkDir.putAgain, h]))

theorem exec_lanifyPacketSend_full (h : (s.link s.args.m s.args.link).tx.resend = [])
    (hf : 512 ≤ (s.link s.args.m s.args.link).tx.replay.length) :
    exec .lanifyPacketSend s = .next s := by
  rw [exec_lanifyPacketSend_open hd hr hc, h]
  simp [hf]

theorem exec_lanifyPacketSend_new (h : (s.link s.args.m s.args.link).tx.resend = [])
    (hf : (s.link s.args.m s.args.link).tx.replay.length < 512) (h4 : s.args.cls < 4) :
    exec .lanifyPacketSend s = .next (s.newPacket s.args.m s.args.link s.args.cls (s.args.n + 1)) := by
  rw [exec_lanifyPacketSend_open hd hr hc, h]
  simp [Nat.not_le.mpr hf, Nat.not_le.mpr h4]

end

/-! ## Flits, acknowledgements and replay requests that arrive (R54 to R56) -/

theorem exec_lanifyFlitReceive_next {s : State} {m2 l2 : Nat} {f : LinkFlit} {r : List LinkFlit}
    (hfar : s.farEnd s.args.m s.args.link = some (m2, l2)) (hw : (s.link m2 l2).tx.wire = f :: r)
    (hd : (s.link s.args.m s.args.link).rx.down = false) (hr : (s.link s.args.m s.args.link).rx.retraining = false)
    (hg : s.args.damaged = false) :
    let u := (s.modDir m2 l2 .tx (fun e => { e with wire := r })).modDir s.args.m s.args.link .rx (fun e => (e.receive s.now f).1)
    exec .lanifyFlitReceive s = .next (
      if ((s.link s.args.m s.args.link).rx.receive s.now f).2 then
        ((s.link m2 l2).tx.replay.find? (fun p => p.cls == f.tc && p.seq == f.seq)).elim u (u.deliverPacket s.args.m s.args.link)
      else u) := by
  simp only [exec_lanifyFlitReceive, execLanifyFlitReceive, hfar, hw, hd, hr, hg, Bool.or_self, Bool.false_eq_true, if_false]
  cases (s.link m2 l2).tx.replay.find? (fun p => p.cls == f.tc && p.seq == f.seq) <;> rfl

theorem State.linkMessage_of {s : State} {m l m2 l2 : Nat} {list : LinkDir → List LinkFlit} {x : LinkFlit} {r : List LinkFlit}
    (hd : (s.link m l).rx.down = false) (hr : (s.link m l).rx.retraining = false) (hfar : s.farEnd m l = some (m2, l2))
    (hx : list (s.link m2 l2).rx = x :: r) : s.linkMessage m l list = some (m2, l2, x) := by
  simp [State.linkMessage, hd, hr, hfar, hx]

/-- A message that is whole is taken; one whose CRC fails is a flit like any other. -/
theorem State.takeMessage_whole {s : State} (hg : s.args.damaged = false) (m l : Nat) (x : LinkFlit) (g : LinkDir → LinkFlit → LinkDir) :
    s.takeMessage m l x g =
      if x.bad then s.modDir m l .rx (fun d => (d.receive s.now x).1) else s.modDir m l .tx (fun d => g d x) := by
  simp only [State.takeMessage, hg, Bool.false_eq_true, if_false]

theorem exec_lanifyAcknowledgement_whole {s : State} {m2 l2 : Nat} {x : LinkFlit}
    (h : s.linkMessage s.args.m s.args.link (·.acks) = some (m2, l2, x)) (hg : s.args.damaged = false) :
    let a := s.modDir m2 l2 .rx (fun d => { d with acks := d.acks.drop 1 })
    exec .lanifyAcknowledgement s = .next (
      if x.bad then a.modDir s.args.m s.args.link .rx (fun d => (d.receive s.now x).1)
      else a.modDir s.args.m s.args.link .tx (fun d => d.acked x)) := by
  intro a
  simp only [exec_lanifyAcknowledgement, execLanifyAcknowledgement, h]
  exact congrArg Host.Outcome.next (State.takeMessage_whole (s := a) hg _ _ x LinkDir.acked)

theorem exec_replayRequest_whole {s : State} {m2 l2 : Nat} {x : LinkFlit}
    (h : s.linkMessage s.args.m s.args.link (·.requests) = some (m2, l2, x)) (hg : s.args.damaged = false) :
    let b := s.modDir m2 l2 .rx (fun d => { d with requests := d.requests.drop 1 })
    exec .replayRequest s = .next (
      if x.bad then b.modDir s.args.m s.args.link .rx (fun d => (d.receive s.now x).1)
      else b.modDir s.args.m s.args.link .tx (fun d => { d.acked x with resend := (d.acked x).replay })) := by
  intro b
  simp only [exec_replayRequest, execReplayRequest, h]
  exact congrArg Host.Outcome.next (State.takeMessage_whole (s := b) hg _ _ x _)

/-! ## Times (R54, R56, R60) -/

theorem exec_ackTimeout_due {s : State} {t : Nat} (h : (s.link s.args.m s.args.link).rx.oldest = some t) (ht : 3600 ≤ s.now - t) :
    exec .ackTimeout s = .next (s.modDir s.args.m s.args.link .rx (fun d =>
      { d with acks := d.acks ++ [d.answer 1], unacked := 0, oldest := none })) := by
  have hdue : (s.link s.args.m s.args.link).rx.ackDue s.now = true := by
    simp only [LinkDir.ackDue, h, Option.any_some]
    exact decide_eq_true ht
  simp only [exec_ackTimeout, execAckTimeout, if_pos hdue]
  rfl

theorem exec_ackTimeout_early {s : State} (h : ∀ t, (s.link s.args.m s.args.link).rx.oldest = some t → s.now - t < 3600) :
    exec .ackTimeout s = .next (
      if (s.link s.args.m s.args.link).rx.discarding ≠ [] ∧ (s.link s.args.m s.args.link).rx.requests = [] ∧
          3600 ≤ s.now - (s.link s.args.m s.args.link).rx.requested then
        s.modDir s.args.m s.args.link .rx (fun d => { d with requests := [d.answer 2], requested := s.now })
      else s) := by
  have hdue : ¬ (s.link s.args.m s.args.link).rx.ackDue s.now = true := by
    unfold LinkDir.ackDue
    cases ho : (s.link s.args.m s.args.link).rx.oldest with
    | none => exact Bool.false_ne_true
    | some t => exact fun hc => absurd (of_decide_eq_true hc) (Nat.not_le.mpr (h t ho))
  have hreq : (s.link s.args.m s.args.link).rx.requestDue s.now = true ↔
      (s.link s.args.m s.args.link).rx.discarding ≠ [] ∧ (s.link s.args.m s.args.link).rx.requests = [] ∧
        3600 ≤ s.now - (s.link s.args.m s.args.link).rx.requested := by
    rw [LinkDir.requestDue, show ticksAck = 3600 from rfl]
    simp [and_assoc]
  simp only [exec_ackTimeout, execAckTimeout, if_neg hdue, hreq]

theorem exec_linkTrainingRetry_eq (s : State) : exec .linkTrainingRetry s = .next (
    let d := (s.link s.args.m s.args.link).side s.args.side
    if d.down = true ∧ d.retraining = false ∧ d.barred = false ∧ 7200000 ≤ s.now - d.since then
      s.modBoth s.args.m s.args.link s.args.side (fun e => { e with retraining := true, restoring := true, since := s.now })
    else s) := by
  simp only [exec_linkTrainingRetry, execLinkTrainingRetry, Bool.and_eq_true, Bool.not_eq_true', decide_eq_true_eq, and_assoc]
  rfl

/-! ## Lanes and retraining (R57 to R61) -/

/-- The events of a direction are reported at both ends, and leave it. -/
def State.told (s : State) (m l : Nat) (side : LinkSide) (status : Nat) : State :=
  (s.linkEvents m l side status ((s.link m l).side side).events).modBoth m l side LinkDir.reported

/-- A lane of the link fails, or the spare of one that has a spare; a down direction that is not being trained tells it at once. -/
theorem exec_laneFailure_lane {s : State} (h : s.args.lane < laneCount s.args.link ∨ s.args.lane = 16 ∧ s.args.link < 16) :
    let u := s.modBoth s.args.m s.args.link s.args.side (fun d => d.fail s.args.link s.now s.args.lane)
    let e := (u.link s.args.m s.args.link).side s.args.side
    (e.down = false ∨ e.retraining = true → exec .laneFailure s = .next u) ∧
    (e.down = true → e.retraining = false → exec .laneFailure s = .next (u.told s.args.m s.args.link s.args.side 1)) := by
  intro u e
  have h' : (decide (s.args.lane < laneCount s.args.link) || (decide (s.args.lane = 16) && decide (s.args.link < 16))) = true := by
    simpa using h
  have heq : exec .laneFailure s = .next (if e.down && !e.retraining then u.told s.args.m s.args.link s.args.side 1 else u) := by
    simp only [exec_laneFailure, execLaneFailure, if_pos h']
    rfl
  rw [heq]
  refine ⟨fun hq => ?_, fun hd hr => by rw [hd, hr]; rfl⟩
  rcases hq with hd | hr
  · rw [hd]; rfl
  · rw [hr, Bool.not_true, Bool.and_false]; rfl

theorem exec_laneFailure_other {s : State} (h : ¬ (s.args.lane < laneCount s.args.link ∨ s.args.lane = 16 ∧ s.args.link < 16)) :
    exec .laneFailure s = .next s := by
  have h' : ¬ (decide (s.args.lane < laneCount s.args.link) || (decide (s.args.lane = 16) && decide (s.args.link < 16))) = true := by
    simpa using h
  simp only [exec_laneFailure, execLaneFailure, if_neg h']

theorem exec_linkRetrainingComplete_idle {s : State} (h : ((s.link s.args.m s.args.link).side s.args.side).retraining = false) :
    exec .linkRetrainingComplete s = .next s := by
  simp [exec_linkRetrainingComplete, execLinkRetrainingComplete, h]

theorem exec_linkRetrainingComplete_missed {s : State} (h : ((s.link s.args.m s.args.link).side s.args.side).retraining = true)
    (hok : s.args.ok = false) :
    let u := s.modBoth s.args.m s.args.link s.args.side LinkDir.missed
    let e := (u.link s.args.m s.args.link).side s.args.side
    (e.retraining = true → exec .linkRetrainingComplete s =
      .next (u.linkEvents s.args.m s.args.link s.args.side 2 (e.events.take 1))) ∧
    (e.retraining = false → exec .linkRetrainingComplete s =
      .next (u.told s.args.m s.args.link s.args.side (if ((s.link s.args.m s.args.link).side s.args.side).down then 2 else 1))) := by
  intro u e
  have heq : exec .linkRetrainingComplete s = .next (
      if e.retraining then u.linkEvents s.args.m s.args.link s.args.side 2 (e.events.take 1)
      else u.told s.args.m s.args.link s.args.side (if ((s.link s.args.m s.args.link).side s.args.side).down then 2 else 1)) := by
    simp only [exec_linkRetrainingComplete, execLinkRetrainingComplete, h, hok, Bool.not_true, Bool.not_false, Bool.false_eq_true,
      if_false, if_true]
    rfl
  rw [heq]
  exact ⟨fun hr => if_pos hr ▸ rfl, fun hr => by rw [hr]; rfl⟩

/-- The receiver of a direction acknowledges, at this end or at the far one (R58). -/
def State.ackReceiver (s : State) (m l : Nat) (side : LinkSide) : State :=
  if side = .rx then s.modDir m l .rx LinkDir.ack
  else match s.farEnd m l with
    | none => s
    | some (m2, l2) => s.modDir m2 l2 .rx LinkDir.ack

theorem State.ackReceiver_rx {side : LinkSide} (h : side = .rx) (s : State) (m l : Nat) :
    s.ackReceiver m l side = s.modDir m l .rx LinkDir.ack := by
  rw [State.ackReceiver, if_pos h]

theorem State.ackReceiver_tx {side : LinkSide} (h : side = .tx) {s : State} {m l m2 l2 : Nat} (hfar : s.farEnd m l = some (m2, l2)) :
    s.ackReceiver m l side = s.modDir m2 l2 .rx LinkDir.ack := by
  simp [State.ackReceiver, h, hfar]

/-- A retraining that succeeds and leaves the direction up is followed by an acknowledgement of its receiver. -/
theorem exec_linkRetrainingComplete_trained {s : State} (h : ((s.link s.args.m s.args.link).side s.args.side).retraining = true)
    (hok : s.args.ok = true) :
    let u := s.modBoth s.args.m s.args.link s.args.side (fun e => e.trained s.args.link)
    let e := (u.link s.args.m s.args.link).side s.args.side
    let v := u.told s.args.m s.args.link s.args.side 0
    (e.down = true → exec .linkRetrainingComplete s = .next (u.told s.args.m s.args.link s.args.side 1)) ∧
    (e.down = false → s.args.side = .rx →
      exec .linkRetrainingComplete s = .next (v.modDir s.args.m s.args.link .rx LinkDir.ack)) ∧
    (∀ m2 l2, e.down = false → s.args.side = .tx → v.farEnd s.args.m s.args.link = some (m2, l2) →
      exec .linkRetrainingComplete s = .next (v.modDir m2 l2 .rx LinkDir.ack)) := by
  intro u e v
  have heq : exec .linkRetrainingComplete s = .next (
      if e.down then u.told s.args.m s.args.link s.args.side e.down.toNat
      else (u.told s.args.m s.args.link s.args.side e.down.toNat).ackReceiver s.args.m s.args.link s.args.side) := by
    simp only [exec_linkRetrainingComplete, execLinkRetrainingComplete, h, hok, Bool.not_true, Bool.false_eq_true, if_false]
    rfl
  have hup : e.down = false → exec .linkRetrainingComplete s = .next (v.ackReceiver s.args.m s.args.link s.args.side) :=
    fun hd => by rw [heq, hd]; rfl
  refine ⟨fun hd => by rw [heq, hd]; rfl, fun hd hside => ?_, fun m2 l2 hd hside hfar => ?_⟩
  · exact (hup hd).trans (congrArg _ (State.ackReceiver_rx hside v _ _))
  · exact (hup hd).trans (congrArg _ (State.ackReceiver_tx hside hfar))

/-! ## Notices (R61) -/

theorem State.linkEvents_one {s : State} {m l m2 l2 : Nat} {side : LinkSide} (h : s.farEnd m l = some (m2, l2)) (status : Nat)
    (ev : Nat × Nat) : s.linkEvents m l side status [ev] =
      (s.linkNotice m l side status ev).linkNotice m2 l2 (otherSide side) status ev := by
  simp only [State.linkEvents, List.foldl_cons, List.foldl_nil, h]

/-- Settles O44, clause by clause: the flits and the receiver, what a send and each arrival do to the state, the lanes and the choice of
a clean group, the end of a retraining, and the notice word. -/
theorem linkPacketsAndLanes : Obligations.LinkPacketsAndLanes := by
  unfold Obligations.LinkPacketsAndLanes
  refine ⟨fun f => LinkFlit.ofWord_word, fun f => LinkFlit.seal_bad, fun f => LinkFlit.bad_of_reserved,
    fun d k c n hc hl hn _ hv => ⟨rfl, LinkDir.lastOf_answer hc hl hn hv k⟩, ?send, ?flit, ?receive,
    fun d now f hb => LinkDir.receive_bad hb d now, fun s => ⟨fun t => exec_ackTimeout_due, exec_ackTimeout_early⟩, ?messages, ?lane,
    fun d l now x hx hf hs => ⟨fun hl hn h16 => LinkDir.fail_covered hx hf hl hn h16 now, fun h => LinkDir.fail_lost hx hf hs h now⟩,
    fun n failed hn => ⟨fun w f => cleanGroup_some hn, cleanGroup_none hn⟩, ?retraining,
    fun s m l m2 l2 status event lane side h => State.linkEvents_one h status (event, lane), ?word, ?trained⟩
  case send =>
    intro s m l d
    refine ⟨exec_lanifyPacketSend_held, fun hd hr hc => ⟨fun p r => exec_lanifyPacketSend_again hd hr hc,
      exec_lanifyPacketSend_full hd hr hc, fun h hf h4 hw h1 => ?_, fun t r h hf h4 h2 hn hw hcopy => ?_,
      fun t r id k h hf h2 hw hcopy hs hk => ?_⟩⟩
    · rw [exec_lanifyPacketSend_new hd hr hc h hf h4, State.newPacket_empty hw h1]
    · rw [exec_lanifyPacketSend_new hd hr hc h hf h4, hn, State.newPacket_one h2 hw hcopy]
      exact ⟨fun hle => by rw [if_neg (Nat.not_lt.mpr hle)]; rfl, fun hlt => by rw [if_pos hlt]; rfl⟩
    · have hnew := exec_lanifyPacketSend_new hd hr hc h hf (by rw [h2]; decide)
      rw [h2, State.newPacket_opens hw hcopy hs hk] at hnew
      refine ⟨_, hnew, ?_, ?_, ?_, rfl⟩
      · rw [State.tx_modDir]; rfl
      · rw [State.tx_modDir]; rfl
      · rw [State.tx_modDir]; exact LinkDir.streamOf_append hs _ rfl
  case flit =>
    intro s m2 l2 f r m l d hfar hw hd hr hg u
    rw [exec_lanifyFlitReceive_next hfar hw hd hr hg]
    exact ⟨fun h => by rw [h]; rfl, fun p h hp => by rw [if_pos h, hp]; rfl⟩
  case receive =>
    intro d now f hb hk n took
    refine ⟨fun hs => LinkDir.receive_other hb hs now, fun hs hi hl => LinkDir.receive_part ⟨hb, hk, hs, hi⟩ hl now,
      fun hs hi hl => ?_⟩
    rw [LinkDir.receive_last ⟨hb, hk, hs, hi⟩ hl now]
    exact ⟨fun h => by rw [if_neg (by omega)]; rfl, fun h => by rw [if_pos h]; rfl⟩
  case messages =>
    intro s m2 l2 x r m l hd hr hfar hg keep a b
    refine ⟨fun hx => ?_, fun hx hb => ?_, fun hx hb => ?_⟩
    · rw [exec_lanifyAcknowledgement_whole (State.linkMessage_of hd hr hfar hx) hg]
      exact ⟨fun hb => by rw [hb]; rfl, fun hb => by rw [if_pos hb]⟩
    · rw [exec_replayRequest_whole (State.linkMessage_of hd hr hfar hx) hg, if_pos hb]
    · rw [exec_replayRequest_whole (State.linkMessage_of hd hr hfar hx) hg, hb]
      rfl
  case lane =>
    exact fun s => ⟨exec_laneFailure_lane, exec_laneFailure_other⟩
  case retraining =>
    exact fun s => ⟨exec_linkRetrainingComplete_idle, exec_linkRetrainingComplete_missed, exec_linkRetrainingComplete_trained,
      exec_linkTrainingRetry_eq s⟩
  case word =>
    intro now l status event lane side d hs hl he hlane hf hq hd h1 w
    have hside : (if side = .tx then 0 else 1) < 2 := by cases side <;> decide
    have h := bits_noticeFields (status := status) (time := min 2047 ((now - d.since) / 72)) (by omega) hl hside he hlane
      (widthCode_lt d.width) hf hq (by omega)
    rwa [← linkWord_up now l side (event, lane) hd h1] at h
  case trained =>
    intro d l w f
    refine ⟨fun h => ?_, fun h => ?_, LinkDir.missed_down, fun hd ht => ?_, fun hd ht => ?_⟩
    · rw [LinkDir.trained_clean h]
      exact ⟨rfl, rfl, rfl, rfl, rfl, rfl⟩
    · rw [LinkDir.trained_down h]
      exact ⟨rfl, rfl⟩
    · rw [LinkDir.missed_third hd ht]
      exact ⟨rfl, rfl⟩
    · rw [LinkDir.missed_again hd ht]
      exact ⟨hd, rfl⟩

end Sys2Proof.Machine
end

section
/-! SUPPORT. Taking a trap and returning from it: what `estat` keeps of a context and gives back, the state that a trap leaves, and the
thread that `rte` restores (R210, R226, R261, R373). -/
namespace Sys2Proof.Machine

/-! ## The status word (R200) -/

theorem Status.flags_lt (t : Status) : t.met.toNat < 2 ∧ t.spl.toNat < 2 ∧ t.fnd.toNat < 2 ∧ t.sup.toNat < 2 :=
  ⟨t.met.toNat_lt, t.spl.toNat_lt, t.fnd.toNat_lt, t.sup.toNat_lt⟩

theorem Status.toNat_toWord (t : Status) :
    t.toWord.toNat = t.fcs.toNat * 256 + t.met.toNat * 8 + t.spl.toNat * 4 + t.fnd.toNat * 2 + t.sup.toNat := by
  obtain ⟨hmet, hspl, hfnd, hsup⟩ := t.flags_lt
  rw [Status.toWord, BitVec.toNat_ofNat]
  omega

/-- A status lies in the low 16 bits, where `estat` holds it. -/
theorem Status.toNat_toWord_lt (t : Status) : t.toWord.toNat < 2 ^ 16 := by
  obtain ⟨hmet, hspl, hfnd, hsup⟩ := t.flags_lt
  rw [Status.toNat_toWord]
  omega

/-- A bit read by arithmetic. -/
theorem bit_eq_of_digit {w : Word} {i : Nat} {b : Bool} (h : w.toNat / 2 ^ i % 2 = b.toNat) : bit w i = b := by
  rw [bit, BitVec.getLsbD, Nat.testBit_eq_decide_div_mod_eq, h]
  cases b <;> rfl

/-- The fields of a status stand at their places in its word. -/
theorem Status.fields_toWord (t : Status) :
    bits t.toWord 15 8 = t.fcs.toNat ∧ bit t.toWord 3 = t.met ∧ bit t.toWord 2 = t.spl ∧ bit t.toWord 1 = t.fnd ∧
      bit t.toWord 0 = t.sup := by
  obtain ⟨hmet, hspl, hfnd, hsup⟩ := t.flags_lt
  have hw := t.toNat_toWord
  refine ⟨?_, bit_eq_of_digit ?_, bit_eq_of_digit ?_, bit_eq_of_digit ?_, bit_eq_of_digit ?_⟩
  · rw [bits]; omega
  all_goals omega

@[simp] theorem Status.ofWord_toWord (t : Status) : Status.ofWord t.toWord = t := by
  obtain ⟨hfcs, hmet, hspl, hfnd, hsup⟩ := t.fields_toWord
  rw [Status.ofWord, hfcs, hmet, hspl, hfnd, hsup, BitVec.ofNat_toNat, BitVec.setWidth_eq]

/-! ## The exception registers (R261) -/

theorem toNat_estatOf (x : Ctx) (emp : Bool) :
    (estatOf x emp).toNat = x.p.toNat * 2 ^ 48 + emp.toNat * 2 ^ 16 + x.status.toWord.toNat := by
  have hemp := emp.toNat_lt
  have hs := x.status.toNat_toWord_lt
  rw [estatOf, bits, BitVec.toNat_ofNat]
  omega

/-- The predicates, `emp` and the status come back from `estat`. -/
theorem fields_estatOf (x : Ctx) (emp : Bool) :
    bits (estatOf x emp) 63 48 = x.p.toNat ∧ bit (estatOf x emp) 16 = emp ∧
      BitVec.ofNat 64 (bits (estatOf x emp) 15 0) = x.status.toWord := by
  have hemp := emp.toNat_lt
  have hs := x.status.toNat_toWord_lt
  have hw := toNat_estatOf x emp
  refine ⟨?_, bit_eq_of_digit ?_, BitVec.eq_of_toNat_eq ?_⟩
  · rw [bits]; omega
  · omega
  · rw [BitVec.toNat_ofNat, bits]; omega

/-- At a trap `emp` is clear, and adds nothing to the sum. -/
theorem estatOf_false (x : Ctx) :
    estatOf x false = BitVec.ofNat 64 (x.p.toNat * 2 ^ 48 + x.status.toWord.toNat % 2 ^ 16) := by
  simp [estatOf, bits]

/-- Predicates whose bit 0 reads 1 are whole (R298). -/
theorem predWord_toNat {p : BitVec 16} (h : p.getLsbD 0 = true) : predWord p.toNat = p := by
  rw [predWord, BitVec.ofNat_toNat, BitVec.setWidth_eq]
  ext i hi
  cases i with
  | zero => simpa using h
  | succ i => simp

/-- ip holds the whole of a word address (R293). -/
theorem ipOf_aligned {v : Word} (h : v.toNat % 4 = 0) : ipOf v = v := by
  have hlow : v &&& 3 = 0 :=
    BitVec.eq_of_toNat_eq (by rw [BitVec.toNat_and]; exact (Nat.and_two_pow_sub_one_eq_mod v.toNat 2).trans h)
  refine BitVec.eq_of_getLsbD_eq (fun i hi => ?_)
  have hbit : (v.getLsbD i && (3 : Word).getLsbD i) = false := by
    rw [← BitVec.getLsbD_and, hlow]
    exact BitVec.getLsbD_zero
  rw [ipOf, BitVec.getLsbD_and, BitVec.getLsbD_not, decide_eq_true hi, Bool.true_and]
  cases hv : v.getLsbD i with
  | false => rfl
  | true =>
    rw [hv, Bool.true_and] at hbit
    rw [hbit]
    rfl

theorem next_word_aligned {v : Word} (h : v.toNat % 4 = 0) : (v + 4).toNat % 4 = 0 := by
  rw [BitVec.toNat_add]
  have h4 : (4 : Word).toNat = 4 := rfl
  omega

/-! ## Taking a trap in place (R226) -/

/-- A field of every core that a change of one core keeps. -/
theorem State.modCore_keeps {β : Type} (g : Core → β) (s : State) (c : Nat) {f : Core → Core} (d : Nat)
    (hf : ∀ o, g (f o) = g o := by intro o; rfl) : g ((s.modCore c f).core d) = g (s.core d) := by
  by_cases h : d = c
  · rw [h, State.core_modCore, hf]
  · rw [State.core_modCore_ne s f h]

theorem State.ivec_modRunning (s : State) (f : Slot → Slot) (c : Nat) : ((s.modRunning f).core c).ivec = (s.core c).ivec :=
  State.modCore_keeps (·.ivec) s s.here c

/-- The thread in its handler. -/
def Thread.inHandler (t : Thread) (ivec : Word) : Thread :=
  { t with ctx := { t.ctx with ip := ipOf ivec, status := { t.ctx.status with sup := true } } }

theorem State.runs_trapped (s : State) (t : Thread) (cause sub : Nat) (addr eip : Word) :
    (s.trapped t cause sub addr eip).Runs (t.inHandler (s.core s.here).ivec) :=
  State.runs_modRunning s rfl

theorem State.eip_trapped (s : State) (t : Thread) (cause sub : Nat) (addr eip : Word) :
    (s.trapped t cause sub addr eip).running.eip = eip := by
  rw [State.trapped, State.running_modRunning]

theorem State.estat_trapped (s : State) (t : Thread) (cause sub : Nat) (addr eip : Word) :
    (s.trapped t cause sub addr eip).running.estat = estatOf t.ctx false := by
  rw [State.trapped, State.running_modRunning, estatOf_false]

/-- A trap with a handler is neither fatal nor a return from a meeting. -/
theorem State.trapAt_handled {s : State} {t : Thread} (h : s.Traps t) (cause sub : Nat) (addr eip : Word) :
    s.trapAt s.here s.slotNo cause sub addr eip = s.trapped t cause sub addr eip := by
  obtain ⟨hruns, huser, hunmet, hivec⟩ := h
  have hfatal : s.fatalKind s.here t = none := by
    rw [State.fatalKind, huser, if_neg Bool.false_ne_true, if_neg hivec]
  have hthread : (s.slot s.here s.slotNo).thread = some t := hruns
  have hmeet : (s.slot s.here s.slotNo).meet = none := hunmet
  simp only [State.trapAt, hthread, hmeet, hfatal]
  refine State.modRunning_congr s ?_
  simp only [Slot.entry, estatOf_false]
  rfl

theorem exec_trap_handled {s : State} {t : Thread} (h : s.Traps t) (k : BitVec 8) :
    exec (.trap k) s = .next (s.trapped t 13 0 (k.zeroExtend 64) (t.ctx.ip + 4)) := by
  rw [exec_trap, execTrap, State.gate_plain h.runs rfl rfl, State.trapAt_handled h, State.nextIp, State.ip_of_runs h.runs]

/-! ## Returning (R210, R373) -/

/-- The context that a slot's exception registers restore. -/
def Ctx.restored (x : Ctx) (l : Slot) : Ctx :=
  { x with
    ip := ipOf l.eip, p := predWord (bits l.estat 63 48), status := Status.ofWord (BitVec.ofNat 64 (bits l.estat 15 0)) }

/-- With `emp` clear the thread of the slot stays in it. -/
theorem State.returnAt_running {s : State} {t : Thread} (h : s.Runs t) (hemp : bit s.running.estat 16 = false) :
    s.returnAt s.here s.slotNo =
      s.modRunning (fun l => { l with thread := some { t with ctx := t.ctx.restored s.running } }) := by
  have hthread : (s.slot s.here s.slotNo).thread = some t := h
  have hstays : bit (s.slot s.here s.slotNo).estat 16 = false := hemp
  simp only [State.returnAt, hthread, hstays, Bool.false_eq_true, if_false]
  rfl

/-- An unmet thread at supervisor level is barred from `rte` by no row of the table of fates (R349). -/
theorem exec_rte_supervisor {s : State} {t : Thread} (h : s.Runs t) (hsup : t.ctx.status.sup = true)
    (hmet : t.ctx.status.met = false) (hemp : bit s.running.estat 16 = false) :
    exec .rte s = .next (s.modRunning (fun l => { l with thread := some { t with ctx := t.ctx.restored s.running } })) := by
  have hfate : t.fate s.here none true false = none := by simp [Thread.fate, hmet]
  rw [exec_rte, execRte, State.gateFor_allowed h (fun _ => hsup), State.gate_plain h rfl rfl, hfate, State.unless,
    State.returnAt_running h hemp]

/-- The exception registers that a trap wrote give the thread its context back, at the address of `eip`. -/
theorem Ctx.restored_trapped {s : State} {t : Thread} {cause sub : Nat} {addr eip : Word} (hp : t.ctx.p.getLsbD 0 = true)
    (hip : eip.toNat % 4 = 0) :
    (t.inHandler (s.core s.here).ivec).ctx.restored (s.trapped t cause sub addr eip).running = { t.ctx with ip := eip } := by
  obtain ⟨hpred, -, hstatus⟩ := fields_estatOf t.ctx false
  rw [Ctx.restored, State.eip_trapped, State.estat_trapped, hpred, hstatus, ipOf_aligned hip, predWord_toNat hp,
    Status.ofWord_toWord]
  rfl

/-- `rte` at the first word of a handler returns the thread that trapped to the address of `eip`. -/
theorem exec_rte_trapped {s : State} {t : Thread} {cause sub : Nat} {addr eip : Word} (hmet : t.ctx.status.met = false)
    (hp : t.ctx.p.getLsbD 0 = true) (hip : eip.toNat % 4 = 0) :
    exec .rte (s.trapped t cause sub addr eip) = .next ((s.trapped t cause sub addr eip).modRunning
      (fun l => { l with thread := some { t with ctx := { t.ctx with ip := eip } } })) := by
  have hemp : bit (s.trapped t cause sub addr eip).running.estat 16 = false := by
    obtain ⟨-, hemp, -⟩ := fields_estatOf t.ctx false
    rwa [State.estat_trapped]
  rw [exec_rte_supervisor (s.runs_trapped t cause sub addr eip) rfl hmet hemp, Ctx.restored_trapped hp hip]
  rfl

/-- Settles O30: `trap` leaves the next address in `eip` and the rest of what it overwrites in `estat`, and `rte` puts both back. -/
theorem trapThenReturnRestoresTheThread : Obligations.TrapThenReturnRestoresTheThread := by
  unfold Obligations.TrapThenReturnRestoresTheThread
  intro k s t h hmet hp hip
  refine ⟨_, _, exec_trap_handled h k, exec_rte_trapped hmet hp (next_word_aligned hip), State.runs_modRunning _ rfl,
    fun c => ?_, rfl⟩
  rw [State.ivec_modRunning, State.trapped, State.ivec_modRunning]

end Sys2Proof.Machine
end

section
/-! SUPPORT. Floating results that need no rounding: what a NaN operand gives, and the values that a format holds (R266 to R268). -/
namespace Sys2Proof.Machine

/-! ## NaN operands (R267) -/

@[simp] theorem Fl.isNan_negate (x : Fl) : x.negate.isNan = x.isNan := by cases x <;> rfl

/-- One of two values is a NaN. -/
theorem Fl.eq_nan_of_isNan {x y : Fl} (h : (x.isNan || y.isNan) = true) : (∃ q, x = .nan q) ∨ ∃ q, y = .nan q := by
  cases x with
  | nan q => exact .inl ⟨q, rfl⟩
  | inf _ | fin _ _ _ =>
    cases y with
    | nan q => exact .inr ⟨q, rfl⟩
    | inf _ | fin _ _ _ => cases h

theorem Fl.add_of_isNan {x y : Fl} (h : (x.isNan || y.isNan) = true) (r : Rnd) : x.add r y = (.nan false, 0) := by
  obtain ⟨q, rfl⟩ | ⟨q, rfl⟩ := Fl.eq_nan_of_isNan h
  · rfl
  · cases x <;> rfl

theorem Fl.mul_of_isNan {x y : Fl} (h : (x.isNan || y.isNan) = true) : x.mul y = (.nan false, 0) := by
  obtain ⟨q, rfl⟩ | ⟨q, rfl⟩ := Fl.eq_nan_of_isNan h
  · rfl
  · cases x <;> rfl

theorem Fl.div_of_isNan {x y : Fl} (h : (x.isNan || y.isNan) = true) : x.div y = (.nan false, 0) := by
  obtain ⟨q, rfl⟩ | ⟨q, rfl⟩ := Fl.eq_nan_of_isNan h
  · rfl
  · cases x <;> rfl

theorem Fmt.finish_nan (f : Fmt) (r : Rnd) (x y : Fl) :
    f.finish r [x, y] (.nan false, 0) = (f.nan, if x.isSnan || y.isSnan then flagNv else 0) := by
  simp [Fmt.finish, Fmt.ofFl, snanFlag]

/-- Settles O8: the exact operation on a NaN is a NaN without a flag, and `finish` makes it canonical and adds the operands' `nv`. -/
theorem nanOperandsGiveTheCanonicalNan : Obligations.NanOperandsGiveTheCanonicalNan := by
  unfold Obligations.NanOperandsGiveTheCanonicalNan
  intro f r a b h
  refine ⟨?_, ?_, ?_, ?_⟩
  · rw [Fmt.fadd, Fl.add_of_isNan h, Fmt.finish_nan]
  · rw [Fmt.fsub, Fl.add_of_isNan (by rwa [Fl.isNan_negate]), Fmt.finish_nan]
  · rw [Fmt.fmul, Fl.mul_of_isNan h, Fmt.finish_nan]
  · rw [Fmt.fdiv, Fl.div_of_isNan h, Fmt.finish_nan]

/-! ## Values that a format holds (R268) -/

/-- A datum is its sign, its exponent field and its fraction. -/
theorem Fmt.fields (f : Fmt) {v : Nat} (hv : v < 2 ^ (1 + f.ebits + f.mbits)) :
    f.sign (f.neg v) + (v / 2 ^ f.mbits % 2 ^ f.ebits * 2 ^ f.mbits + v % 2 ^ f.mbits) = v := by
  have htop : v / 2 ^ (f.ebits + f.mbits) < 2 := by
    rwa [Nat.div_lt_iff_lt_mul (Nat.two_pow_pos _), ← Nat.pow_succ', Nat.succ_eq_one_add, ← Nat.add_assoc]
  have hsign : f.sign (f.neg v) = 2 ^ (f.ebits + f.mbits) * (v / 2 ^ (f.ebits + f.mbits)) := by
    rw [Fmt.sign, Fmt.neg, Nat.mod_eq_of_lt htop]
    obtain h | h : v / 2 ^ (f.ebits + f.mbits) = 0 ∨ v / 2 ^ (f.ebits + f.mbits) = 1 :=
      Nat.le_one_iff_eq_zero_or_eq_one.mp (Nat.le_of_lt_succ htop)
    · simp [h]
    · simp [h]
  have hlow : v / 2 ^ f.mbits % 2 ^ f.ebits * 2 ^ f.mbits + v % 2 ^ f.mbits = v % 2 ^ (f.ebits + f.mbits) := by
    rw [Nat.add_comm f.ebits, Nat.pow_add, Nat.mod_mul, Nat.mul_comm, Nat.add_comm]
  rw [hsign, hlow, Nat.div_add_mod]

/-- A magnitude of at most `mbits + 1` bits in units of 2^(last + k), with no unused place but at the last exponent, has the place of its
last bit as its unit: it is rounded to its own encoding. -/
theorem Fmt.round_exact {f : Fmt} {m k : Nat} (hm : m < 2 ^ (f.mbits + 1)) (hk : k = 0 ∨ 2 ^ f.mbits ≤ m)
    (hinf : k * 2 ^ f.mbits + m < f.inf) (r : Rnd) (s : Bool) :
    f.round r s m (f.last + k) = (f.sign s + (k * 2 ^ f.mbits + m), 0) := by
  unfold Fmt.round
  split
  case isTrue h0 =>
    have hk0 : k = 0 := hk.resolve_right (by have := Nat.two_pow_pos f.mbits; omega)
    simp [h0, hk0]
  case isFalse h0 =>
    have hlog : Nat.log2 m ≤ f.mbits := Nat.lt_succ_iff.mp ((Nat.log2_lt h0).mpr hm)
    have hfree : k = 0 ∨ Nat.log2 m = f.mbits := hk.imp_right (fun h => Nat.le_antisymm hlog ((Nat.le_log2 h0).mpr h))
    have hlsb : (if (Nat.log2 m + (f.last + k) - f.mbits : Int) < f.last then f.last else Nat.log2 m + (f.last + k) - f.mbits)
        = f.last + k := by
      split <;> omega
    have hunits : (f.last + k - f.last).toNat = k := by omega
    have hshift : m * 2 ^ (f.last + k - (f.last + k)).toNat = m := by rw [Int.sub_self, Int.toNat_zero, Nat.pow_zero, Nat.mul_one]
    simp only [hlsb, hunits, hshift, Int.le_refl, if_true, if_neg (Nat.not_le.mpr hinf), Bool.and_false, Bool.false_eq_true, if_false]

/-- Every encoding below the all-ones exponent is below that of +∞. -/
theorem Fmt.lt_inf {f : Fmt} {e m : Nat} (he : e < 2 ^ f.ebits - 1) (hm : m < 2 ^ f.mbits) : e * 2 ^ f.mbits + m < f.inf := by
  calc e * 2 ^ f.mbits + m < (e + 1) * 2 ^ f.mbits := by rw [Nat.succ_mul]; omega
    _ ≤ f.inf := Nat.mul_le_mul_right _ he

/-- A datum other than a NaN is rounded to itself, in any format. -/
theorem Fmt.ofFl_decode (f : Fmt) (r : Rnd) {v : Nat} (hv : v < 2 ^ (1 + f.ebits + f.mbits)) (hn : (f.decode v).isNan = false) :
    f.ofFl r (f.decode v) = (v, 0) := by
  have hfields := f.fields hv
  have hm : v % 2 ^ f.mbits < 2 ^ f.mbits := Nat.mod_lt _ (Nat.two_pow_pos _)
  have he : v / 2 ^ f.mbits % 2 ^ f.ebits < 2 ^ f.ebits := Nat.mod_lt _ (Nat.two_pow_pos _)
  unfold Fmt.decode at hn ⊢
  dsimp only at hn ⊢
  generalize v / 2 ^ f.mbits % 2 ^ f.ebits = e at hn hfields he ⊢
  generalize v % 2 ^ f.mbits = m at hn hfields hm ⊢
  split at hn
  case isTrue htop =>
    split at hn
    case isTrue h0 =>
      rw [if_pos htop, if_pos h0, Fmt.ofFl, Fmt.inf, ← htop]
      rw [h0] at hfields
      exact congrArg (·, 0) hfields
    case isFalse => cases hn
  case isFalse htop =>
    have hlt := Fmt.lt_inf (f := f) (e := e) (m := m) (by omega) hm
    rw [if_neg htop]
    split
    case isTrue h0 =>
      subst h0
      have h := Fmt.round_exact (f := f) (m := m) (k := 0) (by rw [Nat.pow_succ]; omega) (.inl rfl) hlt r (f.neg v)
      rwa [Int.natCast_zero, Int.add_zero, hfields] at h
    case isFalse h0 =>
      obtain ⟨k, rfl⟩ := Nat.exists_eq_succ_of_ne_zero h0
      have hk : k.succ * 2 ^ f.mbits + m = k * 2 ^ f.mbits + (m + 2 ^ f.mbits) := by rw [Nat.succ_mul]; omega
      rw [hk] at hlt hfields
      have h := Fmt.round_exact (f := f) (k := k) (by rw [Nat.pow_succ]; omega) (.inr (Nat.le_add_left ..)) hlt r (f.neg v)
      rw [hfields] at h
      rw [Fmt.ofFl, ← h]
      congr 1
      omega

/-- Settles O9: the rounding of a value that is exact in the format finds its own last place. -/
theorem representableValuesRoundToThemselves : Obligations.RepresentableValuesRoundToThemselves := by
  unfold Obligations.RepresentableValuesRoundToThemselves
  exact fun f _ r _ hv hn => f.ofFl_decode r hv hn

end Sys2Proof.Machine
end

section
/-! SUPPORT. The anchored accumulator: what a term makes of an element, its sum without a bound on N, and the raw form (R283 to R286). -/
namespace Sys2Proof.Machine

/-! ## One integer added (R283) -/

/-- An addition reaches N and `sat` alone. -/
theorem AccElem.addInt_frame (a : AccElem) (q : Int) : ∃ n sat, a.addInt q = { a with n, sat } := by
  unfold AccElem.addInt
  split
  case isTrue => exact ⟨a.n, a.sat, rfl⟩
  case isFalse =>
    dsimp only
    split
    case isTrue => exact ⟨_, _, rfl⟩
    case isFalse =>
      split
      case isTrue => exact ⟨_, _, rfl⟩
      case isFalse => exact ⟨_, _, rfl⟩

@[simp] theorem AccElem.infp_addInt (a : AccElem) (q : Int) : (a.addInt q).infp = a.infp := by
  obtain ⟨n, sat, h⟩ := a.addInt_frame q
  rw [h]

@[simp] theorem AccElem.infn_addInt (a : AccElem) (q : Int) : (a.addInt q).infn = a.infn := by
  obtain ⟨n, sat, h⟩ := a.addInt_frame q
  rw [h]

/-- A saturated element is frozen. -/
theorem AccElem.addInt_of_sat {a : AccElem} (h : a.sat = true) (q : Int) : a.addInt q = a := by
  rw [AccElem.addInt, if_pos h]

/-- An addition that leaves an element unsaturated is the addition modulo 2^96. -/
theorem AccElem.addInt_of_unsaturated {a : AccElem} {q : Int} (h : (a.addInt q).sat = false) :
    a.addInt q = { a with n := a.n + BitVec.ofInt 96 q } := by
  unfold AccElem.addInt at h ⊢
  dsimp only at h ⊢
  split at h
  case isTrue hs => cases hs.symm.trans h
  case isFalse hs =>
    split at h
    case isTrue => cases h
    case isFalse hmax =>
      split at h
      case isTrue => cases h
      case isFalse hmin => rw [if_neg hs, if_neg hmax, if_neg hmin, BitVec.ofInt_add, BitVec.ofInt_toInt]

/-! ## Terms (R283) -/

@[simp] theorem AccElem.infp_term (anc : Int) (a : AccElem) (t : Fl) : (a.term anc t).infp = (a.infp || t = .inf false) := by
  cases t with
  | nan _ => simp [AccElem.term]
  | inf s => cases s <;> simp [AccElem.term]
  | fin _ _ _ => simp [AccElem.term]

@[simp] theorem AccElem.infn_term (anc : Int) (a : AccElem) (t : Fl) : (a.term anc t).infn = (a.infn || t = .inf true) := by
  cases t with
  | nan _ => simp [AccElem.term]
  | inf s => cases s <;> simp [AccElem.term]
  | fin _ _ _ => simp [AccElem.term]

theorem AccElem.sat_term {a : AccElem} (h : a.sat = true) (anc : Int) (t : Fl) : (a.term anc t).sat = true := by
  cases t with
  | nan _ => exact h
  | inf s => cases s <;> exact h
  | fin _ _ _ => rwa [AccElem.term, AccElem.addInt_of_sat h]

theorem AccElem.sat_foldl_term {a : AccElem} (h : a.sat = true) (anc : Int) (l : List Fl) :
    (l.foldl (AccElem.term anc) a).sat = true :=
  List.foldlRecOn (motive := fun b : AccElem => b.sat = true) l _ h (fun _ hb t _ => AccElem.sat_term hb anc t)

/-! ## The sum without a bound on N -/

/-- What a term adds to N: a NaN and an infinity add nothing. -/
def Fl.units (anc : Int) : Fl → Int
  | .fin s m e => (roundInt .rne s m (e - anc)).1
  | _ => 0

/-- A term added modulo 2^96: every part of the element takes what the term brings, whatever the element holds. -/
def AccElem.wrapTerm (anc : Int) (a : AccElem) (t : Fl) : AccElem :=
  { n := a.n + BitVec.ofInt 96 (t.units anc), sat := a.sat, infp := a.infp || t = .inf false, infn := a.infn || t = .inf true,
    nan := a.nan || t.isNan }

theorem AccElem.wrapTerm_comm (anc : Int) (a : AccElem) (x y : Fl) :
    (a.wrapTerm anc x).wrapTerm anc y = (a.wrapTerm anc y).wrapTerm anc x := by
  simp only [AccElem.wrapTerm, AccElem.mk.injEq]
  exact ⟨by ac_rfl, trivial, Bool.or_right_comm .., Bool.or_right_comm .., Bool.or_right_comm ..⟩

/-- A term that leaves the element unsaturated is added modulo 2^96. -/
theorem AccElem.term_of_unsaturated {anc : Int} {a : AccElem} {t : Fl} (h : (a.term anc t).sat = false) :
    a.term anc t = a.wrapTerm anc t := by
  cases t with
  | nan _ => simp [AccElem.term, AccElem.wrapTerm, Fl.units, Fl.isNan]
  | inf s => cases s <;> simp [AccElem.term, AccElem.wrapTerm, Fl.units, Fl.isNan]
  | fin s m e =>
    rw [AccElem.term, AccElem.addInt_of_unsaturated h]
    simp [AccElem.wrapTerm, Fl.units, Fl.isNan]

/-- A sum that ends unsaturated was never saturated, since a saturated element stays so. -/
theorem AccElem.foldl_term_of_unsaturated {anc : Int} {l : List Fl} {a : AccElem} (h : (l.foldl (AccElem.term anc) a).sat = false) :
    l.foldl (AccElem.term anc) a = l.foldl (AccElem.wrapTerm anc) a := by
  induction l generalizing a with
  | nil => rfl
  | cons t l ih =>
    have ht : (a.term anc t).sat = false :=
      Bool.eq_false_iff.mpr fun hs => Bool.false_ne_true (h.symm.trans (AccElem.sat_foldl_term hs anc l))
    rw [List.foldl_cons, List.foldl_cons, ← AccElem.term_of_unsaturated ht, ih h]

theorem AccElem.foldl_term_perm {anc : Int} {a : AccElem} {l m : List Fl} (h : l.Perm m)
    (hl : (l.foldl (AccElem.term anc) a).sat = false) (hm : (m.foldl (AccElem.term anc) a).sat = false) :
    l.foldl (AccElem.term anc) a = m.foldl (AccElem.term anc) a := by
  rw [AccElem.foldl_term_of_unsaturated hl, AccElem.foldl_term_of_unsaturated hm]
  exact h.foldl_eq' (fun x _ y _ b => AccElem.wrapTerm_comm anc b x y) a

/-! ## Infinities of both signs (R283) -/

theorem AccElem.infp_foldl_term (anc : Int) (a : AccElem) {l : List Fl} (h : .inf false ∈ l) :
    (l.foldl (AccElem.term anc) a).infp = true :=
  foldl_reaches (I := fun _ => True) (P := fun b : AccElem => b.infp = true) h (fun _ _ _ => trivial) (fun b _ => by simp)
    (fun b t _ hb => by simp [hb]) trivial

theorem AccElem.infn_foldl_term (anc : Int) (a : AccElem) {l : List Fl} (h : .inf true ∈ l) :
    (l.foldl (AccElem.term anc) a).infn = true :=
  foldl_reaches (I := fun _ => True) (P := fun b : AccElem => b.infn = true) h (fun _ _ _ => trivial) (fun b _ => by simp)
    (fun b t _ hb => by simp [hb]) trivial

theorem AccElem.nan_settle {a : AccElem} (hp : a.infp = true) (hn : a.infn = true) : a.settle.nan = true := by
  simp [AccElem.settle, hp, hn]

/-! ## The raw form (R284) -/

/-- A word of whole bytes comes back from them. -/
theorem ofNat_ofBytes_toBytes {w n : Nat} (h : 2 ^ w = 256 ^ n) (x : BitVec w) : BitVec.ofNat w (ofBytes (toBytes x.toNat n)) = x := by
  rw [ofBytes_toBytes, ← h, Nat.mod_eq_of_lt x.isLt, BitVec.ofNat_toNat, BitVec.setWidth_eq]

/-- The flags stand in the lowest four bits of their byte. -/
theorem flags_of_rawByte (sat infp infn nan : Bool) :
    let g := ofBytes (toBytes (sat.toNat + infp.toNat * 2 + infn.toNat * 4 + nan.toNat * 8) 1)
    decide (g % 2 = 1) = sat ∧ decide (g / 2 % 2 = 1) = infp ∧ decide (g / 4 % 2 = 1) = infn ∧ decide (g / 8 % 2 = 1) = nan := by
  revert sat infp infn nan
  decide

/-- The bytes of a raw element, cut at its fields. -/
theorem AccElem.fields_raw (a : AccElem) (anc : BitVec 16) :
    (a.raw anc).take 12 = toBytes a.n.toNat 12 ∧
    ((a.raw anc).drop 12).take 1 = toBytes (a.sat.toNat + a.infp.toNat * 2 + a.infn.toNat * 4 + a.nan.toNat * 8) 1 ∧
    ((a.raw anc).drop 14).take 2 = toBytes anc.toNat 2 := ⟨rfl, rfl, rfl⟩

theorem AccElem.rawOf_raw (a : AccElem) (anc : BitVec 16) : rawOf (a.raw anc) = (a, anc) := by
  obtain ⟨hn, hg, hanc⟩ := a.fields_raw anc
  obtain ⟨hsat, hinfp, hinfn, hnan⟩ := flags_of_rawByte a.sat a.infp a.infn a.nan
  rw [rawOf, hn, hg, hanc, hsat, hinfp, hinfn, hnan, ofNat_ofBytes_toBytes rfl a.n, ofNat_ofBytes_toBytes rfl anc]

/-! ## A raw element added (R286) -/

@[simp] theorem AccElem.n_settle (a : AccElem) : a.settle.n = a.n := by
  unfold AccElem.settle
  split <;> rfl

@[simp] theorem AccElem.sat_settle (a : AccElem) : a.settle.sat = a.sat := by
  unfold AccElem.settle
  split <;> rfl

/-- A saturated element on either side freezes the destination at its N. -/
theorem AccElem.addRaw_of_sat {a b : AccElem} (h : a.sat = true ∨ b.sat = true) : (a.addRaw b).n = a.n ∧ (a.addRaw b).sat = true := by
  have hs : (a.sat || b.sat) = true := Bool.or_eq_true _ _ ▸ h
  rw [AccElem.addRaw, if_pos hs, AccElem.n_settle, AccElem.sat_settle]
  exact ⟨rfl, rfl⟩

/-- Settles O43: a sum that does not saturate is the sum modulo 2^96, which no order changes. -/
theorem accumulatorsAddInAnyOrder : Obligations.AccumulatorsAddInAnyOrder := by
  unfold Obligations.AccumulatorsAddInAnyOrder
  refine ⟨fun anc a l m => AccElem.foldl_term_perm, fun anc a l hp hn => ?_, AccElem.rawOf_raw, fun a b => AccElem.addRaw_of_sat⟩
  exact AccElem.nan_settle (AccElem.infp_foldl_term anc a hp) (AccElem.infn_foldl_term anc a hn)

end Sys2Proof.Machine
end

section
/-! SUPPORT. Every word of the encoder decodes (R294, R301 to R306). -/
namespace Sys2Proof.Laws.RoundTrip

/-- The lemmas of the constructors, in the order in which `Instr` lists them. -/
theorem statement (i : Instr) : Statement i :=
  Instr.casesOn (motive := Statement) i
    add sub and or xor andn orn shl shr sar rol ror min max minu maxu lsa addw subw shlw shrw sarw mul mulh mulhu mulw div divu rem remu
    divw remw clz ctz popc brev bswap sxb sxh sxw zxb zxh zxw bfx bfxs bfi addi andi ori xori shli shri sari roli shliw shriw sariw lui
    ipa gaddr homeof hops cmp cmpw cmpi pand por pxor pandn pnot p2x x2p sel faddS fsubS fmulS ffmaS fminS fmaxS fabsS fnegS fdivS fsqrtS
    frsqsS frcpsS faddD fsubD fmulD ffmaD fminD fmaxD fabsD fnegD fdivD fsqrtD frsqsD frcpsD fcvtSD fcvtDS fcvtSL fcvtDL fcvtLS fcvtLD
    fcvtHS fcvtSH fcvtBS fcvtSB fclassS fclassD fcmpS fcmpD ldBz ldBs ldHz ldHs ldWz ldWs ldD stB stH stW stD ldq stq ldfW ldfD ldfeW
    ldfeD stfW stfD stfeW stfeD fck amoAdd amoAnd amoOr amoXor amoMin amoMax amoMinu amoMaxu amoSwap amoCas amoFadd stcW stcD redAdd
    redFadd redMin redMax redOr pf cwb cdis cinvI br jmp call jr callr loop go gocore meet xget partgo spawn alloc fork join wakePark tsk
    qpush qpop qlen recv mpoll mbind bar barn barw barg barset srd swr trap blk ctxsv ctxrs cp cpn cpm cps cprFp32 cpsi cpso cpf cpz cpc
    cpset cpget vadd vsub vmul vfma vmin vmax vabs vneg vsqrt vexp2 vcmp vsel vcvt vred vdot vgat vsca vscadd vrot vquant vdeq vtab vfix
    vflt vset vget mldb mmac mpass mzero mdrain mdrainx maddx mset mget pool poset poget binapp binplayFp32 binflush bnset bnget fenceQ
    fenceE fenceA back part quit yield done abort rte brk isync wakeNotice wakeCopyResume wakeCopyAbandon cprFp64 cprRaw cprInt64
    binplayAnchored moduleReset laneFailure linkRetrainingComplete linkTrainingRetry lanifyPacketSend lanifyFlitReceive ackTimeout
    lanifyAcknowledgement replayRequest dieTemperatureChange thermalStepDown thermalStepUp relockRestart powerGrant powerGrantArrival
    allowanceExceeded dramRowRemap spareRankBringIn spareRankCopyDone commandPost commandAccept commandComplete functionLevelReset
    fnstWrite queryModule queryPartition partCreate partDestroy keySet imageLoad boot launch launchSeed launchComplete hostCopy
    attestQuote attestChain dump stop stopEdge resume censusCfgOff censusCfgOn censusCfgClear censusCfgRetrain powerSet healthReport
    healthRetrain dispatch overflowRefill stealIdle stealWaitEnd stealProbeArrival stolenTaskRecordArrival emptyReplyArrival periodExpiry
    accountIncrementArrival accountAckArrival accountDecrementArrival quitNoticeArrival retirementDecrementSend commitLogHandoff
    commitEntry commitEnd seededRecordArrival forkChildArrival taskTokenArrival spawnTokenArrival spawnDeadline spawnReplyArrival
    wakeTokenArrival storeBufferDrain loopbackPerform tableWalkComplete tlbinvComplete lmsplitTakeEffect engineCommandStart engineRead
    engineWritePerform engineCommandComplete latchTileArrival ringStall timerExpiry interruptEntry noticeArrival mailboxRingRefill
    contextArrival arrivalQueueRefill contextTake partyArrival pairPlacement meetingDeadline partyReturnArrival luggageWriteArrival
    dumpWrite testSlice forcedTestGap testSliceComplete censusRecordWrite sampleRecord barrierArrivalAtRoot barrierReleaseArrival
    podRelayForward barsetRootTake registerWrite lmsplitWrite tlbinvPage tlbinvAsid tlbinvPartition ptbaseWrite fcsrWrite mbstWrite
    engineStatusWrite illegalEncoding luggageWriteAcknowledgement monitorSlotStop columnCopyComplete rowCopyComplete

theorem decodeNat_of_encodeNat {i : Instr} {n : Nat} (hw : i.wf = true) (he : encodeNat i = some n) : decodeNat n = .ok i :=
  (statement i n hw he).2

end Sys2Proof.Laws.RoundTrip

namespace Sys2Proof.Machine

/-- Settles O56, with one lemma for each constructor of `Instr`. -/
theorem encodedInstructionsDecode : Obligations.EncodedInstructionsDecode := by
  unfold Obligations.EncodedInstructionsDecode
  exact Laws.RoundTrip.statement

/-- Settles O55: each word is the one that the encoder gives its instruction. -/
theorem specWordsDecode : Obligations.SpecWordsDecode := by
  unfold Obligations.SpecWordsDecode
  open Laws.RoundTrip in
  exact ⟨decodeNat_of_encodeNat rfl rfl, decodeNat_of_encodeNat rfl rfl, decodeNat_of_encodeNat rfl rfl,
    decodeNat_of_encodeNat rfl rfl, decodeNat_of_encodeNat rfl rfl, decodeNat_of_encodeNat rfl rfl⟩

end Sys2Proof.Machine
end

section
/-! SUPPORT. What a context reads after a write (R296, R298). -/
namespace Sys2Proof.Machine

/-! ## Registers (R296) -/

/-- Fields above 10 are no registers of a context. -/
theorem Ctx.put_of_gt {d : Reg} (h : 10 < d.toNat) (x : Ctx) (v : Word) : x.put d v = x := by
  unfold Ctx.put
  split
  case h_12 => rfl
  all_goals omega

theorem Ctx.get_put_same {d : Reg} (h : d.toNat ≤ 10) (x : Ctx) (v : Word) : (x.put d v).get d = v := by
  have hd : d.toNat = 0 ∨ d.toNat = 1 ∨ d.toNat = 2 ∨ d.toNat = 3 ∨ d.toNat = 4 ∨ d.toNat = 5 ∨ d.toNat = 6 ∨ d.toNat = 7 ∨
      d.toNat = 8 ∨ d.toNat = 9 ∨ d.toNat = 10 := by omega
  rcases hd with hd | hd | hd | hd | hd | hd | hd | hd | hd | hd | hd <;> simp only [Ctx.put, Ctx.get, hd]

theorem Ctx.get_put_ne {d f : Reg} (h : f ≠ d) (x : Ctx) (v : Word) : (x.put d v).get f = x.get f := by
  have hn : f.toNat ≠ d.toNat := fun e => h (BitVec.eq_of_toNat_eq e)
  unfold Ctx.put
  split
  case h_12 => rfl
  all_goals rename_i hd; rw [hd] at hn; unfold Ctx.get; split <;> trivial

theorem Ctx.get_put (x : Ctx) (d f : Reg) (v : Word) : (x.put d v).get f = if f = d ∧ d.toNat ≤ 10 then v else x.get f := by
  by_cases hd : d.toNat ≤ 10
  · by_cases hf : f = d
    · rw [if_pos ⟨hf, hd⟩, hf, Ctx.get_put_same hd]
    · rw [if_neg (fun h => hf h.1), Ctx.get_put_ne hf]
  · rw [if_neg (fun h => hd h.2), Ctx.put_of_gt (Nat.not_le.mp hd)]

/-- A register written leaves the rest of its context. -/
theorem Ctx.put_frame (x : Ctx) (d : Reg) (v : Word) : (x.put d v).p = x.p ∧ (x.put d v).ip = x.ip ∧
    (x.put d v).status = x.status ∧ (x.put d v).fmta = x.fmta ∧ (x.put d v).fmtb = x.fmtb := by
  unfold Ctx.put
  split <;> exact ⟨rfl, rfl, rfl, rfl, rfl⟩

/-! ## Predicates (R298) -/

/-- A predicate written changes `p` alone. -/
theorem Ctx.setPred_eq (x : Ctx) (k : Pred) (v : Bool) : ∃ p, x.setPred k v = { x with p } := by
  unfold Ctx.setPred
  split
  · exact ⟨x.p, rfl⟩
  · exact ⟨_, rfl⟩

theorem Ctx.pred_congr {x y : Ctx} (h : x.p = y.p) (k : Pred) : x.pred k = y.pred k := by
  rw [Ctx.pred, Ctx.pred, h]

theorem Ctx.pred_of_ne {k : Pred} (h : k ≠ 0) (x : Ctx) : x.pred k = x.p.getLsbD k.toNat := by
  rw [Ctx.pred, beq_eq_false_iff_ne.mpr h, Bool.false_or]

theorem getLsbD_oneHot (k j : Pred) : ((1 : BitVec 16) <<< k.toNat).getLsbD j.toNat = decide (j = k) := by
  have hk : k.toNat < 16 := k.isLt
  rw [show (1 : BitVec 16) <<< k.toNat = BitVec.twoPow 16 k.toNat from rfl, BitVec.getLsbD_twoPow, decide_eq_true hk,
    Bool.true_and, decide_eq_decide, eq_comm, BitVec.toNat_inj]

theorem Ctx.pred_setPred (x : Ctx) (k j : Pred) (v : Bool) :
    (x.setPred k v).pred j = if j = 0 then true else if j = k then v else x.pred j := by
  have hj : j.toNat < 16 := j.isLt
  by_cases hj0 : j = 0
  · rw [if_pos hj0, hj0]; rfl
  · rw [if_neg hj0]
    by_cases hk0 : k = 0
    · rw [Ctx.setPred, if_pos hk0, if_neg (fun h => hj0 (h.trans hk0))]
    · rw [Ctx.pred_of_ne hj0, Ctx.pred_of_ne hj0, Ctx.setPred, if_neg hk0]
      cases v with
      | false =>
        rw [if_neg Bool.false_ne_true, BitVec.getLsbD_and, BitVec.getLsbD_not, getLsbD_oneHot, decide_eq_true hj]
        by_cases h : j = k <;> simp [h]
      | true =>
        rw [if_pos rfl, BitVec.getLsbD_or, getLsbD_oneHot]
        by_cases h : j = k <;> simp [h]

/-- Settles O5: a write reaches its own register or predicate and no other part of the context. -/
theorem registersAndPredicatesReadBack : Obligations.RegistersAndPredicatesReadBack := by
  unfold Obligations.RegistersAndPredicatesReadBack
  refine ⟨Ctx.pred_setPred, Ctx.get_put, fun _ _ => ⟨rfl, rfl⟩, fun x d v k => ?_, fun x k v f => ?_⟩
  · obtain ⟨hp, hrest⟩ := x.put_frame d v
    exact ⟨Ctx.pred_congr hp k, hrest⟩
  · obtain ⟨p, h⟩ := x.setPred_eq k v
    rw [h]
    exact ⟨rfl, rfl, rfl, rfl, rfl⟩

end Sys2Proof.Machine
end

section
/-! SUPPORT. Reset, and the module reset that is the first step (R97, R309). -/
namespace Sys2Proof.Machine

theorem State.core_reset (c : Nat) : State.reset.core c = {} := rfl

theorem State.slot_reset (c k : Nat) : State.reset.slot c k = {} := rfl

/-- The state that the reset of module 0 leaves. -/
def State.booted : State := ({} : State).bootModule 0 7 []

theorem step_reset : step State.reset = .next State.booted := rfl

theorem State.core_booted (c : Nat) : State.booted.core c = {} := rfl

theorem State.part_booted (p : Nat) : State.booted.part 0 p = {} := rfl

theorem State.funcs_booted : (State.booted.module 0).funcs = (List.range 17).map (fun f => (f, { ready := true })) := rfl

/-- Every function's window is ready after boot (R97). -/
theorem State.ready_booted : ∀ fn ≤ 16, (State.booted.func 0 fn).ready = true := by
  simp only [State.func, State.funcs_booted]
  decide

/-- Settles O53: a core and a slot that nothing has touched are blank, and the reset of a module without cables reports no clash. -/
theorem resetState : Obligations.ResetState := by
  unfold Obligations.ResetState
  refine ⟨fun c => ?_, fun c k => ?_, rfl, rfl, rfl, rfl, State.booted, step_reset, rfl, State.ready_booted, fun p => ?_,
    State.core_booted, rfl, rfl⟩
  · rw [State.core_reset]
    and_intros <;> rfl
  · rw [State.slot_reset]
    and_intros <;> rfl
  · rw [State.part_booted]

end Sys2Proof.Machine
end

section
/-! SUPPORT. Engine register files: a set, what it writes, and a get (R384). -/
namespace Sys2Proof.Machine

/-! ## A register set -/

@[simp] theorem Core.slots_putFile (o : Core) (f : EngineFile) (l : List Word) : (o.putFile f l).slots = o.slots := by
  cases f <;> rfl

@[simp] theorem Core.file_putFile (o : Core) (f : EngineFile) (l : List Word) : (o.putFile f l).file f = l := by
  cases f <;> rfl

theorem statusIndex_add_one (f : EngineFile) : statusIndex f + 1 = f.size := by
  cases f <;> rfl

/-- A value as a register of a width shows it (log 48). -/
theorem holdValue_eq (n : Nat) (g : Bool) (v : Word) :
    holdValue n g v = if g then (v.truncate n).signExtend 64 else (v.truncate n).zeroExtend 64 := by
  cases g with
  | true => simp [holdValue, sext]
  | false => simp [holdValue, ← BitVec.toNat_inj]

theorem getElem?_setReg_ne (f : EngineFile) (l : List Word) {i j : Nat} (h : j ≠ i) (v : Word) : (setReg f l i v)[j]? = l[j]? := by
  unfold setReg
  split <;> exact List.getElem?_set_ne (Ne.symm h)

theorem getElem?_setReg_status {f : EngineFile} {l : List Word} {i : Nat} (hs : i + 1 = f.size) (hi : i < l.length) (v : Word) :
    (setReg f l i v)[i]? = some (l.getD i 0 &&& ~~~(v &&& w1cMask f)) := by
  rw [setReg, if_pos (Nat.add_right_cancel (hs.trans (statusIndex_add_one f).symm)), List.getElem?_set_self hi]

theorem getElem?_setReg_width {f : EngineFile} {l : List Word} {i n : Nat} {g : Bool} (hw : (fileWidths f)[i]? = some (n, g))
    (hs : i + 1 ≠ f.size) (hi : i < l.length) (hf : (f, i) ≠ (.vector, 11)) (v : Word) :
    (setReg f l i v)[i]? = some (holdValue n g v) := by
  have hst : i ≠ statusIndex f := fun h => hs (h ▸ statusIndex_add_one f)
  have hfmt : (f == .vector && i == 11) = false := by
    simpa [Prod.ext_iff] using hf
  rw [setReg, if_neg hst, List.getElem?_set_self hi, hfmt, List.getD_eq_getElem?_getD, hw]
  rfl

/-! ## The two configuration words -/

section
variable {s : State} {t : Thread}

theorem State.engineSet_plain (h : s.Runs t) {b : Reg} (hb : plain [b] = true) (f : EngineFile) (r : BitVec 6) :
    s.engineSet f b r = .next ((s.modCore s.here (fun o =>
      o.putFile f (setReg f (o.file f) r.toNat (t.ctx.get b)))).went t t.ctx.past) := by
  have hr := (State.modCore_same s s.here (f := fun o => o.putFile f (setReg f (o.file f) r.toNat (t.ctx.get b)))
    (fun o => o.slots_putFile f _)).runs h
  rw [State.engineSet, State.gate_plain h hb rfl, State.X_plain h (plain1.mp hb), State.complete_plain hr hb]

theorem State.engineGet_plain (h : s.Runs t) {b : Reg} (hb : plain [b] = true) (f : EngineFile) (r : BitVec 6) :
    s.engineGet f b r = .next (s.went t (t.ctx.put b (s.engineReg s.here f r.toNat)).past) := by
  rw [State.engineGet, State.gate_plain h rfl hb, State.result_plain h rfl (plain1.mp hb)]

end

/-- The words of R303 are the set and the get of their file. -/
theorem exec_fileRow {e : FileRow} (he : e ∈ tableFile) (b : Reg) (r : BitVec 6) (s : State) :
    exec (e.set b r) s = s.engineSet e.file b r ∧ exec (e.get b r) s = s.engineGet e.file b r := by
  simp only [tableFile, List.mem_cons, List.not_mem_nil, or_false] at he
  rcases he with rfl | rfl | rfl | rfl | rfl <;> exact ⟨rfl, rfl⟩

/-- Settles O32: the words go through the gate as every word does, and a set changes one register of its file. -/
theorem engineRegisters : Obligations.EngineRegisters := by
  unfold Obligations.EngineRegisters
  refine ⟨fun e he b r s t h hb => ?_, fun f o l v i => ⟨o.file_putFile f l, fun n g hw hs hi hf => ?_,
    fun j hj => getElem?_setReg_ne f l hj v, fun hs hi => getElem?_setReg_status hs hi v⟩⟩
  · obtain ⟨hset, hget⟩ := exec_fileRow he b r s
    rw [hset, hget]
    exact ⟨State.engineSet_plain h hb e.file r, State.engineGet_plain h hb e.file r⟩
  · rw [getElem?_setReg_width hw hs hi hf, holdValue_eq]

end Sys2Proof.Machine
end

section
/-! SUPPORT. Two-operand integer instructions: their functions in the words of R317 to R319, and their stream operands (R177, R296). -/
namespace Sys2Proof.Machine

/-! ## The functions (R317 to R319) -/

theorem rotateLeft_sh64 (u v : Word) : u.rotateLeft (sh64 v) = u <<< (v.toNat % 64) ||| u >>> (64 - v.toNat % 64) := by
  rw [BitVec.rotateLeft_def, sh64, Nat.mod_mod]

theorem rotateRight_sh64 (u v : Word) : u.rotateRight (sh64 v) = u >>> (v.toNat % 64) ||| u <<< (64 - v.toNat % 64) := by
  rw [BitVec.rotateRight_def, sh64, Nat.mod_mod]

theorem minS_eq (u v : Word) : minS u v = if u.toInt ≤ v.toInt then u else v := by
  rw [minS, BitVec.slt, ← ite_not]
  simp only [decide_eq_true_eq, Int.not_lt]

theorem minU_eq (u v : Word) : minU u v = if u.toNat ≤ v.toNat then u else v := by
  rw [minU, BitVec.ult, ← ite_not]
  simp only [decide_eq_true_eq, Nat.not_lt]

/-- Of two equal values either is the larger. -/
theorem maxS_eq (u v : Word) : maxS u v = if u.toInt ≤ v.toInt then v else u := by
  rw [maxS, BitVec.slt]
  simp only [decide_eq_true_eq]
  rcases Int.lt_trichotomy u.toInt v.toInt with h | h | h
  · rw [if_pos h, if_pos (Int.le_of_lt h)]
  · rw [BitVec.toInt_inj.mp h, ite_self, ite_self]
  · rw [if_neg (Int.not_lt.mpr (Int.le_of_lt h)), if_neg (Int.not_le.mpr h)]

theorem maxU_eq (u v : Word) : maxU u v = if u.toNat ≤ v.toNat then v else u := by
  rw [maxU, BitVec.ult]
  simp only [decide_eq_true_eq]
  rcases Nat.lt_trichotomy u.toNat v.toNat with h | h | h
  · rw [if_pos h, if_pos (Nat.le_of_lt h)]
  · rw [BitVec.toNat_inj.mp h, ite_self, ite_self]
  · rw [if_neg (Nat.not_lt.mpr (Nat.le_of_lt h)), if_neg (Nat.not_le.mpr h)]

theorem low32_eq_lower : low32 = lower := by
  funext u
  exact BitVec.setWidth_eq_extractLsb' (by decide)

theorem sx32_eq_widen : sx32 = widen := rfl

theorem mul_eq_ofNat {n : Nat} (u v : BitVec n) : u * v = BitVec.ofNat n (u.toNat * v.toNat) :=
  rfl

/-- A row of the tables of R317 to R319 is a two-operand instruction with the row's result. -/
def Op2.Binary (e : Op2) : Prop := ∀ d a b s, exec (e.instr d a b) s = s.binary d a b e.result

theorem Op2.binary_of_eq {e : Op2} {f : Word → Word → Word} (h : ∀ d a b s, exec (e.instr d a b) s = s.binary d a b f)
    (hf : ∀ u v, f u v = e.result u v) : e.Binary := by
  intro d a b s
  rw [h, funext (fun u => funext (hf u))]

theorem table01_binary : ∀ e ∈ table01, e.Binary := by
  simp only [table01, List.forall_mem_cons, List.not_mem_nil, false_imp_iff, implies_true, and_true]
  exact ⟨exec_add, exec_sub, exec_and, exec_or, exec_xor, exec_andn, exec_orn, exec_shl, exec_shr, exec_sar,
    Op2.binary_of_eq exec_rol rotateLeft_sh64, Op2.binary_of_eq exec_ror rotateRight_sh64,
    Op2.binary_of_eq exec_min minS_eq, Op2.binary_of_eq exec_max maxS_eq,
    Op2.binary_of_eq exec_minu minU_eq, Op2.binary_of_eq exec_maxu maxU_eq⟩

theorem table02_binary : ∀ e ∈ table02, e.Binary := by
  simp only [table02, List.forall_mem_cons, List.not_mem_nil, false_imp_iff, implies_true, and_true, ← low32_eq_lower,
    ← sx32_eq_widen]
  exact ⟨exec_addw, exec_subw, exec_shlw, exec_shrw, exec_sarw⟩

theorem table03_binary : ∀ e ∈ table03, e.Binary := by
  simp only [table03, List.forall_mem_cons, List.not_mem_nil, false_imp_iff, implies_true, and_true, ← low32_eq_lower,
    ← sx32_eq_widen]
  exact ⟨Op2.binary_of_eq exec_mul mul_eq_ofNat, exec_mulh, exec_mulhu,
    Op2.binary_of_eq exec_mulw (fun u v => congrArg sx32 (mul_eq_ofNat _ _))⟩

theorem tables_binary {e : Op2} (he : e ∈ table01 ++ table02 ++ table03) : e.Binary := by
  simp only [List.mem_append] at he
  obtain (h1 | h2) | h3 := he
  · exact table01_binary e h1
  · exact table02_binary e h2
  · exact table03_binary e h3

/-! ## Stream operands that stop an instruction (R177, R296) -/

section
variable {s : State} {t : Thread}

theorem State.trap_handled (h : s.Traps t) (cause sub : Nat) (addr : Word) :
    s.trap cause sub addr = s.trapped t cause sub addr t.ctx.ip := by
  rw [← State.trapAt_handled h, ← State.ip_of_runs h.runs]
  rfl

theorem State.trapWord_handled (h : s.Traps t) (cause : Nat) :
    s.trapWord cause = s.trapped t cause 0 (s.ir.zeroExtend 64) t.ctx.ip :=
  State.trap_handled h cause 0 _

theorem State.binary_unbound (h : s.Traps t) {d a b : Reg} (hr : operandsReady (s.core s.here) t.tid [a, b] [d] = .unbound)
    (f : Word → Word → Word) : s.binary d a b f = .next (s.trapped t 12 0 (s.ir.zeroExtend 64) t.ctx.ip) := by
  rw [State.binary, State.gate_unbound h.runs hr, State.trapWord_handled h]

theorem State.binary_wait (h : s.Runs t) {d a b : Reg} (hr : operandsReady (s.core s.here) t.tid [a, b] [d] = .wait)
    (f : Word → Word → Word) : s.binary d a b f = .next (s.waitsIn (.step 3)) :=
  State.gate_wait h hr

/-! ## Operands that are ready -/

theorem operandsReady_of_yes {o : Core} {tid : BitVec 32} {srcs dsts : List Reg} (hs : ∀ f ∈ srcs, sourceReady o tid f = .yes)
    (hd : ∀ f ∈ dsts, destReady o tid f = .yes) : operandsReady o tid srcs dsts = .yes := by
  have h1 : srcs.map (sourceReady o tid) = srcs.map (fun _ => Ready.yes) := List.map_congr_left hs
  have h2 : dsts.map (destReady o tid) = dsts.map (fun _ => Ready.yes) := List.map_congr_left hd
  simp [operandsReady, h1, h2]

theorem sourceReady_plain {f : Reg} (h : isStream f = false) (o : Core) (tid : BitVec 32) : sourceReady o tid f = .yes := by
  simp [sourceReady, h]

theorem destReady_plain {f : Reg} (h : isStream f = false) (o : Core) (tid : BitVec 32) : destReady o tid f = .yes := by
  simp [destReady, h]

theorem sourceReady_input {o : Core} {tid : BitVec 32} {f : Reg} {x : Stream} (hx : o.stream tid f = some x) (hin : x.input = true)
    (hused : x.used < x.count) (hne : x.elems ≠ []) : sourceReady o tid f = .yes := by
  simp [sourceReady, hx, hin, Nat.not_le.mpr hused, hne]

theorem destReady_output {o : Core} {tid : BitVec 32} {f : Reg} {x : Stream} (hx : o.stream tid f = some x) (hout : x.input = false)
    (hused : x.used < x.count) (hroom : x.elems.length < 16) : destReady o tid f = .yes := by
  simp [destReady, hx, hout, Nat.not_le.mpr hused, Nat.not_le.mpr hroom]

/-! ## Elements taken and given -/

/-- A stream field names stream 0 or 1. -/
theorem isStream_cases {f : Reg} (h : isStream f = true) : f = 11 ∨ f = 12 := by
  simpa [isStream] using h

/-- The oldest element of an input leaves it. -/
def Stream.taken (y : Stream) : Stream := if y.input then { y with elems := y.elems.drop 1, used := y.used + 1 } else y

/-- A value joins an output. -/
def Stream.given (v : Word) (y : Stream) : Stream := if y.input then y else { y with elems := y.elems ++ [v], used := y.used + 1 }

/-- One element is taken from a stream that the sources name, however many of them name it. -/
theorem State.takeFor_one (s : State) (c : Nat) (tid : BitVec 32) {l : List Reg} {f : Reg} (hf : isStream f = true) (hm : f ∈ l)
    (ho : ∀ g ∈ l, isStream g = true → g = f) : s.takeFor c tid l = s.modCore c (fun o => o.modStream tid f Stream.taken) := by
  have hin : l.contains f = true := List.contains_iff_mem.mpr hm
  have hout : ∀ g, isStream g = true → g ≠ f → l.contains g = false := by
    intro g hg hne
    rw [← Bool.not_eq_true, List.contains_iff_mem]
    exact fun hgl => hne (ho g hgl hg)
  unfold State.takeFor
  obtain rfl | rfl := isStream_cases hf
  · simp only [List.foldl, hin, hout 12 rfl (by decide), if_true, Bool.false_eq_true, if_false]
    rfl
  · simp only [List.foldl, hin, hout 11 rfl (by decide), if_true, Bool.false_eq_true, if_false]
    rfl

theorem State.X_stream (h : s.Runs t) {f : Reg} (hf : isStream f = true) {x : Stream} (hx : (s.core s.here).stream t.tid f = some x)
    {v : Word} {l : List Word} (hv : x.elems = v :: l) : s.X f = v := by
  have h' : (s.slot s.cur.1 s.cur.2).thread = some t := h
  have hx' : (s.core s.cur.1).stream t.tid f = some x := hx
  simp [State.X, State.regAt, h', hf, hx', hv]

theorem State.setX_stream (h : s.Runs t) {f : Reg} (hf : isStream f = true) (v : Word) :
    s.setX f v = s.modCore s.here (fun o => o.modStream t.tid f (Stream.given v)) := by
  rw [State.setX, State.setRegAt, show (s.slot s.cur.1 s.cur.2).thread = some t from h]
  simp only [hf, if_true]
  rfl

theorem State.takeAt_one (h : s.Runs t) {l : List Reg} {f : Reg} (hf : isStream f = true) (hm : f ∈ l)
    (ho : ∀ g ∈ l, isStream g = true → g = f) :
    s.takeAt s.cur.1 s.cur.2 l = s.modCore s.here (fun o => o.modStream t.tid f Stream.taken) := by
  rw [State.takeAt, show (s.slot s.cur.1 s.cur.2).thread = some t from h]
  exact s.takeFor_one _ _ hf hm ho

theorem State.runs_modStream (h : s.Runs t) (tid : BitVec 32) (f : Reg) (g : Stream → Stream) :
    (s.modCore s.here (fun o => o.modStream tid f g)).Runs t :=
  (State.modCore_same s s.here (f := fun o => o.modStream tid f g) (fun _ => rfl)).runs h

/-- Two sources of which one or both name a ready input, and a general destination. -/
theorem State.binary_input (h : s.Runs t) {d a b f : Reg} {x : Stream} {v : Word} {l : List Word} (hf : isStream f = true)
    (hm : f ∈ [a, b]) (ho : ∀ g ∈ [a, b], isStream g = true → g = f) (hd : isStream d = false)
    (hx : (s.core s.here).stream t.tid f = some x) (hin : x.input = true) (hused : x.used < x.count) (hv : x.elems = v :: l)
    (r : Word → Word → Word) :
    s.binary d a b r = .next ((s.modCore s.here (fun o => o.modStream t.tid f Stream.taken)).went t
      (t.ctx.put d (r (s.X a) (s.X b))).past) := by
  have hsrc : ∀ g ∈ [a, b], sourceReady (s.core s.here) t.tid g = .yes := by
    intro g hg
    cases hgs : isStream g with
    | false => exact sourceReady_plain hgs _ _
    | true => exact ho g hg hgs ▸ sourceReady_input hx hin hused (by simp [hv])
  have hdst : ∀ g ∈ [d], destReady (s.core s.here) t.tid g = .yes := by
    intro g hg
    exact List.mem_singleton.mp hg ▸ destReady_plain hd _ _
  have hu := State.runs_modStream h t.tid f Stream.taken
  rw [State.binary, State.gate_ready h (operandsReady_of_yes hsrc hdst), State.result, State.takeAt_one h hf hm ho,
    State.setX_plain hu hd]
  exact congrArg Host.Outcome.next ((State.advanceAt_eq (State.runs_modCtx hu _)).trans (State.went_modCtx hu _ _))

/-- General sources, and a ready output as the destination. -/
theorem State.binary_output (h : s.Runs t) {d a b : Reg} {x : Stream} (hd : isStream d = true) (hp : plain [a, b] = true)
    (hx : (s.core s.here).stream t.tid d = some x) (hout : x.input = false) (hused : x.used < x.count) (hroom : x.elems.length < 16)
    (r : Word → Word → Word) :
    s.binary d a b r = .next ((s.modCore s.here (fun o =>
      o.modStream t.tid d (Stream.given (r (t.ctx.get a) (t.ctx.get b))))).went t t.ctx.past) := by
  obtain ⟨ha, hb⟩ := plain2.mp hp
  have hsrc : ∀ g ∈ [a, b], sourceReady (s.core s.here) t.tid g = .yes := fun g hg => sourceReady_plain (plain_mem hp hg) _ _
  have hdst : ∀ g ∈ [d], destReady (s.core s.here) t.tid g = .yes := by
    intro g hg
    exact List.mem_singleton.mp hg ▸ destReady_output hx hout hused hroom
  rw [State.binary, State.gate_ready h (operandsReady_of_yes hsrc hdst), State.result, State.takeAt_plain _ _ _ hp,
    State.X_plain h ha, State.X_plain h hb, State.setX_stream h hd]
  exact congrArg Host.Outcome.next (State.advanceAt_eq (State.runs_modStream h _ _ _))

end

/-- Settles O35: the rows of the three tables are two-operand instructions, whose gate judges the streams and whose result takes and
gives their elements. -/
theorem streamOperands : Obligations.StreamOperands := by
  unfold Obligations.StreamOperands
  intro e he d a b s t
  have hexec := tables_binary he
  rw [hexec, hexec]
  refine ⟨fun h hr => State.binary_unbound h hr _, fun h hr => State.binary_wait h hr _,
    fun x v l h ha hx hin hused hv => ⟨fun hp => ?_, fun hp => ?_⟩,
    fun x h hd hp hx hout hused hroom => State.binary_output h hd hp hx hout hused hroom _⟩
  · obtain ⟨hd, hb⟩ := plain2.mp hp
    have ho : ∀ g ∈ [a, b], isStream g = true → g = a := by
      simp [hb]
    rw [State.binary_input h ha (by simp) ho hd hx hin hused hv, State.X_stream h ha hx hv, State.X_plain h hb]
    rfl
  · rw [State.binary_input h ha (by simp) (by simp) (plain1.mp hp) hx hin hused hv, State.X_stream h ha hx hv]
    rfl

end Sys2Proof.Machine
end

section
/-! SUPPORT. Special registers: who may read and write them, what `srd` gives and what `swr` stores (R308, R309, R371). -/
namespace Sys2Proof.Machine

/-! ## The access columns (R309) -/

theorem sregAccess_of_any {i : Nat} {p : Grade × Grade → Bool} (h : (sregAccess i).any p = true) :
    ∃ r w, sregAccess i = some (r, w) ∧ p (r, w) = true := by
  cases hk : sregAccess i with
  | none => rw [hk] at h; cases h
  | some g => rw [hk] at h; exact ⟨g.1, g.2, rfl, h⟩

/-- Registers with one write column. -/
theorem writeColumn_of_all {l : List (BitVec 10)} {w : Grade} (h : l.all (fun i => (sregAccess i.toNat).any (·.2 == w)) = true)
    {i : BitVec 10} (hi : i ∈ l) : ∃ r, sregAccess i.toNat = some (r, w) := by
  obtain ⟨r, w', hk, hw⟩ := sregAccess_of_any (List.all_eq_true.mp h i hi)
  obtain rfl := beq_iff_eq.mp hw
  exact ⟨r, hk⟩

/-- An index that R309 does not list names no register. -/
theorem sregAccess_of_unlisted {i : Nat} (h : i ∉ specialIndexes) : sregAccess i = none := by
  simp only [specialIndexes, List.mem_cons, List.not_mem_nil, or_false, not_or] at h
  unfold sregAccess
  simp only [Bool.or_eq_true, Bool.and_eq_true, decide_eq_true_eq]
  repeat rw [if_neg (by omega)]

/-! ## Reading: `srd` -/

section
variable {s : State} {t : Thread}

theorem State.prdlOf_some (s : State) (t : Thread) :
    s.prdlOf (some t) = (t.task.map (fun i => (s.seatOf i).prdl)).getD (BitVec.allOnes 64) := by
  rw [State.prdlOf, Option.bind_some]
  cases t.task <;> rfl

/-- A register that the running thread alone decides. -/
theorem State.sreg_thread (h : s.Runs t) {i : Nat} (f : Option Thread → Word)
    (hf : s.sreg s.here s.slotNo i = f s.running.thread) : s.sreg s.here s.slotNo i = f (some t) :=
  hf.trans (congrArg f h)

/-- Each row of R309 gives the value of its register. -/
theorem State.sreg_of_row (h : s.Runs t) : ∀ e ∈ tableSreg, s.sreg s.here s.slotNo e.1.toNat = e.2.2 s t := by
  simp only [tableSreg, List.forall_mem_cons, List.not_mem_nil, false_imp_iff, implies_true, and_true]
  exact ⟨rfl, rfl, rfl, State.sreg_thread h (fun o => BitVec.ofNat 64 ((o.map Thread.birth).getD 0)) rfl,
    State.sreg_thread h (fun o => (o.map (fun r => r.tid.zeroExtend 64)).getD 0) rfl, rfl,
    State.sreg_thread h (taskField · (·.task)) rfl, State.sreg_thread h (taskField · (·.dom0)) rfl,
    State.sreg_thread h (taskField · (·.dom1)) rfl, State.sreg_thread h (taskField · (·.dom2)) rfl,
    State.sreg_thread h (taskField · (·.budget)) rfl, (State.sreg_thread h s.prdlOf rfl).trans (s.prdlOf_some t),
    State.sreg_thread h (taskField · (·.launch)) rfl, State.sreg_thread h (ctxField · (·.fmta)) rfl,
    State.sreg_thread h (ctxField · (·.fmtb)) rfl, rfl, rfl, rfl, rfl, rfl, rfl, rfl, rfl, rfl, rfl, rfl, rfl, rfl, rfl, rfl, rfl, rfl,
    rfl, rfl, rfl, State.sreg_thread h (ctxField · (fun x => x.status.fcs.zeroExtend 64)) rfl, rfl, rfl, rfl, rfl, rfl, rfl, rfl, rfl⟩

/-- `lmsplit` on a compute core (R162, R308). -/
theorem State.sreg_lmsplit (hh : isHead s.here = false) : s.sreg s.here s.slotNo (0x030 : BitVec 10).toNat =
    BitVec.ofNat 64 ((s.core s.here).lmsplitCache * 256 + (s.core s.here).lmsplitCom * 16 +
      (12 - (s.core s.here).lmsplitCom - (s.core s.here).lmsplitCache)) := by
  have h : s.sreg s.here s.slotNo (0x030 : BitVec 10).toNat = s.lmsplit s.here := rfl
  rw [h, State.lmsplit, hh, if_neg Bool.false_ne_true]

/-- The luggage aliases on a compute core: the party's own, and its partner's (R217, R308). -/
theorem State.sreg_lugx (hh : isHead s.here = false) :
    s.sreg s.here s.slotNo (0x021 : BitVec 10).toNat = lugAlias s.running.meet true := by
  have h : s.sreg s.here s.slotNo (0x021 : BitVec 10).toNat = if isHead s.here then 0 else lugAlias s.running.meet true := rfl
  rw [h, hh, if_neg Bool.false_ne_true]

theorem State.sreg_lugy (hh : isHead s.here = false) :
    s.sreg s.here s.slotNo (0x022 : BitVec 10).toNat = lugAlias s.running.meet false := by
  have h : s.sreg s.here s.slotNo (0x022 : BitVec 10).toNat = if isHead s.here then 0 else lugAlias s.running.meet false := rfl
  rw [h, hh, if_neg Bool.false_ne_true]

theorem lugAlias_own (m : Meet) : lugAlias (some m) true = if m.first then 0x20000 else 0x21000 := by
  cases hm : m.first <;> simp [lugAlias, hm]

theorem lugAlias_partner (m : Meet) : lugAlias (some m) false = if m.first then 0x21000 else 0x20000 := by
  cases hm : m.first <;> simp [lugAlias, hm]

theorem exec_srd_known {f : BitVec 10} {r w : Grade} (hk : sregAccess f.toNat = some (r, w)) (a : Reg) (s : State) :
    exec (.srd f a) s = s.gateFor r.needsSup [] [a] (fun _ => s.result [] a (s.sreg s.here s.slotNo f.toNat)) := by
  rw [exec_srd, execSrd, hk]

theorem exec_srd_allowed (h : s.Runs t) {a : Reg} (ha : plain [a] = true) {f : BitVec 10} {r w : Grade}
    (hk : sregAccess f.toNat = some (r, w)) (hr : r.needsSup = true → t.ctx.status.sup = true) :
    exec (.srd f a) s = .next (s.went t (t.ctx.put a (s.sreg s.here s.slotNo f.toNat)).past) := by
  rw [exec_srd_known hk, State.gateFor_allowed h hr, State.gate_plain h rfl ha, State.result_plain h rfl (plain1.mp ha)]

theorem exec_srd_denied (h : s.Traps t) (a : Reg) {f : BitVec 10} {r w : Grade} (hk : sregAccess f.toNat = some (r, w))
    (hr : r.needsSup = true) : exec (.srd f a) s = .next (s.trapped t 2 0 (s.ir.zeroExtend 64) t.ctx.ip) := by
  rw [exec_srd_known hk, hr, State.gateFor_denied h.runs h.user, State.trapWord_handled h]

theorem exec_srd_unknown (h : s.Traps t) (a : Reg) {f : BitVec 10} (hk : sregAccess f.toNat = none) :
    exec (.srd f a) s = .next (s.trapped t 1 0 (s.ir.zeroExtend 64) t.ctx.ip) := by
  rw [exec_srd, execSrd, hk]
  exact (State.gate_plain h.runs rfl rfl _).trans (congrArg Host.Outcome.next (State.trapWord_handled h 1))

/-- The read column of R309 at the rows of the table. -/
theorem readColumn_of_row {e : BitVec 10 × Bool × (State → Thread → Word)} (he : e ∈ tableSreg) :
    ∃ r w, sregAccess e.1.toNat = some (r, w) ∧ r.needsSup = e.2.1 := by
  have hall : tableSreg.all (fun e => (sregAccess e.1.toNat).any (fun g => g.1.needsSup == e.2.1)) = true := rfl
  obtain ⟨r, w, hk, hr⟩ := sregAccess_of_any (List.all_eq_true.mp hall e he)
  exact ⟨r, w, hk, beq_iff_eq.mp hr⟩

/-- What the table of R309 leaves out is four registers and the indexes that name none. -/
theorem sregAccess_of_no_row {i : BitVec 10} (hrow : ∀ e ∈ tableSreg, e.1 ≠ i) (h4 : i ∉ [0x021, 0x022, 0x030, 0x039]) :
    sregAccess i.toNat = none := by
  have hall : ∀ n ∈ specialIndexes, BitVec.ofNat 10 n ∈ tableSreg.map (·.1) ++ [0x021, 0x022, 0x030, 0x039] := by decide
  refine sregAccess_of_unlisted (fun hi => ?_)
  have hmem := hall _ hi
  rw [BitVec.ofNat_toNat, BitVec.setWidth_eq, List.mem_append, List.mem_map] at hmem
  rcases hmem with ⟨e, he, hei⟩ | h
  · exact hrow e he hei
  · exact h4 h

/-! ## Writing: `swr` -/

theorem exec_swr_known {f : BitVec 10} {r w : Grade} (hk : sregAccess f.toNat = some (r, w)) (a : Reg) (s : State) :
    exec (.swr f a) s =
      s.gateFor w.needsSup [a] [] (fun t => s.writeSreg t [a] f.toNat (s.X a) (fun s => s.complete [a])) := by
  rw [exec_swr, execSwr, hk]

theorem exec_swr_allowed (h : s.Runs t) {a : Reg} (ha : plain [a] = true) {f : BitVec 10} {r w : Grade}
    (hk : sregAccess f.toNat = some (r, w)) (hs : w.needsSup = true → t.ctx.status.sup = true) :
    exec (.swr f a) s = .next (s.writeSreg t [a] f.toNat (t.ctx.get a) (fun s => s.complete [a])) := by
  rw [exec_swr_known hk, State.gateFor_allowed h hs, State.gate_plain h ha rfl, State.X_plain h (plain1.mp ha)]

theorem exec_swr_denied (h : s.Traps t) (a : Reg) {f : BitVec 10}
    (hk : (sregAccess f.toNat).any (fun g => g.2.needsSup) = true) :
    exec (.swr f a) s = .next (s.trapped t 2 0 (s.ir.zeroExtend 64) t.ctx.ip) := by
  obtain ⟨r, w, hk, hw⟩ := sregAccess_of_any hk
  rw [exec_swr_known hk, hw, State.gateFor_denied h.runs h.user, State.trapWord_handled h]

/-- A write that its column of R309 allows is done. -/
theorem State.writeSreg_put {i : Nat} {r w : Grade} (hk : sregAccess i = some (r, w)) (hn : w ≠ .never)
    (hs : w.needsSup = true → t.ctx.status.sup = true) (hb : w = .res → t.bounded s.here = false) (srcs : List Reg) (v : Word)
    (done : State → State) : s.writeSreg t srcs i v done = s.putSreg srcs i v done := by
  rw [State.writeSreg, hk]
  cases w with
  | all => rfl
  | sup => exact if_pos (hs rfl)
  | res => simp only [hb rfl, Bool.false_eq_true, if_false]
  | never => exact absurd rfl hn

/-- A visitor's write of a register of the resident threads (R308). -/
theorem exec_swr_visitor (h : s.Traps t) {a : Reg} (ha : plain [a] = true) (hv : t.birth ≠ s.here) {f : BitVec 10} {r : Grade}
    (hk : sregAccess f.toNat = some (r, .res)) : exec (.swr f a) s = .next (s.trapped t 4 6 0 t.ctx.ip) := by
  have hb : t.bounded s.here = true := by simp [Thread.bounded, Thread.visits, h.user, hv]
  rw [exec_swr_allowed h.runs ha hk (fun hs => by cases hs), State.writeSreg, hk]
  simp only [hb, if_true, State.trap_handled h]

/-- A register without a write is left (R309). -/
theorem exec_swr_ignored (h : s.Runs t) {a : Reg} (ha : plain [a] = true) (hs : t.ctx.status.sup = true) {f : BitVec 10} {r : Grade}
    (hk : sregAccess f.toNat = some (r, .never)) : exec (.swr f a) s = .next (s.went t t.ctx.past) := by
  rw [exec_swr_allowed h ha hk (fun _ => hs), State.writeSreg, hk]
  simp only [hs, if_true, State.complete_plain h ha]

/-! ## Writable bits stored -/

@[simp] theorem Core.slots_store (o : Core) (i : Nat) (v : Word) : (o.store i v).slots = o.slots := by
  unfold Core.store
  split <;> rfl

@[simp] theorem Slot.thread_store (l : Slot) (i : Nat) (v : Word) : (l.store i v).thread = l.thread := by
  unfold Slot.store
  split <;> rfl

/-- A register whose write has no rule but that its writable bits are stored, in its slot or in its core; `sup` says whether only the
supervisor writes it. -/
structure Stores (i : Nat) (sup : Bool) (mask : Word) (slot : Bool) : Prop where
  column : ∃ r w, sregAccess i = some (r, w) ∧ w ≠ .never ∧ w.needsSup = sup ∧ (slot = true → w ≠ .res)
  noRule : i ∉ [0x030, 0x039, 0x050, 0x061, 0x062]
  owner : isSlotReg i = slot
  bits : sregMask i = mask

theorem State.putSreg_stored {i : Nat} (hi : i ∉ [0x030, 0x039, 0x050, 0x061, 0x062]) (hh : i = 0x031 → isHead s.here = false)
    (srcs : List Reg) (v : Word) (done : State → State) : s.putSreg srcs i v done = done (s.storeSreg i v) := by
  simp only [List.mem_cons, List.not_mem_nil, or_false, not_or] at hi
  obtain ⟨h30, h39, h50, h61, h62⟩ := hi
  have h31 : ¬ (decide (i = 0x031) && isHead s.here) = true := by
    rw [Bool.and_eq_true, decide_eq_true_eq]
    exact fun ⟨hi, hc⟩ => Bool.false_ne_true ((hh hi).symm.trans hc)
  rw [State.putSreg, if_neg h30, if_neg h62, if_neg h61, if_neg h50, if_neg h39, if_neg h31]

theorem exec_swr_core (h : s.Runs t) {a : Reg} (ha : plain [a] = true) {f : BitVec 10} {sup : Bool} {mask : Word}
    (hf : Stores f.toNat sup mask false) (hs : sup = true → t.ctx.status.sup = true) (hb : t.bounded s.here = false ∨ sup = true)
    (hh : f.toNat = 0x031 → isHead s.here = false) :
    exec (.swr f a) s = .next ((s.modCore s.here (fun o => o.store f.toNat (t.ctx.get a &&& mask))).went t t.ctx.past) := by
  obtain ⟨⟨r, w, hk, hn, rfl, -⟩, hrule, howner, rfl⟩ := hf
  have hr := (State.modCore_same s s.here (f := fun o => o.store f.toNat (t.ctx.get a &&& sregMask f.toNat))
    (fun o => o.slots_store _ _)).runs h
  have hres : w = .res → t.bounded s.here = false := fun e => hb.resolve_right (by rw [e]; decide)
  rw [exec_swr_allowed h ha hk hs, State.writeSreg_put hk hn hs hres, State.putSreg_stored hrule hh, State.storeSreg, howner,
    if_neg Bool.false_ne_true, State.complete_plain hr ha]

theorem exec_swr_slot (h : s.Runs t) {a : Reg} (ha : plain [a] = true) {f : BitVec 10} {sup : Bool} {mask : Word}
    (hf : Stores f.toNat sup mask true) (hs : sup = true → t.ctx.status.sup = true) :
    exec (.swr f a) s = .next ((s.modRunning (fun l => l.store f.toNat (t.ctx.get a &&& mask))).went t t.ctx.past) := by
  obtain ⟨⟨r, w, hk, hn, rfl, hres⟩, hrule, howner, rfl⟩ := hf
  have hr : (s.modRunning (fun l => l.store f.toNat (t.ctx.get a &&& sregMask f.toNat))).Runs t :=
    State.runs_modRunning s ((Slot.thread_store ..).trans h)
  have h31 : f.toNat = 0x031 → isHead s.here = false := by
    intro e
    rw [e] at howner
    cases howner
  rw [exec_swr_allowed h ha hk hs, State.writeSreg_put hk hn hs (fun e => absurd e (hres rfl)), State.putSreg_stored hrule h31,
    State.storeSreg, howner, if_pos rfl, State.complete_plain hr ha]

end

/-- The rows of R309 for the registers of a core. -/
theorem stores_of_coreRow : ∀ e ∈ tableSwr, Stores e.1.toNat e.2.1 e.2.2.1 false ∧ e.1.toNat ≠ 0x031 ∧
    ∀ o v, Core.store o e.1.toNat v = e.2.2.2 o v := by
  simp only [tableSwr, List.forall_mem_cons, List.not_mem_nil, false_imp_iff, implies_true, and_true]
  refine ⟨?_, ?_, ?_, ?_, ?_, ?_, ?_, ?_, ?_, ?_, ?_, ?_, ?_⟩ <;>
    exact ⟨⟨⟨_, _, rfl, by decide, rfl, by decide⟩, by decide, rfl, rfl⟩, by decide, fun _ _ => rfl⟩

/-- The rows for the registers of a slot. -/
theorem stores_of_slotRow : ∀ e ∈ tableSwrSlot, Stores e.1.toNat e.2.1 e.2.2.1 true ∧
    ∀ l v, Slot.store l e.1.toNat v = e.2.2.2 l v := by
  simp only [tableSwrSlot, List.forall_mem_cons, List.not_mem_nil, false_imp_iff, implies_true, and_true]
  refine ⟨?_, ?_, ?_, ?_, ?_, ?_⟩ <;>
    exact ⟨⟨⟨_, _, rfl, by decide, rfl, by decide⟩, by decide, rfl, rfl⟩, fun _ _ => rfl⟩

theorem Stores.needsSup {i : Nat} {mask : Word} {slot : Bool} (h : Stores i true mask slot) :
    (sregAccess i).any (fun g => g.2.needsSup) = true := by
  obtain ⟨⟨r, w, hk, -, hw, -⟩, -, -, -⟩ := h
  rw [hk]
  exact hw

theorem stores_qgroup : Stores 0x031 true 1 false := ⟨⟨_, _, rfl, by decide, rfl, by decide⟩, by decide, rfl, rfl⟩

theorem stores_smpc : Stores 0x064 true 0x03FF0000FFFFFFFF false := ⟨⟨_, _, rfl, by decide, rfl, by decide⟩, by decide, rfl, rfl⟩

/-! ## Writes with a rule of their own -/

theorem bits_eq_extract (v : Word) {hi lo n : Nat} (hn : hi + 1 - lo = n) : BitVec.ofNat n (bits v hi lo) = v.extractLsb' lo n := by
  rw [← BitVec.toNat_inj, bits, hn, BitVec.toNat_ofNat, BitVec.extractLsb'_toNat, Nat.shiftRight_eq_div_pow, Nat.mod_mod]

section
variable {s : State} {t : Thread} {a : Reg}

/-- `fcsr` (R269). -/
theorem exec_swr_fcsr (h : s.Runs t) (ha : plain [a] = true) (hv : (t.ctx.get a).toNat % 2 ^ 8 < 128) :
    exec (.swr 0x050 a) s =
      .next (s.went t (Ctx.past { t.ctx with status := { t.ctx.status with fcs := (t.ctx.get a).truncate 8 } })) := by
  have hrnd : ¬ 4 ≤ bits (t.ctx.get a) 7 5 := by rw [bits]; omega
  rw [exec_swr_allowed h ha (r := .all) (w := .all) rfl (fun hs => by cases hs), State.writeSreg]
  exact congrArg Host.Outcome.next ((if_neg hrnd).trans (State.modCtx_complete h _ ha))

/-- `mbst` (R207). -/
theorem exec_swr_mbst (h : s.Runs t) (ha : plain [a] = true) (hb : t.bounded s.here = false) :
    exec (.swr 0x039 a) s = .next ((s.modCore s.here (fun o =>
      { o with mbLost := o.mbLost &&& ~~~((t.ctx.get a).extractLsb' 48 16),
               mbOvf := o.mbOvf &&& ~~~((t.ctx.get a).extractLsb' 32 16) })).went t t.ctx.past) := by
  have hr := (State.modCore_same s s.here (f := fun o => o.clearMbst (t.ctx.get a)) (fun _ => rfl)).runs h
  rw [exec_swr_allowed h ha (r := .all) (w := .res) rfl (fun hs => by cases hs),
    State.writeSreg_put (r := .all) (w := .res) rfl (by decide) (fun hs => by cases hs) (fun _ => hb)]
  simp only [← bits_eq_extract (t.ctx.get a) (hi := 63) (lo := 48) rfl, ← bits_eq_extract (t.ctx.get a) (hi := 47) (lo := 32) rfl]
  exact congrArg Host.Outcome.next (State.complete_plain hr ha)

theorem exec_swr_supervisor (h : s.Runs t) (ha : plain [a] = true) (hs : t.ctx.status.sup = true) {f : BitVec 10} {r : Grade}
    (hk : sregAccess f.toNat = some (r, .sup)) :
    exec (.swr f a) s = .next (s.putSreg [a] f.toNat (t.ctx.get a) (fun s => s.complete [a])) := by
  rw [exec_swr_allowed h ha hk (fun _ => hs), State.writeSreg_put hk (by decide) (fun _ => hs) (fun hw => by cases hw)]

/-- `ptbase`: an aligned address of space 0 (R309). -/
theorem State.writePtbase_legal {v : Word} (hal : v.toNat % 2 ^ 14 = 0) (hlt : v.toNat < 2 ^ 52) (hsp : spaceOf v.toNat = 0)
    (done : State → State) : s.writePtbase v done = done (s.modCore s.here (fun o => { o with ptbase := v })) := by
  have hlow : bits v 13 0 = 0 := by rw [bits]; omega
  have hhigh : bits v 63 52 = 0 := by rw [bits]; omega
  have hall : v &&& sregMask 0x061 = v := BitVec.and_allOnes
  rw [State.writePtbase, hlow, hhigh, hsp, State.storeSreg, hall]
  rfl

theorem exec_swr_ptbase (h : s.Runs t) (ha : plain [a] = true) (hs : t.ctx.status.sup = true)
    (hal : (t.ctx.get a).toNat % 2 ^ 14 = 0) (hlt : (t.ctx.get a).toNat < 2 ^ 52) (hsp : spaceOf (t.ctx.get a).toNat = 0) :
    exec (.swr 0x061 a) s = .next ((s.modCore s.here (fun o => { o with ptbase := t.ctx.get a })).went t t.ctx.past) := by
  have hr := (State.modCore_same s s.here (f := fun o => { o with ptbase := t.ctx.get a }) (fun _ => rfl)).runs h
  rw [exec_swr_supervisor h ha hs (r := .sup) rfl]
  exact congrArg Host.Outcome.next ((State.writePtbase_legal (s := s) hal hlt hsp (·.complete [a])).trans (State.complete_plain hr ha))

/-- A legal `lmsplit` waits until it takes effect (R162, R165). -/
theorem exec_swr_lmsplit (h : s.Runs t) (ha : plain [a] = true) (hs : t.ctx.status.sup = true) (hh : isHead s.here = false)
    (hcom : (t.ctx.get a).toNat / 16 % 16 ≤ 4) (hsum : (t.ctx.get a).toNat / 16 % 16 + (t.ctx.get a).toNat / 256 % 16 ≤ 12) :
    exec (.swr 0x030 a) s = .next (s.waitsIn (.lmsplit (t.ctx.get a))) := by
  have hlegal : s.writeLmsplit [a] (t.ctx.get a) = s.waitsIn (.lmsplit (t.ctx.get a)) := by
    have hcom' : ¬ 4 < bits (t.ctx.get a) 7 4 := by rw [bits]; omega
    have hsum' : ¬ 12 < bits (t.ctx.get a) 7 4 + bits (t.ctx.get a) 11 8 := by rw [bits, bits]; omega
    rw [State.writeLmsplit, hh, State.takeAt_plain _ _ _ ha]
    simp only [hcom', hsum', decide_false, Bool.or_self, Bool.false_eq_true, if_false]
    rfl
  rw [exec_swr_supervisor h ha hs (r := .all) rfl]
  exact congrArg Host.Outcome.next hlegal

/-- With the slot's stores drained a legal `tlbinv` waits until it has acted (R172). -/
theorem exec_swr_tlbinv (h : s.Runs t) (ha : plain [a] = true) (hs : t.ctx.status.sup = true)
    (hop : (t.ctx.get a).toNat / 2 ^ 61 % 4 ≠ 3) (hd : s.drained = true) :
    exec (.swr 0x062 a) s = .next (s.waitsIn (.tlbinv (t.ctx.get a))) := by
  have hlegal : s.writeTlbinv [a] (t.ctx.get a) = s.waitsIn (.tlbinv (t.ctx.get a)) := by
    have hop' : ¬ bits (t.ctx.get a) 62 61 = 3 := hop
    rw [State.writeTlbinv, if_neg hop', hd, State.takeAt_plain _ _ _ ha]
    rfl
  rw [exec_swr_supervisor h ha hs (r := .sup) rfl]
  exact congrArg Host.Outcome.next hlegal

end

/-! ## The words -/

theorem encodeNat_srd (f : BitVec 10) (a : Reg) : encodeNat (.srd f a) = some (wordFS 0x28 f.toNat a.toNat 0 0) :=
  congrArg some (by rw [Laws.RoundTrip.pack2, wordFS]; omega)

theorem encodeNat_swr (f : BitVec 10) (a : Reg) : encodeNat (.swr f a) = some (wordFS 0x29 f.toNat a.toNat 0 0) :=
  congrArg some (by rw [Laws.RoundTrip.pack2, wordFS]; omega)

/-- The registers that only the supervisor writes, and those that nothing writes. -/
theorem swr_needsSup {i : BitVec 10} (h : i ∈ readOnlySregs ∨ i ∈ [0x030, 0x031, 0x061, 0x062, 0x064] ∨
    (∃ e ∈ tableSwr, e.1 = i ∧ e.2.1 = true) ∨ ∃ e ∈ tableSwrSlot, e.1 = i ∧ e.2.1 = true) :
    (sregAccess i.toNat).any (fun g => g.2.needsSup) = true := by
  have hall : (readOnlySregs ++ [0x030, 0x031, 0x061, 0x062, 0x064]).all
    (fun i : BitVec 10 => (sregAccess i.toNat).any (fun g : Grade × Grade => g.2.needsSup)) = true := rfl
  rcases h with h | h | ⟨e, he, rfl, hsup⟩ | ⟨e, he, rfl, hsup⟩
  · exact List.all_eq_true.mp hall i (List.mem_append_left _ h)
  · exact List.all_eq_true.mp hall i (List.mem_append_right _ h)
  · obtain ⟨hst, -, -⟩ := stores_of_coreRow e he
    exact (hsup ▸ hst).needsSup
  · obtain ⟨hst, -⟩ := stores_of_slotRow e he
    exact (hsup ▸ hst).needsSup

/-- Settles O28: the column of R309 decides who passes the gate, and each register has its value and its write. -/
theorem specialRegisterReadsAndWrites : Obligations.SpecialRegisterReadsAndWrites := by
  unfold Obligations.SpecialRegisterReadsAndWrites
  refine ⟨fun e he a s t h ha hs => ?_, fun a s t h ha hh => ⟨?_, ?_, ?_, ?_⟩, fun i a s t h ha => ⟨?_, fun hrow h4 => ?_⟩,
    fun e he a s t h ha hs hb => ?_, fun e he a s t h ha hs => ?_,
    fun a s t h ha => ⟨exec_swr_fcsr h ha, exec_swr_mbst h ha, fun hs => ⟨exec_swr_ptbase h ha hs, exec_swr_lmsplit h ha hs,
      exec_swr_tlbinv h ha hs, fun hh => ?_, ?_, fun i hi => ?_⟩⟩,
    fun i a s t h ha => ⟨fun hi => exec_swr_denied h a (swr_needsSup hi), fun hv hi => ?_⟩⟩
  · obtain ⟨r, w, hk, hr⟩ := readColumn_of_row he
    refine ⟨encodeNat_srd e.1 a, ?_⟩
    rw [exec_srd_allowed h ha hk (fun hn => hs (hr ▸ hn)), State.sreg_of_row h e he]
  · rw [exec_srd_allowed h ha (r := .all) (w := .sup) rfl (fun hs => by cases hs), State.sreg_lmsplit hh]
  · exact exec_srd_allowed h ha (r := .all) (w := .res) rfl (fun hs => by cases hs)
  · rw [exec_srd_allowed h ha (r := .all) (w := .never) rfl (fun hs => by cases hs), State.sreg_lugx hh]
    cases s.running.meet with
    | none => rfl
    | some m => rw [lugAlias_own]
  · rw [exec_srd_allowed h ha (r := .all) (w := .never) rfl (fun hs => by cases hs), State.sreg_lugy hh]
    cases s.running.meet with
    | none => rfl
    | some m => rw [lugAlias_partner]
  · rintro ⟨e, he, rfl, hsup⟩
    obtain ⟨r, w, hk, hr⟩ := readColumn_of_row he
    exact exec_srd_denied h a hk (hr.trans hsup)
  · exact exec_srd_unknown h a (sregAccess_of_no_row hrow h4)
  · obtain ⟨hst, h31, hf⟩ := stores_of_coreRow e he
    refine ⟨encodeNat_swr e.1 a, ?_⟩
    rw [exec_swr_core h ha hst hs (.inl hb) (fun he => absurd he h31)]
    simp only [hf]
  · obtain ⟨hst, hf⟩ := stores_of_slotRow e he
    rw [exec_swr_slot h ha hst hs]
    simp only [hf]
  · exact exec_swr_core h ha stores_qgroup (fun _ => hs) (.inr rfl) (fun _ => hh)
  · exact exec_swr_core h ha stores_smpc (fun _ => hs) (.inr rfl) (fun he => by cases he)
  · obtain ⟨r, hk⟩ := writeColumn_of_all (l := readOnlySregs) (w := .never) rfl hi
    exact exec_swr_ignored h ha hs hk
  · obtain ⟨r, hk⟩ := writeColumn_of_all (l := [0x032, 0x033, 0x037, 0x039]) (w := .res) rfl hi
    exact exec_swr_visitor h ha hv hk

end Sys2Proof.Machine
end
